-- ==== Sys2Proof/Word.lean ====
section
/-! DEFINITION. The word types of the node's fields and the plainest byte arithmetic on them. Multi-byte
fields are stored least significant byte first (00_scope.md R5). -/

namespace Sys2Proof

abbrev Byte := BitVec 8
abbrev Word16 := BitVec 16
abbrev Word32 := BitVec 32
abbrev Word64 := BitVec 64

/-- A SHAKE256 digest of 32 bytes, byte 0 in bits [7:0]. -/
abbrev Digest := BitVec 256

/-- A sequence handle (R34) or a page handle (R42). -/
abbrev Handle := BitVec 64

/-- A node ID (R42, R361). -/
abbrev NodeId := BitVec 12

end Sys2Proof
end

