-- ==== Sys2Proof/Syntax.lean ====
section
/-! DEFINITION. The commands of the node: one constructor of `Instr` per row of spec/opcode_table.json, with
the operands that the spec gives the row. A command is what comes to the node from outside (an Ndox packet, an
RDMA operation, a fabric message, a link frame, a pin, a register write) or an event of one of its own timers
or units. -/

namespace Sys2Proof

/-! ## Ndox packets (10_ndox_protocol.md) -/

/-- The Ndox opcodes of R294. -/
inductive Op where
  | ctxCreate | ctxDestroy | queueCreate | queueDestroy | nsCreate | nsModify | nsDelete
  | seqCreate | seqDelete | fork | truncate | seqTag | seqDescribe | append | appendBulk | pageList
  | attend | attendBatch | gradAttend | gradRead | gradClear | recall | recallAttend
  | patInvalidate | patWrite | patValidate | patUnload | patDescribe | progLoad | progUnload | progDescribe
  | modelInstall | modelDescribe | windowRekey | windowDescribe | trigPost | trigCancel | trigDescribe
  | mapPush | mapDescribe | ptnCreate | ptnModify | ptnReset | ptnDestroy | ptnDescribe
  | fwStage | fwCheck | fwActivate | fwAbort | fwDescribe | attest | certRead | keyInstall | keyRevoke
  | nodeDescribe | regRead | regWrite | logRead | telRead | healthRead | stackState
  deriving DecidableEq, Repr

/-- Where a command packet arrives: a command queue of a context (R261), a management session (R354) or I3C
(R499). -/
inductive Src where
  | host (ctx queue : Nat)
  | mgmt (session : Nat)
  | i3c
  deriving DecidableEq, Repr

/-- A command packet: the header of R264 less its OPCODE, which the command's constructor gives, and the bytes
that follow the header. -/
structure Packet where
  src : Src
  version : Byte
  flags : Word16
  context : Word16
  reserved : Word16
  reqId : Word64
  epoch : Word32
  payloadLen : Word32
  payloadOff : Word32
  ringHead : Word32
  body : List Byte
  deriving DecidableEq, Repr

/-! ## Layer groups and page images (02_sequences_and_pages.md R38, 03_page_encoding.md) -/

/-- The layouts of R38; a ring group gives its inner layout and its window. -/
inductive Layout where
  | split | joint | exact
  deriving DecidableEq, Repr

/-- A layer group (R38, R302). `window` is W for a ring group. -/
structure LayerGroup where
  layout : Layout
  window : Option Nat
  layers : Nat
  kvHeads : Nat
  qHeads : Nat
  channels : Nat
  rotary : Nat
  deriving DecidableEq, Repr

/-- One source plane of a sealed split or joint page (R79, R93 to R96). Scales and zero points are listed by
group number; codes by token, then channel; the envelope by channel. In an exact page only `env` is filled. -/
structure Plane where
  kind : Nat
  head : Nat
  channels : Nat
  s2 : Word32
  s1 : List Byte
  z : List (BitVec 4)
  base : List (List (BitVec 4))
  res : List (List (BitVec 4))
  env : List (Word16 × Word16)
  deriving DecidableEq, Repr

/-- The inherited-bound region of R101: the marker bitmap, and per source plane one BF16 entry per group. -/
structure Inherit where
  marks : BitVec 256
  bounds : List (List Word16)
  deriving DecidableEq, Repr

/-- A page image: a sealed page (R91, R98) or a tail frame (R99). `rows` holds the BF16 rows of an exact page
or a tail frame, one list of Ctot elements per token. -/
structure Image where
  layout : Layout
  tail : Bool
  ring : Bool
  seq : Handle
  block : Nat
  layer : Nat
  planes : List Plane
  rows : List (List Word16)
  inherit : Option Inherit
  segCrc : List Word32
  pageCrc : Word32
  fill : Nat
  summary : Option (List Byte)
  /-- The first two fields of the header (R92). -/
  magic : Word32
  version : Byte
  deriving DecidableEq, Repr

/-- What a PAGE_COPY carries (R381): an image, or a token-ID block of 256 identities with its check word. -/
inductive Copied where
  | image (i : Image)
  | tokens (block : Nat) (ids : List Word32) (crc : Word32)
  deriving DecidableEq, Repr

/-! ## Partials (04_attention_execution.md R136, R137) -/

/-- A WP64 value (00_scope.md, Number formats). -/
structure WP64 where
  hi : Word32
  lo : Word32
  deriving DecidableEq, Repr

/-- The head record of R137. -/
structure HeadRec where
  m : Word32
  flags : Word16
  l : WP64
  el : Word32
  eo : Word32
  vmax : Word32
  ntok : Nat
  o : List WP64
  deriving DecidableEq, Repr

/-- The partial set of R136. -/
structure PartialSet where
  vis : Nat
  cv : Nat
  compact : Bool
  nearBank : Bool
  pagesSelected : Nat
  pagesUnselected : Nat
  tokensRefined : Nat
  tailTokens : Nat
  length : Nat
  heads : List HeadRec
  deriving DecidableEq, Repr

/-- A range entry of R285. -/
structure LostRange where
  seq : Handle
  layer : Nat
  first : Nat
  count : Nat
  deriving DecidableEq, Repr

/-! ## Chainline messages (13_chainline_fabric.md) -/

/-- The message header of R371, less TYPE and LEN, with the link that the message came on and whether the body's GCM tag
verifies (R373). -/
structure MsgHdr where
  link : Fin 48
  src : NodeId
  epoch : Word32
  incarn : Word32
  reqId : Word64
  seq : Word32
  tagOk : Bool
  deriving DecidableEq, Repr

/-- The body of a PARTIAL_REQ (R378). -/
structure PartialReq where
  seq : Handle
  layer : Nat
  exhaustive : Bool
  program : Bool
  vis : Nat
  alpha : Word32
  tau : Word32
  tokenBudget : Nat
  hq : Nat
  progSlot : Nat
  ck : Nat
  progDigest : Digest
  k : List Word32
  pages : List Handle
  masks : Option (List (BitVec 256))
  tags : Option (List (List Word32))
  query : List (List Word16)
  deriving DecidableEq, Repr

/-- One row of a `GRAD_ATTEND` (R145, R314). -/
structure GradRow where
  vis : Nat
  m : List Word32
  l : List Word32
  drow : List Word32
  query : List (List Word16)
  dO : List (List Word32)
  deriving DecidableEq, Repr

/-- The body of a GRAD_REQ (R148, R377). -/
structure GradReq where
  seq : Handle
  layer : Nat
  alpha : Word32
  rows : List GradRow
  masks : Option (List (BitVec 256))
  pages : List Handle
  deriving DecidableEq, Repr

/-- The filters and bounds of a `RECALL` that a SCAN_REQ carries (R180, R181, R377). -/
structure ScanReq where
  ns : Nat
  model : Nat
  cdigest : Digest
  lists : List Nat
  q : List Word32
  k : Nat
  tmask : Word32
  tvalue : Word32
  emin : Word32
  emax : Word32
  layers : BitVec 256
  budget : Nat
  noBatch : Bool
  deadlineUs : Nat
  deriving DecidableEq, Repr

/-- A recall candidate: an entry with its distance (R184, R187). -/
structure Cand where
  page : Handle
  seq : Handle
  block : Nat
  layer : Nat
  model : Nat
  inherit : Bool
  epoch : Word32
  code : List Byte
  d : Word32
  deriving DecidableEq, Repr

/-- One list's part of a SCAN_RESULT (R184). -/
structure ListResult where
  list : Nat
  truncated : Bool
  scanned : Nat
  stale : Nat
  cands : List Cand
  deriving DecidableEq, Repr

/-- The payload of `FORK` (R305). -/
structure ForkReq where
  parent : Handle
  child : Handle
  f : Nat
  shared : Bool
  tag : Word32
  replicas : List NodeId
  deriving DecidableEq, Repr

/-- A page of the parent as FORK_CREATE names it (R55): block, handle and envelope planes. -/
structure ForkPage where
  layer : Nat
  block : Nat
  handle : Handle
  env : List (List (Word16 × Word16))
  requant : Nat
  deriving DecidableEq, Repr

/-- The payload of `SEQ_CREATE` (R303). -/
structure SeqCreateReq where
  seq : Handle
  groups : List LayerGroup
  shared : Bool
  tag : Word32
  replicas : List NodeId
  deriving DecidableEq, Repr

/-- An append's fields (R308, R309): one layer, or several for a bulk append. `rows` holds, per named layer
in increasing order, one row of Ctot elements per position. -/
structure AppendReq where
  seq : Handle
  bulk : Bool
  layers : List Nat
  level : Nat
  pos : Nat
  tokens : List Word32
  rows : List (List (List Word16))
  digest : Word64
  timeoutUs : Nat
  deriving DecidableEq, Repr

/-- An append record (R45, R279). -/
structure AppendRec where
  seq : Handle
  layers : List Nat
  first : Nat
  count : Nat
  digest : Word64
  bulk : Bool
  reqId : Word64
  ptn : Nat
  removed : Bool
  deriving DecidableEq, Repr

/-- A composition map (R323). `shards` gives (home, tandem) of each of the 65,536 shards as a default and the
shards that differ from it. -/
structure MapBody where
  epoch : Word32
  dflt : NodeId × NodeId
  shards : List (Nat × (NodeId × NodeId))
  nodes : List (NodeId × Nat × Nat)
  reservedOk : Bool
  deriving DecidableEq, Repr

/-- The body of a HEARTBEAT (R384). -/
structure Heartbeat where
  fingerprint : Word64
  mapDigest : Word64
  timestamp : Word64
  health : Nat
  role : Nat
  cfgDefaulted : Bool
  warning : Bool
  watched : Bool
  hbSeq : Word32
  deriving DecidableEq, Repr

/-- A handshake body (R419), less STEP. -/
structure HsBody where
  certsPresent : Bool
  hsId : Word32
  nonce : List Byte
  svn : Word32
  fw : Digest
  kem : List Byte
  certs : List Byte
  sig : List Byte
  deriving DecidableEq, Repr

/-! ## Link frames (13_chainline_fabric.md R361) -/

/-- A link frame: the header fields of R361, its body, the trailer's CRC word and whether the frame lies in an
uncorrectable FEC code word. -/
structure LinkFrame where
  vc : Nat
  kind : Nat
  ctl : Byte
  lseq : Word16
  ack : Word16
  creditVc : Nat
  credits : Nat
  src : NodeId
  dst : NodeId
  msgSeq : Word32
  fragOff : Word32
  body : List Byte
  crc : Word32
  fecOk : Bool
  deriving DecidableEq, Repr

/-- A TRAIN control frame (R359). -/
structure TrainInfo where
  isSwitch : Bool
  plane : Nat
  port : Nat
  node : NodeId
  credits : List Nat
  lanesLocked : Bool
  spareLocked : Bool
  deriving DecidableEq, Repr

/-! ## Units and events -/

/-- The path by which a register write reaches the node (R494, R512). -/
inductive Path where
  | host | mport | i3c | image
  deriving DecidableEq, Repr

/-- The two logic dies (R13). -/
inductive Die where
  | west | east
  deriving DecidableEq, Repr

/-- The direction of a fabric link, from the node's side (R366, R512). -/
inductive Dir where
  | rx | tx
  deriving DecidableEq, Repr

/-- The causes of an engine fault, in the order of R437. -/
inductive EngCause where
  | sram | residue | slotCrc | bank | watchdog
  deriving DecidableEq, Repr

/-- The PLLs beside the root PLL (R475, R476). -/
inductive Pll where
  | host (port : Fin 4)
  | fabric (link : Fin 48)
  | optical (engine : Fin 12)
  deriving DecidableEq, Repr

/-- A flash location's die: channel and die (R236). -/
structure DieId where
  chan : Fin 32
  die : Fin 16
  deriving DecidableEq, Repr

/-- What reading a flash plane page gave (R238). -/
inductive ReadOutcome where
  | clean | corrected | retried | uncorrectable
  deriving DecidableEq, Repr

/-- What the controller found in a near-bank sequence's score block (R225). -/
inductive NbOutcome where
  | pass | scoreCrc | rangeFail | unitFault
  | taint (row : Nat)
  deriving DecidableEq, Repr

/-- What the patrol scrub found in a stack (R217, R218, R230). -/
inductive ScrubOutcome where
  | clean
  | corrected (row : Nat)
  | uncorrectable (row : Nat) (page : Option Handle)
  | uncorrectableTokens (row : Nat) (seq : Handle) (block : Nat)
  | rowFailing (row : Nat)
  | openMismatch (page : Handle)
  /-- A protected row with a set unit-write marker, at its activation or with an error (R227). -/
  | tainted (pch row : Nat)
  /-- A command that came through after parity retries (R210). -/
  | parityRetried (retries : Fin 5)
  | parityExhausted
  | retrainFailed
  | passDone
  deriving DecidableEq, Repr

/-- The hottest readings of R524, in °C. -/
structure Temps where
  junction : Int
  stack : Int
  optical : Int
  deriving DecidableEq, Repr

/-- An RDMA operation's remote key and address (R338). -/
structure RdmaAddr where
  rkey : Word32
  addr : Word64
  deriving DecidableEq, Repr

/-- A tail or sealed page named by sequence, layer and block. -/
structure PageName where
  seq : Handle
  layer : Nat
  block : Nat
  deriving DecidableEq, Repr

/-- A list segment: namespace, model and list (R176). -/
structure SegName where
  ns : Nat
  model : Nat
  list : Nat
  deriving DecidableEq, Repr

/-- The commands, in the order of spec/opcode_table.json. `id` names an admitted command that has not replied by
the serial the scoreboard gave it. -/
inductive Instr where
  -- Ndox commands (11_command_reference.md)
  | ctxCreate (p : Packet) | ctxDestroy (p : Packet) | queueCreate (p : Packet) | queueDestroy (p : Packet)
  | nsCreate (p : Packet) | nsModify (p : Packet) | nsDelete (p : Packet)
  | seqCreate (p : Packet) | seqDelete (p : Packet) | fork (p : Packet) | truncate (p : Packet)
  | seqTag (p : Packet) | seqDescribe (p : Packet) | append (p : Packet) | appendBulk (p : Packet)
  | pageList (p : Packet) | attend (p : Packet) | attendBatch (p : Packet) | gradAttend (p : Packet)
  | gradRead (p : Packet) | gradClear (p : Packet) | recall (p : Packet) | recallAttend (p : Packet)
  | patInvalidate (p : Packet) | patWrite (p : Packet) | patValidate (p : Packet) | patUnload (p : Packet)
  | patDescribe (p : Packet) | progLoad (p : Packet) | progUnload (p : Packet) | progDescribe (p : Packet)
  | modelInstall (p : Packet) | modelDescribe (p : Packet) | windowRekey (p : Packet)
  | windowDescribe (p : Packet) | trigPost (p : Packet) | trigCancel (p : Packet) | trigDescribe (p : Packet)
  | mapPush (p : Packet) | mapDescribe (p : Packet) | ptnCreate (p : Packet) | ptnModify (p : Packet)
  | ptnReset (p : Packet) | ptnDestroy (p : Packet) | ptnDescribe (p : Packet)
  | fwStage (p : Packet) | fwCheck (p : Packet) | fwActivate (p : Packet) | fwAbort (p : Packet)
  | fwDescribe (p : Packet) | attest (p : Packet) | certRead (p : Packet) | keyInstall (p : Packet)
  | keyRevoke (p : Packet) | nodeDescribe (p : Packet) | regRead (p : Packet) | regWrite (p : Packet)
  | logRead (p : Packet) | telRead (p : Packet) | healthRead (p : Packet) | stackState (p : Packet)
  -- transport, scoreboard and waits
  | sendLengthError (queue : Nat) (len : Nat)
  | sendNoBuffer (queue : Nat)
  | replyRingSpace (queue : Nat) (consumed : Word32)
  | scoreboardEntriesFreed
  | descriptorInstall (seq : Handle)
  | epochHoldRelease (id : Nat)
  | epochHoldExpiry (id : Nat)
  | attendPositionsLanded (id : Nat)
  | attendWaitExpiry (id : Nat)
  | appendGapFilled (id : Nat)
  | appendGapExpiry (id : Nat)
  | journalSpaceFreed (id : Nat)
  | journalWaitExpiry (id : Nat)
  | duplicateHeldRelease (id : Nat)
  | recordExpiry (ptn : Fin 32) (reqId : Word64)
  | recordSpaceFreed (ptn : Fin 32)
  -- seals and engine steps
  | sealStart (engine : Fin 68) (page : PageName)
  | sealPriorityRaise (page : PageName)
  | sealCommit (page : PageName) (readBackOk : Bool)
  | persistedPageWritten (page : Handle)
  | engineStepCommit (engine : Fin 68)
  -- remote work
  | fanoutTimeout (id : Nat) (reqSeq : Word32)
  | partialReq (h : MsgHdr) (b : PartialReq)
  | partialReply (h : MsgHdr) (reqSeq : Word32) (status : Nat) (p : PartialSet) (lost : List LostRange)
  | partialDecline (h : MsgHdr) (reqSeq : Word32) (reason : Nat)
  | gradReq (h : MsgHdr) (b : GradReq)
  | gradReply (h : MsgHdr) (reqSeq : Word32) (dq : List Word32)
  | draftHint (h : MsgHdr) (seq : Handle) (layer : Nat) (pages : List Handle)
  -- staging, flash reads, near-bank
  | draftingReadComplete (page : Handle)
  | flashReadComplete (page : Handle) (o : ReadOutcome)
  | stagingLineExpiry (page : Handle)
  | nearBankSequenceDone (stack : Fin 8) (page : Handle) (o : NbOutcome)
  | nearBankRefreshSuspend (stack : Fin 8) (pch : Fin 64)
  | nearBankResume (stack : Fin 8) (pch : Fin 64)
  -- pages and migration
  | pageReclaim (page : Handle)
  | demotion
  | promotion (page : Handle)
  | migrationCopyComplete (page : Handle) (ok : Bool)
  | placementMove (page : Handle) (target : NodeId)
  | openRegionPromotion (page : Handle)
  | openRegionDemotion (page : Handle)
  -- flash media
  | reclamationStart (die : DieId)
  | reclaimCopyComplete (die : DieId) (frame : Nat) (ok : Bool)
  | blockCloseCheck (die : DieId) (block : Nat) (ok : Bool)
  | blockErase (die : DieId) (block : Nat)
  | programFailure (die : DieId) (block : Nat)
  | eraseFailure (die : DieId) (block : Nat)
  | wearLevelMove (die : DieId)
  | flashPatrolRead (die : DieId) (block frame : Nat) (o : ReadOutcome) (correctedPct : Nat)
  | flashTempRead (chan : Fin 32) (temps : List Int)
  | deltaFlush
  | deltaBufferSpace
  | leafWriteback (leaf : Nat)
  | directoryCheckpoint
  | mapRebuildComplete
  | flushConsumed
  -- recall
  | indexCompaction (seg : SegName)
  | indexRebuild (seg : SegName)
  | recallBatchStart (seg : SegName)
  | scanPassComplete (seg : SegName) (bad : List Nat)
  | recallDeadlineExpiry (id : Nat)
  | scanReq (h : MsgHdr) (b : ScanReq)
  | scanResult (h : MsgHdr) (reqSeq : Word32) (flags : Byte) (lists : List ListResult)
  | scanDecline (h : MsgHdr) (reqSeq : Word32)
  | patternCheck (h : MsgHdr) (seq : Handle) (block slot : Nat) (select : Word32)
  | patternResult (h : MsgHdr) (reqSeq : Word32) (answer : Nat)
  | patternCheckTimeout (id : Nat) (reqSeq : Word32)
  | handleQuery (h : MsgHdr) (seq : Handle) (layer block : Nat)
  | handleReply (h : MsgHdr) (reqSeq : Word32) (page : Handle) (code : List Byte)
  -- forks, mirrors, copies
  | forkCreate (h : MsgHdr) (f : ForkReq) (groups : List LayerGroup) (tokens : List (List Word32))
      (pages : List ForkPage) (cut : List (Nat × Copied))
  | forkAccept (h : MsgHdr) (reqSeq : Word32) (status : Nat)
  | forkAcceptTimeout (id : Nat)
  | pendingChildTimeout (seq : Handle)
  | mirrorWrite (h : MsgHdr) (a : AppendReq)
  | mirrorAck (h : MsgHdr) (seq : Handle) (layer status mirrored : Nat)
  | mirrorStepCreate (h : MsgHdr) (r : SeqCreateReq)
  | mirrorStepDelete (h : MsgHdr) (seq : Handle)
  | mirrorStepFork (h : MsgHdr) (f : ForkReq)
  | mirrorStepTruncate (h : MsgHdr) (seq : Handle) (t : Nat)
  | mirrorStepTag (h : MsgHdr) (seq : Handle) (tag : Word32)
  | mirrorStepSealCommit (h : MsgHdr) (page : PageName) (list : Nat) (code : List Byte)
  | mirrorStepPersisted (h : MsgHdr) (seq : Handle) (layer persisted : Nat)
  | mirrorStepTailImage (h : MsgHdr) (seq : Handle) (layer : Nat) (img : Image) (recs : List AppendRec)
  | mirrorStepLayerLoss (h : MsgHdr) (seq : Handle) (layer first fin : Nat)
  | mirrorStepRestoredLengths (h : MsgHdr) (seq : Handle) (survived : Bool) (lengths : List Nat)
  | mirrorStepTransferDone (h : MsgHdr) (shard count : Nat)
  | pageCopy (h : MsgHdr) (purpose : Nat) (seq : Handle) (layer : Nat) (c : Copied)
  | pageCopyAck (h : MsgHdr) (reqSeq : Word32) (page : Handle) (status : Nat)
  | pageRelease (h : MsgHdr) (page : Handle) (count : Nat)
  | pageFetch (h : MsgHdr) (page seq : Handle) (layer block : Nat)
  -- faults and recovery
  | engineFault (engine : Fin 68) (cause : EngCause)
  | engineWatchdogExpiry (engine : Fin 68)
  | spareEngineReady (engine : Fin 68)
  | partitionFence (ptn : Fin 32)
  | partitionFenceLift (ptn : Fin 32) (ok : Bool)
  | controlCoreFault (core : Fin 24) (cause : Nat)
  | automataEngineFault (pa : Fin 8)
  | healthScoreRecompute
  | expulsionRequestSend (target : NodeId)
  | expel (h : MsgHdr) (target : NodeId) (kind reason : Nat) (token : Word32) (healthSeen failed : Nat)
  | transferHoldExpiry (id : Nat)
  | drainWindowExpiry
  -- maps, heartbeats, streams
  | mapFetch (h : MsgHdr) (wanted : Word32)
  | mapBody (h : MsgHdr) (b : MapBody)
  | heartbeat (h : MsgHdr) (b : Heartbeat)
  | heartbeatFastSend
  | heartbeatSlowSend
  | peerSuspect (peer : NodeId)
  | e2eAck (h : MsgHdr) (seq : Word32)
  | e2eAckTimer (peer : NodeId)
  | orderedRtoExpiry (peer : NodeId)
  | messageReassemblyTimeout (peer : NodeId) (seq : Word32)
  | segmentReassemblyTimeout (peer : NodeId) (firstSeq : Word32)
  -- handshakes
  | handshakeHello (h : MsgHdr) (b : HsBody)
  | handshakeReply (h : MsgHdr) (b : HsBody)
  | handshakeFinish (h : MsgHdr) (b : HsBody)
  | handshakeAbort (h : MsgHdr) (hsId : Word32) (reason : Nat)
  | handshakeRetry (peer : NodeId)
  | handshakeBackoffExpiry (peer : NodeId)
  | initiatorHoldExpiry (peer : NodeId)
  | rekeyDue (peer : NodeId)
  | oldKeyErase (peer : NodeId)
  -- links
  | trainFrame (link : Fin 48) (t : TrainInfo)
  | spareLockTimeout (link : Fin 48)
  | dataFrame (link : Fin 48) (f : LinkFrame)
  | linkNak (link : Fin 48) (ack : Word16)
  | linkReplayTimeout (link : Fin 48)
  | idleAckTimer (link : Fin 48)
  | laneFault (link : Fin 48) (dir : Dir) (lane : Fin 2) (cause : Nat)
  | spareReq (link : Fin 48) (lane : Fin 2)
  | laneMark (link : Fin 48) (lane : Fin 2)
  | linkLanesReturn (link : Fin 48)
  | bulkGateEntryExpiry
  -- RDMA, congestion, egress
  | windowRdmaWrite (queue : Nat) (a : RdmaAddr) (data : List Byte)
  | windowRdmaRead (queue : Nat) (a : RdmaAddr) (len : Nat)
  | fetchAndAdd (queue : Nat) (a : RdmaAddr) (add : Word64)
  | compareAndSwap (queue : Nat) (a : RdmaAddr) (cmp swap : Word64)
  | rdmaWriteImmReceived (queue : Nat)
  | revocationComplete (ctx : Nat)
  | transportAck (queue : Nat) (upTo : Nat) (delayNs : Nat)
  | ackTimeout (queue : Nat)
  | rnrNakReceived (queue : Nat)
  | triggerWrComplete (ptn : Fin 32) (chain : Nat) (nak : Bool)
  | cnpReceived (queue : Nat)
  | cePacketReceived (queue : Nat)
  | ccUpdatePeriod (queue : Nat)
  | qpIdleReset (queue : Nat)
  | frameDeparture (port : Fin 4)
  | gateEntryExpiry (port : Fin 4)
  | pfcFrameReceived (port : Fin 4) (prio : Fin 8) (quanta : Nat)
  | pfcPauseExpiry (port : Fin 4) (prio : Fin 8)
  | hostLinkChange (port : Fin 4) (up : Bool)
  -- management sessions
  | mgmtConnect
  | mgmtHello (session : Nat) (b : HsBody)
  | sessionRecord (session : Nat) (tagOk : Bool) (op : Op) (p : Packet)
  | sessionIdleTimeout (session : Nat)
  | sessionRekeyClose (session : Nat)
  -- power, clocks, resets
  | pwrWarnAssert
  | freewheelFlushComplete
  | pwrWarnDeassert
  | resumeComplete
  | droop (die : Die)
  | droopRecover (die : Die)
  | droopLong (die : Die)
  | droopLongEnd (die : Die)
  | supplyFault (rail : Fin 13)
  | supplyReturn (rail : Fin 13)
  | thermalSensorRead (t : Temps)
  | thermalResume
  | resetN
  | pkgRst (path : Path)
  | fwRestart (path : Path)
  | supervisorWatchdog
  | fwRestartComplete
  | rootPllLoss
  | serdesPllLoss (pll : Pll)
  | coldPowerOn
  | attKeyReady
  | attKeyRoll
  | coreGroupReady (ok : Bool)
  | ptnResetComplete (ptn : Fin 32)
  | parkRequest (path : Path)
  | parkEntryComplete
  | coastRequest (path : Path)
  | rideRequest (path : Path)
  | autoCoastIdle (engine : Fin 68)
  -- units enabled and fenced by registers
  | stackEnable (path : Path) (stack : Fin 8)
  | stackInitDone (stack : Fin 8) (ok : Bool)
  | stackDisable (path : Path) (stack : Fin 8)
  | stackFence (path : Path) (stack : Fin 8)
  | stackDrainComplete (stack : Fin 8)
  | nbEnWrite (path : Path) (stack : Fin 8) (on : Bool)
  | hbmPatrolScrub (stack : Fin 8) (o : ScrubOutcome)
  | stackTempRead (stack : Fin 8) (temp : Int)
  | flashTierEnable (path : Path) (anchorOk : Bool)
  | flashWriteEnable (path : Path)
  | channelEnable (path : Path) (chan : Fin 32) (dies : Nat) (badDie : Option Nat)
  | channelFence (path : Path) (chan : Fin 32)
  | channelDrainComplete (chan : Fin 32)
  | hostPortEnable (path : Path) (port : Fin 4) (on : Bool)
  | mportEnable (path : Path) (on : Bool)
  | hostGateEnable (path : Path) (port : Fin 4) (on : Bool)
  | shaperWrite (path : Path) (port : Fin 4) (cls : Fin 8) (value : Word32)
  | linkEnable (path : Path) (link : Fin 48) (on : Bool)
  | linkFence (path : Path) (link : Fin 48)
  | linkRestore (path : Path) (link : Fin 48) (locked : Bool)
  | fabricGateEnable (path : Path) (on : Bool)
  | nodeValidSet (path : Path) (node : NodeId)
  | glbLockSet (path : Path)
  | secSvnCommit (path : Path) (svn : Word32)
  | telFreeze (path : Path) (on : Bool)
  | telClear (path : Path)
  | registerWrite (path : Path) (offset : Nat) (value : Word32)
  | fingerprintRecompute
  | logReadWake (id : Nat)
  | logReadWaitExpiry (id : Nat)
  -- I3C
  | entdaa (addr : BitVec 7)
  | setEndpointId (eid : Byte)
  | getEndpointId
  | getMctpVersionSupport
  | getMessageTypeSupport
  | getVendorDefinedSupport
  | i3cNdoxCommand (op : Op) (p : Packet)
  | i3cSlotWrite (slot : Fin 2) (offset : Nat) (data : List Byte)
  | i3cSlotCheck (slot : Fin 2)
  | i3cBootStatus
  -- added at the table's end
  | railsDown
  | resetNRelease (hottest : Int)
  | mgmtDisconnect (session : Nat)
  | keySlotFault (ptn : Fin 32) (die : Die)
  | serdesPllRelock (pll : Pll)
  | healthLogHourly
  deriving DecidableEq, Repr

end Sys2Proof
end

