-- ==== Sys2Proof/Machine/State.lean ====
section
/-! DEFINITION. The state of the node: every register, queue, buffer, counter, mode and pin that the spec gives it,
as plain data, and the queue of the commands that wait. `State.reset` is the node after a cold power-on, while
RESET_N is still low. -/

namespace Sys2Proof.Machine

/-- No command stops the node: the spec answers every fault with a status, a record, a fence, a recovery or a
reset (R433), so there is no fault for a meaning to raise. -/
inductive Fault where
  deriving DecidableEq, Repr

/-- Why a command has no meaning. -/
inductive Refusal where
  /-- Raised by an arm of `exec` whose command has no meaning yet. Safe: the model stops. -/
  | notModelled (mnemonic : String)
  deriving DecidableEq, Repr

/-- Byte memory in canonical form: addresses strictly rising, no entry equal to what an unlisted address reads
as. -/
abbrev Mem := List Host.Cell

/-! ## Time, power, clocks and boot (16_power_clocks_reset.md) -/

/-- The power states of R477, and the freewheel (`PWR_CTL` STATE 3). `COAST` is `ride` with every engine gated
(R478). -/
inductive PState where
  | ride | park | freewheel | off
  deriving DecidableEq, Repr

/-- Where the boot stands (R489, R498). `held`: RESET_N is low. `tripped`: a thermal trip has stopped every clock
(R524). -/
inductive Phase where
  | held | bootRom | romRecovery | applying | service | fwRestart | tripped
  deriving DecidableEq, Repr

/-- What started the running freewheel (R466, R468, R481, R524). -/
inductive FwCause where
  | warn | supply | thermal | pkgRst
  deriving DecidableEq, Repr

/-- The ARITH clock of one die under droop (R465). -/
structure DieClk where
  div3 : Bool
  halfIssue : Bool
  deriving DecidableEq, Repr

structure Power where
  tsc : Word64
  state : PState
  phase : Phase
  resetN : Bool
  pwrWarn : Bool
  parked : Bool
  thermtrip : Bool
  railsOut : List Nat
  west : DieClk
  east : DieClk
  rootLock : Bool
  pllsLost : List Pll
  thermalHold : Bool
  limited : Bool
  lastCause : Nat
  fwRestarts : Nat
  incarn : Word32
  freewheel : Option FwCause
  /-- A resume under R472 is under way. -/
  resuming : Bool
  /-- An orderly package reset follows the running freewheel (R481, R492). -/
  resetAfter : Bool
  parkPending : Bool
  cfgApplied : Bool
  cfgDefaulted : Bool
  /-- Entries of the configuration image that wait for a unit to leave training (R487). -/
  cfgPending : List (Nat × Word32)
  /-- The register whose EN the entry applied last has set, while its unit trains. -/
  cfgAwait : Option Nat
  hours : Nat
  /-- Whether the node holds its HBM contents since the last start (R454). -/
  hbmSurvived : Bool
  deriving DecidableEq, Repr

/-- A firmware slot of the boot flash (R484): its bytes, and whether it holds the vendor's image as delivered. -/
structure FwSlot where
  factory : Bool
  bytes : Mem
  deriving DecidableEq, Repr

/-- A selector record (R485) or a reservation record (R411); `none` where the sector holds no record that passes
its CRC. -/
structure Selector where
  count : Nat
  active : Nat
  deriving DecidableEq, Repr

structure Reservation where
  next : Nat
  count : Nat
  deriving DecidableEq, Repr

structure Boot where
  slotA : FwSlot
  slotB : FwSlot
  selA : Option Selector
  selB : Option Selector
  resA : Option Reservation
  resB : Option Reservation
  /-- The configuration region's bytes (R486). -/
  config : List Byte
  /-- The slot the running firmware was loaded from. -/
  active : Nat
  deriving DecidableEq, Repr

/-! ## Error log, telemetry, I3C (17_configuration_space.md) -/

/-- An error-log record (R511). -/
structure LogRec where
  seqno : Nat
  tsc : Word64
  cls : Nat
  severity : Nat
  code : Nat
  ptn : Nat
  zeroed : Bool
  unit : Nat
  reg : Nat
  bit : Word32
  detail : List Byte
  deriving DecidableEq, Repr

structure Log where
  records : List LogRec
  head : Nat
  deriving DecidableEq, Repr

/-- A counter's place: group, scope (the partition, or the node) and index (R508). -/
structure TelKey where
  group : Nat
  scope : Nat
  index : Nat
  deriving DecidableEq, Repr

structure Telemetry where
  counters : List (TelKey × Nat)
  snapshot : Option (List (TelKey × Nat))
  deriving DecidableEq, Repr

structure I3c where
  dynAddr : BitVec 7
  eid : Byte
  /-- The in-band interrupt has been raised and (`GLB_EVT` AND mask) has not returned to zero (R501). -/
  raised : Bool
  /-- Ndox messages that wait for the one being processed (R498). -/
  backlog : List (Op × Packet)
  deriving DecidableEq, Repr

/-! ## Partitions, contexts, queues (10, 11, 12, 14) -/

/-- A partition (R325) with its state (R440, R394). -/
structure Ptn where
  keyMode : Nat
  confidential : Bool
  priv : Word32
  hbmQuota : Nat
  flashQuota : Nat
  enginePm : Nat
  ctxFirst : Nat
  ctxCount : Nat
  queueMax : Nat
  trigMax : Nat
  fenced : Bool
  resetting : Bool
  /-- Serial of the storage key (R396). -/
  keySerial : Nat
  deriving DecidableEq, Repr

/-- A payload key slot (R267, R268): its key by serial, whether it is revoked, the node's nonce counter. -/
structure KeySlot where
  key : Nat
  revoked : Bool
  nonce : Nat
  deriving DecidableEq, Repr

/-- A context (R298, R338, R395). -/
structure Ctx where
  num : Nat
  ptn : Nat
  tclass : Nat
  winLog2 : Nat
  base : Word64
  rkeySerial : Nat
  window : Mem
  keys : List (Option KeySlot)
  winKey : Nat
  winDie : Die
  /-- The revocation under way: the command that waits for it, or none for `CTX_DESTROY` (R341). -/
  revoking : Option (Option Nat)
  deriving DecidableEq, Repr

/-- A reply record's contents (R270). -/
structure Reply where
  op : Op
  status : Nat
  reqId : Word64
  epoch : Word32
  hint : Option NodeId
  retryUs : Nat
  isSealed : Bool
  payload : List Byte
  deriving DecidableEq, Repr

/-- A message that a command queue's connection has posted (R271, R343): a reply record with the written count of
the tail word that follows its acknowledgement in POLL mode and the chain that waits with it, a tail word, a work
request of a chain, or a response to an operation of the host. -/
inductive PostKind where
  | record (tail : Option Nat) (chain : Option Nat)
  | tailWord
  | chainWr (chain : Nat)
  | response
  deriving DecidableEq, Repr

structure Posted where
  /-- The lengths of its frames. -/
  frames : List Nat
  kind : PostKind
  deriving DecidableEq, Repr

/-- A command queue (R261, R297) and its connection (R337, R351). Rates are in units of 100 Mbit/s, times in
ns. -/
structure Queue where
  qpn : Nat
  num : Nat
  ctx : Nat
  ptn : Nat
  port : Nat
  poll : Bool
  qdepth : Nat
  ringLog2 : Nat
  mtuLog2 : Nat
  ringAddr : Word64
  ringRkey : Word32
  headOff : Nat
  tailAddr : Word64
  remoteGid : BitVec 128
  remoteQpn : Nat
  remotePsn : Nat
  localPsn : Nat
  err : Bool
  backlog : List (Op × Packet)
  written : Nat
  consumed : Nat
  waiting : List Reply
  posted : List Posted
  rate : Rat
  srtt : Option Rat
  minDelay : Option Nat
  cnpSeen : Bool
  /-- When the node last sent a congestion notification packet (R352). -/
  cnpAt : Option Nat
  /-- The next wheel time (R347, R351). -/
  wheel : Nat
  retries : Nat
  rnrRetries : Nat
  /-- Frames ready for the wire: their lengths. -/
  egress : List Nat
  deriving DecidableEq, Repr

/-- A work request of a trigger chain (R322). -/
structure Wr where
  kind : Nat
  src : Nat
  rkey : Word32
  addr : Word64
  srcOff : Nat
  length : Nat
  operand : Word64
  deriving DecidableEq, Repr

inductive ChainState where
  | armed | firing | fired
  deriving DecidableEq, Repr

/-- A trigger chain (R322, R342). -/
structure Chain where
  ptn : Nat
  num : Nat
  ctx : Nat
  queue : Nat
  reqMatch : Word64
  wrs : List Wr
  state : ChainState
  /-- The reply whose acknowledgement the chain waits for in POLL mode (R343). -/
  reply : Option Reply
  deriving DecidableEq, Repr

/-- A management session (R354, R423). `open` once its handshake is complete. -/
structure Session where
  num : Nat
  isOpen : Bool
  rxCount : Nat
  txCount : Nat
  outstanding : Nat
  backlog : List (Op × Packet)
  deriving DecidableEq, Repr

/-- A host port (R332, R345 to R349). Times in ns. -/
structure Port where
  /-- 0 OFF, 1 TRAINING, 2 UP, 3 DOWN. -/
  state : Nat
  mode : Nat
  autoNeg : Bool
  /-- Tokens of each class's shaper, in units of 1/80 B, the part that accrues in a ns at 100 Mbit/s. -/
  tokens : List Nat
  deficits : List Nat
  /-- When the tokens were last brought up to date, and when the running gate entry began. -/
  tokensAt : Nat
  gateEntry : Nat
  gateAt : Nat
  gateRunning : Bool
  /-- The class that the last frame of classes 0 to 5 came from, and the queue pair served last in each class. -/
  lastClass : Nat
  lastQp : List Nat
  paused : List Nat
  /-- Priorities for which the node has sent an XOFF and no XON since (R349). -/
  xoffs : List Nat
  deriving DecidableEq, Repr

structure HostSide where
  ctxs : List Ctx
  queues : List Queue
  chains : List Chain
  sessions : List Session
  ports : List Port
  mportUp : Bool
  /-- The serial of the last remote key issued for a context number (R338). -/
  keySerials : List (Nat × Nat)
  deriving DecidableEq, Repr

/-! ## Trust core (14_partitions_and_trust.md) -/

/-- The firmware update (R327, R490). -/
structure FwUpdate where
  /-- 0 none, 1 staging, 2 checked, 3 activating. -/
  state : Nat
  staged : Digest
  stagedSvn : Word32
  stagedLen : Nat
  groupsDone : Nat
  /-- The `FW_ACTIVATE` that waits. -/
  waiter : Option Nat
  deriving DecidableEq, Repr

structure Trust where
  jtagLock : Bool
  svnAdvances : Nat
  svnMin : Word32
  svnRun : Word32
  fwDigest : Digest
  romDigest : Digest
  cfgDigest : Digest
  nodeId : Option NodeId
  idxNext : Nat
  idxLimit : Nat
  idxOk : Bool
  idxLost : Bool
  attReady : Bool
  attSerial : Nat
  attLeft : Nat
  attSuccessor : Bool
  sessionKey : Nat
  nextKey : Nat
  fw : FwUpdate
  deriving DecidableEq, Repr

/-! ## Namespaces, sequences, pages (02, 03) -/

/-- A recall model installed in a namespace (R169 to R171). `matrices` gives each matrix's W and b. -/
structure Model where
  num : Nat
  wDigest : Digest
  cDigest : Digest
  layerMap : List Nat
  matrices : List (Nat × List (List Word16) × List Word32)
  coarse : List (List Word16)
  pq : List (List (List Word32))
  deriving DecidableEq, Repr

/-- A namespace (R33, R300). `current` and `retained` are its recall models. -/
structure Ns where
  num : Nat
  ptn : Nat
  recallOn : Bool
  selfPlaced : Bool
  level : Nat
  maxSeq : Nat
  nodes : List NodeId
  index : List NodeId
  current : Option Model
  retained : Option Model
  createPayload : List Byte
  deriving DecidableEq, Repr

/-- A token-ID block (R104): 256 identities, 0xFFFF_FFFF where not recorded, and its check word once full. -/
structure TokBlock where
  idx : Nat
  ids : List Word32
  crc : Option Word32
  recovering : Bool
  deriving DecidableEq, Repr

/-- A page-table entry of a layer: the block, the handle it names, and for a page that another node holds the
envelopes of its source planes (R26, R67) and its count of requantised tokens (R307). -/
structure Entry where
  block : Nat
  page : Handle
  env : List (List (Word16 × Word16))
  requant : Nat
  deriving DecidableEq, Repr

/-- A loss record (R452). -/
structure Loss where
  first : Nat
  fin : Nat
  deriving DecidableEq, Repr

structure Layer where
  length : Nat
  mirrored : Nat
  persisted : Nat
  entries : List Entry
  loss : Option Loss
  selection : List Handle
  deriving DecidableEq, Repr

/-- How far a sequence of this node is usable (R448, R451, R454). -/
inductive SeqState where
  | live | pendingChild (reqId : Word64) | arriving
  /-- Restored and not settled yet: the lengths to be reached, once the other role holder has told its own. -/
  | settling (want : Option (List Nat))
  deriving DecidableEq, Repr

structure Seq where
  handle : Handle
  groups : List LayerGroup
  shared : Bool
  replicas : List NodeId
  tag : Word32
  layers : List Layer
  tokens : List TokBlock
  state : SeqState
  /-- The descriptor is in the scoreboard's descriptor cache (R17). -/
  resident : Bool
  /-- Lengths recorded before a restart (R454). -/
  before : List Nat
  deriving DecidableEq, Repr

/-- Where a page's HBM copy lies: the stack, and in an open region its pseudo-channel and the first frame of its run there (R216,
R220, R221). -/
structure HbmLoc where
  stack : Nat
  pch : Option Nat
  first : Nat
  deriving DecidableEq, Repr

/-- The seal of a full tail frame (R24, R83, R107). A running seal holds the frames of its unfinished image, the page
`into`; `attempts` counts failed read-backs. -/
inductive SealState where
  | idle
  | queued (raised : Bool)
  | running (engine : Nat) (into : Handle) (attempts : Nat)
  deriving DecidableEq, Repr

/-- A copy of the page under way, which pins it (R62). `leave`: the flash copy stands, and the page leaves HBM with its last
pin (R253, R254). -/
inductive CopyJob where
  | none | toFlash | toHbm | toOpen (stack pch first : Nat) | fromOpen | place (target : NodeId) | leave
  deriving DecidableEq, Repr

/-- An index entry (R175). -/
structure IdxEntry where
  page : Handle
  seq : Handle
  block : Nat
  layer : Nat
  model : Nat
  inherit : Bool
  epoch : Word32
  tag : Word32
  code : List Byte
  deriving DecidableEq, Repr

/-- A page held on this node (R42 to R64). -/
structure Page where
  handle : Handle
  ptn : Nat
  name : PageName
  img : Image
  frames : Nat
  refs : Nat
  pins : Nat
  hbm : Option HbmLoc
  /-- Old HBM places that reads still pin (R43, R63). -/
  leaving : List HbmLoc
  flash : Bool
  sealing : SealState
  job : CopyJob
  recovering : Bool
  /-- The handles of further copies on other nodes: replicas, the second copy of R67. -/
  copies : List Handle
  /-- Nodes whose acknowledgement of a copy is awaited. -/
  awaiting : List NodeId
  /-- When commands selected the page and their REQ_ID, newest first, as far back as R221 and R255 count. -/
  recentSel : List (Nat × Word64)
  lastSel : Nat
  /-- The four CRC-64 words per key plane of its open-page record (R223). -/
  openRec : List Word64
  /-- The list and the index entry that its seal gave it (R174, R177, R179). -/
  index : Option (Nat × IdxEntry)
  deriving DecidableEq, Repr

/-- A journal entry (R52, R471). -/
structure JEntry where
  half : Nat
  seq : Handle
  layer : Nat
  pos : Nat
  token : Word32
  row : List Word16
  record : Option AppendRec
  bytes : Nat
  /-- The requantisation record of its page, where the position is marked (R60, log 37). -/
  inherit : Option Inherit
  deriving DecidableEq, Repr

/-- A command record (R279). -/
structure CmdRec where
  ptn : Nat
  reqId : Word64
  op : Op
  digest : BitVec 128
  status : Nat
  expiry : Nat
  deriving DecidableEq, Repr

/-- Gradient planes of one block (R147): dK and dV per source plane, token and channel as FP32. -/
structure Grad where
  seq : Handle
  layer : Nat
  block : Nat
  ptn : Nat
  /-- The stack in whose protected region they lie (R214). -/
  stack : Nat
  vals : List (List (List Word32))
  deriving DecidableEq, Repr

/-- A page that this node's sequences refer to under another node's handle: references, and its further copies (R64,
R67). `owners` are the nodes that count references for this node, and hear of them when the last one goes: the page's
holder, or the home that has placed it there. `moving` is the node of the set that a placement move takes it to. -/
structure Placed where
  page : Handle
  refs : Nat
  owners : List (NodeId × Nat)
  copies : List Handle
  moving : Option NodeId
  index : Option (Nat × IdxEntry)
  deriving DecidableEq, Repr

/-- Rows of a `GRAD_ATTEND` that this node has added to a block's planes for another home (R148, R149). -/
structure GradSeen where
  ptn : Nat
  reqId : Word64
  seq : Handle
  layer : Nat
  block : Nat
  rows : List GradRow
  deriving DecidableEq, Repr

/-- A PAGE_FETCH whose answer is awaited: the node asked, the SEQ it was sent with, the page it is for (or the block of
token IDs), and the sources passed over (R442, R443). -/
structure Fetch where
  node : NodeId
  reqSeq : Word32
  page : Handle
  name : PageName
  tokens : Bool
  tried : List NodeId
  deriving DecidableEq, Repr

structure Store where
  nss : List Ns
  seqs : List Seq
  pages : List Page
  /-- Generations of the frames allocated so far as first frames (R44). -/
  gens : List (Nat × Word16)
  journal : List JEntry
  appendRecs : List AppendRec
  cmdRecs : List CmdRec
  grads : List Grad
  remoteRefs : List Placed
  fetches : List Fetch
  /-- Gradient requests that this node has added up for other homes (R148, R149). -/
  gradSeen : List GradSeen
  deriving DecidableEq, Repr

/-! ## HBM (08_hbm_and_near_bank.md) -/

inductive StackState where
  | off | training | service | draining | fenced | selfRefresh
  deriving DecidableEq, Repr

/-- A near-bank sequence (R224, R226): the page, its pseudo-channel and frame run, the expected CRC-64 values, and whether the
residual tables went with it. -/
structure NbSeq where
  page : Handle
  pch : Nat
  first : Nat
  frames : Nat
  crcs : List Word64
  residual : Bool
  /-- The serial of the command, or of the partial request, whose queries it scores. -/
  cmd : Nat
  suspended : Bool
  deriving DecidableEq, Repr

/-- A row to be repaired or retired (R217, R230): its pages that have still to move, and those whose old frames reads may pin. -/
structure RowDue where
  row : Nat
  stay : List Handle
  moved : List Handle
  deriving DecidableEq, Repr

structure Stack where
  state : StackState
  /-- The open-region size in effect since the last enable, in GiB. -/
  openGib : Nat
  retired : Nat
  /-- Corrected errors within the counting window: the row, and when (R217). -/
  rowErrs : List (Nat × Nat)
  sparesUsed : Nat
  /-- When uncorrectable words were found in the last second, newest first (R219). -/
  ueTimes : List Nat
  scrubPasses : Nat
  taints : Nat
  temp : Int
  running : List NbSeq
  /-- Pseudo-channels whose near-bank unit is fenced (R225). -/
  unitsFenced : List Nat
  drainQueued : Bool
  /-- Rows that wait for their pages' moves and for the last unpin of the old frames (R217, R230). -/
  rowsDue : List RowDue
  /-- Reports of the on-die ECC (R210). -/
  eccReports : Nat
  /-- Unit-write markers: pseudo-channels whose scratch rows carry one, and rows of the protected region that do (R222). -/
  scratchMarked : List Nat
  rowsMarked : List Nat
  deriving DecidableEq, Repr

structure Hbm where
  stk : List Stack
  journalWest : Nat
  journalEast : Nat
  controlA : Nat
  controlB : Nat
  deriving DecidableEq, Repr

/-! ## Flash (09_flash_tier.md) -/

inductive TierState where
  | off | init | service | readOnly | rebuild
  deriving DecidableEq, Repr

inductive ChanState where
  | off | training | service | draining | fenced
  deriving DecidableEq, Repr

/-- The classes of a channel's work, in the order in which it serves them (R258). -/
inductive WorkClass where
  | attend | draft | scan | write | patrol
  deriving DecidableEq, Repr

/-- Work of a channel: its class, and the page, index frame or source frame that it is for. -/
structure ChanWork where
  cls : WorkClass
  page : Handle
  die : Nat
  deriving DecidableEq, Repr

structure Chan where
  state : ChanState
  dies : Nat
  tempWarn : Bool
  tempCrit : Bool
  temp : Int
  tempMax : Int
  /-- The temperature of each die at its last training (R232). -/
  trainedAt : List Int
  ue : Nat
  progFails : Nat
  eraseFails : Nat
  corrected : Nat
  /-- What it has to do, in the order of R258, and the dies whose program or erase is suspended for a read. -/
  queue : List ChanWork
  suspended : List Nat
  deriving DecidableEq, Repr

/-- What a frame holds (R237). -/
inductive FrameKind where
  | page | index | leaves | delta | freewheel | anchor | health
  deriving DecidableEq, Repr

/-- A programmed frame: its tag (R237), and whether the flash map names this copy. -/
structure Frame where
  num : Nat
  gen : Word16
  kind : FrameKind
  index : Nat
  dataCrc : Word32
  wseq : Nat
  valid : Bool
  deriving DecidableEq, Repr

/-- The streams whose frames keep to their own open blocks (R239). -/
inductive Stream where
  | migration | reclamation | index
  deriving DecidableEq, Repr

inductive BlockUse where
  | opened | full | reclaiming | retired
  deriving DecidableEq, Repr

/-- A flash block that is not free (R235, R245, R246, R250): a system block in single-level mode or a four-bit block, its use,
stream and erase count, reads since its erase, its frames, the blocks that its frames were copied from, and whether its close
check has passed. -/
structure FBlock where
  die : DieId
  num : Nat
  single : Bool
  use : BlockUse
  stream : Stream
  erases : Nat
  reads : Nat
  frames : List Frame
  sources : List (DieId × Nat)
  closed : Bool
  deriving DecidableEq, Repr

/-- A die's spare blocks and wear (R235, R247, R248). `erases` lists the erase counts of blocks erased since
delivery; `gc` says that the die reclaims until it has GC_HIGH free blocks (R245). -/
structure FDie where
  die : DieId
  gc : Bool
  free : Nat
  spare : Nat
  /-- The spare pool's size at enable (R248, R252). -/
  spareStart : Nat
  reserve : Nat
  retired : Nat
  worn : Bool
  erases : List (Nat × Nat)
  deriving DecidableEq, Repr

/-- A flash map entry (R240): the frame number, its location and the page it belongs to. -/
structure MapEntry where
  frame : Nat
  die : DieId
  block : Nat
  slot : Nat
  gen : Word16
  index : Nat
  deriving DecidableEq, Repr

/-- A change of the flash map, of its directory or of the persistent sequence records (R241). -/
inductive DeltaRec where
  | frame (n : Nat)
  | leaf (n : Nat)
  | ns (n : Nat)
  | seq (h : Handle)
  | length (h : Handle) (layer : Nat)
  | entry (h : Handle) (layer block : Nat)
  | refs (page : Handle)
  | loss (h : Handle) (layer : Nat)
  | child (h : Handle)
  deriving DecidableEq, Repr

/-- A delta record with what it says: the thing that it names as the change left it, none where it is gone. -/
structure DeltaEntry where
  name : DeltaRec
  map : Option MapEntry
  ns : Option Ns
  seq : Option Seq
  page : Option Page
  placed : Option Placed
  deriving DecidableEq, Repr

/-- The persistent records that flash gives back: namespaces, sequences with their page tables, pages with their references, and the
flash map (R241, R242). -/
structure Persist where
  nss : List Ns
  seqs : List Seq
  pages : List Page
  remoteRefs : List Placed
  map : List MapEntry
  deriving DecidableEq, Repr

/-- A flush in a frame set of the freewheel area (R243): how many of its frames were programmed, its commit frame among them or not,
the WSEQ of its last frame, the delta records, and the journal entries of both halves. -/
structure Flush where
  committed : Bool
  wseq : Nat
  frames : Nat
  records : List DeltaEntry
  journal : List JEntry
  deriving DecidableEq, Repr

inductive SetState where
  | armed | holds (f : Flush)
  deriving DecidableEq, Repr

structure Health where
  framesNew : Nat
  framesTotal : Nat
  readsCorrected : Nat
  readsRetried : Nat
  readsUncorrectable : Nat
  programFails : Nat
  eraseFails : Nat
  framesLost : Nat
  retiredBlocks : Nat
  patrolPasses : Nat
  patrolProgress : Nat
  tempEvents : Nat
  histNext : Nat
  history : List (Nat × Int × Int)
  /-- The highest and lowest die temperature of the running hour. -/
  hour : Option (Int × Int)
  writes : Nat
  deriving DecidableEq, Repr

/-- The flash tier: its media, its map with the map's records, the freewheel sets, and the work in flight. -/
structure Flash where
  state : TierState
  chans : List Chan
  dies : List FDie
  blocks : List FBlock
  map : List MapEntry
  /-- The map directory: the die, block and slot of each leaf that has been written back (R240). -/
  dir : List (Nat × DieId × Nat × Nat)
  /-- The leaves in the leaf cache, the latest used first. -/
  leaves : List Nat
  wseq : Nat
  /-- Delta records not yet in the delta log, and those in it that are not retired, oldest first (R241). -/
  unwritten : List DeltaEntry
  unretired : List DeltaEntry
  deltaTotal : Nat
  /-- What the checkpoint and the delta log give back. -/
  logged : Option Persist
  checkpoint : Option Nat
  anchorSeq : Nat
  consumed : Nat
  setA : SetState
  setB : SetState
  /-- Copies that reclamation has in flight: die, frame, victim block. -/
  copying : List (DieId × Nat × Nat)
  drafting : List Handle
  draftQueue : List Handle
  health : Health
  /-- Commits that wait for the delta buffer: pages whose seal commit is due. -/
  stalled : List PageName
  chanDrains : List Nat
  deriving DecidableEq, Repr

/-- A staging-cache line (R21, R22): the die whose SRAM holds it, the partition and the frames that it takes there, when it
was last used, and the 32-token residual groups that have been fetched (R23). -/
structure Line where
  page : Handle
  layer : Nat
  seq : Handle
  drafted : Bool
  die : Die
  ptn : Nat
  frames : Nat
  usedAt : Nat
  residual : List Nat
  deriving DecidableEq, Repr

/-! ## Engines, slots, recall (04 to 07, 15) -/

/-- What an engine runs (R437). -/
inductive Step where
  | attend (id : Nat)
  | seal (p : PageName)
  | grad (id : Nat)
  deriving DecidableEq, Repr

structure Engine where
  /-- A spare that has not yet replaced an engine is not in use (R15). -/
  inUse : Bool
  fenced : Bool
  gated : Bool
  step : Option (Nat × Step)
  /-- The engine this one replaces, while its steps have not been run again (R438). -/
  replacing : Option Nat
  deriving DecidableEq, Repr

/-- A step that a fault interrupted: its partition, how often it has faulted, where it runs next (R438, R440). -/
structure HeldStep where
  ptn : Nat
  step : Step
  faults : Nat
  on : Nat
  deriving DecidableEq, Repr

structure Engines where
  engines : List Engine
  held : List HeldStep
  coresFenced : List Nat
  pasFenced : List Nat
  pasFaulted : List Nat
  deriving DecidableEq, Repr

/-- A version of a shaping program (R161, R164): its words and its digest. -/
structure ProgVer where
  words : List Word32
  digest : Digest
  /-- Tells this version from every other, one of the same image too (R164). -/
  serial : Nat
  deriving DecidableEq, Repr

structure ProgSlot where
  num : Nat
  owner : Nat
  current : Option ProgVer
  old : List ProgVer
  deriving DecidableEq, Repr

/-- A pattern version (R193): the automaton, its digest and its banks (R198). -/
structure PatVer where
  npat : Nat
  nclass : Nat
  nstates : Nat
  start : Nat
  lookback : Nat
  patid : List Word32
  runs : List (Nat × Nat)
  acc : List Word32
  tab : List Nat
  digest : Digest
  firstBank : Nat
  nbanks : Nat
  serial : Nat
  deriving DecidableEq, Repr

/-- A pattern slot (R192, R204): with no current version it is invalid, and `staging` holds the staged bytes. -/
structure PatSlot where
  num : Nat
  owner : Nat
  current : Option PatVer
  old : List PatVer
  staging : Mem
  stagingLen : Nat
  deriving DecidableEq, Repr

structure Slots where
  progs : List ProgSlot
  pats : List PatSlot
  /-- The serial of the next version. -/
  nextVer : Nat
  deriving DecidableEq, Repr

/-- A query in a batching window or a pass (R183, R184). -/
structure ScanQuery where
  node : NodeId
  reqId : Word64
  reqSeq : Word32
  q : ScanReq
  deriving DecidableEq, Repr

/-- A full index block (R176): its entries, and the frame of the page range that holds it; none while it is kept in the control
area (R249). -/
structure IdxBlock where
  entries : List IdxEntry
  frame : Option Nat
  deriving DecidableEq, Repr

/-- A list segment (R176): flushed blocks, the open block, the window and the running passes, oldest first, with their
snapshots of blocks, the open one last. -/
structure Segment where
  name : SegName
  ptn : Nat
  flushed : List IdxBlock
  opened : List IdxEntry
  window : List ScanQuery
  passes : List (List ScanQuery × List (List IdxEntry))
  rebuilding : Bool
  degraded : Bool
  /-- Its entries are of a model that has been removed: no scan reads them, and the next compaction deletes them (R169, R178). -/
  removed : Bool
  /-- Frames of blocks that compaction has replaced and that a running pass still reads (R178). -/
  dropped : List Nat
  deriving DecidableEq, Repr

/-- The partial answer of one holder to one of its own list scans (R184). -/
structure ScanJob where
  node : NodeId
  reqId : Word64
  reqSeq : Word32
  listsLeft : List Nat
  results : List ListResult
  /-- One of its passes skipped a block (R179). -/
  degraded : Bool
  deriving DecidableEq, Repr

structure Recall where
  segments : List Segment
  jobs : List ScanJob
  deriving DecidableEq, Repr

/-! ## Admitted commands (01 R18, 10 R274) -/

/-- A pattern filter as a command carries it (R200). -/
structure Filter where
  slot : Nat
  mode : Byte
  select : Word32
  deriving DecidableEq, Repr

/-- An `ATTEND`'s parameters (R113, R312). -/
structure AttendReq where
  seq : Handle
  layer : Nat
  compact : Bool
  exhaustive : Bool
  lowlat : Bool
  program : Option Nat
  filter : Option Filter
  vis : Nat
  alpha : Word32
  tau : Word32
  theta : Word32
  pageBudget : Nat
  tokenBudget : Nat
  timeoutUs : Nat
  draft : Nat
  k : List Word32
  query : List (List Word16)
  deriving DecidableEq, Repr

/-- A covered page as pinned at admission: handle, block, image where this node holds it, and the envelopes. -/
structure Pinned where
  page : Handle
  block : Nat
  img : Option Image
  env : List (List (Word16 × Word16))
  mask : BitVec 256
  tags : List Word32
  open? : Bool
  /-- Marked tokens of the page, for one whose image lies elsewhere (R67, R137). -/
  requant : Nat
  deriving DecidableEq, Repr

/-- A partial request sent to a holder (R27, R134): whether it has been sent again after a failure, its answer,
whether no answer will come, whether the one further request of R134 was spent on its pages (of two such for the same
pages, the later is that request), and whether its answer says that its share of the budget ran out (R135). -/
structure Remote where
  node : NodeId
  reqSeq : Word32
  pages : List Handle
  resent : Bool
  answer : Option PartialSet
  failed : Bool
  further : Bool
  short : Bool
  deriving DecidableEq, Repr

/-- A running `ATTEND`: the covered pages as pinned, the pages selected and the blocks refined in order, its remote
requests (R62, R133, R134), the bound versions, the local pages that it still waits for, and the pages that near-bank
units have scored (R144, R225). -/
structure AttendRun where
  req : AttendReq
  group : LayerGroup
  length : Nat
  pins : List Pinned
  selected : List Handle
  refined : List (Handle × Nat)
  remotes : List Remote
  program : Option ProgVer
  filter : Option PatVer
  needs : List Handle
  nearBank : List Handle
  budgetLeft : Nat
  /-- The token-ID blocks that its filter reads, as pinned at admission (R206). -/
  ids : List TokBlock
  /-- The residual groups of flash pages that it waits for (R23). -/
  residual : List (Handle × Nat)
  /-- The length of the layer below which the pins and token IDs stand (R59, R206). -/
  seen : Nat
  deriving DecidableEq, Repr

/-- The phase-2 parameters of a `RECALL_ATTEND` (R189, R317). -/
structure RecallAttend where
  alpha : Word32
  tau : Word32
  tokenBudget : Nat
  compact : Bool
  group : LayerGroup
  query : List (List Word16)
  deriving DecidableEq, Repr

/-- How far a recall has come: gathering the lists, checking candidates against the filter, attending. -/
inductive RecallStage where
  | gather | check | attend
  deriving DecidableEq, Repr

/-- A request of phase 2 to a holder (R189, R190): the pages as recalled with the handles under which they are asked for,
whether it has been sent again, and its answer, a status with a partial, or the reason of a decline (0: none came in time). -/
structure RecallAsk where
  node : NodeId
  reqSeq : Word32
  pages : List (Handle × Handle)
  resent : Bool
  answer : Option (Nat × Option PartialSet)
  failed : Bool
  deriving DecidableEq, Repr

/-- A running recall (R181, R185, R189): `req` carries k', `kk` is k. -/
structure RecallRun where
  req : ScanReq
  filter : Option Filter
  kk : Nat
  nprobe : Nat
  stage : RecallStage
  /-- Index nodes that have not answered, with the SEQ of their request. -/
  waiting : List (NodeId × Word32)
  missing : Nat
  got : List ListResult
  flags : Byte
  deadline : Bool
  /-- Candidates in merge order: not yet checked, being checked, passed. -/
  todo : List Cand
  checking : List (Word32 × Cand)
  passed : List Cand
  dropped : Nat
  phase2 : Option RecallAttend
  asks : List RecallAsk
  queries : List (Word32 × Cand)
  /-- A holder answered `BUDGET_EXHAUSTED` (R135, R191). -/
  budgetHit : Bool
  /-- What is left of the token budget to share out (R134). -/
  budgetLeft : Nat
  deriving DecidableEq, Repr

/-- A gradient request sent to a holder (R148): for which rows and pages, and whether it has been sent again. -/
structure GradRemote where
  node : NodeId
  reqSeq : Word32
  rows : List Nat
  pages : List Handle
  resent : Bool
  deriving DecidableEq, Repr

/-- A running `GRAD_ATTEND` (R145 to R148): its pages with the positions that each row covers, the requests out, and the
dQ sums that holders returned, by row. -/
structure GradRun where
  seq : Handle
  layer : Nat
  group : LayerGroup
  alpha : Word32
  timeoutUs : Nat
  rows : List GradRow
  filter : Option Filter
  version : Option PatVer
  pins : List (Pinned × List (BitVec 256))
  remotes : List GradRemote
  dq : List (Nat × List Word32)
  duplicate : Bool
  /-- The token-ID blocks that its filter reads, as pinned at admission, and the layer's length then (R206). -/
  ids : List TokBlock
  length : Nat
  /-- The local pages that it still waits for. -/
  needs : List Handle
  deriving DecidableEq, Repr

/-- What an admitted command waits for. -/
inductive Wait where
  | epoch
  | transfer (seq : Handle)
  | positions (r : AttendRun)
  | gap (a : AppendReq)
  | journal (a : AppendReq)
  | level (a : AppendReq) (duplicate : Bool)
  /-- Behind a running original; the status code and payload it ended with, once it has (R281). -/
  | dup (answer : Option (Nat × List Byte))
  | attend (r : AttendRun)
  /-- A batch: the status and result of each entry that has ended. -/
  | batch (entries : List (Option (Nat × List Byte)))
  /-- An entry of a batch, with what it waits for. -/
  | batchEntry (parent index : Nat) (w : Wait)
  | recovery (pages : List Handle)
  | descriptor (seq : Handle)
  | gradWait (r : GradRun)
  | grad (r : GradRun)
  | recall (r : RecallRun)
  | forkSeals (f : ForkReq)
  | forkAccept (f : ForkReq) (reqSeq : Word32)
  | mirror (node : NodeId) (step : Nat) (seq : Handle)
  | ptnReset (ptn : Nat)
  | rekey (ctx : Nat)
  | log (after max : Nat) (classes : Word32)
  | fwActivate
  deriving DecidableEq, Repr

/-- An admitted command that has not replied, or a command held before admission under R277. `payload` is the
plaintext. -/
structure Inflight where
  id : Nat
  op : Op
  pkt : Packet
  payload : List Byte
  ptn : Nat
  reqId : Word64
  /-- Pages pinned at admission (R62). -/
  pins : List Handle
  wait : Wait
  deriving DecidableEq, Repr

/-- A partial request that its holder has not answered: a tandem whose positions have not landed (R75), or pages that are
being read from flash (R22) or scored by near-bank units (R143), with those that have been. -/
structure HeldPart where
  id : Nat
  hdr : MsgHdr
  req : PartialReq
  needs : List Handle
  nearBank : List Handle
  deriving DecidableEq, Repr

/-- A gradient request that waits at its holder for pages that are being read from flash (R148). -/
structure HeldGrad where
  hdr : MsgHdr
  req : GradReq
  needs : List Handle
  deriving DecidableEq, Repr

/-- Whose turn it is at the command queues (R275): the partition served last and what is left of its quantum, the context served
last in each partition, the queue served last in each context. -/
structure Turns where
  ptn : Nat
  left : Nat
  ctxs : List (Nat × Nat)
  queues : List (Nat × Nat)
  deriving DecidableEq, Repr

structure Cmds where
  list : List Inflight
  nextId : Nat
  parts : List HeldPart
  grads : List HeldGrad
  turns : Turns
  deriving DecidableEq, Repr

/-! ## Composition map and peers (13, 15) -/

structure Transfer where
  shard : Nat
  arrived : Nat
  deriving DecidableEq, Repr

structure MapState where
  map : Option MapBody
  /-- The map held before, while its drain window runs (R450). -/
  prev : Option MapBody
  transfersIn : List Transfer
  /-- Sequences for which the node holds no role any more, kept for the drain window and until their transfer out is
  acknowledged (R446). -/
  leaving : List Handle
  /-- Transfers that ended here before the map that calls for them was installed: shard and epoch (R448). -/
  doneEarly : List (Nat × Nat)
  /-- Sequences with a mirror message that the tandem refused by its epoch (R77). -/
  refused : List Handle
  /-- 0 normal, 1 degraded keep, 2 leaving (R456, R458). -/
  role : Nat
  keepEpoch : Word32
  score : Nat
  /-- When objects were found uncorrectable, newest first (R442, R455). -/
  ueTimes : List Nat
  leaveRaised : Bool
  tokensSpent : Nat
  deriving DecidableEq, Repr

/-- A message of the node's own, as sent (R377). -/
inductive Msg where
  | heartbeat (b : Heartbeat)
  | mapFetch (wanted : Word32)
  | mapBody (b : MapBody)
  | hsHello (b : HsBody) | hsReply (b : HsBody) | hsFinish (b : HsBody)
  | hsAbort (hsId : Word32) (reason : Nat)
  | e2eAck (seq : Nat)
  | expel (target : NodeId) (kind reason token healthSeen failed : Nat)
  | partialReq (b : PartialReq)
  | partialReply (reqSeq : Word32) (status : Nat) (p : PartialSet) (lost : List LostRange)
  | partialDecline (reqSeq : Word32) (reason : Nat)
  | gradReq (b : GradReq)
  | gradReply (reqSeq : Word32) (dq : List Word32)
  | draftHint (seq : Handle) (layer : Nat) (pages : List Handle)
  | scanReq (b : ScanReq)
  | scanResult (reqSeq : Word32) (flags : Byte) (lists : List ListResult)
  | scanDecline (reqSeq : Word32)
  | patternCheck (seq : Handle) (block slot : Nat) (select : Word32)
  | patternResult (reqSeq : Word32) (answer : Nat)
  | handleQuery (seq : Handle) (layer block : Nat)
  | handleReply (reqSeq : Word32) (page : Handle) (code : List Byte)
  | forkCreate (f : ForkReq) (groups : List LayerGroup) (tokens : List (List Word32)) (pages : List ForkPage)
      (cut : List (Nat × Copied))
  | forkAccept (reqSeq : Word32) (status : Nat)
  | mirrorWrite (a : AppendReq)
  | stepCreate (r : SeqCreateReq)
  | stepDelete (seq : Handle)
  | stepFork (f : ForkReq)
  | stepTruncate (seq : Handle) (t : Nat)
  | stepTag (seq : Handle) (tag : Word32)
  | stepSeal (page : PageName) (list : Nat) (code : List Byte)
  | stepPersisted (seq : Handle) (layer persisted : Nat)
  | stepTail (seq : Handle) (layer : Nat) (img : Image) (recs : List AppendRec)
  | stepLoss (seq : Handle) (layer first fin : Nat)
  | stepLengths (seq : Handle) (survived : Bool) (lengths : List Nat)
  | stepTransferDone (shard count : Nat)
  | mirrorAck (seq : Handle) (layer status mirrored : Nat)
  | pageCopy (purpose : Nat) (seq : Handle) (layer : Nat) (c : Copied)
  | pageCopyAck (reqSeq : Word32) (page : Handle) (status : Nat)
  | pageRelease (page : Handle) (count : Nat)
  | pageFetch (page seq : Handle) (layer block : Nat)
  deriving DecidableEq, Repr

/-- A message with the header fields that it keeps when it is sent again (R371, R406). -/
structure Sent where
  seq : Nat
  reqId : Word64
  epoch : Nat
  msg : Msg
  deriving DecidableEq, Repr

/-- A copy sent whose PAGE_COPY_ACK is awaited, by the SEQ it was sent with. -/
structure CopySent where
  seq : Nat
  page : Handle
  purpose : Nat
  deriving DecidableEq, Repr

/-- A handshake with a peer (R419 to R422): its HS_ID, whether this node initiated it, the step last sent and its
SEQ, the serial of this node's ephemeral key, the digests H_I and H_R, the confirmation that FINISH carries (R420), and the
peer's certificates. -/
structure Hs where
  hsId : Word32
  initiator : Bool
  seq : Nat
  /-- The EPOCH of the step last sent. -/
  epoch : Nat
  sent : Msg
  draw : Nat
  hI : List Byte
  hR : List Byte
  conf : List Byte
  certs : List Byte
  deriving DecidableEq, Repr

/-- A peer node: its stream state (R374 to R376), session key (R406, R407, R422), heartbeats (R383 to R387) and
expulsion statistics (R457, R458). -/
structure Peer where
  node : NodeId
  incarn : Word32
  txOrd : Nat
  txUnord : Nat
  unacked : List Sent
  rxOrd : Nat
  held : List (Nat × Instr)
  ackOwed : Bool
  /-- Unordered SEQs accepted, with when (R374). -/
  seen : List (Nat × Nat)
  keyed : Bool
  keySerial : Nat
  oldKey : Bool
  holdUntilFirst : Bool
  hs : Option Hs
  hsCount : Nat
  backoff : Bool
  /-- Messages that wait for a key (R407). -/
  waiting : List Sent
  /-- The link that carries the ordered stream (R370). -/
  ordLink : Option Nat
  /-- The certificates that the peer sent in a completed handshake of its incarnation (R419). -/
  certs : Option (List Byte)
  /-- The peer is in the watch set as this node last told it (R383). -/
  watching : Bool
  hbTx : Nat
  hbRx : Nat
  watched : Bool
  suspect : Bool
  fpDiff : Nat
  /-- The HEALTH values of the last second's heartbeats, with when, newest first (R457). -/
  healths : List (Nat × Nat)
  /-- The peer's last heartbeat carried the power-warning flag. -/
  warned : Bool
  /-- When partial requests were sent to the peer, and when one timed out or was declined with REASON 4, in the last
  second, newest first; when this node last asked for its expulsion (R457). -/
  reqSent : List Nat
  reqFailed : List Nat
  expelAt : Option Nat
  tokenSeen : Nat
  copies : List CopySent
  deriving DecidableEq, Repr

/-! ## Fabric links (13 R357 to R370) -/

inductive LinkState where
  | off | training | up | spared | degraded | down | fenced
  deriving DecidableEq, Repr

/-- One direction's lanes: which active lane the spare stands in for, which are lost, whether the spare is
locked. -/
structure Lanes where
  spareFor : Option Nat
  lost : List Nat
  spareLocked : Bool
  deriving DecidableEq, Repr

structure Link where
  state : LinkState
  rx : Lanes
  tx : Lanes
  plane : Nat
  lseqTx : Nat
  lseqRx : Nat
  nakSent : Bool
  replay : List (Nat × LinkFrame)
  /-- Frames that wait to be sent, the deficits of VC1, VC2 and VC4 and the channel served last (R364). -/
  queue : List LinkFrame
  deficits : List Nat
  drr : Nat
  /-- Credits that the partner has granted, and those owed to it, by virtual channel (R363). -/
  credits : List Nat
  owed : List Nat
  ackOwed : Bool
  /-- What the partner's TRAIN frame said while the link trains (R359). -/
  trained : Option TrainInfo
  deriving DecidableEq, Repr

/-- A message whose link frames are gathered (R371, R375): its source, class and SEQ, and the bodies by offset. -/
structure Frag where
  src : NodeId
  ordered : Bool
  seq : Word32
  parts : List (Nat × List Byte)
  deriving DecidableEq, Repr

structure Fabric where
  peers : List Peer
  links : List Link
  reassembly : List Frag
  gateEntry : Nat
  gateAt : Nat
  gateRunning : Bool
  deriving DecidableEq, Repr

/-! ## What the node sends (the model's own list, log 4) -/

inductive Output where
  | reply (qpn : Nat) (offset : Nat) (r : Reply) (imm : Option Nat)
  | padding (qpn : Nat) (offset length : Nat) (epoch : Word32)
  | tailWord (qpn : Nat) (count : Nat)
  | chainWr (qpn : Nat) (chain : Nat) (wr : Wr) (data : List Byte)
  | sessionReply (session : Nat) (r : Reply)
  | i3cReply (r : Reply)
  | rnrNak (qpn : Nat)
  | invalidNak (qpn : Nat)
  | accessNak (qpn : Nat)
  | writeAck (qpn : Nat)
  | readResponse (qpn : Nat) (data : List Byte)
  | atomicResponse (qpn : Nat) (original : Word64)
  | cnp (qpn : Nat)
  | retransmit (qpn : Nat)
  | frame (port : Nat) (qpn len : Nat)
  | xoff (port prio : Nat) | xon (port prio : Nat)
  | tcpReset | sessionOpened (session : Nat) | sessionClosed (session : Nat)
  | sessionHs (session : Nat) (m : Msg)
  | msg (dst : NodeId) (m : Sent)
  | linkTrain (link : Nat) | linkIdle (link : Nat) (ack vc credits : Nat) | linkNak (link : Nat) (lseq : Nat)
  | linkFrame (link : Nat) (f : LinkFrame)
  | spareReq (link lane : Nat) | laneMark (link lane : Nat)
  | flashRead (page : Handle)
  | i3cResponse (bytes : List Byte)
  | ibi
  | pin (name : String) (level : Bool)
  deriving DecidableEq, Repr

/-! ## The node -/

structure State where
  pow : Power
  boot : Boot
  /-- RW, RWL and RW1C bits of the registers whose value is not the reset value, by offset. -/
  regs : List (Nat × Word32)
  log : Log
  tel : Telemetry
  i3c : I3c
  fingerprint : Word64
  ptns : List (Option Ptn)
  ptnGen : List Nat
  host : HostSide
  trust : Trust
  store : Store
  hbm : Hbm
  flash : Flash
  staging : List Line
  eng : Engines
  slots : Slots
  rcl : Recall
  cmds : Cmds
  map : MapState
  fab : Fabric
  /-- What the node has sent, newest first. -/
  out : List Output
  /-- Counter behind free values that a step draws (log 5). -/
  freeCtr : Nat
  /-- Commands that wait, first in, first out. -/
  pending : List Instr
  deriving DecidableEq, Repr

/-! ## The node after a cold power-on, RESET_N still low (logs 12 to 15) -/

/-- Time at zero (R10), RIDE (`PWR_CTL` STATE resets to 0), RESET_N low, PARKED low, no thermal trip, no PLL locked. -/
def Power.reset : Power where
  tsc := 0
  state := .ride
  phase := .held
  resetN := false
  pwrWarn := false
  parked := false
  thermtrip := false
  railsOut := []
  west := ⟨false, false⟩
  east := ⟨false, false⟩
  rootLock := false
  pllsLost := []
  thermalHold := false
  limited := false
  lastCause := 0
  fwRestarts := 0
  incarn := 0
  freewheel := none
  resuming := false
  resetAfter := false
  parkPending := false
  cfgApplied := false
  cfgDefaulted := false
  cfgPending := []
  cfgAwait := none
  hours := 0
  hbmSurvived := false

/-- DESIGN CHOICE (log 14): slot A holds the vendor's image and SEL_A names it; the rest is blank. -/
def Boot.reset : Boot where
  slotA := ⟨true, []⟩
  slotB := ⟨false, []⟩
  selA := some ⟨1, 0⟩
  selB := none
  resA := some ⟨0, 0⟩
  resB := none
  config := []
  active := 0

/-- R333, R346, R348: OFF, gates not running. -/
def Port.reset : Port where
  state := 0
  mode := 0
  autoNeg := true
  tokens := List.replicate 8 0
  deficits := List.replicate 8 0
  tokensAt := 0
  gateEntry := 0
  gateAt := 0
  gateRunning := false
  lastClass := 0
  lastQp := List.replicate 8 0
  paused := []
  xoffs := []

def HostSide.reset : HostSide where
  ctxs := []
  queues := []
  chains := []
  sessions := []
  ports := List.replicate 4 Port.reset
  mportUp := false
  keySerials := []

/-- DESIGN CHOICE (logs 13, 15): serials and measurements at zero, no node ID recorded. -/
def Trust.reset : Trust where
  jtagLock := false
  svnAdvances := 0
  svnMin := 0
  svnRun := 0
  fwDigest := 0
  romDigest := 0
  cfgDigest := 0
  nodeId := none
  idxNext := 0
  idxLimit := 0
  idxOk := false
  idxLost := false
  attReady := false
  attSerial := 0
  attLeft := 0
  attSuccessor := false
  sessionKey := 0
  nextKey := 0
  fw := ⟨0, 0, 0, 0, 0, none⟩

def Store.reset : Store where
  nss := []
  seqs := []
  pages := []
  gens := []
  journal := []
  appendRecs := []
  cmdRecs := []
  grads := []
  remoteRefs := []
  fetches := []
  gradSeen := []

def Stack.reset : Stack where
  state := .off
  openGib := 0
  retired := 0
  rowErrs := []
  sparesUsed := 0
  ueTimes := []
  scrubPasses := 0
  taints := 0
  temp := 0
  running := []
  unitsFenced := []
  drainQueued := false
  rowsDue := []
  eccReports := 0
  scratchMarked := []
  rowsMarked := []

/-- R209, R228: the fixed homes of the journal halves and of the control-area copies. -/
def Hbm.reset : Hbm where
  stk := List.replicate 8 Stack.reset
  journalWest := 0
  journalEast := 7
  controlA := 1
  controlB := 6

def Chan.reset : Chan where
  state := .off
  dies := 0
  tempWarn := false
  tempCrit := false
  temp := 0
  tempMax := 0
  trainedAt := []
  ue := 0
  progFails := 0
  eraseFails := 0
  corrected := 0
  queue := []
  suspended := []

def Health.reset : Health where
  framesNew := 0
  framesTotal := 0
  readsCorrected := 0
  readsRetried := 0
  readsUncorrectable := 0
  programFails := 0
  eraseFails := 0
  framesLost := 0
  retiredBlocks := 0
  patrolPasses := 0
  patrolProgress := 0
  tempEvents := 0
  histNext := 0
  history := []
  hour := none
  writes := 0

def Flash.reset : Flash where
  state := .off
  chans := List.replicate 32 Chan.reset
  dies := []
  blocks := []
  map := []
  dir := []
  leaves := []
  wseq := 0
  unwritten := []
  unretired := []
  deltaTotal := 0
  logged := none
  checkpoint := none
  anchorSeq := 0
  consumed := 0
  setA := .armed
  setB := .armed
  copying := []
  drafting := []
  draftQueue := []
  health := Health.reset
  stalled := []
  chanDrains := []

/-- R15: AE00 to AE63 in use, AE64 to AE67 spare. -/
def Engines.reset : Engines where
  engines := List.replicate 64 ⟨true, false, false, none, none⟩ ++ List.replicate 4 ⟨false, false, true, none, none⟩
  held := []
  coresFenced := []
  pasFenced := []
  pasFaulted := []

/-- R324, R455: no map, role normal, score 1,000. -/
def MapState.reset : MapState where
  map := none
  prev := none
  transfersIn := []
  leaving := []
  doneEarly := []
  refused := []
  role := 0
  keepEpoch := 0
  score := 1000
  ueTimes := []
  leaveRaised := false
  tokensSpent := 0

/-- R358: a link with its lanes unpowered. -/
def Link.reset : Link where
  state := .off
  rx := ⟨none, [], false⟩
  tx := ⟨none, [], false⟩
  plane := 0
  lseqTx := 0
  lseqRx := 0
  nakSent := false
  replay := []
  queue := []
  deficits := [0, 0, 0]
  drr := 0
  credits := []
  owed := [0, 0, 0, 0, 0]
  ackOwed := false
  trained := none

/-- The node after a cold power-on, with RESET_N still low (R463, R464, R483): every register field at its reset
value and nothing stored. -/
def State.reset : State where
  pow := Power.reset
  boot := Boot.reset
  regs := []
  log := ⟨[], 0⟩
  tel := ⟨[], none⟩
  i3c := ⟨0, 0, false, []⟩
  fingerprint := 0
  ptns := List.replicate 32 none
  ptnGen := List.replicate 32 0
  host := HostSide.reset
  trust := Trust.reset
  store := Store.reset
  hbm := Hbm.reset
  flash := Flash.reset
  staging := []
  eng := Engines.reset
  slots := ⟨[], [], 0⟩
  rcl := ⟨[], []⟩
  cmds := ⟨[], 0, [], [], ⟨0, 0, [], []⟩⟩
  map := MapState.reset
  fab := ⟨[], List.replicate 48 Link.reset, [], 0, 0, false⟩
  out := []
  freeCtr := 0
  pending := []

end Sys2Proof.Machine
end

