-- ==== Sys2Proof/Machine/Bits.lean ====
section
/-! DEFINITION. Byte order, fields of byte strings, sparse byte memory and the plain list operations that the
meanings share (00_scope.md R5, R6). -/

namespace Sys2Proof.Machine

/-! ## Fields of byte strings -/

/-- The number that bytes spell, least significant byte first (R5). -/
def leNat : List Byte → Nat
  | [] => 0
  | b :: bs => b.toNat + 256 * leNat bs

/-- `w` bytes of a number, least significant byte first (R5). -/
def leBytes : Nat → Nat → List Byte
  | 0, _ => []
  | w + 1, n => BitVec.ofNat 8 n :: leBytes w (n / 256)

/-- The field of `w` bytes at offset `off`; bytes beyond the end read as absent. -/
def field (l : List Byte) (off w : Nat) : Nat := leNat ((l.drop off).take w)

/-- The bytes from `off`, `n` of them. -/
def slice (l : List Byte) (off n : Nat) : List Byte := (l.drop off).take n

/-- Bits [lo + w − 1:lo] of a number. -/
def bits (n lo w : Nat) : Nat := n / 2 ^ lo % 2 ^ w

/-- `n` with bits [lo + w − 1:lo] replaced by `v`. -/
def setBits (n lo w v : Nat) : Nat := n - bits n lo w * 2 ^ lo + v % 2 ^ w * 2 ^ lo

def bit (n k : Nat) : Bool := n / 2 ^ k % 2 = 1

def b2n (b : Bool) : Nat := if b then 1 else 0

/-- Whether bytes are all zero (reserved fields, R7). -/
def zeros (l : List Byte) : Bool := l.all (· == 0)

def zeroBytes (n : Nat) : List Byte := List.replicate n 0

/-- Zero padding to a multiple of `m` bytes. -/
def padTo (m : Nat) (l : List Byte) : List Byte := l ++ zeroBytes ((m - l.length % m) % m)

def roundUp (m n : Nat) : Nat := (n + m - 1) / m * m

/-- The first `w` bytes of a list, zero beyond its end. -/
def fitBytes (w : Nat) (l : List Byte) : List Byte := (l ++ zeroBytes w).take w

/-- Cuts a list into pieces of `w` elements; the fuel is the list's length. -/
def chunksF {α : Type} (w : Nat) : Nat → List α → List (List α)
  | 0, _ => []
  | _, [] => []
  | f + 1, l => l.take w :: chunksF w f (l.drop w)

def chunks {α : Type} (w : Nat) (l : List α) : List (List α) := chunksF w l.length l

/-- The little-endian words of `w` bytes that a byte string holds. -/
def leWords (w : Nat) (l : List Byte) : List Nat := (chunks w l).map leNat

/-- The bytes of 4-bit codes, two a byte, the lower index in bits [3:0] (R6). -/
def nibbles : List (BitVec 4) → List Byte
  | [] => []
  | [a] => [a.setWidth 8]
  | a :: b :: l => (b ++ a : BitVec 8) :: nibbles l

/-! ## Lists -/

/-- The elements that satisfy `p`, changed by `f`. -/
def updWhere {α : Type} (p : α → Bool) (f : α → α) (l : List α) : List α := l.map fun x => if p x then f x else x

/-- The element at `i` changed by `f`. -/
def updAt {α : Type} (i : Nat) (f : α → α) (l : List α) : List α := l.modify i f

/-- Adds an element unless it is there. -/
def addNew {α : Type} [BEq α] (x : α) (l : List α) : List α := if l.contains x then l else l ++ [x]

def delAll {α : Type} [BEq α] (x : α) (l : List α) : List α := l.filter fun y => !(y == x)

/-- The value that an association list gives a key. -/
def assoc {α β : Type} [BEq α] (k : α) (l : List (α × β)) : Option β := (l.find? fun p => p.1 == k).map (·.2)

def assocSet {α β : Type} [BEq α] (k : α) (v : β) (l : List (α × β)) : List (α × β) :=
  if l.any (fun p => p.1 == k) then updWhere (fun p => p.1 == k) (fun p => (p.1, v)) l else l ++ [(k, v)]

/-- The elements in increasing order of `key`, equal keys in the order given. -/
def insertBy {α : Type} (lt : α → α → Bool) (x : α) : List α → List α
  | [] => [x]
  | y :: l => if lt x y then x :: y :: l else y :: insertBy lt x l

def sortBy {α : Type} (lt : α → α → Bool) (l : List α) : List α := l.foldl (fun acc x => insertBy lt x acc) []

def sumNat (l : List Nat) : Nat := l.foldl (· + ·) 0

def minNat? : List Nat → Option Nat
  | [] => none
  | x :: l => some (l.foldl min x)

def listMax (l : List Nat) : Nat := l.foldl max 0

/-- Numbers `n`, `n + 1`, … of a list's elements. -/
def enumFrom {α : Type} : Nat → List α → List (Nat × α)
  | _, [] => []
  | n, x :: l => (n, x) :: enumFrom (n + 1) l

/-! ## Byte memory in canonical form

An unlisted address reads as zero: a context window is zeroed when it is made (12_host_ports.md R338). -/

/-- The byte at an address. -/
def Mem.read (m : Mem) (a : Nat) : Byte := (assoc a m).getD 0

/-- Puts a byte, keeping addresses rising and listing no zero. -/
def Mem.write (a : Nat) (b : Byte) : Mem → Mem
  | [] => if b = 0 then [] else [(a, b)]
  | (x, c) :: m =>
    if a < x then (if b = 0 then (x, c) :: m else (a, b) :: (x, c) :: m)
    else if a = x then (if b = 0 then m else (a, b) :: m)
    else (x, c) :: Mem.write a b m

/-- Puts bytes from `a` on, in order of address. -/
def Mem.writeList (m : Mem) (a : Nat) : List Byte → Mem
  | [] => m
  | b :: l => Mem.writeList (Mem.write a b m) (a + 1) l

/-- `n` bytes from `a`. -/
def Mem.readList (m : Mem) (a n : Nat) : List Byte := (List.range n).map fun i => Mem.read m (a + i)

/-- Every address of `m` lies above `lo` and addresses rise; no entry is zero. -/
def Mem.above (lo : Option Nat) : Mem → Bool
  | [] => true
  | (a, b) :: m => (match lo with | none => true | some x => decide (x < a)) && !(b == 0) && Mem.above (some a) m

/-- The canonical form. -/
def Mem.wf (m : Mem) : Bool := Mem.above none m

/-! ## The state of the running free counter -/

/-- A fresh number for a free value (log 5), and the counter advanced. -/
def State.drawn (s : State) : State := { s with freeCtr := s.freeCtr + 1 }

def State.emit (o : Output) (s : State) : State := { s with out := o :: s.out }

def State.emitAll (l : List Output) (s : State) : State := { s with out := l.reverse ++ s.out }

/-- A mask from the positions of a block that satisfy `p`. -/
def maskOf (p : Nat → Bool) : BitVec 256 :=
  BitVec.ofNat 256 (sumNat ((List.range 256).map fun i => if p i then 2 ^ i else 0))

end Sys2Proof.Machine
end

