-- ==== Sys2Proof/Machine/Codes.lean ====
section
/-! DEFINITION. Check words and digests: CRC-32C (02_sequences_and_pages.md R35), CRC-64 (08_hbm_and_near_bank.md
R223) and SHAKE256 (PRESUMED from FIPS 202, log 6). -/

namespace Sys2Proof.Machine

/-- One reflected CRC bit step with the reversed polynomial `poly`. -/
def crcBit (poly c : Nat) : Nat := if c % 2 = 1 then (c / 2) ^^^ poly else c / 2

def crcBits (poly : Nat) : Nat → Nat → Nat
  | 0, c => c
  | k + 1, c => crcBits poly k (crcBit poly c)

def crcBytes (poly : Nat) : Nat → List Byte → Nat
  | c, [] => c
  | c, b :: l => crcBytes poly (crcBits poly 8 (c ^^^ b.toNat)) l

/-- CRC-32C: polynomial 0x1EDC_6F41 in the reflected form that the name CRC-32C stands for (DEDUCED, log 17),
initial value 0xFFFF_FFFF, final complement. -/
def crc32c (l : List Byte) : Word32 := BitVec.ofNat 32 (crcBytes 0x82F63B78 0xFFFFFFFF l ^^^ 0xFFFFFFFF)

/-- CRC-64 of R223: polynomial 0x42F0_E1EB_A9EA_3693 reflected, initial value and final XOR all ones. -/
def crc64 (l : List Byte) : Word64 :=
  BitVec.ofNat 64 (crcBytes 0xC96C5795D7870F42 0xFFFFFFFFFFFFFFFF l ^^^ 0xFFFFFFFFFFFFFFFF)

/-! ## Keccak-f[1600] on 25 lanes, lane x + 5y at index x + 5y -/

def m64 : Nat := 2 ^ 64

def rot64 (n k : Nat) : Nat := (n * 2 ^ k) % m64 ^^^ n / 2 ^ (64 - k)

def lane (a : List Nat) (x y : Nat) : Nat := a.getD (x % 5 + 5 * (y % 5)) 0

def kTheta (a : List Nat) : List Nat :=
  let c := (List.range 5).map fun x => lane a x 0 ^^^ lane a x 1 ^^^ lane a x 2 ^^^ lane a x 3 ^^^ lane a x 4
  let d := (List.range 5).map fun x => c.getD ((x + 4) % 5) 0 ^^^ rot64 (c.getD ((x + 1) % 5) 0) 1
  (List.range 25).map fun i => a.getD i 0 ^^^ d.getD (i % 5) 0

/-- Where rho's walk goes: it leaves lane 1 and steps from (x, y) to (y, 2x + 3y), and its step `t` turns the lane it stands on by
the triangular number of `t + 1`. The lanes it visits, each with its turn. -/
def kWalk : Nat → Nat → Nat → Nat → List (Nat × Nat)
  | 0, _, _, _ => []
  | left + 1, t, x, y => (x + 5 * y, (t + 1) * (t + 2) / 2 % 64) :: kWalk left (t + 1) y ((2 * x + 3 * y) % 5)

/-- The turn of each lane; lane 0, which the walk never meets, keeps its bits. -/
def kOffsets : List Nat :=
  let visited := kWalk 24 0 1 0
  (List.range 25).map fun i => (visited.find? fun v => v.1 == i).elim 0 fun v => v.2

/-- Rho and pi: lane (y, 2x + 3y) becomes lane (x, y) rotated. -/
def kRhoPi (a : List Nat) : List Nat :=
  (List.range 25).map fun i =>
    let x := i % 5
    let y := i / 5
    let src := (x + 3 * y) % 5 + 5 * x
    rot64 (a.getD src 0) (kOffsets.getD src 0)

def kChi (a : List Nat) : List Nat :=
  (List.range 25).map fun i =>
    let x := i % 5
    let y := i / 5
    lane a x y ^^^ ((m64 - 1 - lane a (x + 1) y) &&& lane a (x + 2) y)

def kRound (rc : Nat) (a : List Nat) : List Nat := (kChi (kRhoPi (kTheta a))).modify 0 (· ^^^ rc)

/-- The successive contents of iota's feedback register, x^8 + x^6 + x^5 + x^4 + 1, from the given one on. -/
def kRegister : Nat → Nat → List Nat
  | 0, _ => []
  | left + 1, r => r :: kRegister left (if r < 128 then 2 * r else (2 * r - 256) ^^^ 0x71)

/-- Each round takes seven outputs of the register: the one of index j is bit 2^j - 1 of its constant. -/
def kConstants : List Nat :=
  (chunks 7 (kRegister 168 1)).map fun seven =>
    (List.zipWith (fun j r => r % 2 * 2 ^ (2 ^ j - 1)) (List.range 7) seven).sum

def keccakF (a : List Nat) : List Nat := kConstants.foldl (fun a rc => kRound rc a) a

def kAbsorb (a : List Nat) (block : List Byte) : List Nat :=
  keccakF (List.zipWith (fun x y => x ^^^ y) (leWords 8 block ++ List.replicate 8 0) a)

/-- SHAKE256's rate in bytes. -/
def shakeRate : Nat := 136

/-- The message padded to whole blocks with the SHAKE suffix. -/
def shakePad (l : List Byte) : List Byte :=
  let r := shakeRate - l.length % shakeRate
  if r = 1 then l ++ [0x9F] else l ++ [0x1F] ++ zeroBytes (r - 2) ++ [0x80]

def kSqueeze : Nat → List Nat → List Byte
  | 0, _ => []
  | k + 1, a => ((a.take 17).flatMap (leBytes 8)) ++ kSqueeze k (keccakF a)

/-- The first `n` bytes of SHAKE256. -/
def shake256 (n : Nat) (l : List Byte) : List Byte :=
  (kSqueeze ((n + shakeRate - 1) / shakeRate) ((chunks shakeRate (shakePad l)).foldl kAbsorb (List.replicate 25 0))).take n

/-- SHAKE256 with 32 bytes of output. -/
def digest (l : List Byte) : Digest := BitVec.ofNat 256 (leNat (shake256 32 l))

/-- The first 8 bytes of SHAKE256 as a UINT64 (R282, R384, R505). -/
def digest64 (l : List Byte) : Word64 := BitVec.ofNat 64 (leNat (shake256 8 l))

/-- The first 16 bytes of SHAKE256 (R279). -/
def digest128 (l : List Byte) : BitVec 128 := BitVec.ofNat 128 (leNat (shake256 16 l))

/-- The shard of a handle (R35). -/
def shardOf (h : Handle) : Nat := (crc32c (leBytes 8 h.toNat)).toNat % 65536

end Sys2Proof.Machine
end

