-- ==== Sys2Proof/Machine/Num.lean ====
section
/-! DEFINITION. The number formats of 00_scope.md: BF16, FP32 and E4M3, their exact values as rationals, and the
roundings RN, RD and RU. Subnormal numbers are kept (R8). -/

namespace Sys2Proof.Machine

/-- A binary format: fraction bits, least exponent of a normal number, greatest exponent, and whether it has
infinities. -/
structure Fmt where
  frac : Nat
  emin : Int
  emax : Int
  width : Nat
  inf : Bool
  deriving DecidableEq, Repr

def bf16 : Fmt := ⟨7, -126, 127, 16, true⟩
def fp32 : Fmt := ⟨23, -126, 127, 32, true⟩
/-- E4M3: bias 7, greatest finite value 448, no infinities. -/
def e4m3 : Fmt := ⟨3, -6, 8, 8, false⟩

/-- A value of a format: a sign and a magnitude, an infinity, or not a number. -/
inductive Val where
  | fin (neg : Bool) (mag : Rat)
  | inf (neg : Bool)
  | nan
  deriving DecidableEq, Repr

/-- 2 to an integer power. -/
def pow2 (e : Int) : Rat := if 0 ≤ e then mkRat (2 ^ e.toNat) 1 else mkRat 1 (2 ^ (-e).toNat)

def Val.rat : Val → Rat
  | .fin s m => if s then -m else m
  | _ => 0

def Val.finite : Val → Bool
  | .fin _ _ => true
  | _ => false

def Val.isNan : Val → Bool
  | .nan => true
  | _ => false

def Val.isInf : Val → Bool
  | .inf _ => true
  | _ => false

def Val.ofRat (q : Rat) : Val := .fin (decide (q < 0)) |q|

/-- The exponent field's width. -/
def Fmt.ebits (f : Fmt) : Nat := f.width - 1 - f.frac

/-- The value that a bit pattern stands for. -/
def Fmt.decode (f : Fmt) (w : Nat) : Val :=
  let neg := bit w (f.width - 1)
  let e := bits w f.frac f.ebits
  let m := bits w 0 f.frac
  let top := 2 ^ f.ebits - 1
  if f.inf ∧ e = top then (if m = 0 then .inf neg else .nan)
  else if ¬ f.inf ∧ e = top ∧ m = 2 ^ f.frac - 1 then .nan
  else if e = 0 then .fin neg (m * pow2 (f.emin - f.frac))
  else .fin neg ((2 ^ f.frac + m : Nat) * pow2 (f.emin - f.frac + (e - 1 : Nat)))

/-- ⌊log2⌋ of a positive rational. -/
def ratLog2 (q : Rat) : Int :=
  let n := q.num.toNat
  let d := q.den
  let e : Int := Int.ofNat (Nat.log2 n) - Int.ofNat (Nat.log2 d)
  if pow2 e ≤ q then e else e - 1

/-- Rounding directions. -/
inductive Rnd where
  | rn | rd | ru
  deriving DecidableEq, Repr

/-- The nearest integer, ties to even (03_page_encoding.md R83, rne_int). -/
def rneInt (q : Rat) : Int :=
  let f := q.floor
  let r := q - f
  if r < 1 / 2 then f else if 1 / 2 < r then f + 1 else if f % 2 = 0 then f else f + 1

/-- A rational as an integer by a rounding direction. -/
def rndInt (d : Rnd) (q : Rat) : Int :=
  match d with
  | .rn => rneInt q
  | .rd => q.floor
  | .ru => -((-q).floor)

/-- The greatest finite value. -/
def Fmt.maxFinite (f : Fmt) : Rat :=
  if f.inf then (2 ^ (f.frac + 1) - 1 : Nat) * pow2 (f.emax - f.frac) else (2 ^ (f.frac + 1) - 2 : Nat) * pow2 (f.emax - f.frac)

/-- The spacing of the format's values around a magnitude. -/
def Fmt.quantum (f : Fmt) (m : Rat) : Rat := if m = 0 then pow2 (f.emin - f.frac) else pow2 (max f.emin (ratLog2 m) - f.frac)

/-- A rational rounded to a format. A result beyond the greatest finite value is that value or an infinity, as the
direction says; a zero result has the sign of the argument. -/
def Fmt.round (f : Fmt) (d : Rnd) (q : Rat) : Val :=
  let u := f.quantum |q|
  let r : Rat := rndInt d (q / u) * u
  if f.maxFinite < |r| then
    match d with
    | .rn => if f.inf then .inf (decide (q < 0)) else .nan
    | .rd => if q < 0 then .inf true else .fin false f.maxFinite
    | .ru => if q < 0 then .fin true f.maxFinite else .inf false
  else .fin (decide (q < 0)) |r|

/-- The canonical NaN pattern of a format (PRESUMED: quiet, positive; log 21). -/
def Fmt.nanBits (f : Fmt) : Nat :=
  if f.inf then (2 ^ f.ebits - 1) * 2 ^ f.frac + 2 ^ (f.frac - 1) else (2 ^ f.ebits - 1) * 2 ^ f.frac + (2 ^ f.frac - 1)

/-- The bit pattern of a value that the format holds. -/
def Fmt.encode (f : Fmt) (v : Val) : Nat :=
  let sgn := fun (b : Bool) => if b then 2 ^ (f.width - 1) else 0
  match v with
  | .nan => f.nanBits
  | .inf s => sgn s + (2 ^ f.ebits - 1) * 2 ^ f.frac
  | .fin s m =>
    if m = 0 then sgn s
    else
      let e := ratLog2 m
      if e < f.emin then sgn s + (m / pow2 (f.emin - f.frac)).floor.toNat
      else sgn s + ((e - f.emin + 1).toNat) * 2 ^ f.frac + ((m / pow2 (e - f.frac)).floor.toNat - 2 ^ f.frac)

/-! ## FP32 arithmetic on bit patterns, one rounding an operation (IEEE 754-2019) -/

def f32 (w : Word32) : Val := fp32.decode w.toNat
def ofF32 (v : Val) : Word32 := BitVec.ofNat 32 (fp32.encode v)

/-- A rational as FP32. -/
def f32Of (d : Rnd) (q : Rat) : Word32 := ofF32 (fp32.round d q)

def b16 (w : Word16) : Val := bf16.decode w.toNat

/-- A rational as BF16. -/
def b16Of (d : Rnd) (q : Rat) : Word16 := BitVec.ofNat 16 (bf16.encode (bf16.round d q))

def b16Rat (w : Word16) : Rat := (b16 w).rat
def f32Rat (w : Word32) : Rat := (f32 w).rat

/-- A finite result: rounded, its zero with the sign that IEEE 754 gives (`z` for an exact zero). -/
def finish (d : Rnd) (q : Rat) (z : Bool) : Val := if q = 0 then .fin z 0 else fp32.round d q

def vAdd (d : Rnd) (a b : Val) : Val :=
  match a, b with
  | .nan, _ | _, .nan => .nan
  | .inf s, .inf t => if s = t then .inf s else .nan
  | .inf s, _ => .inf s
  | _, .inf s => .inf s
  | .fin s m, .fin t n => finish d ((Val.fin s m).rat + (Val.fin t n).rat) (if m = 0 ∧ n = 0 ∧ s = t then s else d == .rd)

def vNeg : Val → Val
  | .fin s m => .fin (!s) m
  | .inf s => .inf (!s)
  | .nan => .nan

def vMul (d : Rnd) (a b : Val) : Val :=
  match a, b with
  | .nan, _ | _, .nan => .nan
  | .inf s, .inf t => .inf (s != t)
  | .inf s, .fin t n => if n = 0 then .nan else .inf (s != t)
  | .fin s m, .inf t => if m = 0 then .nan else .inf (s != t)
  | .fin s m, .fin t n => finish d ((Val.fin s m).rat * (Val.fin t n).rat) (s != t)

/-- a × b + c with one rounding. -/
def vFma (d : Rnd) (a b c : Val) : Val :=
  match a, b, c with
  | .fin s m, .fin t n, .fin u k =>
    let p := (Val.fin s m).rat * (Val.fin t n).rat
    let pn := s != t
    finish d (p + (Val.fin u k).rat) (if p = 0 ∧ k = 0 ∧ pn = u then u else d == .rd)
  | a, b, c => vAdd d (vMul .rn a b) c

def fAdd (a b : Word32) (d : Rnd := .rn) : Word32 := ofF32 (vAdd d (f32 a) (f32 b))
def fSub (a b : Word32) (d : Rnd := .rn) : Word32 := ofF32 (vAdd d (f32 a) (vNeg (f32 b)))
def fMul (a b : Word32) (d : Rnd := .rn) : Word32 := ofF32 (vMul d (f32 a) (f32 b))
def fFma (a b c : Word32) (d : Rnd := .rn) : Word32 := ofF32 (vFma d (f32 a) (f32 b) (f32 c))

/-- a < b as numbers; a NaN compares with nothing. -/
def vLt (a b : Val) : Bool :=
  match a, b with
  | .nan, _ | _, .nan => false
  | .inf s, .inf t => s && !t
  | .inf s, .fin _ _ => s
  | .fin _ _, .inf t => !t
  | .fin s m, .fin t n => decide ((Val.fin s m).rat < (Val.fin t n).rat)

def vEq (a b : Val) : Bool :=
  match a, b with
  | .nan, _ | _, .nan => false
  | .inf s, .inf t => s == t
  | .fin s m, .fin t n => decide ((Val.fin s m).rat = (Val.fin t n).rat)
  | _, _ => false

def fLt (a b : Word32) : Bool := vLt (f32 a) (f32 b)
def fLe (a b : Word32) : Bool := vLt (f32 a) (f32 b) || vEq (f32 a) (f32 b)
def fMax (a b : Word32) : Word32 := if fLt a b then b else a
def fMin (a b : Word32) : Word32 := if fLt b a then b else a

/-- Negative infinity and zero as FP32. -/
def fNegInf : Word32 := 0xFF800000
def fPosInf : Word32 := 0x7F800000

def b16Finite (w : Word16) : Bool := (b16 w).finite
def f32Finite (w : Word32) : Bool := (f32 w).finite

/-- A BF16 value as FP32: the same bits at the top. -/
def b16To32 (w : Word16) : Word32 := (w ++ (0 : Word16) : BitVec 32)

/-! ## WP64 -/

def WP64.zero : Sys2Proof.WP64 := ⟨0, 0⟩

/-- hi + lo, exactly. -/
def wpRat (w : Sys2Proof.WP64) : Rat := f32Rat w.hi + f32Rat w.lo

/-- The pair nearest to a rational: hi = RN(x), lo = RN(x − hi). -/
def wpOf (q : Rat) : Sys2Proof.WP64 :=
  let hi := f32Of .rn q
  ⟨hi, f32Of .rn (q - f32Rat hi)⟩

def wpBytes (w : Sys2Proof.WP64) : List Byte := leBytes 4 w.hi.toNat ++ leBytes 4 w.lo.toNat

end Sys2Proof.Machine
end

