-- ==== Sys2Proof/Machine/Layout.lean ====
section
/-! DEFINITION. Source planes, groups and page images (03_page_encoding.md R79 to R81, R91 to R107): the geometry of
a layer group, the bytes of an image, its check words and the checks of R106. -/

namespace Sys2Proof

open Machine

/-! ## Source planes and groups -/

/-- The source planes of a page in page order: KIND, HEAD and channels (R79, R93). -/
def LayerGroup.planes (g : LayerGroup) : List (Nat × Nat × Nat) :=
  match g.layout with
  | .joint => (2, 0, g.channels) :: (if g.rotary = 0 then [] else [(3, 0, g.rotary)])
  | _ => ((List.range g.kvHeads).map fun h => (0, h, g.channels)) ++ ((List.range g.kvHeads).map fun h => (1, h, g.channels))

/-- Ctot (R79). -/
def LayerGroup.ctot (g : LayerGroup) : Nat := sumNat (g.planes.map fun p => p.2.2)

/-- Cpre of each source plane (R79). -/
def LayerGroup.cpre (g : LayerGroup) (p : Nat) : Nat := sumNat ((g.planes.take p).map fun x => x.2.2)

/-- G of 04_attention_execution.md. -/
def LayerGroup.gqa (g : LayerGroup) : Nat := match g.layout with | .joint => g.qHeads | _ => g.qHeads / g.kvHeads

/-- Key channels and value channels of a query head (R109). -/
def LayerGroup.ck (g : LayerGroup) : Nat := match g.layout with | .joint => g.ctot | _ => g.channels
def LayerGroup.cv (g : LayerGroup) : Nat := g.channels

/-- The source planes that hold the key channels of a query head, in order, and the plane of its value channels
(R109). -/
def LayerGroup.keyPlanes (g : LayerGroup) (h : Nat) : List Nat :=
  match g.layout with | .joint => List.range g.planes.length | _ => [h / g.gqa]
def LayerGroup.valPlane (g : LayerGroup) (h : Nat) : Nat :=
  match g.layout with | .joint => 0 | _ => g.kvHeads + h / g.gqa

/-- The key planes of a page and their channels in all (R173). -/
def LayerGroup.keyPlaneList (g : LayerGroup) : List Nat :=
  match g.layout with | .joint => List.range g.planes.length | _ => List.range g.kvHeads
def LayerGroup.keyWidth (g : LayerGroup) : Nat :=
  sumNat (g.keyPlaneList.map fun p => (g.planes.getD p (0, 0, 0)).2.2)

/-- A source plane of KIND 1 is grouped per token, every other one per channel (R79). -/
def perToken (kind : Nat) : Bool := kind == 1

/-- The group of token `t`, channel `c` in a plane of `C` channels (R80). -/
def groupOf (kind C t c : Nat) : Nat := if perToken kind then t * (C / 32) + c / 32 else t / 32 * C + c

/-- The tokens and channels of group `j` (R80). -/
def groupCells (kind C j : Nat) : List (Nat × Nat) :=
  if perToken kind then (List.range 32).map fun i => (j / (C / 32), 32 * (j % (C / 32)) + i)
  else (List.range 32).map fun i => (32 * (j / C) + i, j % C)

/-- The tokens that a group holds. -/
def groupTokens (kind C j : Nat) : List Nat :=
  if perToken kind then [j / (C / 32)] else (List.range 32).map fun i => 32 * (j / C) + i

/-- Ranges of R38. -/
def LayerGroup.ok (g : LayerGroup) : Bool :=
  let mult := fun (n lo hi m : Nat) => decide (lo ≤ n ∧ n ≤ hi ∧ n % m = 0)
  decide (1 ≤ g.layers ∧ g.layers ≤ 256) && mult g.channels 32 2048 32 &&
  (match g.layout with
    | .joint => g.kvHeads == 1 && mult g.rotary 0 256 32 && decide (1 ≤ g.qHeads ∧ g.qHeads ≤ 128)
    | _ => decide (1 ≤ g.kvHeads ∧ g.kvHeads ≤ 64) && g.rotary == 0 &&
        decide (1 ≤ g.qHeads ∧ g.qHeads ≤ 128 ∧ g.qHeads % g.kvHeads = 0)) &&
  match g.window with
  | none => true
  | some w => mult w 256 65536 256

def Layout.code : Layout → Nat
  | .split => 0 | .joint => 1 | .exact => 2

/-- The descriptor bytes of R302. -/
def LayerGroup.bytes (g : LayerGroup) : List Byte :=
  leBytes 1 (if g.window.isSome then 3 else g.layout.code) ++ leBytes 1 (if g.window.isSome then g.layout.code else 0) ++
  leBytes 2 g.layers ++ leBytes 1 g.kvHeads ++ leBytes 1 g.qHeads ++ leBytes 2 g.channels ++ leBytes 2 g.rotary ++
  leBytes 2 0 ++ leBytes 4 (g.window.getD 0)

/-- The layout that a code names. -/
def Layout.at? : Nat → Option Layout
  | 0 => some .split | 1 => some .joint | 2 => some .exact | _ => none

/-- A descriptor of 16 bytes, where its fields lie in range (R38, R302). -/
def LayerGroup.parse (b : List Byte) : Option LayerGroup :=
  let lay := field b 0 1
  let inner := field b 1 1
  match Layout.at? (if lay = 3 then inner else lay) with
  | none => none
  | some l =>
    let g : LayerGroup := ⟨l, if lay = 3 then some (field b 12 4) else none, field b 2 2, field b 4 1, field b 5 1,
      field b 6 2, field b 8 2⟩
    if (lay = 3 ∨ (inner = 0 ∧ field b 12 4 = 0)) ∧ field b 10 2 = 0 ∧ g.ok then some g else none

/-! ## Image geometry (R91, R98, R99) -/

def up64 (x : Nat) : Nat := roundUp 64 x
def up4k (x : Nat) : Nat := roundUp 4096 x

/-- The offsets of an image; 0 where a region is absent. -/
structure Offsets where
  scale : Nat
  env : Nat
  segcrc : Nat
  inh : Nat
  base : Nat
  res : Nat
  fin : Nat
  deriving DecidableEq, Repr

/-- The offsets of an image of a layer group. -/
def offsetsOf (g : LayerGroup) (tail hasInh : Bool) : Offsets :=
  let s := g.planes.length
  let c := g.ctot
  if tail then
    let inh := up64 (128 + 16 * s)
    let base := up4k (if hasInh then inh + 32 + 16 * c else 128 + 16 * s)
    ⟨0, 0, 0, if hasInh then inh else 0, base, 0, base + 512 * c⟩
  else match g.layout with
    | .exact =>
      let env := up64 (128 + 16 * s)
      let seg := up64 (env + 4 * c)
      let base := up4k (seg + 32 * s)
      ⟨0, env, seg, 0, base, 0, base + 512 * c⟩
    | _ =>
      let scale := up64 (128 + 16 * s)
      let env := up64 (scale + 12 * c)
      let seg := up64 (env + 4 * c)
      let inh := up64 (seg + 64 * s)
      let base := up4k (if hasInh then inh + 32 + 16 * c else seg + 64 * s)
      ⟨scale, env, seg, if hasInh then inh else 0, base, base + 128 * c, base + 256 * c⟩

/-- Frames of 64 KiB that an image takes (R91). -/
def Offsets.frames (o : Offsets) : Nat := (o.fin + 65535) / 65536

/-- Frames that an image takes. -/
def Image.frames (g : LayerGroup) (i : Image) : Nat := (offsetsOf g i.tail i.inherit.isSome).frames

/-! ## Segments and check words (R96 to R98) -/

/-- The 4-bit codes of segment `g` of a plane, packed by R6 (R96). `codes` is by token, then channel. -/
def codeSegment (kind C g : Nat) (codes : List (List (BitVec 4))) : List Byte :=
  let rows := slice' codes (32 * g) 32
  if perToken kind then rows.flatMap nibbles
  else (List.range C).flatMap fun c => nibbles (rows.map fun r => r.getD c 0)
where
  slice' (l : List (List (BitVec 4))) (off n : Nat) : List (List (BitVec 4)) := (l.drop off).take n

/-- The BF16 rows of segment `g` of a plane that starts at channel `pre` of each row (R98). -/
def rowSegment (pre C g : Nat) (rows : List (List Word16)) : List Byte :=
  (List.range 32).flatMap fun i => (List.range C).flatMap fun c => leBytes 2 (((rows.getD (32 * g + i) []).getD (pre + c) 0).toNat)

/-- A sealed image's segment words in table order (R97, R98). -/
def Image.segWords (g : LayerGroup) (i : Image) : List Word32 :=
  match g.layout with
  | .exact => (enumFrom 0 g.planes).flatMap fun p => (List.range 8).map fun k => crc32c (rowSegment (g.cpre p.1) p.2.2.2 k i.rows)
  | _ => i.planes.flatMap fun p =>
      ((List.range 8).map fun k => crc32c (codeSegment p.kind p.channels k p.base)) ++
      ((List.range 8).map fun k => crc32c (codeSegment p.kind p.channels k p.res))

def Inherit.bytes (h : Inherit) : List Byte :=
  leBytes 32 h.marks.toNat ++ h.bounds.flatMap fun l => l.flatMap fun w => leBytes 2 w.toNat

/-- Pads `l` with zeros to offset `o` of the image. -/
def padOff (o : Nat) (l : List Byte) : List Byte := l ++ zeroBytes (o - l.length)

/-- MAGIC and VERSION of an image (R92). -/
def pageMagic : Word32 := 0x50475031
def pageVersion : Byte := 1

/-- The header of R92 with PAGE_CRC as given. -/
def Image.header (g : LayerGroup) (i : Image) (crc : Nat) : List Byte :=
  let o := offsetsOf g i.tail i.inherit.isSome
  leBytes 4 i.magic.toNat ++ leBytes 1 i.version.toNat ++ leBytes 1 i.layout.code ++
  leBytes 1 (b2n i.tail + 2 * b2n i.ring + 4 * b2n i.summary.isSome + 8 * b2n i.inherit.isSome) ++
  leBytes 1 g.planes.length ++ leBytes 8 i.seq.toNat ++ leBytes 4 i.block ++ leBytes 2 i.layer ++ leBytes 2 0 ++
  leBytes 4 o.fin ++ leBytes 4 crc ++ leBytes 4 o.scale ++ leBytes 4 o.env ++ leBytes 4 o.segcrc ++ leBytes 4 o.inh ++
  leBytes 4 o.base ++ leBytes 4 o.res ++ leBytes 2 i.fill ++ zeroBytes 6 ++ fitBytes 32 (i.summary.getD []) ++ zeroBytes 32

/-- The source plane table (R93). -/
def Image.table (g : LayerGroup) (i : Image) : List Byte :=
  (enumFrom 0 g.planes).flatMap fun p =>
    leBytes 1 p.2.1 ++ leBytes 1 p.2.2.1 ++ leBytes 2 p.2.2.2 ++ leBytes 4 (g.cpre p.1) ++
    leBytes 4 (if i.tail || i.layout == .exact then 0 else ((i.planes[p.1]?).map (·.s2.toNat)).getD 0) ++ zeroBytes 4

/-- Bytes 0 to OFF_BASE − 1 of an image, PAGE_CRC as given (R91, R98, R99). -/
def Image.front (g : LayerGroup) (i : Image) (crc : Nat) : List Byte :=
  let o := offsetsOf g i.tail i.inherit.isSome
  let l := i.header g crc ++ i.table g
  let l := if o.scale = 0 then l else
    padOff o.scale l ++ i.planes.flatMap (·.s1) ++ nibbles (i.planes.flatMap (·.z))
  let l := if o.env = 0 then l else
    padOff o.env l ++ i.planes.flatMap fun p => p.env.flatMap fun e => leBytes 2 e.1.toNat ++ leBytes 2 e.2.toNat
  let l := if o.segcrc = 0 then l else padOff o.segcrc l ++ i.segCrc.flatMap fun w => leBytes 4 w.toNat
  let l := match i.inherit with | none => l | some h => padOff o.inh l ++ h.bytes
  padOff o.base l

/-- The base plane, or the BF16 plane, and the residual plane. -/
def Image.back (g : LayerGroup) (i : Image) : List Byte :=
  if i.tail || g.layout == .exact then
    (enumFrom 0 g.planes).flatMap fun p => (List.range 8).flatMap fun k => rowSegment (g.cpre p.1) p.2.2.2 k i.rows
  else
    (i.planes.flatMap fun p => (List.range 8).flatMap fun k => codeSegment p.kind p.channels k p.base) ++
    (i.planes.flatMap fun p => (List.range 8).flatMap fun k => codeSegment p.kind p.channels k p.res)

/-- The bytes of an image (R91). -/
def Image.bytes (g : LayerGroup) (i : Image) : List Byte := i.front g i.pageCrc.toNat ++ i.back g

/-- PAGE_CRC (R97). -/
def Image.crcOf (g : LayerGroup) (i : Image) : Word32 := crc32c (i.front g 0)

/-- Sets the check words of a sealed image. -/
def Image.checked (g : LayerGroup) (i : Image) : Image :=
  let i := { i with segCrc := i.segWords g }
  { i with pageCrc := i.crcOf g }

/-- The lists of an image have the lengths that its geometry gives. -/
def Image.shaped (g : LayerGroup) (i : Image) : Bool :=
  let n := g.ctot
  i.layout == g.layout && i.ring == g.window.isSome && decide (i.fill ≤ 256) &&
  (match i.inherit with
    | none => true
    | some h => h.bounds.map (·.length) == g.planes.map (fun p => 8 * p.2.2) && g.layout != .exact) &&
  (if i.tail then i.planes.isEmpty && decide (i.rows.length = i.fill) && i.rows.all fun r => decide (r.length = n)
   else
    decide (i.fill = 256) && i.planes.map (fun p => (p.kind, p.head, p.channels)) == g.planes &&
    (match i.summary with | none => true | some c => decide (c.length = 32)) &&
    (i.planes.all fun p => decide (p.env.length = p.channels)) &&
    (if g.layout = .exact then decide (i.rows.length = 256) && i.rows.all fun r => decide (r.length = n)
     else i.rows.isEmpty && i.planes.all fun p =>
      decide (p.s1.length = 8 * p.channels) && decide (p.z.length = 8 * p.channels) &&
      decide (p.base.length = 256) && decide (p.res.length = 256) &&
      (p.base.all fun r => decide (r.length = p.channels)) && p.res.all fun r => decide (r.length = p.channels)))

/-- The checks of R106: MAGIC and VERSION, PAGE_CRC, the segment words, and no E4M3 NaN among the scales. -/
def Image.good (g : LayerGroup) (i : Image) : Bool :=
  i.magic == pageMagic && i.version == pageVersion && i.shaped g && i.segCrc == i.segWords g && i.pageCrc == i.crcOf g &&
  i.planes.all fun p => p.s1.all fun b => b != 0x7F && b != 0xFF

/-- The tokens of the inherited-bound region's bitmap. -/
def Image.marked (i : Image) (t : Nat) : Bool := match i.inherit with | some h => h.marks.getLsbD t | none => false

/-- Marked tokens of a page (R307, R311). -/
def Image.requant (i : Image) : Nat := ((List.range 256).filter i.marked).length

/-- The inherited bound of a group (R101, R102); 0 where there is none. -/
def Image.bound (i : Image) (p j : Nat) : Rat :=
  match i.inherit with
  | some h => b16Rat ((h.bounds.getD p []).getD j 0)
  | none => 0

/-- A tail frame that holds nothing. -/
def emptyTail (g : LayerGroup) (seq : Handle) (layer block : Nat) : Image :=
  ⟨g.layout, true, g.window.isSome, seq, block, layer, [], [], none, [], 0, 0, none, pageMagic, pageVersion⟩

/-- A tail frame with rows added behind those it holds. -/
def Image.addRows (i : Image) (rows : List (List Word16)) : Image :=
  { i with rows := i.rows ++ rows, fill := i.fill + rows.length }

/-! ## Sizes and bytes of packets, partials, link frames and handshakes -/

/-- Positions that an append writes. -/
def AppendReq.count (a : AppendReq) : Nat := a.tokens.length

/-- Layers of a creation. -/
def SeqCreateReq.layers (r : SeqCreateReq) : Nat := sumNat (r.groups.map (·.layers))

/-- Bytes of an `APPEND` or `APPEND_BULK` payload (R308, R309). -/
def AppendReq.size (a : AppendReq) : Nat :=
  up64 ((if a.bulk then 64 else 32) + 4 * a.tokens.length) + 2 * sumNat (a.rows.flatMap fun l => l.map (·.length))

def HsBody.size (b : HsBody) : Nat := 1656 + b.certs.length + b.sig.length

/-- Bytes of a partial set (R136, R137). -/
def PartialSet.size (p : PartialSet) : Nat := 32 + p.heads.length * (32 + (if p.compact then 4 else 8) * p.cv)

/-- The bytes of a frame from its header to its trailer (R361). -/
def LinkFrame.size (f : LinkFrame) : Nat := 32 + f.body.length

/-- Credits that a frame takes (R363). -/
def LinkFrame.cost (f : LinkFrame) : Nat := (f.size + 255) / 256

/-- The header bytes of R361. -/
def LinkFrame.header (f : LinkFrame) : List Byte :=
  leBytes 1 (f.vc + 16 * f.kind) ++ leBytes 1 f.ctl.toNat ++ leBytes 2 f.lseq.toNat ++ leBytes 2 f.ack.toNat ++
  leBytes 2 (f.creditVc * 4096 + f.credits) ++ leBytes 2 f.src.toNat ++ leBytes 2 f.dst.toNat ++ leBytes 2 f.body.length ++
  leBytes 2 0 ++ leBytes 4 f.msgSeq.toNat ++ leBytes 4 f.fragOff.toNat

/-- The check word of the trailer (R361). -/
def LinkFrame.check (f : LinkFrame) : Word32 := crc32c (f.header ++ f.body)

/-- The body up to SIG. -/
def HsBody.front (step : Nat) (b : HsBody) : List Byte :=
  leBytes 1 step ++ leBytes 1 (b2n b.certsPresent) ++ leBytes 2 0 ++ leBytes 4 b.hsId.toNat ++ fitBytes 32 b.nonce ++
  leBytes 4 b.svn.toNat ++ leBytes 4 0 ++ leBytes 32 b.fw.toNat ++ fitBytes 1568 b.kem ++ leBytes 4 b.certs.length ++
  leBytes 4 b.sig.length ++ b.certs

end Sys2Proof
end

