-- ==== Sys2Proof/Machine/Seal.lean ====
section
/-! DEFINITION. What a seal computes (03_page_encoding.md R82 to R87, R100 to R103, R107, R108), the decoding of a
sealed page into a requantised tail, and the summary code (06_memory_recall.md R174). -/

namespace Sys2Proof.Machine

/-! ## Stored values (R88) -/

/-- s2 of a plane as a number. -/
def planeS2 (p : Plane) : Rat := f32Rat p.s2

/-- s1 of group `j`. -/
def planeS1 (p : Plane) (j : Nat) : Rat := (e4m3.decode (p.s1.getD j 0).toNat).rat

/-- The step Δ of group `j` (R83). -/
def planeStep (p : Plane) (j : Nat) : Rat := planeS1 p j * planeS2 p

/-- A residual code as a two's-complement number. -/
def resCode (r : BitVec 4) : Int := r.toInt

def baseCode (p : Plane) (t c : Nat) : Nat := ((p.base.getD t []).getD c 0).toNat
def resCodeAt (p : Plane) (t c : Nat) : Int := resCode ((p.res.getD t []).getD c 0)

/-- The difference q − z of an element (R85). -/
def codeDiff (p : Plane) (t c : Nat) : Int :=
  Int.ofNat (baseCode p t c) - Int.ofNat ((p.z.getD (groupOf p.kind p.channels t c) 0).toNat)

/-- The base value of an element. -/
def baseValue (p : Plane) (t c : Nat) : Rat := planeStep p (groupOf p.kind p.channels t c) * codeDiff p t c

/-- The refined value of an element. -/
def refinedValue (p : Plane) (t c : Nat) : Rat :=
  planeStep p (groupOf p.kind p.channels t c) * (codeDiff p t c + (2 * resCodeAt p t c + 1 : Int) / (32 : Rat))

/-- ulp of R100. -/
def ulp (y : Rat) : Rat := if |y| < pow2 (-126) then pow2 (-133) else pow2 (ratLog2 |y| - 7)

/-- The recorded bound of a requantised element against the value first appended: b + ulp(y)/2 (R89). -/
def requantBound (b y : Rat) : Rat := b + ulp y / 2

/-! ## The encoder (R83) -/

/-- The value at token `t`, channel `c` of the plane that starts at channel `pre` of a row. -/
def rowValue (rows : List (List Word16)) (pre t c : Nat) : Rat := b16Rat ((rows.getD t []).getD (pre + c) 0)

/-- A stored zero is +0 (R82). -/
def b16Pos (d : Rnd) (q : Rat) : Word16 :=
  let w := b16Of d q
  if w = 0x8000 then 0 else w

/-- k of pass 1: the smallest integer with 6272 × 2^k ≥ wmax, 0 for wmax = 0. -/
def scaleExp (wmax : Rat) : Int :=
  if wmax = 0 then 0
  else
    let k := ratLog2 (wmax / 6272)
    if wmax ≤ 6272 * pow2 k then k else k + 1

/-- The first-level scale of a group: the smallest E4M3 value with 14 × s1 × s2 ≥ w, which keeps the step within R90's bounds. -/
def groupScale (w s2 : Rat) : Val := e4m3.round .ru (w / (14 * s2))

/-- The extended range of a group's elements. -/
def groupRange (ys : List Rat) : Rat × Rat := (ys.foldl min 0, ys.foldl max 0)

/-- The codes of an element (pass 2). -/
def encodeElem (step : Rat) (z : Nat) (y : Rat) : BitVec 4 × BitVec 4 :=
  if step = 0 then (0, 0)
  else
    let n := rneInt (y / step)
    let e := y / step - n
    let r := max (-8) (min 7 (16 * e).floor)
    (BitVec.ofInt 4 (Int.ofNat z + n), BitVec.ofInt 4 r)

/-- Encodes one source plane: s2, s1 and z of each group, and the codes (R83 to R86). The smallest scales with R83's inequalities
give the steps and refined errors that R90 bounds. -/
def encodePlane (rows : List (List Word16)) (pre kind head C : Nat) (env : List (Word16 × Word16)) : Plane :=
  let val := rowValue rows pre
  let groups := List.range (8 * C)
  let ranges := groups.map fun j => groupRange ((groupCells kind C j).map fun x => val x.1 x.2)
  let ws := ranges.map fun r => f32Rat (f32Of .ru (r.2 - r.1))
  let s2 := pow2 (scaleExp (ws.foldl max 0))
  let s1 := ws.map fun w => groupScale w s2
  let steps := s1.map fun v => v.rat * s2
  let zs := List.zipWith (fun (r : Rat × Rat) (st : Rat) => if st = 0 then 0 else (rneInt (-r.1 / st)).toNat) ranges steps
  let codes := (List.range 256).map fun t => (List.range C).map fun c =>
    let j := groupOf kind C t c
    encodeElem (steps.getD j 0) (zs.getD j 0) (val t c)
  ⟨kind, head, C, f32Of .rn s2, s1.map fun v => BitVec.ofNat 8 (e4m3.encode v), zs.map fun z => BitVec.ofNat 4 z,
   codes.map fun r => r.map (·.1), codes.map fun r => r.map (·.2), env⟩

/-- The bound β of an element: 0 without the marker (R87). -/
def elemBound (i : Image) (p kind C t c : Nat) (y : Rat) : Rat :=
  if i.marked t then requantBound (i.bound p (groupOf kind C t c)) y else 0

/-- The envelope of a channel (R87). -/
def envelopeOf (i : Image) (p pre kind C c : Nat) : Word16 × Word16 :=
  let cells := (List.range 256).map fun t =>
    let y := rowValue i.rows pre t c
    (y, elemBound i p kind C t c y)
  let lows := cells.map fun x => x.1 - x.2
  let highs := cells.map fun x => x.1 + x.2
  (b16Pos .rd (lows.foldl min (lows.headD 0)), b16Pos .ru (highs.foldl max (highs.headD 0)))

/-- The inherited bounds of the sealed page (R102). -/
def sealBounds (g : LayerGroup) (i : Image) : List (List Word16) :=
  (enumFrom 0 g.planes).map fun x =>
    let p := x.1
    let kind := x.2.1
    let C := x.2.2.2
    (List.range (8 * C)).map fun j =>
      let cells := (groupCells kind C j).filter fun y => i.marked y.1
      b16Of .ru ((cells.map fun y => elemBound i p kind C y.1 y.2 (rowValue i.rows (g.cpre p) y.1 y.2)).foldl max 0)

/-- The image that a seal of a full tail frame writes (R98, R107, R108). -/
def sealImage (g : LayerGroup) (i : Image) (summary : Option (List Byte)) : Image :=
  let planes := (enumFrom 0 g.planes).map fun x =>
    let p := x.1
    let kind := x.2.1
    let C := x.2.2.2
    let env := (List.range C).map fun c => envelopeOf i p (g.cpre p) kind C c
    if g.layout = .exact then ⟨kind, x.2.2.1, C, 0, [], [], [], [], env⟩
    else encodePlane i.rows (g.cpre p) kind x.2.2.1 C env
  let inh := match i.inherit with
    | none => none
    | some h => some ⟨h.marks, sealBounds g i⟩
  Image.checked g ⟨g.layout, false, i.ring, i.seq, i.block, i.layer, planes, if g.layout = .exact then i.rows else [],
    inh, [], 0, 256, summary, pageMagic, pageVersion⟩

/-! ## Cuts (R54, R57, R100, R101, R103) -/

/-- The marks below `t`. -/
def marksBelow (t : Nat) : BitVec 256 := BitVec.ofNat 256 (2 ^ t - 1)

/-- The entries of groups that hold a marked token; 0 elsewhere. -/
def keepMarked (g : LayerGroup) (marks : BitVec 256) (bounds : List (List Word16)) : List (List Word16) :=
  List.zipWith (fun (p : Nat × Nat × Nat) (l : List Word16) =>
    (enumFrom 0 l).map fun x => if (groupTokens p.1 p.2.2 x.1).any marks.getLsbD then x.2 else 0) g.planes bounds

/-- A tail frame cut in place to `t` tokens of its block (R103). -/
def cutTail (g : LayerGroup) (i : Image) (t : Nat) : Image :=
  let inh := match i.inherit with
    | none => none
    | some h =>
      let m := h.marks &&& marksBelow t
      if m = 0 then none else some ⟨m, keepMarked g m h.bounds⟩
  { i with rows := i.rows.take t, fill := min t i.fill, inherit := inh }

/-- The BF16 row of token `t` decoded from a sealed split or joint page (R100). -/
def decodeRow (i : Image) (t : Nat) : List Word16 :=
  i.planes.flatMap fun p => (List.range p.channels).map fun c => b16Pos .rn (refinedValue p t c)

/-- The recorded bound b of every group (R101). -/
def recordedBounds (i : Image) : List (List Word16) :=
  (enumFrom 0 i.planes).map fun x => (List.range (8 * x.2.channels)).map fun j =>
    b16Of .ru (planeStep x.2 j / 32 + i.bound x.1 j)

/-- The tail of `t` tokens that a cut of a page gives the sequence `seq`: exact from a tail frame or an exact page,
requantised otherwise (R54, R100, R101). -/
def cutPage (g : LayerGroup) (i : Image) (seq : Handle) (t : Nat) : Image :=
  if i.tail then { cutTail g i t with seq := seq }
  else if g.layout = .exact then { emptyTail g seq i.layer i.block with rows := i.rows.take t, fill := t }
  else
    let m := marksBelow t
    { emptyTail g seq i.layer i.block with
        rows := (List.range t).map (decodeRow i), fill := t
        inherit := some ⟨m, keepMarked g m (recordedBounds i)⟩ }

/-! ## The summary code (R173, R174) -/

def fZero : Word32 := 0

/-- A rational value as FP32, rounded to nearest. -/
def fOf (q : Rat) : Word32 := f32Of .rn q

/-- The value of key channel `c` at token `t` as the summary encoder reads it. -/
def keyValue (g : LayerGroup) (i : Image) (p t c : Nat) : Word32 :=
  if g.layout = .exact then b16To32 ((i.rows.getD t []).getD (g.cpre p + c) 0)
  else fOf (refinedValue (i.planes.getD p ⟨0, 0, 0, 0, [], [], [], [], []⟩) t c)

/-- The pooled key channels x. -/
def pooled (g : LayerGroup) (i : Image) : List Word32 :=
  g.keyPlaneList.flatMap fun p => (List.range (g.planes.getD p (0, 0, 0)).2.2).map fun c =>
    fMul ((List.range 256).foldl (fun acc t => fAdd acc (keyValue g i p t c)) fZero) (fOf (pow2 (-8)))

/-- dist of R174. -/
def dist (a b : List Word32) : Word32 :=
  (List.zipWith (fun x y => let d := fSub x y; fMul d d) a b).foldl fAdd fZero

/-- The index of the least element, the lowest on ties. -/
def argMin (l : List Word32) : Nat :=
  ((enumFrom 0 l).foldl (fun (best : Option (Nat × Word32)) x =>
    match best with
    | none => some x
    | some b => if fLt x.2 b.2 then some x else best) none).map (·.1) |>.getD 0

/-- u: the projection of x (R174). -/
def project (w : List (List Word16)) (b x : List Word32) : List Word32 :=
  List.zipWith (fun row bi => (List.zipWith (fun wi xi => fMul (b16To32 wi) xi) row x).foldl fAdd bi) w b

def centroid (m : Model) (l : Nat) : List Word32 := (m.coarse.getD l []).map b16To32

/-- The list and the code of a projection (R174). -/
def quantise (m : Model) (u : List Word32) : Nat × List Byte :=
  let l := argMin (m.coarse.map fun c => dist u (c.map b16To32))
  let rho := List.zipWith fSub u (centroid m l)
  (l, (List.range 32).map fun j => BitVec.ofNat 8 (argMin ((m.pq.getD j []).map fun p => dist ((rho.drop (8 * j)).take 8) p)))

/-- The matrix that a model gives a layer: its CIN, W and b; none where the layer is not summarised (R173). -/
def Model.matrix (m : Model) (layer : Nat) : Option (Nat × List (List Word16) × List Word32) :=
  let k := m.layerMap.getD layer 0xFF
  if k = 0xFF then none else m.matrices[k]?

/-- The list and summary code of a sealed image, where its page gets one (R173). -/
def summaryOf (m : Model) (g : LayerGroup) (i : Image) : Option (Nat × List Byte) :=
  match m.matrix i.layer with
  | none => none
  | some (cin, w, b) => if cin ≠ g.keyWidth then none else some (quantise m (project w b (pooled g i)))

end Sys2Proof.Machine
end

