-- ==== Sys2Proof/Config.lean ====
section
/-! DEFINITION. What one implementation fixes and the spec does not: constants without a body, so that no proof can
see a value of them. Each is named in notes/assumptions. -/

namespace Sys2Proof

/-! ## Cryptographic primitives that the spec takes from other standards (log 7)

A session or storage key is named by the serial that the state gives it, a key whose bytes the node handles by the number that they
spell. -/

/-- AES-256-GCM: ciphertext and tag of a plaintext under a key, a nonce and additional data. -/
opaque Config.gcmSeal (key : Nat) (nonce aad plain : List Byte) : List Byte

/-- AES-256-GCM: the plaintext, where the tag verifies. -/
opaque Config.gcmOpen (key : Nat) (nonce aad sealed : List Byte) : Option (List Byte)

/-- Random bytes by draw. -/
opaque Config.random (draw : Nat) : List Byte

/-- ML-KEM-1024: the encapsulation key of an ephemeral key by draw; the ciphertext and the shared secret of an
encapsulation under a key by draw; the shared secret that the ephemeral key of a draw takes from a ciphertext. -/
opaque Config.kemKey (draw : Nat) : List Byte
opaque Config.kemCipher (draw : Nat) (key : List Byte) : List Byte
opaque Config.kemShared (draw : Nat) (key : List Byte) : List Byte
opaque Config.kemOpen (draw : Nat) (cipher : List Byte) : List Byte

/-- The shared secret that this node's binding key takes from a ciphertext (14_partitions_and_trust.md R399), and the node's
identity digest (R429). -/
opaque Config.bindOpen (cipher : List Byte) : List Byte
opaque Config.identity : List Byte

/-- XMSS: this node's attestation signature over bytes; whether a signature verifies under the attestation key of a
certificate chain or under a station's public key. -/
opaque Config.sign (serial : Nat) (bytes : List Byte) : List Byte
opaque Config.sigOk (certs bytes sig : List Byte) : Bool
opaque Config.stationSigOk (key bytes sig : List Byte) : Bool

/-- The node's `CERT_READ` maps by WHICH and attestation serial. Whether a peer's chain verifies up to the vendor CA
key, and the incarnation that its attestation certificate names. -/
opaque Config.certMap (which serial : Nat) : List Byte
opaque Config.certsOk (certs : List Byte) : Bool
opaque Config.certsIncarn (certs : List Byte) : Nat

/-- The ciphertext bytes of a message body at an offset, by destination, type, SEQ and offset. -/
opaque Config.wireBytes (dst type seq off : Nat) : List Byte

/-- The hash that chooses a link (13_chainline_fabric.md R370), over (SRC, DST, class) and over (DST, SEQ). -/
opaque Config.streamHash (src dst : Nat) : Nat
opaque Config.messageHash (dst seq : Nat) : Nat

/-! ## Values that the engines may choose within the manual's bounds (logs 8 to 11) -/

/-- An elementary function at an FP32 argument: 0 to 2 the exponential (up, down, nearest), 5 the nearest tanh, 8 the nearest
logarithm to base 2. How far the directed tanh (3 up, 4 down) and logarithm (6, 7) lie outward, by cell of results. -/
opaque Config.unitPick (kind : Nat) (x : Word32) : Word32
opaque Config.unitStep (kind cell : Nat) : Nat

/-- The order in which a sum of `n` terms is taken, by draw and by the sum's place in the work. -/
opaque Config.sumOrder (draw key n : Nat) : List Nat

/-- A WP64 accumulation of `b` into `a`, and the product of a weight with a stored value, by the operands: hi and lo. -/
opaque Config.wpAddPick (a b : WP64) : Word32 × Word32
opaque Config.wpMulPick (w : Word32) (v : Rat) : Word32 × Word32

/-- A score from a near-bank unit, by page, head and token. -/
opaque Config.nearBankScore (draw : Nat) (page : Handle) (head token : Nat) : Word32

/-! ## Numbers that the node chooses (log 15) -/

/-- The queue pair number and starting packet number that the node picks for a new queue. -/
opaque Config.qpnPick (draw : Nat) : Nat
opaque Config.psnPick (draw : Nat) : Nat

/-- The BASE that the node gives a window, in units of the window's size (R338). -/
opaque Config.windowBase (draw : Nat) : Nat

/-- The wait, in µs, that the node expects where a status carries it (R428, R498), by time and draw. -/
opaque Config.expectedWait (tsc draw : Nat) : Nat

/-- How many command and append records a partition of a given number of contexts can hold (R280, log 19). -/
opaque Config.recordSpace (contexts : Nat) : Nat

/-- The spare rows of an HBM stack, and the page frames that a row of it touches (R217, log 35). -/
opaque Config.spareRows (stack : Nat) : Nat
opaque Config.rowFrames (stack row : Nat) : Nat

/-- Whether the bank of a row still has a spare row when a number of the stack's spares are used, and whether a page has frames in a
row, by draw: the mapping is internal (R215, R217, log 35). -/
opaque Config.bankSpare (stack row used : Nat) : Bool
opaque Config.rowHolds (draw stack row : Nat) (page : Handle) : Bool

/-- How many sequence descriptors a node can hold (R303, log 19). -/
opaque Config.descriptorSpace : Nat

/-! ## Boot (logs 14, 37) -/

/-- The vendor's image as delivered: its digest and SVN; the digests of the boot ROM and of the built-in factory defaults
(R417). Whether a firmware image's SIG verifies under the fused key (R416). -/
opaque Config.factoryDigest : BitVec 256
opaque Config.factorySvn : Word32
opaque Config.romDigest : BitVec 256
opaque Config.defaultsDigest : BitVec 256
opaque Config.fwSigOk (image : List Byte) : Bool

/-- How much of a flush that a reset stopped had been programmed: leading frames, by draw (R244, R481). Whether a frame of a flush,
named by the flush's commit WSEQ, passes its DATA_CRC and TAG_CRC when it is read back (R244). -/
opaque Config.flushPart (draw : Nat) : Nat
opaque Config.flushFrame (wseq frame : Nat) : Bool

/-- The CRC-32C of the ciphertext that a frame write stores, by its write sequence number: the storage cipher is not modelled bit by
bit (R237, log 25). -/
opaque Config.frameCrc (wseq : Nat) : Word32

/-- The MCTP versions that the node reports and its 4-byte vendor identifier (R497, R498). -/
opaque Config.mctpVersions : List Byte
opaque Config.vendorId : List Byte

/-- Frames of 64 KiB that the security state takes in a flush, at most 64 (R243, R398). -/
opaque Config.securityFrames : Nat

/-- Whether a home node sends a holder the one further request of R134, by draw. -/
opaque Config.asksFurther (draw : Nat) : Bool

/-- Whether a reservation record reads back as it was written within 3 writes, by draw; where not, what its sector holds: what it held
(0), no valid record (1), or the record (2) (R411, log 43). -/
opaque Config.reservationHolds (draw : Nat) : Bool
opaque Config.sectorLeft (draw : Nat) : Fin 3

/-! ## Between commands (log 42) -/

/-- What passes between two commands with no row of its own: a measured count, an uncorrectable FEC code word or a discarded
frame at a host port, the receive buffer held for a priority, cycles in which scoring waited for shaping. -/
inductive Passing where
  | measured (group index amount : Nat)
  | shapeWait (ptn amount : Nat)
  | fecWord (port : Fin 4)
  | frameDropped (port : Fin 4)
  | held (port : Fin 4) (prio : Fin 8) (bytes : Nat)
  deriving DecidableEq, Repr

opaque Config.passing (draw : Nat) : List Passing

/-- Whether the original lanes of a link have locked when RESTORE is written by a plain register write (R369), by draw. -/
opaque Config.laneLocks (draw : Nat) : Bool

end Sys2Proof
end

