-- ==== Sys2Proof/Machine/Regs.lean ====
section
/-! DEFINITION. The configuration space: every register of 17_configuration_space.md R502 with its fields, their
access codes, reset values and ranges (R11, R503, R528 and the range rules of each block), and what a read of it
returns. -/

namespace Sys2Proof.Machine

/-- Access codes of 00_scope.md R11. -/
inductive Acc where
  | ro | rw | rw1c | wo | rwl
  deriving DecidableEq, Repr

/-- A register field: bits [lo + w − 1:lo], its reset value, its stated range, and whether the fingerprint takes it
in (R505). -/
structure Fld where
  lo : Nat
  w : Nat
  acc : Acc
  rst : Nat
  mn : Nat
  mx : Nat
  fp : Bool
  deriving DecidableEq, Repr

def Fld.ro (lo w : Nat) (rst : Nat := 0) : Fld := ⟨lo, w, .ro, rst, 0, 2 ^ w - 1, false⟩
def Fld.rw (lo w : Nat) (rst : Nat := 0) (mn : Nat := 0) (mx : Nat := 2 ^ w - 1) : Fld := ⟨lo, w, .rw, rst, mn, mx, true⟩
/-- An RW field that R505 leaves out. -/
def Fld.rwx (lo w : Nat) (rst : Nat := 0) (mn : Nat := 0) (mx : Nat := 2 ^ w - 1) : Fld := ⟨lo, w, .rw, rst, mn, mx, false⟩
def Fld.rwl (lo w : Nat) (rst : Nat := 0) (mn : Nat := 0) (mx : Nat := 2 ^ w - 1) : Fld := ⟨lo, w, .rwl, rst, mn, mx, true⟩
/-- An RWL field that R505 leaves out. -/
def Fld.rwlx (lo w : Nat) (rst : Nat := 0) : Fld := ⟨lo, w, .rwl, rst, 0, 2 ^ w - 1, false⟩
def Fld.w1c (lo w : Nat) : Fld := ⟨lo, w, .rw1c, 0, 0, 2 ^ w - 1, false⟩
def Fld.wo (lo w : Nat) : Fld := ⟨lo, w, .wo, 0, 0, 2 ^ w - 1, false⟩

/-- The registers of R502. -/
inductive Reg where
  | glbId | glbLock | glbSts | glbEvt | glbEvtMask | glbFpLo | glbFpHi | glbTsLo | glbTsHi | glbI3c
  | pwrCtl | pwrSts | pwrCause | pwrRst | pwrDroop | clkSts
  | hptPortCtl (n : Nat) | hptPortSts (n : Nat) | hptPortVlan (n : Nat) | hptPortAddr (n k : Nat)
  | hptPortGctl (n : Nat) | hptPortGent (n k : Nat) | hptShp (n c : Nat) | hptCls (c : Nat)
  | hptCc0 | hptCc1 | hptCc2 | hptRc | hptWheel | hptNdox | hptMportCtl | hptMportAddr (k : Nat)
  | fabNode | fabHb | fabE2e | fabSpare | fabSts | fabVcw | fabExpel | fabHealth | fabGctl | fabDrain
  | fabGent (k : Nat) | fabLinkCtl (n : Nat) | fabLinkSts (n : Nat)
  | memStkCtl (n : Nat) | memStkSts (n : Nat) | memScrub | memNb
  | flsCtl | flsSts | flsPatrol | flsGc | flsMig | flsPromo | flsDraft | flsRecall | flsChCtl (n : Nat)
  | engCtl | engDraft (k : Nat) | engRecov | engRsts
  | ptnCfg (n : Nat) | ptnPriv (n : Nat) | ptnHbm (n : Nat) | ptnFlash (n : Nat) | ptnShare (n : Nat) | ptnCtx (n : Nat)
  | ptnGen (n : Nat) | ptnSts (n : Nat)
  | secCtl | secSts | secFabSvn | secSvnRun | secSvnMin | secSvnCommit | secIdxLo | secIdxHi | secMkey (k w : Nat)
  | telCtl | logHeadLo | logHeadHi | logTailLo | logTailHi | logSts
  deriving DecidableEq, Repr

/-- The 24-bit offset of a register. -/
def Reg.offset : Reg → Nat
  | .glbId => 0x000000 | .glbLock => 0x000004 | .glbSts => 0x000008 | .glbEvt => 0x00000C | .glbEvtMask => 0x000010
  | .glbFpLo => 0x000014 | .glbFpHi => 0x000018 | .glbTsLo => 0x00001C | .glbTsHi => 0x000020 | .glbI3c => 0x000024
  | .pwrCtl => 0x010000 | .pwrSts => 0x010004 | .pwrCause => 0x010008 | .pwrRst => 0x01000C | .pwrDroop => 0x010010
  | .clkSts => 0x010020
  | .hptPortCtl n => 0x020000 + 0x100 * n | .hptPortSts n => 0x020004 + 0x100 * n
  | .hptPortVlan n => 0x020008 + 0x100 * n | .hptPortAddr n k => 0x020010 + 0x100 * n + 4 * k
  | .hptPortGctl n => 0x020020 + 0x100 * n | .hptPortGent n k => 0x020040 + 0x100 * n + 4 * k
  | .hptShp n c => 0x020400 + 0x20 * n + 4 * c | .hptCls c => 0x020500 + 4 * c
  | .hptCc0 => 0x020600 | .hptCc1 => 0x020604 | .hptCc2 => 0x020608 | .hptRc => 0x020700 | .hptWheel => 0x020704
  | .hptNdox => 0x020800 | .hptMportCtl => 0x020900 | .hptMportAddr k => 0x020904 + 4 * k
  | .fabNode => 0x030000 | .fabHb => 0x030004 | .fabE2e => 0x030008 | .fabSpare => 0x03000C | .fabSts => 0x030010
  | .fabVcw => 0x030014 | .fabExpel => 0x030018 | .fabHealth => 0x03001C | .fabGctl => 0x030020 | .fabDrain => 0x030024
  | .fabGent k => 0x030040 + 4 * k | .fabLinkCtl n => 0x030100 + 0x10 * n | .fabLinkSts n => 0x030104 + 0x10 * n
  | .memStkCtl n => 0x040000 + 0x40 * n | .memStkSts n => 0x040004 + 0x40 * n | .memScrub => 0x040200 | .memNb => 0x040204
  | .flsCtl => 0x050000 | .flsSts => 0x050004 | .flsPatrol => 0x050008 | .flsGc => 0x05000C | .flsMig => 0x050010
  | .flsPromo => 0x050014 | .flsDraft => 0x050018 | .flsRecall => 0x05001C | .flsChCtl n => 0x050100 + 4 * n
  | .engCtl => 0x060000 | .engDraft k => 0x060010 + 4 * k | .engRecov => 0x060100 | .engRsts => 0x060104
  | .ptnCfg n => 0x070000 + 0x800 * n | .ptnPriv n => 0x070004 + 0x800 * n | .ptnHbm n => 0x070008 + 0x800 * n
  | .ptnFlash n => 0x07000C + 0x800 * n | .ptnShare n => 0x070010 + 0x800 * n | .ptnCtx n => 0x070014 + 0x800 * n
  | .ptnGen n => 0x070018 + 0x800 * n | .ptnSts n => 0x07001C + 0x800 * n
  | .secCtl => 0x080000 | .secSts => 0x080004 | .secFabSvn => 0x080008 | .secSvnRun => 0x08000C | .secSvnMin => 0x080010
  | .secSvnCommit => 0x080014 | .secIdxLo => 0x080018 | .secIdxHi => 0x08001C | .secMkey k w => 0x080100 + 0x20 * k + 4 * w
  | .telCtl => 0x090000 | .logHeadLo => 0x0A0000 | .logHeadHi => 0x0A0004 | .logTailLo => 0x0A0008
  | .logTailHi => 0x0A000C | .logSts => 0x0A0010

/-- The registers of a host port. -/
def Reg.ofPort (n : Nat) : List Reg :=
  [.hptPortCtl n, .hptPortSts n, .hptPortVlan n, .hptPortAddr n 0, .hptPortAddr n 1, .hptPortAddr n 2, .hptPortAddr n 3,
   .hptPortGctl n] ++ (List.range 16).map fun k => Reg.hptPortGent n k

def Reg.ofPtn (n : Nat) : List Reg :=
  [.ptnCfg n, .ptnPriv n, .ptnHbm n, .ptnFlash n, .ptnShare n, .ptnCtx n, .ptnGen n, .ptnSts n]

/-- Every register by block, in increasing order of offset. -/
def Reg.blocks : List (List Reg) :=
  [[.glbId, .glbLock, .glbSts, .glbEvt, .glbEvtMask, .glbFpLo, .glbFpHi, .glbTsLo, .glbTsHi, .glbI3c,
    .pwrCtl, .pwrSts, .pwrCause, .pwrRst, .pwrDroop, .clkSts],
   (List.range 4).flatMap Reg.ofPort,
   (List.range 4).flatMap fun n => (List.range 8).map fun c => Reg.hptShp n c,
   (List.range 8).map Reg.hptCls,
   [.hptCc0, .hptCc1, .hptCc2, .hptRc, .hptWheel, .hptNdox, .hptMportCtl],
   (List.range 4).map Reg.hptMportAddr,
   [.fabNode, .fabHb, .fabE2e, .fabSpare, .fabSts, .fabVcw, .fabExpel, .fabHealth, .fabGctl, .fabDrain],
   (List.range 16).map Reg.fabGent,
   (List.range 48).flatMap fun n => [Reg.fabLinkCtl n, Reg.fabLinkSts n],
   (List.range 8).flatMap fun n => [Reg.memStkCtl n, Reg.memStkSts n],
   [.memScrub, .memNb],
   [.flsCtl, .flsSts, .flsPatrol, .flsGc, .flsMig, .flsPromo, .flsDraft, .flsRecall],
   (List.range 32).map Reg.flsChCtl,
   [.engCtl], (List.range 4).map Reg.engDraft, [.engRecov, .engRsts],
   (List.range 32).flatMap Reg.ofPtn,
   [.secCtl, .secSts, .secFabSvn, .secSvnRun, .secSvnMin, .secSvnCommit, .secIdxLo, .secIdxHi],
   (List.range 8).flatMap fun k => (List.range 8).map fun w => Reg.secMkey k w,
   [.telCtl, .logHeadLo, .logHeadHi, .logTailLo, .logTailHi, .logSts]]

def Reg.all : List Reg := Reg.blocks.flatten

/-- The register at an offset (R495: an offset that holds no register has none). -/
def Reg.at? (o : Nat) : Option Reg := Reg.all.find? fun r => r.offset == o

/-- The fields of a register. -/
def Reg.fields : Reg → List Fld
  | .glbId => [.ro 0 16 0x4808, .ro 16 8 0xB0]
  | .glbLock => [.rw 0 1]
  | .glbSts => [.ro 0 1, .ro 1 1, .w1c 2 1]
  | .glbEvt => [.ro 0 10]
  | .glbEvtMask => [.rwx 0 10 0x3FF]
  | .glbFpLo | .glbFpHi | .glbTsLo | .glbTsHi => [.ro 0 32]
  | .glbI3c => [.ro 0 7, .ro 8 8]
  | .pwrCtl => [.rwx 0 2 0 0 2, .rw 2 1 1, .ro 4 2, .rw 16 16 50 1]
  | .pwrSts => [.w1c 0 9]
  | .pwrCause => [.ro 0 4, .ro 8 8]
  | .pwrRst => [.wo 0 1, .wo 1 1, .wo 16 16]
  | .pwrDroop => [.rwl 0 6 30 10 60]
  | .clkSts => [.ro 0 6]
  | .hptPortCtl _ => [.rwx 0 1, .rw 1 1 1, .rw 2 3 0 0 5, .rw 8 8, .ro 16 4, .rw 20 1]
  | .hptPortSts _ => [.w1c 0 6]
  | .hptPortVlan _ => [.rw 0 12]
  | .hptPortAddr _ _ => [.rwx 0 32]
  | .hptPortGctl _ => [.rw 0 1, .rw 4 5 1 1 16]
  | .hptPortGent _ _ => [.rw 0 24 0 1, .rw 24 8 0xFF]
  | .hptShp _ _ => [.rw 0 16, .rw 16 14 64 5, .rw 30 1 1]
  | .hptCls c => (if c < 6 then [Fld.rw 0 8 16 1] else [Fld.ro 0 8]) ++ [.rw 8 6 (8 * c), .rw 14 3 c]
  | .hptCc0 => [.rw 0 12 80 10, .rw 12 8 20 1, .rw 20 8 205 1]
  | .hptCc1 => [.rw 0 8 128 1, .rw 8 8 32 1, .rw 16 12 10 1 2000]
  | .hptCc2 => [.rw 0 16 100 1, .rw 16 1 1, .rw 17 1 1]
  | .hptRc => [.rw 0 5 12 8 20, .rw 5 3 7 1, .rw 8 3 7, .rw 11 5 1]
  | .hptWheel => [.rw 0 4 3 2 6]
  | .hptNdox => [.rw 0 16 5000 100 60000, .rw 16 12 1000]
  | .hptMportCtl => [.rwx 0 1, .rwx 1 1, .rw 16 16 4780 1]
  | .hptMportAddr _ => [.rwx 0 32]
  | .fabNode => [.rwlx 0 12, .rwlx 12 1]
  | .fabHb => [.rw 0 8 20 5, .rw 8 4 6 2, .rw 12 10 10 1 1000, .rw 22 4 2 1]
  | .fabE2e => [.rw 0 12 50 10]
  | .fabSpare => [.rw 0 8 4 1, .rw 8 5 12 8 20, .rw 13 1 1]
  | .fabSts => [.w1c 0 4]
  | .fabVcw => [.rw 0 8 4 1, .rw 8 8 4 1, .rw 16 8 1 1]
  | .fabExpel => [.rwx 0 8, .rw 16 10 400 0 1000]
  | .fabHealth => [.ro 0 10 1000, .ro 10 2, .w1c 16 4]
  | .fabGctl => [.rw 0 1, .rw 4 5 1 1 16]
  | .fabDrain => [.rw 0 8 5 1 100, .rw 8 16 1000 100]
  | .fabGent _ => [.rw 0 24 0 1, .rw 24 1 1]
  | .fabLinkCtl _ => [.rwx 0 1, .rwx 1 1, .wo 2 1, .ro 4 4, .ro 8 2, .ro 10 2, .ro 12 6]
  | .fabLinkSts _ => [.w1c 0 5]
  | .memStkCtl n =>
    [.rwx 0 1, .rwx 1 1] ++ (if n = 3 ∨ n = 4 then [Fld.rw 2 1] else []) ++ [.ro 4 4] ++
    (if n = 3 ∨ n = 4 then [Fld.rwl 8 8 24 0 40] else [])
  | .memStkSts _ => [.w1c 0 7]
  | .memScrub => [.rw 0 8 24 1 168, .rw 8 8 8 1, .rw 16 8 24 1 168]
  | .memNb => [.rw 0 8 32 1, .rw 8 8 2]
  | .flsCtl => [.rwx 0 1, .rwx 1 1, .ro 4 4, .rwl 8 5 16 4 16]
  | .flsSts => [.w1c 0 11]
  | .flsPatrol => [.rw 0 10 168 24 720, .rw 16 8 50 10 90]
  | .flsGc => [.rw 0 8 24 8 128, .rw 8 8 48 0 200, .rw 16 16 200 50 2000]
  | .flsMig => [.rw 0 16 60 1, .rw 16 8 10 2 50, .rw 24 8 2 1]
  | .flsPromo => [.rw 0 8 2, .rw 8 16 1000 1]
  | .flsDraft => [.rw 0 16 1024 0 8192]
  | .flsRecall => [.rw 0 8 40 0 200]
  | .flsChCtl _ => [.rwx 0 1, .rwx 1 1, .ro 4 4, .ro 8 5]
  | .engCtl => [.rw 0 14 100 10 10000, .rw 16 8 64]
  | .engDraft _ => (List.range 8).map fun i => Fld.rw (4 * i) 4 4 0 8
  | .engRecov => [.rw 0 8 50 10, .ro 8 4 4, .ro 16 7]
  | .engRsts => [.w1c 0 6]
  | .ptnCfg _ => [.ro 0 1, .ro 1 1, .ro 2 1, .ro 4 2]
  | .ptnPriv _ | .ptnHbm _ | .ptnFlash _ | .ptnGen _ => [.ro 0 32]
  | .ptnShare _ => [.ro 0 16]
  | .ptnCtx _ => [.ro 0 12, .ro 16 13]
  | .ptnSts _ => [.w1c 0 3]
  | .secCtl => [.rwlx 0 1, .rwx 1 1, .rw 8 8 24 1]
  | .secSts => [.ro 0 4, .w1c 8 4]
  | .secFabSvn => [.rwl 0 32]
  | .secSvnRun | .secSvnMin | .secIdxLo => [.ro 0 32]
  | .secIdxHi => [.ro 0 28]
  | .secSvnCommit => [.wo 0 32]
  | .secMkey _ _ => [.rwl 0 32]
  | .telCtl => [.rwx 0 1, .wo 1 1]
  | .logHeadLo | .logHeadHi | .logTailLo | .logTailHi => [.ro 0 32]
  | .logSts => [.w1c 0 1]

/-- A field whose value the register file keeps. -/
def Fld.kept (f : Fld) : Bool := f.acc == .rw || f.acc == .rwl || f.acc == .rw1c

/-- A field that a write sets (R11). -/
def Fld.settable (f : Fld) : Bool := f.acc == .rw || f.acc == .rwl

/-- The mask of the bits of fields that satisfy `p`. -/
def Reg.mask (p : Fld → Bool) (r : Reg) : Nat :=
  sumNat ((r.fields.filter p).map fun f => (2 ^ f.w - 1) * 2 ^ f.lo)

/-- The kept bits of a register after reset. -/
def Reg.rst (r : Reg) : Nat := sumNat ((r.fields.filter Fld.kept).map fun f => f.rst * 2 ^ f.lo)

/-! ## The register file -/

/-- The kept bits of a register. -/
def State.kept (s : State) (r : Reg) : Nat :=
  match assoc r.offset s.regs with
  | some v => v.toNat
  | none => r.rst

/-- Puts a pair into a list kept in rising order of offset. -/
def regPut (o : Nat) (v : Word32) : List (Nat × Word32) → List (Nat × Word32)
  | [] => [(o, v)]
  | (x, u) :: l => if o < x then (o, v) :: (x, u) :: l else if o = x then (o, v) :: l else (x, u) :: regPut o v l

/-- Sets the kept bits of a register; a register at its reset value is not listed. -/
def State.keep (r : Reg) (v : Nat) (s : State) : State :=
  { s with regs := if v = r.rst then s.regs.filter (fun p => !(p.1 == r.offset))
                   else regPut r.offset (BitVec.ofNat 32 v) s.regs }

/-- A field of a register's kept bits. -/
def State.rf (s : State) (r : Reg) (lo w : Nat) : Nat := bits (s.kept r) lo w

/-- Sets a field of a register's kept bits. -/
def State.setRf (r : Reg) (lo w v : Nat) (s : State) : State := s.keep r (setBits (s.kept r) lo w v)

/-- Whether any RW1C bit of a register is set. -/
def State.anySet (s : State) (r : Reg) : Bool := s.kept r &&& r.mask (fun f => f.acc == .rw1c) != 0

/-- The bits of `GLB_EVT`. -/
def State.glbEvt (s : State) : Nat :=
  b2n (s.anySet .glbSts) + 2 * b2n (s.anySet .pwrSts) +
  4 * b2n ((List.range 4).any fun n => s.anySet (.hptPortSts n)) +
  8 * b2n (s.anySet .fabSts || s.anySet .fabHealth || (List.range 48).any fun n => s.anySet (.fabLinkSts n)) +
  16 * b2n ((List.range 8).any fun n => s.anySet (.memStkSts n)) + 32 * b2n (s.anySet .flsSts) +
  64 * b2n (s.anySet .engRsts) + 128 * b2n ((List.range 32).any fun n => s.anySet (.ptnSts n)) +
  256 * b2n (s.anySet .secSts) + 512 * b2n (s.anySet .logSts)

/-- A partition. -/
def State.ptn? (s : State) (n : Nat) : Option Ptn := (s.ptns[n]?).join

/-- Whether a confidential partition exists (R409, `SEC_STS` CONF_PRESENT). -/
def State.confPresent (s : State) : Bool := s.ptns.any fun p => match p with | some p => p.confidential | none => false

def State.link (s : State) (n : Nat) : Link := s.fab.links.getD n Link.reset
def State.stack (s : State) (n : Nat) : Stack := s.hbm.stk.getD n Stack.reset
def State.chan (s : State) (n : Nat) : Chan := s.flash.chans.getD n Chan.reset
def State.port (s : State) (n : Nat) : Port := s.host.ports.getD n Port.reset

/-- The rate of a port mode of R332, in units of 100 Mbit/s. -/
def modeRate (mode : Nat) : Nat := if mode ≤ 1 then 8000 else if mode ≤ 3 then 4000 else 2000

/-- Every engine is gated or fenced (R478). -/
def State.allGated (s : State) : Bool := s.eng.engines.all fun e => e.gated || e.fenced

def PState.code (s : State) : Nat :=
  match s.pow.state with
  | .freewheel => 3
  | .park => 2
  | .ride | .off => b2n (s.allGated && s.pow.phase == .service)

def LinkState.code : LinkState → Nat
  | .off => 0 | .training => 1 | .up => 2 | .spared => 3 | .degraded => 4 | .down => 5 | .fenced => 6

def StackState.code : StackState → Nat
  | .off => 0 | .training => 1 | .service => 2 | .draining => 3 | .fenced => 4 | .selfRefresh => 5

def TierState.code : TierState → Nat
  | .off => 0 | .init => 1 | .service => 2 | .readOnly => 3 | .rebuild => 4

def ChanState.code : ChanState → Nat
  | .off => 0 | .training => 1 | .service => 2 | .draining => 3 | .fenced => 4

/-- The code of a spare lane: 0 none, 1 lane 0, 2 lane 1 (`FAB_LINKn_CTL`). -/
def spareCode (l : Lanes) : Nat := match l.spareFor with | none => 0 | some k => k + 1

/-- Spares that are neither in use nor fenced, and the engines fenced (`ENG_RECOV`). -/
def State.sparesFree (s : State) : Nat := (s.eng.engines.filter fun e => !e.inUse && !e.fenced).length
def State.fencedEngines (s : State) : Nat := (s.eng.engines.filter (·.fenced)).length

/-- The oldest SEQNO held, 0 when the log is empty (DESIGN CHOICE for the empty log, log 13). -/
def State.logTail (s : State) : Nat := match s.log.records with | [] => 0 | r :: _ => r.seqno

/-- Optical engine of a link: engine k serves links 4k to 4k + 3 (13_chainline_fabric.md R357). -/
def opticalOf (link : Nat) : Nat := link / 4

/-- The PLL locks of `CLK_STS`, which hold once the root PLL has locked and for every unit that is enabled (log 18). -/
def State.hostPllLock (s : State) : Bool :=
  s.pow.rootLock && s.pow.pllsLost.all fun p => match p with | .host n => s.rf (.hptPortCtl n) 0 1 == 0 | _ => true
def State.fabPllLock (s : State) : Bool :=
  s.pow.rootLock && s.pow.pllsLost.all fun p => match p with | .fabric n => s.rf (.fabLinkCtl n) 0 1 == 0 | _ => true
def State.optPllLock (s : State) : Bool :=
  s.pow.rootLock && s.pow.pllsLost.all fun p => match p with
    | .optical e => (List.range 48).all fun n => opticalOf n != e.val || s.rf (.fabLinkCtl n) 0 1 == 0
    | _ => true

def ptnStateCode (p : Option Ptn) : Nat :=
  match p with
  | none => 0
  | some p => if p.resetting then 3 else if p.fenced then 2 else 1

/-- The bits of a register's RO fields, in place. -/
def State.roBits (s : State) (r : Reg) : Nat :=
  let p := fun n => s.ptn? n
  match r with
  | .glbId => 0x4808 + 0xB0 * 2 ^ 16
  | .glbSts => b2n s.pow.cfgDefaulted + 2 * b2n s.pow.cfgApplied
  | .glbEvt => s.glbEvt
  | .glbFpLo => bits s.fingerprint.toNat 0 32
  | .glbFpHi => bits s.fingerprint.toNat 32 32
  | .glbTsLo => bits s.pow.tsc.toNat 0 32
  | .glbTsHi => bits s.pow.tsc.toNat 32 32
  | .glbI3c => s.i3c.dynAddr.toNat + 256 * s.i3c.eid.toNat
  | .pwrCtl => PState.code s * 16
  | .pwrCause => s.pow.lastCause + 256 * s.pow.fwRestarts
  | .clkSts => b2n s.pow.rootLock + 2 * b2n s.hostPllLock + 4 * b2n s.fabPllLock + 8 * b2n s.optPllLock +
      16 * b2n s.pow.west.div3 + 32 * b2n s.pow.east.div3
  | .hptPortCtl n => (s.port n).state * 2 ^ 16
  | .fabHealth => s.map.score + s.map.role * 2 ^ 10
  | .fabLinkCtl n =>
    let l := s.link n
    l.state.code * 16 + spareCode l.tx * 2 ^ 8 + spareCode l.rx * 2 ^ 10 + l.plane * 2 ^ 12
  | .memStkCtl n => (s.stack n).state.code * 16
  | .flsCtl => s.flash.state.code * 16
  | .flsChCtl n => (s.chan n).state.code * 16 + (s.chan n).dies * 2 ^ 8
  | .engRecov => s.sparesFree * 2 ^ 8 + s.fencedEngines * 2 ^ 16
  | .ptnCfg n => match p n with
    | none => 0
    | some q => 1 + 2 * q.keyMode + 4 * b2n q.confidential + 16 * ptnStateCode (some q)
  | .ptnPriv n => ((p n).map (·.priv.toNat)).getD 0
  | .ptnHbm n => ((p n).map (·.hbmQuota)).getD 0
  | .ptnFlash n => ((p n).map (·.flashQuota)).getD 0
  | .ptnShare n => ((p n).map (·.enginePm)).getD 0
  | .ptnCtx n => ((p n).map fun q => q.ctxFirst + q.ctxCount * 2 ^ 16).getD 0
  | .ptnGen n => s.ptnGen.getD n 0
  | .secSts => b2n s.trust.attReady + 2 * b2n s.trust.idxOk + 4 * b2n s.trust.jtagLock + 8 * b2n s.confPresent
  | .secSvnRun => s.trust.svnRun.toNat
  | .secSvnMin => s.trust.svnMin.toNat
  | .secIdxLo => bits s.trust.idxLimit 0 32
  | .secIdxHi => bits s.trust.idxLimit 32 28
  | .logHeadLo => bits s.log.head 0 32
  | .logHeadHi => bits s.log.head 32 32
  | .logTailLo => bits s.logTail 0 32
  | .logTailHi => bits s.logTail 32 32
  | _ => 0

/-- What a read of a register returns (R11): kept bits and RO bits; WO and reserved bits read zero. `JTAG_EN` reads
0 while a confidential partition exists (R409). -/
def State.readReg (s : State) (r : Reg) : Word32 :=
  let v := s.kept r + s.roBits r
  BitVec.ofNat 32 (if r = .secCtl ∧ s.confPresent then setBits v 0 1 0 else v)

/-- What a read of an offset returns (R495). -/
def State.readOffset (s : State) (o : Nat) : Word32 :=
  match Reg.at? o with
  | none => 0
  | some r => s.readReg r

/-! ## The fingerprint -/

/-- The bits of a register that the fingerprint takes in (R505). -/
def Reg.fpMask (r : Reg) : Nat := r.mask fun f => f.settable && f.fp

end Sys2Proof.Machine
end

