-- ==== Sys2Proof/Machine/Flags.lean ====
section
/-! DEFINITION. Status bits, error-log records, the I3C interrupt and telemetry counters
(17_configuration_space.md R501, R504, R507 to R512). -/

namespace Sys2Proof.Machine

/-- What a record says beside its number, time and status bit (R511). `ptn` is 0xFF for none. -/
structure Rec where
  cls : Nat
  code : Nat
  sev : Nat
  ptn : Nat
  unit : Nat
  detail : List Byte

/-- A record of CLASS 0 with CODE 0 (R504). -/
def Rec.event (ptn : Nat := 0xFF) (unit : Nat := 0) : Rec := ⟨0, 0, 0, ptn, unit, []⟩

/-- Records that the log holds (R510). -/
def logSize : Nat := 65536

/-- Writes one record, dropping the oldest of a full log (R510). A confidential partition's DETAIL is withheld
(R408, R512). -/
def State.putRec (c : Rec) (reg mask : Nat) (s : State) : State :=
  let conf := ((s.ptn? c.ptn).map (·.confidential)).getD false
  let r : LogRec := ⟨s.log.head + 1, s.pow.tsc, c.cls, c.sev, c.code, c.ptn, conf, c.unit, reg, BitVec.ofNat 32 mask,
    if conf then zeroBytes 32 else fitBytes 32 c.detail⟩
  let kept := if s.log.records.length < logSize then s.log.records else s.log.records.drop 1
  { s with log := ⟨kept ++ [r], s.log.head + 1⟩ }

/-- R501: the interrupt follows a change of (`GLB_EVT` AND `GLB_EVT_MASK`) from zero to non-zero. -/
def State.ibiCheck (s : State) : State :=
  if s.glbEvt &&& s.kept .glbEvtMask = 0 then { s with i3c := { s.i3c with raised := false } }
  else if s.i3c.raised then s
  else { s with i3c := { s.i3c with raised := true }, out := .ibi :: s.out }

/-- Writes a record; on a full log it sets OVERWRITE, whose change from clear to set writes one record of its own
(R504, R510). -/
def State.logRec (c : Rec) (reg mask : Nat) (s : State) : State :=
  let full := logSize ≤ s.log.records.length
  let s := s.putRec c reg mask
  if full ∧ s.rf .logSts 0 1 = 0 then
    ((s.setRf .logSts 0 1 1).putRec Rec.event Reg.logSts.offset 1).ibiCheck
  else s

/-- A record that names no status bit. -/
def State.note (c : Rec) (s : State) : State := s.logRec c 0 0

/-- Sets RW1C bit `k` of a status register and writes its record (R504). -/
def State.raise (r : Reg) (k : Nat) (c : Rec) (s : State) : State :=
  ((s.setRf r k 1 1).logRec c r.offset (2 ^ k)).ibiCheck

/-! ## Telemetry -/

/-- The scope of node counters. -/
def nodeScope : Nat := 0xFF

/-- Adds to a counter, modulo 2^64 (R507). -/
def State.count (g scope i : Nat) (n : Nat := 1) (s : State) : State :=
  let k : TelKey := ⟨g, scope, i⟩
  let v := ((assoc k s.tel.counters).getD 0 + n) % 2 ^ 64
  { s with tel := { s.tel with counters := assocSet k v s.tel.counters } }

/-- Clears the counters of groups 0 to 2 of a partition number (R507). -/
def State.clearPtnCounters (n : Nat) (s : State) : State :=
  { s with tel := { s.tel with counters := s.tel.counters.filter fun p => !(p.1.group ≤ 2 && p.1.scope == n) } }

/-- Clears a context's counters of group 7 (R507). -/
def State.clearCtxCounters (x : Nat) (s : State) : State :=
  { s with tel := { s.tel with counters := s.tel.counters.filter fun p => !(p.1.group == 7 && p.1.index / 4 == x) } }

/-- The counters that a `TEL_READ` sees: the snapshot while FREEZE is set (R507). -/
def State.telView (s : State) : List (TelKey × Nat) :=
  match s.tel.snapshot with
  | some t => t
  | none => s.tel.counters

/-- A counter as it reads: confidential partitions read zero, node-wide values of groups 0 to 2 are sums over the
others (R509), contexts outside the partition's range read 0 (R508). -/
def State.readCounter (s : State) (g ptn i : Nat) : Nat :=
  let at' := fun sc => (assoc (⟨g, sc, i⟩ : TelKey) s.telView).getD 0
  let open' := fun n => match s.ptn? n with | some p => !p.confidential | none => true
  if g ≤ 2 then
    if ptn = nodeScope then sumNat (((List.range 32).filter open').map at') % 2 ^ 64
    else if open' ptn then at' ptn else 0
  else if g = 7 then
    match s.ptn? ptn with
    | some p => if !p.confidential && p.ctxFirst ≤ i / 4 && i / 4 < p.ctxFirst + p.ctxCount then at' nodeScope else 0
    | none => 0
  else at' nodeScope

/-- The size of a counter group (R508). -/
def telGroupSize : Nat → Option Nat
  | 0 => some 25 | 1 => some 15 | 2 => some 9 | 3 => some 64 | 4 => some 256 | 5 => some 80 | 6 => some 768
  | 7 => some 16384 | 8 => some 7 | 9 => some 272 | _ => none

/-! ## Fields that the meanings read -/

def State.fanoutUs (s : State) : Nat := s.rf .engCtl 0 14
def State.nbThr (s : State) : Nat := s.rf .engCtl 16 8
def State.draftDepth (s : State) (ptn : Nat) : Nat := s.rf (.engDraft (ptn / 8)) (4 * (ptn % 8)) 4
def State.locked (s : State) : Bool := s.rf .glbLock 0 1 == 1
def State.writeEnabled (s : State) : Bool := s.rf .flsCtl 1 1 == 1
def State.diesPerCh (s : State) : Nat := s.rf .flsCtl 8 5
def State.nodeValid (s : State) : Bool := s.rf .fabNode 12 1 == 1

/-- The node's ID: NODE_ID while NODE_VALID is set, else the recorded one, else 0 (R390). -/
def State.self (s : State) : NodeId :=
  if s.nodeValid then BitVec.ofNat 12 (s.rf .fabNode 0 12) else s.trust.nodeId.getD 0

end Sys2Proof.Machine
end

