-- ==== Sys2Proof/Machine/Operands.lean ====
section
/-! DEFINITION. What the packet header and the opcode say of a command: opcode, class and privilege
(11_command_reference.md R292, R294), the flags of 10_ndox_protocol.md R264, the opcodes of I3C (R499), and the roles
that a map gives (R323). -/

namespace Sys2Proof

open Machine (bit assoc)

/-- The idempotency classes of R278. -/
inductive Class where
  | read | positional | recorded | repeatable
  deriving DecidableEq, Repr

/-- Opcode, class and the privilege bit of R292 that the opcode needs. -/
def Op.row : Op → Nat × Class × Nat
  | .ctxCreate => (0x01, .recorded, 13) | .ctxDestroy => (0x02, .recorded, 13)
  | .queueCreate => (0x03, .recorded, 0) | .queueDestroy => (0x04, .repeatable, 0)
  | .nsCreate => (0x05, .recorded, 3) | .nsModify => (0x06, .repeatable, 3) | .nsDelete => (0x07, .recorded, 3)
  | .seqCreate => (0x08, .recorded, 2) | .seqDelete => (0x09, .recorded, 2) | .fork => (0x0A, .recorded, 2)
  | .truncate => (0x0B, .recorded, 2) | .seqTag => (0x0C, .repeatable, 2) | .seqDescribe => (0x0D, .read, 0)
  | .append => (0x10, .positional, 0) | .appendBulk => (0x11, .positional, 0) | .pageList => (0x12, .read, 0)
  | .attend => (0x20, .read, 0) | .attendBatch => (0x21, .read, 0) | .gradAttend => (0x22, .recorded, 7)
  | .gradRead => (0x23, .read, 7) | .gradClear => (0x24, .repeatable, 7)
  | .recall => (0x30, .read, 0) | .recallAttend => (0x31, .read, 0)
  | .patInvalidate => (0x32, .repeatable, 4) | .patWrite => (0x33, .repeatable, 4) | .patValidate => (0x34, .repeatable, 4)
  | .patUnload => (0x35, .repeatable, 4) | .patDescribe => (0x36, .read, 4)
  | .progLoad => (0x40, .recorded, 4) | .progUnload => (0x41, .repeatable, 4) | .progDescribe => (0x42, .read, 4)
  | .modelInstall => (0x43, .recorded, 5) | .modelDescribe => (0x44, .read, 5)
  | .windowRekey => (0x50, .recorded, 0) | .windowDescribe => (0x51, .read, 0)
  | .trigPost => (0x52, .recorded, 6) | .trigCancel => (0x53, .repeatable, 6) | .trigDescribe => (0x54, .read, 6)
  | .mapPush => (0x60, .repeatable, 12) | .mapDescribe => (0x61, .read, 0)
  | .ptnCreate => (0x62, .recorded, 13) | .ptnModify => (0x63, .repeatable, 13) | .ptnReset => (0x64, .recorded, 13)
  | .ptnDestroy => (0x65, .recorded, 13) | .ptnDescribe => (0x66, .read, 0)
  | .fwStage => (0x70, .repeatable, 13) | .fwCheck => (0x71, .repeatable, 13) | .fwActivate => (0x72, .recorded, 13)
  | .fwAbort => (0x73, .repeatable, 13) | .fwDescribe => (0x74, .read, 13)
  | .attest => (0x80, .read, 10) | .certRead => (0x81, .read, 10)
  | .keyInstall => (0x82, .recorded, 11) | .keyRevoke => (0x83, .repeatable, 11)
  | .nodeDescribe => (0x90, .read, 0) | .regRead => (0x91, .read, 13) | .regWrite => (0x92, .repeatable, 13)
  | .logRead => (0x93, .read, 13) | .telRead => (0x94, .read, 0) | .healthRead => (0x95, .read, 13)
  | .stackState => (0x96, .read, 13)

def Op.code (o : Op) : Nat := o.row.1
def Op.cls (o : Op) : Class := o.row.2.1

/-- PTN_DESCRIBE and TEL_READ need DATA for the own partition and NODE_ADMIN for any (R294). -/
def Op.ownOrAdmin (o : Op) : Bool := o == .ptnDescribe || o == .telRead

def Packet.sealedF (p : Packet) : Bool := bit p.flags.toNat 0
def Packet.byref (p : Packet) : Bool := bit p.flags.toNat 1

def MapBody.roles (m : MapBody) (shard : Nat) : NodeId × NodeId := (assoc shard m.shards).getD m.dflt

/-- The context and queue of a packet that came on a command queue. -/
def Packet.ctxOf (p : Packet) : Option (Nat × Nat) := match p.src with | .host c q => some (c, q) | _ => none

/-- The opcodes and the packet form that I3C accepts (R499). -/
def Op.onI3c (o : Op) : Bool :=
  o == .nodeDescribe || o == .regRead || o == .regWrite || o == .logRead || o == .telRead || o == .healthRead ||
  o == .stackState || o == .attest || o == .certRead || o == .fwDescribe

/-- Opcodes that R292 exempts from SEAL_REQUIRED. -/
def Op.sealExempt (o : Op) : Bool := o == .attest || o == .certRead || o == .keyInstall

/-- Step 4. NODE_DESCRIBE over I3C and opcodes on a session are judged against their grants. The opcodes of R294 that
need DATA for the own partition and NODE_ADMIN for any pass with either here and are judged at step 7. -/
def Op.granted (o : Op) (src : Src) (priv : Nat) : Bool :=
  match src with
  | .i3c => o.onI3c
  | _ => bit priv o.row.2.2 || (o.ownOrAdmin && bit priv 13)

/-- A command of these classes needs record space (R280). -/
def Op.needsRecord (o : Op) : Bool := o.cls == .positional || o.cls == .recorded

end Sys2Proof
end

