-- ==== Sys2Proof/Machine/Ops.lean ====
section
/-! DEFINITION. The operations that every Ndox command shares: statuses and opcodes, roles under the composition map,
replies, records, and the admission of 10_ndox_protocol.md R274. -/

namespace Sys2Proof.Machine

/-! ## Statuses (R284), opcodes and classes (R294) -/

inductive Status where
  | ok | okShort | okDuplicate | toleranceUnmet | budgetExhausted | notYet | busyRetry | staleEpoch | moved | conflict
  | noSpace | mediaExhausted | lostRecompute | denied | badParam | unknownSeq | keyRevoked | partitionFenced
  | nearBankTaint | internal
  deriving DecidableEq, Repr

def Status.code : Status → Nat
  | .ok => 0x00 | .okShort => 0x01 | .okDuplicate => 0x02 | .toleranceUnmet => 0x03 | .budgetExhausted => 0x04
  | .notYet => 0x10 | .busyRetry => 0x11 | .staleEpoch => 0x12 | .moved => 0x13
  | .conflict => 0x20 | .noSpace => 0x21 | .mediaExhausted => 0x22 | .lostRecompute => 0x23
  | .denied => 0x30 | .badParam => 0x31 | .unknownSeq => 0x32 | .keyRevoked => 0x33 | .partitionFenced => 0x34
  | .nearBankTaint => 0x35 | .internal => 0xFF

def Status.all : List Status :=
  [.ok, .okShort, .okDuplicate, .toleranceUnmet, .budgetExhausted, .notYet, .busyRetry, .staleEpoch, .moved, .conflict,
   .noSpace, .mediaExhausted, .lostRecompute, .denied, .badParam, .unknownSeq, .keyRevoked, .partitionFenced,
   .nearBankTaint, .internal]

/-- The status of a code. -/
def Status.ofCode (n : Nat) : Status := (Status.all.find? fun s => s.code == n).getD .internal

/-- The place of a status in the table of R284, which telemetry counts by (R508). -/
def Status.row : Status → Nat
  | .ok => 0 | .okShort => 1 | .okDuplicate => 2 | .toleranceUnmet => 3 | .budgetExhausted => 4 | .notYet => 5
  | .busyRetry => 6 | .staleEpoch => 7 | .moved => 8 | .conflict => 9 | .noSpace => 10 | .mediaExhausted => 11
  | .lostRecompute => 12 | .denied => 13 | .badParam => 14 | .unknownSeq => 15 | .keyRevoked => 16
  | .partitionFenced => 17 | .nearBankTaint => 18 | .internal => 19

/-- Statuses that carry a reply payload (R284). -/
def Status.carries : Status → Bool
  | .ok | .okDuplicate | .okShort | .toleranceUnmet | .budgetExhausted | .lostRecompute | .notYet => true
  | _ => false

/-- Bits of PRIV (R292). -/
def privData : Nat := 0
def privReplica : Nat := 1
def privSealRequired : Nat := 9
def privNodeAdmin : Nat := 13

/-! ## Commands under way -/

/-- The duplicate scope of the management sessions, and the partition of commands that belong to none. -/
def noPtn : Nat := 0xFF

/-- A command past step 3: its packet with the payload bytes as read, the plaintext payload, the partition. -/
structure Cmd where
  op : Op
  pkt : Packet
  data : List Byte
  ptn : Nat
  deriving DecidableEq, Repr

def Inflight.cmd (i : Inflight) : Cmd := ⟨i.op, i.pkt, i.payload, i.ptn⟩

/-- How a handler ends: refused by a status with no effect, finished, or held with what it waits for. -/
inductive Res where
  | refuse (st : Status) (hint : Option NodeId) (retryUs : Nat)
  | done (st : Status) (payload : List Byte) (s : State)
  | wait (w : Wait) (pins : List Handle) (s : State)
  /-- Held already, in the state given. -/
  | held (s : State)

def Res.no (st : Status) : Res := .refuse st none 0
def Res.ok (payload : List Byte) (s : State) : Res := .done .ok payload s

/-- What step 5 of R274 looks at in a command (R277, R295). -/
inductive Named where
  | nothing
  | seqWrite (h : Handle)
  | seqRead (h : Handle)
  | recallNs (n : Nat)
  deriving DecidableEq, Repr

/-- One opcode's own part of its admission and its effect. -/
structure OpDef where
  named : List Byte → Named
  /-- Step 6 for a positional command (R282, R279). -/
  six : Cmd → State → Option Res
  /-- Step 7: parameters and names. -/
  seven : Cmd → State → Option Status
  /-- Step 8: the largest reply payload (R273). -/
  maxReply : Cmd → State → Nat
  /-- Step 9 and the effect. -/
  run : Cmd → State → Res
  /-- How a duplicate of a recorded command ends (R291, R149). -/
  dup : Cmd → State → Res

/-! ## Roles under the map (R446) -/

def State.epoch (s : State) : Nat := match s.map.map with | some m => m.epoch.toNat | none => 0

def State.rolesOf (s : State) (h : Handle) : Option (NodeId × NodeId) := s.map.map.map fun m => m.roles (shardOf h)

def State.homeOf (s : State) (h : Handle) : Option NodeId := (s.rolesOf h).map (·.1)
def State.tandemOf (s : State) (h : Handle) : Option NodeId := (s.rolesOf h).map (·.2)
/-- The STATE that a map gives a node (R323). -/
def MapBody.stateOf (m : Sys2Proof.MapBody) (n : NodeId) : Option Nat := (m.nodes.find? fun x => x.1 == n).map (·.2.2)

/-- The map lets the node hold roles: a node listed with STATE 1 or 2 holds none (R458, R459). -/
def State.mayHold (s : State) : Bool :=
  match s.map.map with | some m => (MapBody.stateOf m s.self).getD 0 == 0 | none => true

def State.isHome (s : State) (h : Handle) : Bool := s.homeOf h == some s.self && s.mayHold
def State.isTandem (s : State) (h : Handle) : Bool := s.tandemOf h == some s.self && s.mayHold

/-- The role that the node held under the map before, while its drain window runs (R450). -/
def State.wasHome (s : State) (h : Handle) : Bool :=
  match s.map.prev with | some m => (m.roles (shardOf h)).1 == s.self | none => false
def State.wasTandem (s : State) (h : Handle) : Bool :=
  match s.map.prev with | some m => (m.roles (shardOf h)).2 == s.self | none => false
def State.prevEpoch (s : State) : Option Nat := s.map.prev.map (·.epoch.toNat)

def nsOf (h : Handle) : Nat := h.toNat / 2 ^ 48

def State.seq? (s : State) (h : Handle) : Option Seq := s.store.seqs.find? fun q => q.handle == h
def State.ns? (s : State) (n : Nat) : Option Ns := s.store.nss.find? fun x => x.num == n

def State.setSeq (q : Seq) (s : State) : State :=
  { s with store := { s.store with seqs := updWhere (fun x => x.handle == q.handle) (fun _ => q) s.store.seqs } }

/-- The partition that owns a sequence: its namespace's owner (R392). -/
def State.seqPtn (s : State) (h : Handle) : Nat := ((s.ns? (nsOf h)).map (·.ptn)).getD noPtn

/-! ## Contexts and queues -/

def State.ctx? (s : State) (n : Nat) : Option Ctx := s.host.ctxs.find? fun c => c.num == n
def State.queue? (s : State) (qpn : Nat) : Option Queue := s.host.queues.find? fun q => q.qpn == qpn
/-- The queue of a context by its number. -/
def State.ctxQueue? (s : State) (ctx num : Nat) : Option Queue := s.host.queues.find? fun q => q.ctx == ctx && q.num == num
def State.session? (s : State) (n : Nat) : Option Session := s.host.sessions.find? fun x => x.num == n

def State.updCtx (n : Nat) (f : Ctx → Ctx) (s : State) : State :=
  { s with host := { s.host with ctxs := updWhere (fun c => c.num == n) f s.host.ctxs } }
def State.updQueue (qpn : Nat) (f : Queue → Queue) (s : State) : State :=
  { s with host := { s.host with queues := updWhere (fun q => q.qpn == qpn) f s.host.queues } }
def State.updSession (n : Nat) (f : Session → Session) (s : State) : State :=
  { s with host := { s.host with sessions := updWhere (fun x => x.num == n) f s.host.sessions } }
def State.updPort (n : Nat) (f : Port → Port) (s : State) : State :=
  { s with host := { s.host with ports := updAt n f s.host.ports } }
def State.updChain (ptn num : Nat) (f : Chain → Chain) (s : State) : State :=
  { s with host := { s.host with chains := updWhere (fun c => c.ptn == ptn && c.num == num) f s.host.chains } }
def State.dropChain (ptn num : Nat) (s : State) : State :=
  { s with host := { s.host with chains := s.host.chains.filter fun c => !(c.ptn == ptn && c.num == num) } }
def State.updPtn (n : Nat) (f : Ptn → Ptn) (s : State) : State :=
  { s with ptns := updAt n (fun p => p.map f) s.ptns }

def winSize (c : Ctx) : Nat := 2 ^ c.winLog2

/-- The port's counter base in group 5 (R508). -/
def hostTel (port k : Nat) : Nat := 16 * port + k

/-! ## Egress: what the node has for the wire -/

/-- The GID of a port, most significant byte first (R335). -/
def State.portGid (s : State) (n : Nat) : BitVec 128 :=
  BitVec.ofNat 128 (s.kept (.hptPortAddr n 0) * 2 ^ 96 + s.kept (.hptPortAddr n 1) * 2 ^ 64 +
    s.kept (.hptPortAddr n 2) * 2 ^ 32 + s.kept (.hptPortAddr n 3))

/-- Whether a GID is an IPv4-mapped address (R335). -/
def gidIsV4 (g : BitVec 128) : Bool := g.toNat / 2 ^ 32 == 0xFFFF

/-- Bytes of a packet's headers and checks from destination address to FCS: 82 B over IPv6 without a tag (R344), 20 B
fewer over IPv4, 4 B more with a VLAN tag. -/
def State.frameOverhead (s : State) (port : Nat) : Nat :=
  (if gidIsV4 (s.portGid port) then 62 else 82) + 4 * s.rf (.hptPortCtl port) 20 1

/-- The frame lengths of a message of `n` bytes: full packets of the path MTU, 16 B more in the first (RETH) and 4 B
more in the last with immediate data (R344). -/
def State.framesOf (s : State) (q : Queue) (n : Nat) (imm : Bool) : List Nat :=
  let mtu := 2 ^ q.mtuLog2
  let k := (n + mtu - 1) / mtu
  let k := if k = 0 then 1 else k
  let last := n - (k - 1) * mtu
  (List.range k).map fun i =>
    s.frameOverhead q.port + (if i = 0 then 16 else 0) + (if i + 1 = k then last + (if imm then 4 else 0) else mtu)

/-- Puts a message's frames behind those of the queue (R345: frames of one queue pair stay in their order). -/
def State.post (qpn : Nat) (kind : PostKind) (n : Nat) (imm : Bool) (s : State) : State :=
  match s.queue? qpn with
  | none => s
  | some q =>
    let fr := s.framesOf q n imm
    s.updQueue qpn fun x => { x with posted := x.posted ++ [⟨fr, kind⟩], egress := x.egress ++ fr }

/-! ## Reply records (R267, R270) -/

def Reply.flags (r : Reply) : Nat := b2n r.isSealed

/-- The 32-byte header with CHECK as given. -/
def Reply.header (r : Reply) (check : Nat) : List Byte :=
  let len := roundUp 64 (32 + r.payload.length)
  leBytes 4 len ++ leBytes 1 r.op.code ++ leBytes 1 r.flags ++ leBytes 2 r.status ++ leBytes 8 r.reqId.toNat ++
  leBytes 4 r.epoch.toNat ++ leBytes 2 (match r.hint with | some n => n.toNat | none => 0xFFFF) ++
  leBytes 2 r.retryUs ++ leBytes 4 r.payload.length ++ leBytes 4 check

/-- The bytes of a reply record, CHECK included. -/
def Reply.bytes (r : Reply) : List Byte :=
  let raw := padTo 64 (r.header 0 ++ r.payload)
  padTo 64 (r.header (crc32c raw).toNat ++ r.payload)

/-- Bytes that a record takes in the ring. -/
def Reply.size (r : Reply) : Nat := roundUp 64 (32 + r.payload.length)

/-- The bytes of a padding record of `n` bytes (R270). -/
def paddingBytes (epoch : Word32) (n : Nat) : List Byte :=
  let header := fun (check : Nat) =>
    leBytes 4 n ++ zeroBytes 12 ++ leBytes 4 epoch.toNat ++ leBytes 2 0xFFFF ++ zeroBytes 6 ++ leBytes 4 check
  fitBytes n (header (crc32c (fitBytes n (header 0))).toNat)

/-! ## The reply ring (R270 to R272) -/

def Queue.ringUnits (q : Queue) : Nat := 2 ^ q.ringLog2 / 64

/-- Free units: ring size / 64 − (written − consumed), counts modulo 2^32 (R272). -/
def Queue.free (q : Queue) : Nat := q.ringUnits - (q.written + 2 ^ 32 - q.consumed % 2 ^ 32) % 2 ^ 32

/-- The padding that a record of `n` bytes needs before it, in bytes (R270). -/
def Queue.padding (q : Queue) (n : Nat) : Nat :=
  let left := (q.ringUnits - q.written % q.ringUnits) * 64
  if left < n then left else 0

/-- A record has room. -/
def Queue.fits (q : Queue) (n : Nat) : Bool := decide ((q.padding n + n) / 64 ≤ q.free)

/-- A posted chain still waits for its tail word, so no other record may be posted (R343). -/
def Queue.chainWaits (q : Queue) : Bool :=
  q.posted.any fun p => match p.kind with | .record _ (some _) => true | _ => false

/-- The armed chain that a record on the queue fires (R342). -/
def State.firing? (s : State) (qpn : Nat) (reqId : Word64) : Option Chain :=
  s.host.chains.find? fun c => c.queue == qpn && c.reqMatch == reqId && c.state == .armed

/-- The bytes that a work request writes, clipped at the end of its source; none where it is skipped (R343). -/
def Wr.data (w : Wr) (r : Reply) : Option (List Byte) :=
  let src := if w.src = 0 then r.bytes else r.payload
  if w.kind = 3 then some []
  else if src.length ≤ w.srcOff then none
  else some ((src.drop w.srcOff).take (if w.length = 0 then src.length - w.srcOff else w.length))

/-- Posts a chain's work requests in order (R343) and counts the firing. A chain all of whose requests are skipped has
fired at once (DEDUCED, log 30). -/
def State.postChain (q : Queue) (c : Chain) (r : Reply) (s : State) : State :=
  let go := fun (s : State) (w : Wr) =>
    match w.data r with
    | none => s
    | some d =>
      (s.post q.qpn (.chainWr c.num) (if w.kind = 3 then 28 else d.length) (w.kind == 2)).emit (.chainWr q.qpn c.num w d)
  let st : ChainState := if c.wrs.all fun w => (w.data r).isNone then .fired else .firing
  (c.wrs.foldl go (s.updChain c.ptn c.num fun x => { x with state := st, reply := none })).count 5 nodeScope (hostTel q.port 13)

/-- Writes one record that fits into the ring, with the padding record that it needs, and fires its chain: in IMM
mode at once, in POLL mode once the record is acknowledged (R270, R271, R343). -/
def State.putRecord (qpn : Nat) (r : Reply) (s : State) : State :=
  match s.queue? qpn with
  | none => s
  | some q =>
    let n := r.size
    let pad := q.padding n
    let size := 2 ^ q.ringLog2
    let w0 := q.written
    let s := if pad = 0 then s else
      (s.post qpn (.record (if q.poll then some (w0 + pad / 64) else none) none) pad (!q.poll)).emit
        (.padding qpn (w0 * 64 % size) pad (BitVec.ofNat 32 s.epoch))
    let w1 := w0 + (pad + n) / 64
    let chain := s.firing? qpn r.reqId
    let off := (w0 * 64 + pad) % size
    let s := s.updQueue qpn fun x => { x with written := w1 }
    let s := (s.post qpn (.record (if q.poll then some w1 else none) (if q.poll then chain.map (·.num) else none)) n
        (!q.poll)).emit (.reply qpn off r (if q.poll then none else some (w1 % 2 ^ 32)))
    match chain with
    | none => s
    | some c =>
      if q.poll then s.updChain c.ptn c.num fun x => { x with state := .firing, reply := some r }
      else s.postChain q c r

/-- The number by which commands in flight know a queue of theirs that was destroyed; no queue has it. -/
def goneQueue (qpn port : Nat) : Nat := 65536 + 4 * qpn + port

/-- The chain of a discarded reply does not fire: it goes, and is counted (R344). -/
def State.chainLost (qpn port : Nat) (reqId : Word64) (s : State) : State :=
  match s.firing? qpn reqId with
  | none => s
  | some c => (s.dropChain c.ptn c.num).count 5 nodeScope (hostTel port 14)

/-- A reply to a queue: discarded with its chain where the queue is gone or in error (R287, R344), delayed where it
does not fit (R272), else written. -/
def State.replyQueue (ctx num : Nat) (r : Reply) (s : State) : State :=
  match s.ctxQueue? ctx num with
  | none => if 65536 ≤ num then s.chainLost ((num - 65536) / 4) (num % 4) r.reqId else s
  | some q =>
    if q.err then s.chainLost q.qpn q.port r.reqId
    else if q.waiting = [] ∧ q.fits r.size ∧ ¬ q.chainWaits then s.putRecord q.qpn r
    else (s.updQueue q.qpn fun x => { x with waiting := x.waiting ++ [r] }).count 7 nodeScope (4 * q.ctx + 3)

/-- Writes the replies that waited, as far as they fit (R272). -/
def State.flushReplies (qpn : Nat) : Nat → State → State
  | 0, s => s
  | k + 1, s =>
    match s.queue? qpn with
    | none => s
    | some q =>
      match q.waiting with
      | [] => s
      | r :: rest =>
        if q.fits r.size ∧ ¬ q.chainWaits ∧ ¬ q.err then
          State.flushReplies qpn k ((s.updQueue qpn fun x => { x with waiting := rest }).putRecord qpn r)
        else s

def State.flush (qpn : Nat) (s : State) : State :=
  match s.queue? qpn with
  | none => s
  | some q => s.flushReplies qpn q.waiting.length

/-- A newer consumed count: replies that waited are written as far as they fit (R272). -/
def State.ringSpace (qpn : Nat) (consumed : Nat) (s : State) : State :=
  (s.updQueue qpn fun q => { q with consumed := consumed }).flush qpn

/-- Sends a reply by the way its command came (R271, R354, R498). -/
def State.sendReply (src : Src) (r : Reply) (s : State) : State :=
  match src with
  | .host c q => s.replyQueue c q r
  | .mgmt n =>
    match s.session? n with
    | none => s
    | some x =>
      let s := s.updSession n fun x => { x with outstanding := x.outstanding - 1, txCount := x.txCount + 1 }
      if x.isOpen then s.emit (.sessionReply n r) else s
  | .i3c => s.emit (.i3cReply { r with payload := padTo 64 r.payload })

/-! ## Sealed replies (R267, R268) -/

/-- A nonce of the node: a counter with bit 7 of byte 11 set. -/
def nodeNonce (n : Nat) : List Byte := leBytes 11 n ++ [0x80]

/-- The key slot that a sealed payload names. -/
def sealKeyId (p : Packet) (body : List Byte) : Nat := if p.sealedF then field body 0 1 else 0

def Ctx.slot (c : Ctx) (k : Nat) : Option KeySlot := (c.keys[k]?).join

/-- The sealed form of a reply payload: KEY_ID, nonce, ciphertext and tag. -/
def sealPayload (key kid nonce : Nat) (hdr plain : List Byte) : List Byte :=
  leBytes 4 kid ++ nodeNonce nonce ++ fitBytes (plain.length + 16) (Config.gcmSeal key (nodeNonce nonce) hdr plain)

/-- Seals a reply under the key slot of its command; a revoked key gives `KEY_REVOKED` and no payload (R268). -/
def State.sealReply (ctx kid : Nat) (r : Reply) (s : State) : Reply × State :=
  match (s.ctx? ctx).bind (·.slot kid) with
  | none => ({ r with status := Status.keyRevoked.code, payload := [] }, s)
  | some k =>
    if k.revoked then ({ r with status := Status.keyRevoked.code, payload := [] }, s)
    else
      let len := r.payload.length + 32
      let hdr := ({ r with isSealed := true, payload := zeroBytes len } : Reply).header 0
      ({ r with isSealed := true, payload := sealPayload k.key kid k.nonce hdr r.payload },
       s.updCtx ctx fun c => { c with keys := updAt kid (fun x => x.map fun y => { y with nonce := y.nonce + 1 }) c.keys })

/-! ## Ending a command -/

/-- The reply of a command that ends with `st`. -/
def State.replyOf (s : State) (op : Op) (p : Packet) (st : Status) (hint : Option NodeId) (retry : Nat)
    (payload : List Byte) : Reply :=
  ⟨op, st.code, p.reqId, BitVec.ofNat 32 s.epoch, hint, retry, false, if st.carries then payload else []⟩

def State.countPtn (ptn g i : Nat) (s : State) (n : Nat := 1) : State := if ptn < 32 then s.count g ptn i n else s

/-- Refuses a command: an unsealed reply without payload and no other effect (R268, R274). -/
def State.refuse (op : Op) (p : Packet) (ptn : Nat) (st : Status) (hint : Option NodeId) (retry : Nat) (s : State) : State :=
  ((s.countPtn ptn 0 1).countPtn ptn 0 (5 + st.row)).sendReply p.src (s.replyOf op p st hint retry [])

/-- The record space of a partition (R280): its records against what its context range gives it. One record always
fits. -/
def State.recordCount (s : State) (ptn : Nat) : Nat :=
  (s.store.cmdRecs.filter fun r => r.ptn == ptn).length + (s.store.appendRecs.filter fun r => r.ptn == ptn).length

def State.recordRoom (s : State) (ptn : Nat) : Bool :=
  s.recordCount ptn == 0 || decide (s.recordCount ptn < Config.recordSpace (((s.ptn? ptn).map (·.ctxCount)).getD 0))

/-- When a record made now may go: DUP_WINDOW_MS later, in ns (R279, R280). `RECORD_EXPIRY` comes then. -/
def State.recordEnd (s : State) : Nat := s.pow.tsc.toNat + 1000000 * s.rf .hptNdox 0 16

/-- The command record of a recorded command that had an effect (R279). -/
def State.putCmdRec (c : Cmd) (st : Status) (s : State) : State :=
  if c.op.cls = .recorded ∧ st = .ok ∧ c.pkt.src ≠ .i3c then
    { s with store := { s.store with cmdRecs := s.store.cmdRecs ++ [⟨c.ptn, c.pkt.reqId, c.op, digest128 c.data, st.code, s.recordEnd⟩] } }
  else s

/-- Tells the duplicates that wait behind a command how it ended (R281). -/
def State.tellDups (c : Cmd) (st : Status) (payload : List Byte) (s : State) : State :=
  { s with cmds := { s.cmds with list := s.cmds.list.map fun i =>
      if i.ptn = c.ptn ∧ i.reqId = c.pkt.reqId ∧ i.wait = .dup none then { i with wait := .dup (some (st.code, payload)) } else i } }

/-- Ends an admitted command: its record, its reply (sealed where it came sealed), its counts. -/
def State.finish (c : Cmd) (st : Status) (hint : Option NodeId) (retry : Nat) (payload : List Byte) (s : State) : State :=
  let s := ((s.putCmdRec c st).tellDups c st payload).countPtn c.ptn 0 (5 + st.row)
  let s := if st = .okDuplicate then s.countPtn c.ptn 0 2 else s
  let r := s.replyOf c.op c.pkt st hint retry payload
  match c.pkt.sealedF, c.pkt.ctxOf with
  | true, some (ctx, _) =>
    let (r, s) := s.sealReply ctx (field c.pkt.body 0 1) r
    s.sendReply c.pkt.src r
  | _, _ => s.sendReply c.pkt.src r

/-! ## The list of commands in flight (R18, R275) -/

def State.inflight? (s : State) (id : Nat) : Option Inflight := s.cmds.list.find? fun i => i.id == id

def State.updInflight (id : Nat) (f : Inflight → Inflight) (s : State) : State :=
  { s with cmds := { s.cmds with list := updWhere (fun i => i.id == id) f s.cmds.list } }

def State.dropInflight (id : Nat) (s : State) : State :=
  { s with cmds := { s.cmds with list := s.cmds.list.filter fun i => !(i.id == id) } }

/-- Holds a command: the next serial, its pins and what it waits for. -/
def State.hold (c : Cmd) (w : Wait) (pins : List Handle) (s : State) : State :=
  { s with cmds := { s.cmds with
      list := s.cmds.list ++ [⟨s.cmds.nextId, c.op, c.pkt, c.data, c.ptn, c.pkt.reqId, pins, w⟩], nextId := s.cmds.nextId + 1 } }

/-- Pins pages (R62). -/
def State.pin (hs : List Handle) (s : State) : State :=
  { s with store := { s.store with
      pages := s.store.pages.map fun p => { p with pins := p.pins + (hs.filter (· == p.handle)).length } } }

/-- A page with `n` pins fewer. With the last pin its old places go, and its HBM place where it is leaving HBM (R43,
R63, R254). -/
def Page.unpinned (n : Nat) (p : Page) : Page :=
  if n = 0 then p
  else if n < p.pins then { p with pins := p.pins - n }
  else if p.job = .leave then { p with pins := 0, leaving := [], hbm := none, openRec := [], job := .none }
  else { p with pins := 0, leaving := [] }

/-- Releases pins (R62). -/
def State.unpin (hs : List Handle) (s : State) : State :=
  { s with store := { s.store with pages := s.store.pages.map fun p => p.unpinned (hs.filter (· == p.handle)).length } }

/-- A copy of the page begins: it pins what it copies (R62). -/
def Page.startJob (j : CopyJob) (p : Page) : Page := { p with job := j, pins := p.pins + 1 }

/-- The copy under way ends or is abandoned. -/
def Page.endJob (p : Page) : Page :=
  if p.job = .none then p else if p.job = .leave then { p with job := .none } else ({ p with job := .none } : Page).unpinned 1

/-- The page takes another HBM place, or none; the old one stays while a read pins it (R43). -/
def Page.moveTo (l : Option HbmLoc) (p : Page) : Page :=
  { p with hbm := l, openRec := [], leaving := if p.pins = 0 then p.leaving else p.leaving ++ p.hbm.toList }

/-- What a command waits for, a batch entry's own wait included. -/
def Wait.inner : Wait → Wait
  | .batchEntry _ _ w => w.inner
  | w => w

/-- Another wait in the place of the one that `inner` tells. -/
def Wait.wrap (w : Wait) : Wait → Wait
  | x => match w with
    | .batchEntry p k _ => .batchEntry p k x
    | _ => x

/-- The reply payload of a batch whose entries have all ended (R313). -/
def batchReply (l : List (Nat × List Byte)) : List Byte :=
  leBytes 2 l.length ++ zeroBytes 6 ++
  (l.flatMap fun e => leBytes 2 e.1 ++ zeroBytes 2 ++ leBytes 4 (roundUp 8 e.2.length)) ++ l.flatMap fun e => padTo 8 e.2

/-- Records how an entry of a batch ended; the last one ends the batch (R142, R313). -/
def State.entryDone (parent index : Nat) (st : Status) (payload : List Byte) (s : State) : State :=
  match s.inflight? parent with
  | none => s
  | some i =>
    match i.wait with
    | .batch entries =>
      let entries := updAt index (fun _ => some (st.code, if st.carries then payload else [])) entries
      match entries.mapM id with
      | none => s.updInflight parent fun x => { x with wait := .batch entries }
      | some l => ((s.dropInflight parent).unpin i.pins).finish i.cmd .ok none 0 (batchReply l)
    | _ => s

/-- Ends a command in flight: its pins go, then it finishes; an entry of a batch reports to the batch. -/
def State.complete (i : Inflight) (st : Status) (hint : Option NodeId) (retry : Nat) (payload : List Byte) (s : State) : State :=
  let s := (s.dropInflight i.id).unpin i.pins
  match i.wait with
  | .batchEntry parent k _ => s.entryDone parent k st payload
  | _ => s.finish i.cmd st hint retry payload

/-- The scoreboard's limits (R17, R18, R275). -/
def scoreboardLimit : Nat := 32768
def pageTaskLimit : Nat := 524288

def State.pageTasks (s : State) : Nat := sumNat (s.cmds.list.map fun i => i.pins.length)

/-- The commands that a partition may hold in flight: its engine share of the limit, at least 64 (R275). -/
def Ptn.flightLimit (p : Ptn) : Nat := max 64 (p.enginePm * scoreboardLimit / 1000)

def State.boardRoom (s : State) (ptn : Nat) : Bool :=
  decide (s.cmds.list.length < scoreboardLimit) && decide (s.pageTasks < pageTaskLimit) &&
  match s.ptn? ptn with
  | none => true
  | some p => decide ((s.cmds.list.filter fun i => i.ptn == ptn).length < p.flightLimit)

/-- Whether the node admits commands: firmware in service, not parked or parking, no freewheel, no resume under way
(R468, R472, R479, R482). -/
def State.admits (s : State) : Bool :=
  s.pow.phase == .service && s.pow.state == .ride && s.pow.freewheel.isNone && !s.pow.parkPending && !s.pow.resuming

/-! ## Steps 1 to 6 of admission (R274) -/

/-- The largest PAYLOAD_LEN (R264). -/
def payloadMax : Nat := 268435456

/-- Step 2 for the header, R265 and the source's own rules (R354, R499). -/
def State.headerOk (s : State) (p : Packet) : Bool :=
  p.version == 1 && p.reserved == 0 && decide (p.flags.toNat < 4) && decide (p.payloadLen.toNat ≤ payloadMax) &&
  match p.src with
  | .host c _ =>
    decide (p.context.toNat = c) &&
    (if p.byref then
      p.body.isEmpty && p.payloadOff.toNat % 64 == 0 &&
      (match s.ctx? c with
        | some x => decide (p.payloadOff.toNat + p.payloadLen.toNat ≤ winSize x)
        | none => false)
    else p.payloadOff == 0 && decide (p.payloadLen.toNat = p.body.length))
  | .mgmt _ => p.context == 0 && p.flags == 0 && p.payloadOff == 0 && decide (p.payloadLen.toNat = p.body.length)
  | .i3c => p.context == 0 && p.epoch == 0 && p.flags == 0 && p.payloadOff == 0 && decide (p.payloadLen.toNat = p.body.length)

/-- The payload as the node reads it at admission: inline, or from the window (R266). -/
def State.payloadRead (s : State) (p : Packet) : List Byte :=
  match p.byref, p.src with
  | true, .host c _ =>
    match s.ctx? c with
    | some x => Mem.readList x.window p.payloadOff.toNat p.payloadLen.toNat
    | none => []
  | _, _ => p.body

/-- The header as sent, the additional data of a sealed payload (R267). -/
def packetHeader (op : Op) (p : Packet) : List Byte :=
  leBytes 1 p.version.toNat ++ leBytes 1 op.code ++ leBytes 2 p.flags.toNat ++ leBytes 2 p.context.toNat ++
  leBytes 2 p.reserved.toNat ++ leBytes 8 p.reqId.toNat ++ leBytes 4 p.epoch.toNat ++ leBytes 4 p.payloadLen.toNat ++
  leBytes 4 p.payloadOff.toNat ++ leBytes 4 p.ringHead.toNat

/-- Step 3: the plaintext payload, or the status of R268. The last component says that the tag failed. -/
def State.openPayload (s : State) (op : Op) (p : Packet) (priv : Nat) : Except (Status × Bool) (List Byte) :=
  let raw := s.payloadRead p
  match p.sealedF, p.src with
  | true, .host c _ =>
    if raw.length < 32 then .error (.badParam, false)
    else match (s.ctx? c).bind (·.slot (field raw 0 1)) with
      | none => .error (.badParam, false)
      | some k =>
        if field raw 1 3 ≠ 0 then .error (.badParam, false)
        else if k.revoked then .error (.keyRevoked, false)
        else match Config.gcmOpen k.key (slice raw 4 12) (packetHeader op p) (raw.drop 16) with
          | none => .error (.denied, true)
          | some t => .ok (fitBytes (raw.length - 32) t)
  | _, .host _ _ => if bit priv privSealRequired && !op.sealExempt then .error (.denied, false) else .ok raw
  | _, _ => .ok raw

/-- The privileges of a command's source: its partition's, a session's (R293), or I3C's grant (R499). -/
def sessionPriv : Nat := 2 ^ 10 + 2 ^ 12 + 2 ^ 13 + 2 ^ 3
def i3cPriv : Nat := 2 ^ 13 + 2 ^ 10

def State.srcPtn (s : State) : Src → Nat
  | .host c _ => ((s.ctx? c).map (·.ptn)).getD noPtn
  | _ => noPtn

def State.srcPriv (s : State) : Src → Nat
  | .host c _ => (((s.ctx? c).bind fun x => s.ptn? x.ptn).map (·.priv.toNat)).getD 0
  | .mgmt _ => sessionPriv
  | .i3c => i3cPriv

/-- The outcome of step 5. -/
inductive Five where
  | pass
  | refuse (st : Status) (hint : Option NodeId)
  | hold
  deriving DecidableEq, Repr

/-- The node holds the data of a sequence. -/
def State.holds (s : State) (h : Handle) : Bool := (s.seq? h).isSome

/-- Step 5 for a command that names a sequence (R277, R295, R450). -/
def State.fiveSeq (s : State) (h : Handle) (epoch priv : Nat) (write : Bool) : Five :=
  let e := s.epoch
  let home := s.homeOf h
  let readAs := fun (isH isT : Bool) =>
    if isH then Five.pass else if isT then (if bit priv privReplica then .pass else .refuse .denied none) else .refuse .moved home
  if epoch = 0 then .refuse .badParam none
  else if e < epoch then .hold
  else if epoch = e then
    if write then (if s.isHome h then .pass else .refuse .moved home) else readAs (s.isHome h) (s.isTandem h)
  else if write then .refuse .staleEpoch home
  else if s.prevEpoch = some epoch ∧ (s.wasHome h ∨ s.wasTandem h) ∧ s.holds h then readAs (s.wasHome h) (s.wasTandem h)
  else if s.isHome h ∨ s.isTandem h then .refuse .staleEpoch home
  else .refuse .moved home

/-- Step 5 (R277, R295). `RECALL` and `RECALL_ATTEND` are held only for a newer epoch; a self-placed namespace names placement, so its
EPOCH is not 0 (R264, R277). Every other command passes. -/
def State.five (s : State) (n : Named) (epoch priv : Nat) : Five :=
  match n with
  | .nothing => .pass
  | .seqWrite h => s.fiveSeq h epoch priv true
  | .seqRead h => s.fiveSeq h epoch priv false
  | .recallNs k =>
    if epoch = 0 ∧ ((s.ns? k).map (·.selfPlaced)).getD false then .refuse .badParam none
    else if s.epoch < epoch then .hold else .pass

/-- The sequence that a command names. -/
def Named.seq? : Named → Option Handle
  | .seqWrite h | .seqRead h => some h
  | _ => none

/-- The sequence has not arrived, is being settled, or is a pending child, and the node is to wait for it (R448, R451,
R454, R489). -/
def State.unready (s : State) (h : Handle) : Bool :=
  match s.seq? h with
  | some q => match q.state with | .live => false | _ => true
  | none =>
    s.map.transfersIn.any (fun t => t.shard == shardOf h) || s.flash.state == .init || s.flash.state == .rebuild

/-- The running original of a duplicate (R281). -/
def State.running? (s : State) (c : Cmd) : Option Inflight :=
  s.cmds.list.find? fun i => i.ptn == c.ptn && i.reqId == c.pkt.reqId && (match i.wait with | .dup _ => false | _ => true) &&
    (i.op.cls == .recorded || i.op.cls == .positional)

/-- Step 6 for a recorded command (R279, R281). -/
def State.sixRecorded (s : State) (d : OpDef) (c : Cmd) : Option Res :=
  if c.op.cls ≠ .recorded then none
  else match s.store.cmdRecs.find? fun r => r.ptn == c.ptn && r.reqId == c.pkt.reqId with
    | some r => if r.op = c.op ∧ r.digest = digest128 c.data then some (d.dup c s) else some (.no .conflict)
    | none =>
      if s.store.appendRecs.any fun r => r.ptn == c.ptn && r.reqId == c.pkt.reqId then some (.no .conflict)
      else match s.running? c with
      | none => none
      | some i =>
        if i.op = c.op ∧ i.payload = c.data then some (.wait (.dup none) [] s) else some (.no .conflict)

/-! ## Steps 5 to 9 and the run -/

/-- Sets what a handler answered. -/
def State.settle (c : Cmd) (r : Res) (s : State) : State :=
  match r with
  | .refuse st hint retry => s.refuse c.op c.pkt c.ptn st hint retry
  | .done st payload t => t.finish c st none 0 payload
  | .wait w pins t => (t.pin pins).hold c w pins
  | .held t => t

/-- Sets what the handler of an admitted command that waited answered: it keeps its serial, and goes behind the commands
that were admitted while it waited (R47). -/
def State.resettle (i : Inflight) (r : Res) (s : State) : State :=
  match r with
  | .refuse st hint retry => s.complete i st hint retry []
  | .done st payload t => t.complete i st none 0 payload
  | .wait w pins t =>
    let t := (t.dropInflight i.id).pin pins
    { t with cmds := { t.cmds with list := t.cmds.list ++ [{ i with wait := w, pins := i.pins ++ pins }] } }
  | .held t => (t.dropInflight i.id).unpin i.pins

/-- The reply ring's limit for the largest reply (R273), and the limit of an I3C reply (R499). -/
def State.replyFits (s : State) (c : Cmd) (n : Nat) : Bool :=
  match c.pkt.src with
  | .host x q =>
    match s.ctxQueue? x q with
    | some q => decide (roundUp 64 (32 + n + (if c.pkt.sealedF then 32 else 0)) + 64 ≤ 2 ^ q.ringLog2)
    | none => true
  | .mgmt _ => true
  | .i3c => decide (roundUp 64 (32 + n) ≤ 65536)

/-- Steps 6 to 9: the first that fails gives the status; else the command runs. -/
def State.sixToNine (d : OpDef) (c : Cmd) (s : State) : State :=
  match s.sixRecorded d c with
  | some r => s.settle c r
  | none =>
    match d.six c s with
    | some r => s.settle c r
    | none =>
      match d.seven c s with
      | some st => s.settle c (.no st)
      | none =>
        if ¬ s.replyFits c (d.maxReply c s) then s.settle c (.no .badParam)
        else
          let s := s.countPtn c.ptn 0 0
          let s := match c.pkt.src with | .host x _ => s.count 7 nodeScope (4 * x) | _ => s
          s.settle c (d.run c s)

/-- Steps 5 to 9. A command held for an epoch, for a sequence on its way, or for a missing descriptor counts as in
flight (R17, R275). -/
def State.fiveToNine (d : OpDef) (c : Cmd) (s : State) : State :=
  let n := d.named c.data
  match s.five n c.pkt.epoch.toNat (s.srcPriv c.pkt.src) with
  | .refuse st hint => s.settle c (.refuse st hint 0)
  | .hold => (s.countPtn c.ptn 0 3).hold c .epoch []
  | .pass =>
    match n.seq? with
    | none => s.sixToNine d c
    | some h =>
      if s.unready h then s.hold c (.transfer h) []
      else if c.op.cls = .positional ∨ c.op = .attend then
        match s.seq? h with
        | some q => if q.resident then s.sixToNine d c else (s.countPtn c.ptn 0 4).hold c (.descriptor h) []
        | none => s.sixToNine d c
      else s.sixToNine d c

/-- Steps 1 to 9 for a command taken from its queue, session or I3C. -/
def State.takeIn (op : Op) (d : OpDef) (p : Packet) (s : State) : State :=
  let ptn := s.srcPtn p.src
  let priv := s.srcPriv p.src
  let fenced : Bool := match s.ptn? ptn with | some q => q.fenced || q.resetting | none => false
  let isHost : Bool := match p.src with | .host _ _ => true | _ => false
  if isHost ∧ fenced then s.refuse op p ptn .partitionFenced none 0
  else if isHost ∧ (s.ptn? ptn).isNone then s.refuse op p ptn .denied none 0
  else if ¬ s.headerOk p then s.refuse op p ptn .badParam none 0
  else match s.openPayload op p priv with
    | .error (st, tagFail) =>
      let s := match tagFail, p.src with
        | true, .host c _ =>
          let det := leBytes 2 c ++ zeroBytes 6 ++ leBytes 8 p.reqId.toNat
          (((s.count 7 nodeScope (4 * c + 1)).raise (.ptnSts ptn) 2 (Rec.event ptn)).raise .secSts 9 ⟨9, 1, 0, ptn, 0, det⟩)
        | _, _ => s
      s.refuse op p ptn st none 0
    | .ok data =>
      if ¬ op.granted p.src priv then s.refuse op p ptn .denied none 0
      else s.fiveToNine d ⟨op, { p with body := s.payloadRead p }, data, ptn⟩

/-! ## Arrival -/

/-- A command of this source waits for its sequence's descriptor: it keeps its place, so what is behind it waits (R17). -/
def State.descriptorDue (s : State) (src : Src) : Bool :=
  s.cmds.list.any fun i => i.pkt.src == src && match i.wait.inner with | .descriptor _ => true | _ => false

/-- The node can take the command from its queue now (R17, R18, R272, R275, R280). -/
def State.takes (s : State) (op : Op) (q : Queue) : Bool :=
  s.admits && q.waiting.isEmpty && s.boardRoom q.ptn && (!op.needsRecord || s.recordRoom q.ptn) &&
    !s.descriptorDue (.host q.ctx q.num)

def State.takesSession (s : State) (x : Session) : Bool :=
  s.admits && decide (x.outstanding < 16) && !s.descriptorDue (.mgmt x.num)

/-- A SEND arrives on a command queue: discarded where there is no queue pair or it is in error (R335, R337), answered
not ready beyond QDEPTH buffers (R262), else queued in order (R263) or admitted. Its RING_HEAD is the newest consumed
count (R272). -/
def State.arriveHost (op : Op) (d : OpDef) (p : Packet) (ctx num : Nat) (s : State) : State :=
  match s.ctxQueue? ctx num with
  | none => s
  | some q =>
    if q.err ∨ (s.port q.port).state ≠ 2 then s
    else if q.qdepth ≤ q.backlog.length then s.emit (.rnrNak q.qpn)
    else
      let s := (s.ringSpace q.qpn p.ringHead.toNat).count 5 nodeScope (hostTel q.port 1)
      let q := (s.queue? q.qpn).getD q
      if q.backlog = [] ∧ s.takes op q then s.takeIn op d p
      else s.updQueue q.qpn fun x => { x with backlog := x.backlog ++ [(op, p)] }

/-- The wait that a `BUSY_RETRY` of R428 or R498 tells, in µs: the node's own, from 1 to `most` (log 20). -/
def State.expectedWait (s : State) (most : Nat) : Nat :=
  let w := Config.expectedWait s.pow.tsc.toNat s.freeCtr
  if 1 ≤ w ∧ w ≤ most then w else 1

/-- A command that came over I3C is being processed: the next one waits (R498). -/
def State.i3cBusy (s : State) : Bool := s.cmds.list.any fun i => i.pkt.src == .i3c

/-- A command arrives: on a queue, in a session record (R354) or over I3C, which answers one message at a time, with
`BUSY_RETRY` while the firmware does not serve (R498) and `BAD_PARAM` in ROM recovery (R4). -/
def State.arrive (op : Op) (d : OpDef) (p : Packet) (s : State) : State :=
  match p.src with
  | .host c q => s.arriveHost op d p c q
  | .mgmt n =>
    match s.session? n with
    | none => s
    | some x =>
      if x.isOpen = false then s
      else if x.backlog = [] ∧ s.takesSession x then
        (s.updSession n fun y => { y with outstanding := y.outstanding + 1 }).takeIn op d p
      else s.updSession n fun y => { y with backlog := y.backlog ++ [(op, p)] }
  | .i3c =>
    match s.pow.phase with
    | .held | .tripped => s
    | .romRecovery => s.sendReply .i3c (s.replyOf op p .badParam none 0 [])
    | .service =>
      if s.pow.state = .off then s
      else if s.i3c.backlog = [] ∧ ¬ s.i3cBusy then s.takeIn op d p
      else { s with i3c := { s.i3c with backlog := s.i3c.backlog ++ [(op, p)] } }
    | _ => s.sendReply .i3c (s.replyOf op p .busyRetry none (s.expectedWait 65535) [])

end Sys2Proof.Machine
end

