-- ==== Sys2Proof/Machine/Wire.lean ====
section
/-! DEFINITION. Sending on the fabric: the message types and their lengths (13_chainline_fabric.md R371, R372, R377),
the streams of a peer (R374, R376), the key that a peer needs first (14_partitions_and_trust.md R407, R419, R422), and
the link frames (R361 to R365, R370). -/

namespace Sys2Proof.Machine

/-! ## Message types -/

/-- TYPE, virtual channel and class of a message (R377). -/
def Msg.row : Msg → Nat × Nat × Bool
  | .heartbeat _ => (0x01, 0, false) | .mapFetch _ => (0x02, 0, false) | .mapBody _ => (0x03, 0, false)
  | .hsHello _ | .hsReply _ | .hsFinish _ | .hsAbort _ _ => (0x04, 0, false)
  | .e2eAck _ => (0x05, 0, false) | .expel _ _ _ _ _ _ => (0x06, 0, false)
  | .partialReq _ => (0x10, 1, false) | .partialReply _ _ _ _ => (0x11, 2, false) | .partialDecline _ _ => (0x12, 2, false)
  | .gradReq _ => (0x13, 1, false) | .gradReply _ _ => (0x14, 2, false) | .draftHint _ _ _ => (0x15, 1, false)
  | .scanReq _ => (0x20, 1, false) | .scanResult _ _ _ => (0x21, 2, false) | .scanDecline _ => (0x22, 2, false)
  | .patternCheck _ _ _ _ => (0x23, 1, false) | .patternResult _ _ => (0x24, 2, false)
  | .handleQuery _ _ _ => (0x25, 1, false) | .handleReply _ _ _ => (0x26, 2, false)
  | .forkCreate _ _ _ _ _ => (0x27, 1, false) | .forkAccept _ _ => (0x28, 2, false)
  | .mirrorWrite _ => (0x30, 3, true)
  | .stepCreate _ | .stepDelete _ | .stepFork _ | .stepTruncate _ _ | .stepTag _ _ | .stepSeal _ _ _ | .stepPersisted _ _ _
  | .stepTail _ _ _ _ | .stepLoss _ _ _ _ | .stepLengths _ _ _ | .stepTransferDone _ _ => (0x31, 3, true)
  | .mirrorAck _ _ _ _ => (0x32, 2, false)
  | .pageCopy _ _ _ _ => (0x40, 4, true) | .pageCopyAck _ _ _ => (0x41, 2, false) | .pageRelease _ _ => (0x42, 3, true)
  | .pageFetch _ _ _ _ => (0x43, 1, false)

def Msg.type (m : Msg) : Nat := m.row.1
def Msg.vc (m : Msg) : Nat := m.row.2.1
def Msg.ordered (m : Msg) : Bool := m.row.2.2

def Msg.handshake : Msg → Bool
  | .hsHello _ | .hsReply _ | .hsFinish _ | .hsAbort _ _ => true
  | _ => false

def imageSize (i : Image) : Nat :=
  let c := sumNat (i.planes.map (·.channels))
  if i.tail then 4096 + 512 * (i.rows.headD []).length else 4096 + 272 * c + 2 * sumNat (i.rows.map (·.length))

/-- Bytes of a message's body. Where the spec gives a body no byte layout, the fields in their widths (log 22). -/
def Msg.size : Msg → Nat
  | .heartbeat _ => 32 | .mapFetch _ => 8 | .mapBody b => 262160 + 8 * b.nodes.length
  | .hsHello b | .hsReply b | .hsFinish b => b.size
  | .hsAbort _ _ => 1656 | .e2eAck _ => 8 | .expel _ _ _ _ _ _ => 16
  | .partialReq b => 136 + 8 * b.pages.length + (if b.masks.isSome then 32 * b.pages.length else 0) +
      (if b.tags.isSome then 1024 * b.pages.length else 0) + 2 * b.hq * b.ck
  | .partialReply _ _ p l => 8 + p.size + (if l = [] then 0 else 4 + 24 * l.length)
  | .partialDecline _ _ => 6
  | .gradReq b => 32 + sumNat (b.rows.map fun r => 16 + 16 * r.m.length + 2 * sumNat (r.query.map (·.length)) +
      4 * sumNat (r.dO.map (·.length))) + 8 * b.pages.length + (if b.masks.isSome then 32 * b.pages.length else 0)
  | .gradReply _ d => 8 + 4 * d.length
  | .draftHint _ _ l => 16 + 8 * l.length
  | .scanReq b => 1 + 32 + 1092 + 4 * b.lists.length | .scanResult _ _ l => 8 + sumNat (l.map fun x => 12 + 32 * x.cands.length)
  | .scanDecline _ => 4 | .patternCheck _ _ _ _ => 18 | .patternResult _ _ => 5 | .handleQuery _ _ _ => 14
  | .handleReply _ _ _ => 44
  | .forkCreate _ g t p c => 48 + 16 * g.length + sumNat (t.map fun l => 4 * l.length) +
      sumNat (p.map fun x => 16 + 4 * sumNat (x.env.map (·.length))) + sumNat (c.map fun x => match x.2 with | .image i => imageSize i | .tokens _ _ _ => 1024)
  | .forkAccept _ _ => 6 | .mirrorWrite a => 8 + a.size
  | .stepCreate r => 48 + 16 * r.groups.length | .stepDelete _ => 16 | .stepFork _ => 56 | .stepTruncate _ _ => 24
  | .stepTag _ _ => 24 | .stepSeal _ _ _ => 58 | .stepPersisted _ _ _ => 22
  | .stepTail _ _ i r => 22 + imageSize i + 32 * r.length
  | .stepLoss _ _ _ _ => 26 | .stepLengths _ _ l => 20 + 4 * l.length | .stepTransferDone _ _ => 14
  | .mirrorAck _ _ _ _ => 16 | .pageCopy _ _ _ c => 16 + (match c with | .image i => imageSize i | .tokens _ _ _ => 1024)
  | .pageCopyAck _ _ _ => 14 | .pageRelease _ _ => 12 | .pageFetch _ _ _ _ => 24

/-- How many messages a body travels in (R371, R372): one, or segments of at most 1,048,512 B. -/
def Msg.segments (m : Msg) : Nat := if m.size + 48 ≤ 1048576 then 1 else (m.size + 1048511) / 1048512

/-! ## Link frames out -/

def LinkState.live (l : LinkState) : Bool := l == .up || l == .spared || l == .degraded

def State.updLink (n : Nat) (f : Link → Link) (s : State) : State :=
  { s with fab := { s.fab with links := updAt n f s.fab.links } }

/-- The links in service (R370). -/
def State.liveLinks (s : State) : List Nat := (List.range 48).filter fun n => (s.link n).state.live

/-- Whether a gate whose entry `cur` began `elapsed` ns ago stays open for `need` ns: the open entries that follow
count. -/
def gateStays (isOpen : Nat → Bool) (dur : Nat → Nat) (nent : Nat) : Nat → Nat → Nat → Nat → Bool
  | 0, _, _, _ => true
  | k + 1, cur, elapsed, need =>
    if ¬ isOpen cur then false
    else
      let left := dur cur - elapsed
      if need ≤ left then true else gateStays isOpen dur nent k ((cur + 1) % nent) 0 (need - left)

/-- The longest link frame at a link's rate, in ns rounded up: 41.28 ns at 800 Gbit/s, 82.56 ns at 400 (R361). -/
def Link.frameTime (l : Link) : Nat := if l.state == .degraded then 83 else 42

def State.gateEnt (s : State) : Nat := let n := s.rf .fabGctl 4 5; if n = 0 then 1 else n

/-- R365: whether a VC4 frame may start on a link now. -/
def State.bulkOpen (s : State) (l : Link) : Bool :=
  if s.rf .fabGctl 0 1 = 0 ∨ ¬ s.fab.gateRunning then true
  else gateStays (fun k => s.rf (.fabGent k) 24 1 == 1) (fun k => s.rf (.fabGent k) 0 24) s.gateEnt (s.gateEnt + 1)
    s.fab.gateEntry (s.pow.tsc.toNat - s.fab.gateAt) l.frameTime

/-- Bytes in the replay buffer (R362). -/
def Link.replayBytes (l : Link) : Nat := sumNat (l.replay.map fun x => x.2.size)

/-- The first frame of a virtual channel that waits. -/
def Link.head? (l : Link) (vc : Nat) : Option LinkFrame := l.queue.find? fun f => f.vc == vc

/-- The frame may start: credits of its channel, room in the replay buffer, and for VC4 the gate (R362, R363, R365). -/
def State.mayStart (s : State) (l : Link) (f : LinkFrame) : Bool :=
  decide (f.cost ≤ l.credits.getD f.vc 0) && decide (l.replayBytes + f.size ≤ 262144) && (f.vc != 4 || s.bulkOpen l)

def State.startable (s : State) (l : Link) (vc : Nat) : Option LinkFrame :=
  match l.head? vc with
  | some f => if s.mayStart l f then some f else none
  | none => none

/-- The channels of the deficit round robin and their quanta (R364). -/
def drrVc (k : Nat) : Nat := [1, 2, 4].getD k 1
def State.drrQuantum (s : State) (k : Nat) : Nat := 4128 * (s.rf .fabVcw (8 * k) 8)

/-- Takes the next frame of VC1, VC2 or VC4 by deficit round robin. -/
def State.drrPick (s : State) : Nat → Link → Option (LinkFrame × Link)
  | 0, _ => none
  | k + 1, l =>
    let next := fun (l : Link) =>
      let d := (l.drr + 1) % 3
      { l with drr := d, deficits := updAt d (· + s.drrQuantum d) l.deficits }
    match s.startable l (drrVc l.drr) with
    | none =>
      let l := if (l.head? (drrVc l.drr)).isNone then { l with deficits := updAt l.drr (fun _ => 0) l.deficits } else l
      s.drrPick k (next l)
    | some f =>
      if f.size ≤ l.deficits.getD l.drr 0 then some (f, { l with deficits := updAt l.drr (· - f.size) l.deficits })
      else s.drrPick k (next l)

/-- The frame that a link sends next (R364). -/
def State.nextFrame (s : State) (l : Link) : Option (LinkFrame × Link) :=
  match s.startable l 0 with
  | some f => some (f, l)
  | none =>
    match s.startable l 3 with
    | some f => some (f, l)
    | none => s.drrPick 7 l

/-- Removes the first frame of a channel. -/
def dropFirst (vc : Nat) : List LinkFrame → List LinkFrame
  | [] => []
  | f :: l => if f.vc = vc then l else f :: dropFirst vc l

/-- The channel whose credits a frame returns, and how many (R361, R363). -/
def Link.creditField (l : Link) : Nat × Nat :=
  match (enumFrom 0 l.owed).find? fun x => x.2 != 0 with
  | some x => (x.1, min x.2 4095)
  | none => (0, 0)

/-- Fills in the fields that a frame takes as it leaves, and its check word. -/
def Link.stamp (l : Link) (f : LinkFrame) : LinkFrame :=
  let c := l.creditField
  let f := { f with ack := BitVec.ofNat 16 l.lseqRx, creditVc := c.1, credits := c.2 }
  { f with crc := f.check }

/-- The link after a frame left with the acknowledgement and credits that were owed. -/
def Link.paid (l : Link) : Link :=
  let c := l.creditField
  { l with ackOwed := false, owed := updAt c.1 (· - c.2) l.owed }

/-- Sends one frame: its LSEQ, its place in the replay buffer, its credits (R362, R363). -/
def State.sendFrame (n : Nat) (f : LinkFrame) (l : Link) (s : State) : State :=
  let q := (l.lseqTx + 1) % 65536
  let f := l.stamp { f with lseq := BitVec.ofNat 16 q }
  let l := { l.paid with lseqTx := q, queue := dropFirst f.vc l.queue, replay := l.replay ++ [(q, f)],
                         credits := updAt f.vc (· - f.cost) l.credits }
  ((s.updLink n fun _ => l).emit (.linkFrame n f)).count 6 nodeScope (16 * n + 6)

/-- Sends what a link may send. -/
def State.pump (n : Nat) : Nat → State → State
  | 0, s => s
  | k + 1, s =>
    let l := s.link n
    if ¬ l.state.live then s
    else match s.nextFrame l with
      | none => s
      | some (f, l) => State.pump n k (s.sendFrame n f l)

def State.pumpAll (n : Nat) (s : State) : State := s.pump n (s.link n).queue.length

/-- The link frames of one message of `len` bytes, header and tag included, cut at 4,096-byte offsets (R371). -/
def framesOfMsg (src dst : NodeId) (m : Msg) (seq len : Nat) : List LinkFrame :=
  (List.range ((len + 4095) / 4096)).map fun k =>
    ⟨m.vc, if m.ordered then 2 else 1, 0, 0, 0, 0, 0, src, dst, BitVec.ofNat 32 seq, BitVec.ofNat 32 (4096 * k),
     fitBytes (roundUp 16 (min 4096 (len - 4096 * k))) (Config.wireBytes dst.toNat m.type seq (4096 * k)), 0, true⟩

/-- Puts a message on a link in service (R370): an ordered stream on the link it has while that link serves, an
unordered message where its hash says. With no link in service nothing leaves. -/
def State.transmit (dst : NodeId) (x : Sent) (s : State) : State :=
  let m := x.msg
  let seq := x.seq
  let live := s.liveLinks
  if live = [] then s
  else
    let pick := fun h => live.getD (h % live.length) 0
    let stay : Option Nat := if m.ordered then (s.fab.peers.find? fun p => p.node == dst).bind (·.ordLink) else none
    let n := match stay with
      | some k => if live.contains k then k else pick (Config.streamHash s.self.toNat dst.toNat)
      | none => if m.ordered then pick (Config.streamHash s.self.toNat dst.toNat) else pick (Config.messageHash dst.toNat seq)
    let segs := m.segments
    let tag := if m.handshake then 0 else 16
    let frames := (List.range segs).flatMap fun k =>
      framesOfMsg s.self dst m (seq + k)
        (if segs = 1 then 32 + m.size + tag else 32 + 16 + min 1048512 (m.size - 1048512 * k) + tag)
    let s := if m.ordered then
        { s with fab := { s.fab with peers := updWhere (fun p => p.node == dst) (fun p => { p with ordLink := some n }) s.fab.peers } }
      else s
    let s := (s.updLink n fun l => { l with queue := l.queue ++ frames }).count 6 nodeScope (16 * n + 11)
    (s.emit (.msg dst x)).pumpAll n

/-! ## Peers -/

/-- What the node knows of a node it has not heard from. -/
def Peer.fresh (n : NodeId) : Peer where
  node := n
  incarn := 0
  txOrd := 0
  txUnord := 0
  unacked := []
  rxOrd := 0
  held := []
  ackOwed := false
  seen := []
  keyed := false
  keySerial := 0
  oldKey := false
  holdUntilFirst := false
  hs := none
  hsCount := 0
  backoff := false
  waiting := []
  ordLink := none
  certs := none
  watching := false
  hbTx := 0
  hbRx := 0
  watched := false
  suspect := false
  fpDiff := 0
  healths := []
  warned := false
  reqSent := []
  reqFailed := []
  expelAt := none
  tokenSeen := 0
  copies := []

def State.peer? (s : State) (n : NodeId) : Option Peer := s.fab.peers.find? fun p => p.node == n
def State.peer (s : State) (n : NodeId) : Peer := (s.peer? n).getD (Peer.fresh n)

/-- Changes what the node knows of a peer. -/
def State.updPeer (n : NodeId) (f : Peer → Peer) (s : State) : State :=
  let l := if (s.peer? n).isSome then updWhere (fun p => p.node == n) f s.fab.peers else s.fab.peers ++ [f (Peer.fresh n)]
  { s with fab := { s.fab with peers := l } }

/-! ## Handshake bodies (R419, R420) -/

/-- The header of a HANDSHAKE message with LEN as zero. -/
def hsHeader (src dst : NodeId) (epoch incarn seq : Nat) : List Byte :=
  leBytes 1 0x04 ++ leBytes 1 0 ++ leBytes 2 src.toNat ++ leBytes 2 dst.toNat ++ leBytes 2 0 ++ leBytes 4 epoch ++
  leBytes 4 incarn ++ leBytes 8 0 ++ leBytes 4 seq ++ leBytes 4 0

/-- The 8-byte prefixes and labels of R413 and R420 as bytes. -/
def ascii (l : List Nat) : List Byte := l.map fun n => BitVec.ofNat 8 n
def prefixFab : List Byte := ascii [0x50, 0x54, 0x46, 0x41, 0x42, 0x48, 0x53, 0x31]
def prefixMgt : List Byte := ascii [0x50, 0x54, 0x4D, 0x47, 0x54, 0x48, 0x53, 0x31]
def labelKeys : List Byte := ascii [0x50, 0x54, 0x4B, 0x45, 0x59, 0x53, 0x30, 0x31]
def labelFin : List Byte := ascii [0x50, 0x54, 0x46, 0x49, 0x4E, 0x53, 0x48, 0x31]

/-- The confirmation that FINISH carries (R420). -/
def confirmation (ss hI hR : List Byte) : List Byte :=
  let kConf := (shake256 96 (ss ++ hI ++ hR ++ labelKeys)).drop 64
  shake256 32 (kConf ++ hI ++ hR ++ labelFin)

/-- The node's `CERT_READ` maps, WHICH 0 and then 1. -/
def State.certs (s : State) : List Byte := Config.certMap 0 0 ++ Config.certMap 1 s.trust.attSerial

/-- The node's own body for a step: nonce, SVN and digest, the key or ciphertext, certificates. -/
def State.hsBody (s : State) (hsId : Word32) (kem : List Byte) (withCerts : Bool) : HsBody :=
  ⟨withCerts, hsId, fitBytes 32 (Config.random s.freeCtr), s.trust.svnRun, s.trust.fwDigest, fitBytes 1568 kem,
   if withCerts then s.certs else [], []⟩

/-- Signatures that one attestation key gives (R410). -/
def attKeySize : Nat := 2 ^ 20

/-- A used-up attestation key gives way to its certified successor (R412). -/
def State.attRoll (s : State) : State :=
  if s.trust.attLeft = 0 ∧ s.trust.attSuccessor then
    ({ s with trust := { s.trust with attSerial := s.trust.attSerial + 1, attLeft := attKeySize, attSuccessor := false,
                                      attReady := true } }).raise .secSts 11 ⟨9, 3, 0, 0xFF, 0, []⟩
  else s

/-- One index of the attestation key has been used. -/
def State.attUsed (s : State) : State :=
  { s with trust := { s.trust with attLeft := s.trust.attLeft - 1, attReady := s.trust.attSuccessor || decide (1 < s.trust.attLeft) } }

/-- A handshake that still has a step of this node's to send or to take; an initiator keeps a FINISH that it has sent, to
send it again (R422; log 31). -/
def Hs.running (x : Hs) : Bool := match x.sent with | .hsFinish _ => false | _ => true
def Peer.handshaking (p : Peer) : Bool := match p.hs with | some x => x.running | none => false

/-- Starts a handshake with a peer as initiator: HELLO with a fresh key, unless one runs, the 100 ms of R421 run, or no
attestation key is ready (R407, R412, R422). -/
def State.hello (n : NodeId) (s : State) : State :=
  let p := s.peer n
  if p.handshaking ∨ p.backoff ∨ ¬ s.trust.attReady then s
  else
    let s := s.attRoll
    let draw := s.freeCtr
    let id := BitVec.ofNat 32 (p.hsCount + 1)
    let seq := p.txUnord + 1
    let b := (s.hsBody id (Config.kemKey draw) p.certs.isNone)
    let hI := shake256 32 (hsHeader s.self n s.epoch s.pow.incarn.toNat seq ++ b.front 1)
    let b := { b with sig := Config.sign s.trust.attSerial (prefixFab ++ hI) }
    let s := s.drawn.attUsed.updPeer n fun p =>
      { p with hsCount := p.hsCount + 1, txUnord := seq, hs := some ⟨id, true, seq, s.epoch, .hsHello b, draw, hI, [], [], []⟩ }
    s.transmit n ⟨seq, 0, s.epoch, .hsHello b⟩

/-- R422: whoever needs the key sends HELLO; the node with the higher ID only when none is pending from the peer. A
running handshake of either kind stands in `Peer.hs`. -/
def State.needKey (n : NodeId) (s : State) : State := s.hello n

/-- Sends a message: it takes its SEQ at once; it waits for the peer's key, or for the responder's first message (R407,
R422); an ordered message stays until it is acknowledged (R374). Answers the first SEQ. -/
def State.postSeq (n : NodeId) (reqId : Word64) (m : Msg) (s : State) : Nat × State :=
  let p := s.peer n
  let k := m.segments
  let first := (if m.ordered then p.txOrd else p.txUnord) + 1
  let last := first + k - 1
  let x : Sent := ⟨first, reqId, s.epoch, m⟩
  let s := s.updPeer n fun p =>
    if m.ordered then
      { p with txOrd := last, unacked := p.unacked ++ (List.range k).map fun i => { x with seq := first + i } }
    else { p with txUnord := last }
  let s := if p.keyed ∧ ¬ p.holdUntilFirst then s.transmit n x
    else
      let s := s.updPeer n fun p => { p with waiting := p.waiting ++ [x] }
      if p.keyed then s else s.needKey n
  (first, if first < 2 ^ 31 ∧ 2 ^ 31 ≤ last + 1 then s.needKey n else s)

def State.postFor (n : NodeId) (reqId : Word64) (m : Msg) (s : State) : State := (s.postSeq n reqId m).2
def State.postMsg (n : NodeId) (m : Msg) (s : State) : State := s.postFor n 0 m

/-- Sends what waited for a key. -/
def State.releaseWaiting (n : NodeId) (s : State) : State :=
  let w := (s.peer n).waiting
  w.foldl (fun s x => s.transmit n x) (s.updPeer n fun p => { p with waiting := [] })

end Sys2Proof.Machine
end

