-- ==== Sys2Proof/Machine/Pages.lean ====
section
/-! DEFINITION. Pages and where they lie: HBM frames and quotas (08_hbm_and_near_bank.md R209, R213, R216;
11_command_reference.md R325), the flash blocks and map (09_flash_tier.md R234 to R241), demotion (R254), reference
counts and pins (02_sequences_and_pages.md R42 to R64). -/

namespace Sys2Proof.Machine

/-! ## HBM capacity -/

def framesPerGib : Nat := 16384

/-- Frames of the protected region that journal halves and control areas do not take (R209, R213, R228). -/
def State.protCap (s : State) (n : Nat) : Nat :=
  let st := s.stack n
  let raw := if n = 3 ∨ n = 4 then (48 - st.openGib) * 15360 else 60 * framesPerGib
  let h := s.hbm
  raw - (b2n (h.journalWest == n) + b2n (h.journalEast == n)) * 2048 - (b2n (h.controlA == n) + b2n (h.controlB == n)) * 98304

/-- Frames of an open region, its 256 MiB of scratch rows left out (R213, R222). -/
def openCap (gib : Nat) : Nat := gib * framesPerGib - (if gib = 0 then 0 else 4096)
def State.openFrames (s : State) (n : Nat) : Nat := if n = 3 ∨ n = 4 then openCap (s.stack n).openGib else 0

/-- The nominal page frames of R213 for an open-region size. -/
def nominalFrames (n gib : Nat) : Nat :=
  if n = 3 ∨ n = 4 then (48 - gib) * 15360 + openCap gib
  else if n = 0 ∨ n = 7 then 60 * framesPerGib - 2048
  else if n = 1 ∨ n = 6 then 54 * framesPerGib
  else 60 * framesPerGib

/-- The page frames that quotas divide: OPEN_GIB as the registers hold it (R325). -/
def State.quotaFrames (s : State) : Nat :=
  sumNat ((List.range 8).map fun n => nominalFrames n (if n = 3 ∨ n = 4 then s.rf (.memStkCtl n) 8 8 else 0))

/-- The exported flash frames of R234 for a population. -/
def exportedFrames (dies : Nat) : Nat := 32 * dies * 3604480

/-- The HBM places whose frames a page holds: its own, and old ones that reads still pin (R63). -/
def Page.places (p : Page) : List HbmLoc := p.hbm.toList ++ p.leaving

/-- Frames that a page holds in HBM. -/
def Page.hbmFrames (p : Page) : Nat := p.frames * p.places.length

/-- Frames that pages hold in a stack: in its protected region, or in a pseudo-channel of its open region. -/
def State.usedIn (s : State) (loc : HbmLoc → Bool) : Nat :=
  sumNat (s.store.pages.map fun p => p.frames * (p.places.filter loc).length)

/-- Frames of a block's gradient planes: 1,024 × Ctot bytes (R147). -/
def gradFrames (g : Grad) : Nat := (1024 * sumNat ((g.vals.headD []).map (·.length)) + 65535) / 65536

/-- Frames that gradient planes hold in a stack's protected region (R214). -/
def State.gradsIn (s : State) (n : Nat) : Nat := sumNat (s.store.grads.map fun g => if g.stack = n then gradFrames g else 0)

def State.protFree (s : State) (n : Nat) : Nat :=
  s.protCap n - (s.stack n).retired - (s.usedIn fun l => l.stack == n && l.pch.isNone) - s.gradsIn n

def State.serving (s : State) (n : Nat) : Bool := (s.stack n).state == .service

/-- Frames of a context window (log 24). -/
def windowFrames (winLog2 : Nat) : Nat := 2 ^ (winLog2 - 16)

def stagingFrames (n : Nat) : Nat := (n + 65535) / 65536

/-- Frames that a partition takes from its HBM quota (R147, R298, R318, R325). -/
def State.hbmUsed (s : State) (ptn : Nat) : Nat :=
  sumNat (s.store.pages.map fun p => if p.ptn = ptn then p.hbmFrames else 0) +
  sumNat (s.host.ctxs.map fun c => if c.ptn = ptn then windowFrames c.winLog2 else 0) +
  sumNat (s.store.grads.map fun g => if g.ptn = ptn then gradFrames g else 0) +
  sumNat (s.slots.pats.map fun p => if p.owner = ptn then stagingFrames p.stagingLen else 0)

def State.flashUsed (s : State) (ptn : Nat) : Nat :=
  sumNat (s.store.pages.map fun p => if p.ptn = ptn ∧ p.flash then p.frames else 0)

def State.hbmQuota (s : State) (ptn : Nat) : Nat := ((s.ptn? ptn).map (·.hbmQuota)).getD 0
def State.flashQuota (s : State) (ptn : Nat) : Nat := ((s.ptn? ptn).map (·.flashQuota)).getD 0

/-- Page frames in service, and those free (R213, R254). -/
def State.pageFrames (s : State) : Nat :=
  sumNat ((List.range 8).map fun n => if s.serving n then s.protCap n - (s.stack n).retired + s.openFrames n else 0)

def State.freeFrames (s : State) : Nat :=
  s.pageFrames - s.usedIn (fun l => s.serving l.stack) -
  sumNat ((List.range 32).map fun n =>
    s.hbmUsed n - sumNat (s.store.pages.map fun p => if p.ptn = n then p.hbmFrames else 0))

def State.targetPct (s : State) : Nat := s.rf .flsMig 16 8
def State.lowPct (s : State) : Nat := s.rf .flsMig 24 8
def State.belowPct (s : State) (pct : Nat) : Bool := decide (s.freeFrames * 100 < pct * s.pageFrames)

/-! ## Stack choice (R216) -/

def stackOrder : List Nat := [0, 4, 1, 5, 2, 6, 3, 7]

/-- The stack for a page of a block, layer and shard; none where no stack has room. -/
def State.chooseStack (s : State) (block layer shard frames : Nat) : Option Nat :=
  let k := (block + layer + shard) % 8
  ((List.range 8).map fun i => stackOrder.getD ((k + i) % 8) 0).find? fun n =>
    s.serving n && decide (frames ≤ s.protFree n) && s.protCap n != 0

/-! ## Page handles and the page range (R42, R44, R240) -/

def handleNode (h : Handle) : NodeId := BitVec.ofNat 12 (h.toNat / 2 ^ 52)
def handleFrame (h : Handle) : Nat := h.toNat / 65536 % 2 ^ 36
def handleGen (h : Handle) : Nat := h.toNat % 65536
def mkHandle (n : NodeId) (frame gen : Nat) : Handle := BitVec.ofNat 64 (n.toNat * 2 ^ 52 + frame % 2 ^ 36 * 65536 + gen % 65536)

def State.page? (s : State) (h : Handle) : Option Page := s.store.pages.find? fun p => p.handle == h
def State.updPage (h : Handle) (f : Page → Page) (s : State) : State :=
  { s with store := { s.store with pages := updWhere (fun p => p.handle == h) f s.store.pages } }
def State.isOwn (s : State) (h : Handle) : Bool := handleNode h == s.self

/-- The generation that a frame takes when it is next allocated as a first frame (R44). -/
def State.nextGen (s : State) (f : Nat) : Nat := (((assoc f s.store.gens).map (·.toNat)).getD 0 + 1) % 65536

/-- The entries of a segment's full blocks, in order. -/
def Segment.blocks (g : Segment) : List (List IdxEntry) := g.flushed.map (·.entries)

/-- Entries of the recall index that this node holds, compacted away or not. -/
def Segment.entries (g : Segment) : List IdxEntry :=
  g.blocks.flatten ++ g.opened ++ g.passes.flatMap fun p => p.2.flatten

/-- Entries of an index block (R176). -/
def indexBlock : Nat := 1023

def segZero (n : SegName) (ptn : Nat) : Segment := ⟨n, ptn, [], [], [], [], false, false, false, []⟩

/-- The segment of a list under a model that is installed. -/
def State.segment? (s : State) (n : SegName) : Option Segment := s.rcl.segments.find? fun g => g.name == n && !g.removed
def State.updSegment (n : SegName) (f : Segment → Segment) (s : State) : State :=
  { s with rcl := { s.rcl with segments := updWhere (fun g => g.name == n && !g.removed) f s.rcl.segments } }

/-- Whether an index entry still carries a handle (R44). -/
def State.indexed (s : State) (h : Handle) : Bool := s.rcl.segments.any fun g => g.entries.any fun e => e.page == h

/-- Frames of the page range that hold index blocks. -/
def State.indexFrames (s : State) : List Nat := s.rcl.segments.flatMap fun g => g.flushed.filterMap (·.frame) ++ g.dropped

/-- Whether a run of `n` frames from `f` is free and its first frame's next generation is reachable by nothing
(R44). -/
def State.runFree (s : State) (f n : Nat) : Bool :=
  (s.store.pages.all fun p =>
    !s.isOwn p.handle || decide (handleFrame p.handle + p.frames ≤ f ∨ f + n ≤ handleFrame p.handle)) &&
  (s.indexFrames.all fun k => decide (k < f ∨ f + n ≤ k)) && !s.indexed (mkHandle s.self f (s.nextGen f))

/-- The lowest first frame that R44 allows for a run of `n` (R240): 0, the end of a page or of an index block, or the frame after
one whose next generation is still carried. -/
def State.lowestRun (s : State) (n : Nat) : Option Nat :=
  let ends := s.store.pages.map (fun p => handleFrame p.handle + p.frames) ++ s.indexFrames.map (· + 1)
  let after := s.rcl.segments.flatMap fun g => g.entries.map fun e => handleFrame e.page + 1
  (sortBy (fun a b => decide (a < b)) (0 :: ends ++ after)).find? fun f => decide (f + n ≤ 2 ^ 36) && s.runFree f n

/-! ## Flash: dies, blocks, frames -/

/-- A die at its first enable: 4,096 good blocks a plane, of which the table of R235 takes 16, 160, 400 and 3,520 (log 25). -/
def FDie.fresh (d : DieId) : FDie := ⟨d, false, 3920, 160, 160, 400, 0, false, []⟩

def State.fdie? (s : State) (d : DieId) : Option FDie := s.flash.dies.find? fun x => x.die == d
def State.updDie (d : DieId) (f : FDie → FDie) (s : State) : State :=
  { s with flash := { s.flash with dies := updWhere (fun x => x.die == d) f s.flash.dies } }
def State.fblock? (s : State) (d : DieId) (b : Nat) : Option FBlock := s.flash.blocks.find? fun x => x.die == d && x.num == b
def State.updBlock (d : DieId) (b : Nat) (f : FBlock → FBlock) (s : State) : State :=
  { s with flash := { s.flash with blocks := updWhere (fun x => x.die == d && x.num == b) f s.flash.blocks } }
def State.updChan (n : Nat) (f : Chan → Chan) (s : State) : State :=
  { s with flash := { s.flash with chans := updAt n f s.flash.chans } }

/-- Frames of a four-bit block, and of a block in single-level mode (R233). -/
def blockFrames : Nat := 1024
def singleFrames : Nat := 256

/-- The erase count of a block of a die. -/
def FDie.eraseCount (d : FDie) (b : Nat) : Nat := (assoc b d.erases).getD 0

/-- Four-bit blocks of a die that could be opened: system blocks are 0 to 15 and the spare pool follows them
(log 25). -/
def State.freeBlocks (s : State) (d : FDie) : List Nat :=
  ((List.range (160 - d.spare)).map (· + 16) ++ (List.range 3920).map (· + 176)).filter fun b => (s.fblock? d.die b).isNone

/-- The free block with the lowest erase count (R247). -/
def State.pickBlock (s : State) (d : FDie) : Option Nat :=
  (s.freeBlocks d).foldl (fun best b => match best with
    | none => some b
    | some x => if d.eraseCount b < d.eraseCount x then some b else best) none

/-- Valid frames that a die's four-bit blocks hold, and how many they may (R235). -/
def State.dieValid (s : State) (d : DieId) : Nat :=
  sumNat (s.flash.blocks.map fun b => if b.die = d ∧ b.single = false then (b.frames.filter (·.valid)).length else 0)
def exportedPerDie : Nat := 3604480

/-- No new writes go to a die that is worn out (R248), or past its exported frames with new data (R235). -/
def State.dieTakes (s : State) (d : FDie) (st : Stream) : Bool :=
  !d.worn && (st == .reclamation || decide (s.dieValid d.die < exportedPerDie))

/-- The open block of a channel for a stream (R239). -/
def State.openBlock (s : State) (chan : Nat) (st : Stream) : Option FBlock :=
  s.flash.blocks.find? fun b => b.die.chan.val == chan && !b.single && b.use == .opened && b.stream == st &&
    decide (b.frames.length < blockFrames) && (match s.fdie? b.die with | some d => s.dieTakes d st | none => false)

/-- A channel that takes writes: in service, no die at 85 °C (R251). -/
def Chan.writes (c : Chan) : Bool := c.state == .service && !c.tempCrit

/-- The die of a channel that opens the next block: the most free blocks, the lowest number (log 16). -/
def State.dieToOpen (s : State) (chan : Nat) (st : Stream) : Option FDie :=
  (s.flash.dies.filter fun d => d.die.chan.val == chan && s.dieTakes d st && decide (0 < d.free)).foldl (fun best d =>
    match best with
    | none => some d
    | some b => if b.free < d.free then some d else best) none

/-- The node programs and erases of its own accord: WR_EN is set and no freewheel runs (R259, R260). -/
def State.programs (s : State) : Bool := s.writeEnabled && s.pow.state != .freewheel

/-- Whether a channel has a place for one frame of a stream. -/
def State.chanRoom (s : State) (chan : Nat) (st : Stream) : Bool :=
  s.programs && (s.chan chan).writes && ((s.openBlock chan st).isSome || (s.dieToOpen chan st).isSome)

/-- Opens a block on a die for a stream. -/
def State.openNew (d : FDie) (b : Nat) (st : Stream) (source : Option (DieId × Nat)) (s : State) : State :=
  let blk : FBlock := ⟨d.die, b, false, .opened, st, d.eraseCount b, 0, [], source.toList, false⟩
  let s := s.updDie d.die fun x => { x with free := x.free - 1 }
  { s with flash := { s.flash with blocks := s.flash.blocks ++ [blk] } }

/-! ## Delta records (R241) -/

/-- The tier holds its map. -/
def State.tierUp (s : State) : Bool := s.flash.state == .service || s.flash.state == .readOnly

/-- What a delta record says. -/
def State.deltaEntry (s : State) (r : DeltaRec) : DeltaEntry :=
  let seq := fun (h : Handle) => (⟨r, none, none, s.store.seqs.find? fun q => q.handle == h, none, none⟩ : DeltaEntry)
  match r with
  | .frame n => ⟨r, s.flash.map.find? fun e => e.frame == n, none, none, none, none⟩
  | .leaf _ => ⟨r, none, none, none, none, none⟩
  | .ns n => ⟨r, none, s.store.nss.find? fun x => x.num == n, none, none, none⟩
  | .seq h | .length h _ | .entry h _ _ | .loss h _ | .child h => seq h
  | .refs h => ⟨r, none, none, none, s.page? h, s.store.remoteRefs.find? fun x => x.page == h⟩

/-- Appends a record to the delta buffer; of a length only the newest stays in one write of it. -/
def State.addDelta (s : State) (r : DeltaRec) : State :=
  let f := s.flash
  let old := match r with | .length _ _ => f.unwritten.filter fun x => x.name != r | _ => f.unwritten
  { s with flash := { f with
    unwritten := old ++ [s.deltaEntry r], deltaTotal := f.deltaTotal + 1 - (f.unwritten.length - old.length) } }

/-- Delta records of changes, while the tier holds its map; each takes one record (DESIGN CHOICE, log 62). -/
def State.delta (l : List DeltaRec) (s : State) : State := if s.tierUp then l.foldl State.addDelta s else s

/-- Replays a delta record (R242). -/
def Persist.apply (p : Persist) (x : DeltaEntry) : Persist :=
  let seq := fun (h : Handle) => { p with seqs := match x.seq with
    | some q => if p.seqs.any fun y => y.handle == h then updWhere (fun y => y.handle == h) (fun _ => q) p.seqs else p.seqs ++ [q]
    | none => p.seqs.filter fun y => y.handle != h }
  match x.name with
  | .frame n =>
    let m := p.map.filter fun e => e.frame != n
    { p with map := match x.map with | some e => insertBy (fun a b => decide (a.frame < b.frame)) e m | none => m }
  | .leaf _ => p
  | .ns n => { p with nss := (p.nss.filter fun y => y.num != n) ++ x.ns.toList }
  | .seq h | .length h _ | .entry h _ _ | .loss h _ | .child h => seq h
  | .refs h => { p with pages := (p.pages.filter fun y => y.handle != h) ++ x.page.toList
                        remoteRefs := (p.remoteRefs.filter fun y => y.page != h) ++ x.placed.toList }

/-- The persistent records as they stand. -/
def State.records (s : State) : Persist := ⟨s.store.nss, s.store.seqs, s.store.pages, s.store.remoteRefs, s.flash.map⟩

/-- Commits that change the map wait: 60 MiB of 16-byte records are unretired. -/
def State.deltaFull (s : State) : Bool := decide (3932160 ≤ s.flash.unwritten.length + s.flash.unretired.length)

/-! ## The flash map (R240) -/

def State.mapEntry? (s : State) (f : Nat) : Option MapEntry := s.flash.map.find? fun e => e.frame == f

/-- Leaves that the leaf cache holds. -/
def leafCache : Nat := 524288

/-- A leaf of the map is used. One that is not in the cache is read from its map block first. -/
def State.touchLeaf (n : Nat) (s : State) : State :=
  let miss : Option Nat := if s.flash.leaves.contains n then none else (s.flash.dir.find? fun x => x.1 == n).map fun x => x.2.1.chan.val
  let s := { s with flash := { s.flash with leaves := (n :: delAll n s.flash.leaves).take leafCache } }
  match miss with
  | some c => s.count 4 nodeScope (8 * c)
  | none => s

/-- The copy of a frame that the map named holds no valid data any more. -/
def State.invalidate (o : MapEntry) (s : State) : State :=
  s.updBlock o.die o.block fun b => { b with frames := updWhere (fun x => x.num == o.frame) (fun x => { x with valid := false }) b.frames }

/-- The map entry of a frame set, its old location marked free of valid data. -/
def State.setMap (e : MapEntry) (s : State) : State :=
  let s := match s.mapEntry? e.frame with | some o => s.invalidate o | none => s
  let m := insertBy (fun a b => decide (a.frame < b.frame)) e (s.flash.map.filter fun x => !(x.frame == e.frame))
  (({ s with flash := { s.flash with map := m } } : State).touchLeaf (e.frame / 512)).delta [.frame e.frame]

/-- The tag of the next frame write (R237). -/
def State.nextTag (s : State) (k : FrameKind) (frame gen index : Nat) (valid : Bool) : Frame :=
  ⟨frame, BitVec.ofNat 16 gen, k, index, Config.frameCrc (s.flash.wseq + 1), s.flash.wseq + 1, valid⟩

/-- The 32 out-of-band bytes of a frame tag (R237). -/
def Frame.tag (f : Frame) : List Byte :=
  let kind : Nat := match f.kind with
    | .page => 0 | .index => 1 | .leaves => 2 | .delta => 3 | .freewheel => 4 | .anchor => 5 | .health => 6
  let b := leBytes 8 f.num ++ leBytes 2 f.gen.toNat ++ leBytes 1 kind ++ zeroBytes 1 ++ leBytes 4 f.dataCrc.toNat ++ leBytes 8 f.wseq ++
    leBytes 2 f.index ++ zeroBytes 2
  b ++ leBytes 4 (crc32c b).toNat

/-- A frame is programmed into a block: the next slot, and a full block closes. Every frame write takes a write sequence number. -/
def State.program (d : DieId) (b : Nat) (f : Frame) (s : State) : State :=
  let s := s.updBlock d b fun x =>
    let full := x.frames.length + 1 = if x.single then singleFrames else blockFrames
    { x with frames := x.frames ++ [f], use := if full then .full else x.use }
  let h := s.flash.health
  ({ s with flash := { s.flash with wseq := s.flash.wseq + 1, health := { h with framesTotal := h.framesTotal + 1 } } }).count 4
    nodeScope (8 * d.chan.val + 1)

/-- Programs one frame that the map names (R240, R245). -/
def State.programFrame (k : FrameKind) (d : DieId) (b frame gen index : Nat) (s : State) : State :=
  match s.fblock? d b with
  | none => s
  | some blk =>
    let t := s.nextTag k frame gen index true
    (s.setMap ⟨frame, d, b, blk.frames.length, BitVec.ofNat 16 gen, index⟩).program d b t

/-- Writes one frame of a stream on a channel, or on the next that has room (R239). -/
def State.placeFrame (k : FrameKind) (st : Stream) (source : Option (DieId × Nat)) (chan frame gen index : Nat) (s : State) : Option State :=
  match ((List.range 32).map fun i => (chan + i) % 32).find? fun c => s.chanRoom c st with
  | none => none
  | some c =>
    match s.openBlock c st with
    | some b => some ((s.updBlock b.die b.num fun x => { x with sources := (x.sources ++ source.toList).eraseDups }).programFrame k b.die b.num
        frame gen index)
    | none =>
      match s.dieToOpen c st with
      | none => none
      | some d =>
        match s.pickBlock d with
        | none => none
        | some b => some ((s.openNew d b st source).programFrame k d.die b frame gen index)

/-- The start of the run of channels with the most free space in their open blocks (R239). -/
def State.firstChannel (s : State) (frames : Nat) : Nat :=
  let room := (List.range 32).map fun c => match s.openBlock c .migration with | some b => blockFrames - b.frames.length | none => 0
  let runLen := min frames 32
  let total := fun c => sumNat ((List.range runLen).map fun i => room.getD ((c + i) % 32) 0)
  (List.range 32).foldl (fun best c => if total best < total c then c else best) 0

/-- A map takes the place of the one held: an entry stands where its block still holds its frame there, and just those copies are
valid. -/
def State.loadMap (m : List MapEntry) (s : State) : State :=
  let there := fun (e : MapEntry) => match s.fblock? e.die e.block with
    | some b => (b.frames[e.slot]?).any fun x => x.num == e.frame && x.gen == e.gen
    | none => false
  let map := m.filter there
  let named := fun (b : FBlock) (slot : Nat) => map.any fun e => e.die == b.die && e.block == b.num && e.slot == slot
  let blocks := s.flash.blocks.map fun b =>
    if b.single then b else { b with frames := (enumFrom 0 b.frames).map fun x => { x.2 with valid := named b x.1 } }
  { s with flash := { s.flash with map := map, blocks := blocks } }

/-- Frees a page's flash location: its map entries go and its frames hold no valid data. -/
def State.freeFlash (first n : Nat) (s : State) : State :=
  (List.range n).foldl (fun s i =>
    let f := first + i
    match s.mapEntry? f with
    | none => s
    | some o =>
      let s := s.invalidate o
      (({ s with flash := { s.flash with map := s.flash.map.filter fun e => !(e.frame == f) } } : State).touchLeaf (f / 512)).delta
        [.frame f]) s

/-! ## System blocks (R235, R242, R252) -/

/-- The blocks of a die that take frames of a kind: 0 and 1 are FW_A and FW_B, 2 and 3 the delta log, 4 the anchor and health
log, 5 to 15 the map (log 25). -/
def sysBlocks : FrameKind → List Nat
  | .leaves => (List.range 11).map (· + 5)
  | .delta => [2, 3]
  | .anchor | .health => [4]
  | _ => [0, 1]

/-- The system block of a kind that a die writes next: the open one, one never written, or the oldest full one, which is erased
for it (DESIGN CHOICE, log 25: the spec does not say how system blocks are reused). -/
def State.sysBlock (k : FrameKind) (d : DieId) (s : State) : Option (Nat × State) :=
  let nums := sysBlocks k
  let mine := s.flash.blocks.filter fun b => b.die == d && nums.contains b.num && b.use != .retired
  match mine.find? fun b => b.use == .opened, nums.find? fun n => (s.fblock? d n).isNone with
  | some b, _ => some (b.num, s)
  | none, some n => some (n, { s with flash := { s.flash with blocks := s.flash.blocks ++ [⟨d, n, true, .opened, .migration, 0, 0, [], [], false⟩] } })
  | none, none =>
    let age := fun (b : FBlock) => (b.frames.head?.map (·.wseq)).getD 0
    match sortBy (fun (a b : FBlock) => decide (age a < age b)) mine with
    | [] => none
    | b :: _ => some (b.num, s.updBlock d b.num fun x => { x with use := .opened, erases := x.erases + 1, frames := [] })

/-- Writes a frame of a system kind on a die; answers where it lies. -/
def State.sysWrite (k : FrameKind) (d : DieId) (s : State) : Option (DieId × Nat × Nat) × State :=
  if (s.fdie? d).isNone then (none, s)
  else match s.sysBlock k d with
    | none => (none, s)
    | some (b, s) =>
      let slot := ((s.fblock? d b).map fun x => x.frames.length).getD 0
      let s := s.program d b (s.nextTag k 0 0 0 false)
      (some (d, b, slot), { s with flash := { s.flash with health := { s.flash.health with framesNew := s.flash.health.framesNew + 1 } } })

/-- The dies of the anchor blocks. -/
def anchorDies : List DieId := [⟨0, 0⟩, ⟨16, 0⟩]

/-- The die that takes the next frame of the delta log, the map or the health log: of those on channels that take writes, in turn
(DESIGN CHOICE, log 25). The anchor block of the anchor dies holds no health log (R235). -/
def State.sysDie (s : State) (k : FrameKind) : Option DieId :=
  let l := (s.flash.dies.map (·.die)).filter fun d => (s.chan d.chan.val).writes && !(k == .health && anchorDies.contains d)
  l[s.flash.wseq % max 1 l.length]?

/-- Writes a frame of a system kind where its turn is. -/
def State.sysNext (k : FrameKind) (s : State) : Option (DieId × Nat × Nat) × State :=
  match s.sysDie k with
  | some d => s.sysWrite k d
  | none => (none, s)

/-- Both anchor blocks are written. -/
def State.writeAnchors (s : State) : State :=
  let s := anchorDies.foldl (fun s d => (s.sysWrite .anchor d).2) s
  { s with flash := { s.flash with anchorSeq := s.flash.anchorSeq + 1 } }

/-! ## The index on flash (R176, R177, R249) -/

/-- The channel of a list segment: FCH(n) for bits 4 to 0 of the CRC-32C of its name. -/
def segChan (n : SegName) : Nat := (crc32c (leBytes 2 n.ns ++ leBytes 1 n.model ++ zeroBytes 1 ++ leBytes 4 n.list)).toNat % 32

/-- The 64 bytes of an index entry (R175). -/
def IdxEntry.bytes (e : IdxEntry) : List Byte :=
  leBytes 8 e.page.toNat ++ leBytes 8 e.seq.toNat ++ leBytes 4 e.block ++ leBytes 1 e.layer ++ leBytes 1 e.model ++ leBytes 2 (b2n e.inherit) ++
  leBytes 4 e.epoch.toNat ++ leBytes 4 e.tag.toNat ++ fitBytes 32 e.code

/-- The 64 KiB of an index block (R176): the header, whose CRC covers the block with that field zero, then the entries. -/
def blockBytes (n : SegName) (l : List IdxEntry) : List Byte :=
  let head := leBytes 4 0x4C534731 ++ leBytes 2 n.ns ++ leBytes 1 n.model ++ zeroBytes 1 ++ leBytes 4 n.list ++ leBytes 2 l.length ++ zeroBytes 14
  let rest := zeroBytes 32 ++ fitBytes 65472 (l.flatMap IdxEntry.bytes)
  head ++ leBytes 4 (crc32c (head ++ zeroBytes 4 ++ rest)).toNat ++ rest

/-- Index blocks kept in the control area, and how many may be (R249): 256 MiB. -/
def State.keptBlocks (s : State) : Nat := sumNat (s.rcl.segments.map fun g => (g.flushed.filter fun b => b.frame.isNone).length)
def keptMax : Nat := 4096

/-- Writes an index block to flash on its segment's channel; none where no place takes it. It lies under a frame number of the
page range, with generation 0 (DESIGN CHOICE, log 36). -/
def State.writeIndex (n : SegName) (s : State) : Option (Nat × State) :=
  if s.flash.state ≠ .service then none
  else match s.lowestRun 1 with
    | none => none
    | some f => (s.placeFrame .index .index none (segChan n) f 0 0).map fun t =>
        (f, { t with flash := { t.flash with health := { t.flash.health with framesNew := t.flash.health.framesNew + 1 } } })

/-- Appends a full block to a segment's directory: on flash, or kept in the control area where flash takes no writes. -/
def State.appendBlock (n : SegName) (l : List IdxEntry) (s : State) : State :=
  match s.writeIndex n with
  | some (f, s) => s.updSegment n fun g => { g with flushed := g.flushed ++ [⟨l, some f⟩] }
  | none => s.updSegment n fun g => { g with flushed := g.flushed ++ [⟨l, none⟩] }

/-- Writes an index entry into the open block of its list's segment; a full open block is written to flash (R177). In `READ_ONLY`,
with the control area's 256 MiB of blocks taken, the entry is not written, and the segment is degraded until it is rebuilt
(R249). -/
def State.putIndex (ptn list : Nat) (e : IdxEntry) (s : State) : State :=
  let n : SegName := ⟨e.seq.toNat / 2 ^ 48, e.model, list⟩
  let s := if (s.segment? n).isSome then s
    else { s with rcl := { s.rcl with segments := s.rcl.segments ++ [segZero n ptn] } }
  if s.flash.state = .readOnly ∧ keptMax ≤ s.keptBlocks then s.updSegment n fun g => { g with degraded := true }
  else
    let s := s.updSegment n fun g => { g with opened := g.opened ++ [e] }
    match s.segment? n with
    | some g => if g.opened.length < indexBlock then s else (s.appendBlock n g.opened).updSegment n fun g => { g with opened := [] }
    | none => s

/-- Index blocks that were kept in the control area go to flash once it takes writes again. -/
def State.flushKept (s : State) : State :=
  s.rcl.segments.foldl (fun s g =>
    if g.removed then s
    else (List.range g.flushed.length).foldl (fun s k =>
      if (g.flushed[k]?.bind (·.frame)).isSome then s
      else match s.writeIndex g.name with
        | some (f, s) => s.updSegment g.name fun g => { g with flushed := updAt k (fun b => { b with frame := some f }) g.flushed }
        | none => s) s) s

/-! ## The channels' work (R232, R258) -/

/-- The place of a class in the order of R258. -/
def WorkClass.rank : WorkClass → Nat
  | .attend => 0 | .draft => 1 | .scan => 2 | .write => 3 | .patrol => 4

/-- A program or erase may run on a die: it takes the copies of reclamation or of a migration, or a block of it is due for erase. -/
def State.dieBusy (s : State) (d : DieId) : Bool :=
  s.flash.blocks.any fun b => b.die == d && !b.single &&
    ((b.use == .opened && b.stream == .reclamation && s.flash.copying.any fun c => c.1.chan == d.chan) ||
     (b.use == .opened && b.stream == .migration && s.store.pages.any fun p => p.job == .toFlash) ||
     (b.use == .reclaiming && b.frames.all fun x => !x.valid))

/-- Work joins a channel behind all work of its class and of those before it. For an attend's read or a drafting read, a program or
erase that runs on the die is suspended. -/
def State.queueWork (cls : WorkClass) (key : Handle) (d : DieId) (s : State) : State :=
  let read := cls.rank ≤ 1
  let stop := read ∧ s.dieBusy d
  s.updChan d.chan.val fun c => { c with
    queue := insertBy (fun a b => decide (a.cls.rank < b.cls.rank)) ⟨cls, key, d.die.val⟩ c.queue
    suspended := if stop then addNew d.die.val c.suspended else c.suspended }

/-- Work of a channel without some of it; a die that has no more reads of attends or drafting resumes what it had suspended. -/
def Chan.without (f : ChanWork → Bool) (c : Chan) : Chan :=
  let q := c.queue.filter fun w => !f w
  { c with queue := q, suspended := c.suspended.filter fun k => q.any fun w => w.die == k && decide (w.cls.rank ≤ 1) }

/-- Work of the channels is done. -/
def State.doneWork (cls : WorkClass) (key : Handle) (s : State) : State :=
  { s with flash := { s.flash with chans := s.flash.chans.map (Chan.without fun w => w.cls == cls && w.page == key) } }

/-- The program or erase that runs on a die is suspended for a read. -/
def State.dieSuspended (s : State) (d : DieId) : Bool := (s.chan d.chan.val).suspended.contains d.die.val

/-- The key of a frame's work. -/
def frameKey (f : Nat) : Handle := mkHandle 0 f 0

/-- The die of a page's first flash frame. -/
def State.pageDie (s : State) (h : Handle) : DieId := ((s.mapEntry? (handleFrame h)).map (·.die)).getD ⟨0, 0⟩

/-! ## Writing pages -/

/-- Every die of the tier is worn, on a fenced channel, or without a free block, and media loss is the cause (R249). -/
def State.mediaLost (s : State) : Bool := s.flash.dies.any fun d => d.worn || (s.chan d.die.chan.val).state == .fenced

/-- No die can take a write: each is worn, on a fenced channel, or without a free block (R249). -/
def State.noPlace (s : State) : Bool :=
  s.flash.dies.all fun d => d.worn || (s.chan d.die.chan.val).state == .fenced ||
    (d.free == 0 && (s.openBlock d.die.chan.val .migration).isNone)

/-- A write that needs flash could not be placed: the tier enters `READ_ONLY` where media loss is the cause, and migrations
to flash are abandoned (R249, R259). -/
def State.enterReadOnly (s : State) : State :=
  if s.flash.state = .service ∧ s.writeEnabled ∧ s.mediaLost ∧ s.noPlace then
    let pages := updWhere (fun p => p.job == .toFlash) Page.endJob s.store.pages
    ({ s with flash := { s.flash with state := .readOnly }, store := { s.store with pages := pages } } : State).raise .flsSts 5
      ⟨3, 11, 1, 0xFF, 0, []⟩
  else s

/-- The tier takes writes of its own: in service, WR_EN set, the buffer not at its limit (R241, R249, R260). -/
def State.flashWritable (s : State) : Bool := s.flash.state == .service && s.writeEnabled && !s.deltaFull

/-- Writes every frame of a page image to flash (R239). -/
def State.writePage (p : Page) (s : State) : Option State :=
  if ¬ s.flashWritable ∨ s.flashQuota p.ptn < s.flashUsed p.ptn + p.frames then none
  else
    let c0 := s.firstChannel p.frames
    let step := fun (o : Option State) (i : Nat) => match o with
      | none => none
      | some s => s.placeFrame .page .migration none ((c0 + i) % 32) (handleFrame p.handle + i) (handleGen p.handle) i
    match (List.range p.frames).foldl step (some s) with
    | none => none
    | some t =>
      let h := t.flash.health
      let t := { t with flash := { t.flash with health := { h with framesNew := h.framesNew + p.frames } } }
      some (t.updPage p.handle fun x => { x with flash := true })

/-! ## Demotion (R253, R254) -/

def Page.sealed? (p : Page) : Bool := !p.img.tail

/-- A page that may leave HBM: sealed, no ring page, resident, no copy under way, not pinned. -/
def Page.demotable (p : Page) : Bool :=
  p.sealed? && !p.img.ring && p.hbm.isSome && p.pins == 0 && p.job == .none && !p.recovering && p.refs != 0

/-- The pages that demotion would take, oldest last selection first. -/
def State.coldest (s : State) (ok : Page → Bool) : List Page :=
  sortBy (fun a b => decide (a.lastSel < b.lastSel)) (s.store.pages.filter fun p => p.demotable && ok p)

/-- Takes a page's HBM location away once a flash copy stands; of a page that a read pins, with its last pin (R253, R254). -/
def State.leaveHbm (h : Handle) (s : State) : State :=
  s.updPage h fun p => if ¬ p.flash then p else if p.pins = 0 then { p with hbm := none, openRec := [] } else { p with job := .leave }

/-- Demotes one page at once, writing its flash copy first where it has none. -/
def State.demoteNow (p : Page) (s : State) : Option State :=
  if p.flash then some (s.leaveHbm p.handle)
  else (s.writePage p).map fun t => t.leaveHbm p.handle

/-- Demotes a partition's coldest pages until `need` frames fit its quota (R254). -/
def State.makeRoom (ptn need : Nat) : Nat → List Page → State → Option State
  | _, [], s => if s.hbmUsed ptn + need ≤ s.hbmQuota ptn then some s else none
  | 0, _, _ => none
  | k + 1, p :: l, s =>
    if s.hbmUsed ptn + need ≤ s.hbmQuota ptn then some s
    else match s.demoteNow p with
      | some t => State.makeRoom ptn need k l t
      | none => State.makeRoom ptn need k l s

/-- Room in a partition's HBM quota, demoting its own pages where it is full (R254). -/
def State.quotaRoom (ptn need : Nat) (s : State) : Option State :=
  let cold := s.coldest fun p => p.ptn == ptn
  s.makeRoom ptn need (cold.length + 1) cold

/-! ## New pages -/

/-- A page with nothing but its image. -/
def Page.fresh (h : Handle) (ptn : Nat) (name : PageName) (img : Image) (frames now : Nat) : Page where
  handle := h
  ptn := ptn
  name := name
  img := img
  frames := frames
  refs := 0
  pins := 0
  hbm := none
  leaving := []
  flash := false
  sealing := .idle
  job := .none
  recovering := false
  copies := []
  awaiting := []
  recentSel := []
  lastSel := now
  openRec := []
  index := none

/-- Makes a page in HBM (R42, R44, R216, R325). `above` takes frames above the quota (R300). -/
def State.newPage (ptn : Nat) (name : PageName) (img : Image) (frames : Nat) (above : Bool) (s : State) : Option (Handle × State) :=
  match (if above then some s else s.quotaRoom ptn frames) with
  | none => none
  | some s =>
    match s.chooseStack name.block name.layer (shardOf name.seq) frames, s.lowestRun frames with
    | some st, some f =>
      let gen := s.nextGen f
      let h := mkHandle s.self f gen
      let p := { Page.fresh h ptn name img frames s.pow.tsc.toNat with refs := 1, hbm := some ⟨st, none, 0⟩ }
      some (h, ({ s with store := { s.store with
        pages := s.store.pages ++ [p], gens := assocSet f (BitVec.ofNat 16 gen) s.store.gens } } : State).delta [.refs h])
    | _, _ => none

/-! ## References (R56, R63, R64) -/

/-- A copy of a page under another node's handle, kept beside the sequence's own references (R25, R37). -/
def Page.foreign (s : State) (p : Page) : Bool := !s.isOwn p.handle

/-- The seal of a page is over: its engine is free and nothing of it waits. -/
def State.endSeal (p : Page) (s : State) : State :=
  let mine := fun (x : Step) => x == .seal p.name
  let s := s.updPage p.handle fun x => { x with sealing := .idle }
  { s with eng := { s.eng with
      engines := s.eng.engines.map fun e => match e.step with | some (_, x) => if mine x then { e with step := none } else e | none => e
      held := s.eng.held.filter fun h => !mine h.step }
           flash := { s.flash with stalled := delAll p.name s.flash.stalled } }

/-- Frees the frames of the unfinished image of a page's running seal (R57, R107). -/
def State.dropImage (p : Page) (s : State) : State :=
  match p.sealing with
  | .running _ k _ =>
    ({ s with store := { s.store with pages := s.store.pages.filter fun x => !(x.handle == k) } } : State).delta [.refs k]
  | _ => s

/-- Cancels the seal of a page: a queued seal leaves the queue, a running one stops (R57). -/
def State.cancelSeal (p : Page) (s : State) : State := (s.endSeal p).dropImage p

/-- A running seal goes back to the queue, raised (R24, R107, R440). -/
def State.requeueSeal (p : Page) (s : State) : State :=
  (s.dropImage p).updPage p.handle fun x => { x with sealing := .queued true }

/-! ## Where pages stand -/

/-- Where a page stands in the sequences of this node: sequence, layer and block. -/
def State.referrers (s : State) (h : Handle) : List (Seq × Nat × Nat) :=
  s.store.seqs.flatMap fun q => (enumFrom 0 q.layers).flatMap fun x =>
    (x.2.entries.filter fun e => e.page == h).map fun e => (q, x.1, e.block)

/-- Changes an entry of a page table. -/
def State.updEntry (x : Seq × Nat × Nat) (f : Entry → Entry) (s : State) : State :=
  let layer := fun (y : Layer) => { y with entries := updWhere (fun e => e.block == x.2.2) f y.entries }
  ({ s with store := { s.store with
      seqs := updWhere (fun q => q.handle == x.1.handle) (fun q => { q with layers := updAt x.2.1 layer q.layers }) s.store.seqs } } : State).delta
    [.entry x.1.handle x.2.1 x.2.2]

/-- The entries of the sequences given name another page, which takes their references (R49). -/
def State.repoint (refs : List (Seq × Nat × Nat)) (old new : Handle) (s : State) : State :=
  let s := refs.foldl (fun s x => s.updEntry x fun e => { e with page := new, env := [], requant := 0 }) s
  ((s.updPage old fun p => { p with refs := p.refs - refs.length }).updPage new fun p => { p with refs := refs.length }).delta
    [.refs old, .refs new]

/-- A full tail frame that its sequence has left is sealed for one that still refers to it (log 45); its header keeps the
sequence that opened it (R92). -/
def State.inheritSeal (p : Page) (s : State) : State :=
  let refs := s.referrers p.handle
  if p.sealing = .idle ∨ refs.any (fun x => x.1.handle == p.name.seq) then s
  else match refs with
    | [] => s
    | (q, l, b) :: _ =>
      let raised : Bool := match p.sealing with | .queued r => r | _ => true
      (s.cancelSeal p).updPage p.handle fun x => { x with
        name := ⟨q.handle, l, b⟩, sealing := .queued raised }

/-- One reference more. -/
def State.addRef (h : Handle) (s : State) : State := (s.updPage h fun p => { p with refs := p.refs + 1 }).delta [.refs h]

/-- Drops `n` references of a page held here. A copy under way of a page that nothing refers to is abandoned (R65). -/
def State.dropLocal (h : Handle) (n : Nat) (s : State) : State :=
  (s.updPage h fun p => let q := { p with refs := p.refs - n }; if p.refs ≤ n then q.endJob else q).delta [.refs h]

/-- What this node keeps of a page under another node's handle (R67). -/
def State.placed? (s : State) (h : Handle) : Option Placed := s.store.remoteRefs.find? fun x => x.page == h
def State.remoteRefs (s : State) (h : Handle) : Nat := ((s.placed? h).map (·.refs)).getD 0
def State.updPlaced (h : Handle) (f : Placed → Placed) (s : State) : State :=
  let l := s.store.remoteRefs
  ({ s with store := { s.store with
      remoteRefs := if (s.placed? h).isSome then updWhere (fun x => x.page == h) f l else l ++ [f ⟨h, 0, [], [], none, none⟩] } } : State).delta
    [.refs h]

/-- One reference more to a page: counted apart for a page that another node counts (R67). -/
def State.refer (h : Handle) (s : State) : State :=
  if (s.placed? h).isNone ∧ s.isOwn h ∧ (s.page? h).isSome then s.addRef h else s.updPlaced h fun x => { x with refs := x.refs + 1 }

/-- One reference more, which node `n` counts too. -/
def State.referFrom (n : NodeId) (h : Handle) (s : State) : State :=
  s.updPlaced h fun x => { x with refs := x.refs + 1, owners := assocSet n ((assoc n x.owners).getD 0 + 1) x.owners }

/-- Releases copies on other nodes (R64). -/
def State.releaseAll (l : List Handle) (s : State) : State :=
  l.foldl (fun s c => s.postMsg (handleNode c) (.pageRelease c 1)) s

/-- Drops `n` references to a page that other nodes count: they hear of the last one, and copies are released with it. -/
def State.dropPlaced (home : Bool) (x : Placed) (n : Nat) (s : State) : State :=
  if n < x.refs then s.updPlaced x.page fun y => { y with refs := y.refs - n }
  else
    let s := { s with store := { s.store with remoteRefs := s.store.remoteRefs.filter fun y => !(y.page == x.page) } }.delta [.refs x.page]
    if home then (x.owners.foldl (fun (s : State) (o : NodeId × Nat) => s.postMsg o.1 (.pageRelease x.page o.2)) s).releaseAll x.copies
    else s

/-- Drops a sequence's reference to a page: on this node, where the copies that other nodes keep are released with the
last one; or of a page of another node, whose holder hears of the last one. Only a home sends releases (R64, R446). -/
def State.dropRef (home : Bool) (h : Handle) (s : State) : State :=
  match s.placed? h with
  | some x => s.dropPlaced home x 1
  | none =>
    match (if s.isOwn h then s.page? h else none) with
    | none => s
    | some p =>
      let s := s.dropLocal h 1
      if 1 < p.refs then (if p.img.tail then s.inheritSeal p else s)
      else
        let s := if p.img.tail then s.cancelSeal p else s
        if home then s.releaseAll p.copies else s

/-- A page is live (R62). -/
def State.live (s : State) (h : Handle) : Bool := match s.page? h with | some p => p.refs != 0 | none => false

/-- Evicts the staging lines of a handle (R21, R63). -/
def State.evict (h : Handle) (s : State) : State := { s with staging := s.staging.filter fun l => !(l.page == h) }

/-- Reclaims a released page that nothing pins (R63). -/
def State.reclaim (h : Handle) (s : State) : State :=
  match s.page? h with
  | none => s
  | some p =>
    if p.refs = 0 ∧ p.pins = 0 then
      let s := if p.flash then s.freeFlash (handleFrame h) p.frames else s
      ({ s with store := { s.store with pages := s.store.pages.filter fun q => !(q.handle == h) } }).evict h
    else s

/-! ## The journal (R52) -/

/-- Bytes of a journal entry: the 60-byte header, the token ID and the row. -/
def entryBytes (row : List Word16) : Nat := 64 + 2 * row.length

def journalHalf (seq : Handle) : Nat := shardOf seq % 2
def journalCap : Nat := 134217728
def State.journalUsed (s : State) (half : Nat) : Nat :=
  sumNat (s.store.journal.map fun e => if e.half = half then e.bytes else 0)

/-- Whether `n` bytes fit a journal half whose stack serves. -/
def State.journalRoom (s : State) (half n : Nat) : Bool :=
  s.serving (if half = 0 then s.hbm.journalWest else s.hbm.journalEast) && decide (s.journalUsed half + n ≤ journalCap)

end Sys2Proof.Machine
end

