-- ==== Sys2Proof/Machine/Seqs.lean ====
section
/-! DEFINITION. Sequences: layers, tails, appended rows, the journal and the lengths (02_sequences_and_pages.md R33 to
R64), truncation (R57, R58), deletion (R304), forks on one node (R53, R54) and what a mirrored step does on the
tandem. -/

namespace Sys2Proof.Machine

/-! ## Layers and entries -/

/-- The layer group of a layer. -/
def groupAt : List LayerGroup → Nat → Option LayerGroup
  | [], _ => none
  | g :: l, n => if n < g.layers then some g else groupAt l (n - g.layers)

def planeZero : Plane := ⟨0, 0, 0, 0, [], [], [], [], []⟩
def groupZero : LayerGroup := ⟨.exact, none, 1, 1, 1, 32, 0⟩

def Seq.group (q : Seq) (l : Nat) : LayerGroup := (groupAt q.groups l).getD groupZero
def Seq.layer (q : Seq) (l : Nat) : Layer := q.layers.getD l ⟨0, 0, 0, [], none, []⟩
def Seq.updLayer (q : Seq) (l : Nat) (f : Layer → Layer) : Seq := { q with layers := updAt l f q.layers }

def Layer.entry? (l : Layer) (block : Nat) : Option Entry := l.entries.find? fun e => e.block == block

/-- The token-ID length: the greatest length among the layers (R36). -/
def Seq.tokLen (q : Seq) : Nat := listMax (q.layers.map (·.length))

def State.updSeq (h : Handle) (f : Seq → Seq) (s : State) : State :=
  { s with store := { s.store with seqs := updWhere (fun x => x.handle == h) f s.store.seqs } }

def State.updLayer (h : Handle) (l : Nat) (f : Layer → Layer) (s : State) : State := s.updSeq h fun q => q.updLayer l f

/-- The layer group that a page's image tells by itself. -/
def imageGroup (i : Image) : LayerGroup :=
  let c := (i.planes.headD planeZero).channels
  match i.layout with
  | .joint => ⟨.joint, none, 1, 1, 1, c, (i.planes.getD 1 planeZero).channels⟩
  | lay => ⟨lay, none, 1, i.planes.length / 2, i.planes.length / 2, c, 0⟩

def State.groupFor (s : State) (seq : Handle) (l : Nat) (i : Image) : LayerGroup :=
  match s.seq? seq with | some q => q.group l | none => imageGroup i

/-- The image of a block of a layer, where this node holds its page. -/
def State.blockPage (s : State) (q : Seq) (l block : Nat) : Option Page :=
  match (q.layer l).entry? block with
  | some e => s.page? e.page
  | none => none

/-! ## Token IDs (R36, R104, R206) -/

def noToken : Word32 := 0xFFFFFFFF

def Seq.token (q : Seq) (pos : Nat) : Word32 :=
  match q.tokens.find? fun b => b.idx == pos / 256 with
  | some b => b.ids.getD (pos % 256) noToken
  | none => noToken

def tokCrc (ids : List Word32) : Word32 := crc32c (ids.flatMap fun w => leBytes 4 w.toNat)

/-- A block with one identity set; a full block gets its check word. -/
def TokBlock.put (b : TokBlock) (i : Nat) (id : Word32) : TokBlock :=
  let ids := updAt i (fun _ => id) b.ids
  { b with ids := ids, crc := if ids.all (· != noToken) then some (tokCrc ids) else none }

def TokBlock.fresh (k : Nat) : TokBlock := ⟨k, List.replicate 256 noToken, none, false⟩

def putToken (pos : Nat) (id : Word32) (l : List TokBlock) : List TokBlock :=
  let l := if l.any fun b => b.idx == pos / 256 then l else l ++ [TokBlock.fresh (pos / 256)]
  updWhere (fun b => b.idx == pos / 256) (fun b => b.put (pos % 256) id) l

def putTokens (pos : Nat) : List Word32 → List TokBlock → List TokBlock
  | [], l => l
  | id :: ids, l => putTokens (pos + 1) ids (putToken pos id l)

/-- The token-ID plane cut to `t` (R57, R206). -/
def cutTokens (t : Nat) (l : List TokBlock) : List TokBlock :=
  (l.filter fun b => decide (256 * b.idx < t)).map fun b =>
    if t < 256 * b.idx + 256 then
      { b with ids := (enumFrom 0 b.ids).map fun x => if 256 * b.idx + x.1 < t then x.2 else noToken, crc := none }
    else b

/-! ## Payloads (R302, R303, R305) -/

/-- The replica field: NREPL distinct nodes, the rest of the eight zero (R303). -/
def replicasOf (n : Nat) (b : List Byte) : Option (List NodeId) :=
  let w := leWords 2 b
  let l := w.take n
  if (l.all fun x => decide (x < 4096)) ∧ (w.drop n).all (· == 0) ∧ l.dedup.length = n then some (l.map fun x => BitVec.ofNat 12 x)
  else none

/-- CLASS and NREPL agree (R303). -/
def classOk (cls nrepl : Nat) : Bool := (cls == 0 && nrepl == 0) || (cls == 1 && decide (2 ≤ nrepl ∧ nrepl ≤ 8))

def parseGroups (l : List Byte) : Option (List LayerGroup) := (chunks 16 l).mapM LayerGroup.parse

def parseSeqCreate (b : List Byte) : Option SeqCreateReq :=
  let n := field b 10 1
  if b.length = 40 + 16 * n ∧ 1 ≤ n ∧ n ≤ 16 ∧ zeros (slice b 17 7) ∧ classOk (field b 11 1) (field b 16 1) then
    match parseGroups (b.drop 40), replicasOf (field b 16 1) (slice b 24 16) with
    | some gs, some rs =>
      let layers := sumNat (gs.map (·.layers))
      if layers = field b 8 2 ∧ 1 ≤ layers ∧ layers ≤ 256 then
        some ⟨BitVec.ofNat 64 (field b 0 8), gs, field b 11 1 == 1, BitVec.ofNat 32 (field b 12 4), rs⟩
      else none
    | _, _ => none
  else none

def parseFork (b : List Byte) : Option ForkReq :=
  if b.length = 48 ∧ zeros (slice b 22 2) ∧ zeros (slice b 28 4) ∧ classOk (field b 20 1) (field b 21 1) then
    match replicasOf (field b 21 1) (slice b 32 16) with
    | some rs => some ⟨BitVec.ofNat 64 (field b 0 8), BitVec.ofNat 64 (field b 8 8), field b 16 4, field b 20 1 == 1,
        BitVec.ofNat 32 (field b 24 4), rs⟩
    | none => none
  else none

/-! ## Names (R32, R34, R300) -/

def serialOf (h : Handle) : Nat := h.toNat % 2 ^ 48

/-- Judges a namespace that a command names (R32, R300). -/
def State.nsCheck (s : State) (ptn n : Nat) : Option Status :=
  if n = 0 ∨ n = 0xFFFF then some .badParam
  else match s.ns? n with
    | none => some .unknownSeq
    | some x => if x.ptn = ptn then none else some .denied

/-- Judges a sequence that a command names. -/
def State.seqCheck (s : State) (ptn : Nat) (h : Handle) : Option Status :=
  match s.nsCheck ptn (nsOf h) with
  | some st => some st
  | none => if (s.seq? h).isSome then none else some .unknownSeq

/-! ## Roles of a sequence -/

/-- The tandem that a home mirrors to. -/
def State.mirrorNode (s : State) (h : Handle) : Option NodeId := if s.isHome h then s.tandemOf h else none

/-- Sends a step of a sequence to its tandem (R380). -/
def State.mirrorMsg (h : Handle) (reqId : Word64) (m : Msg) (s : State) : State :=
  match s.mirrorNode h with
  | some n => s.postFor n reqId m
  | none => s

/-- As `mirrorMsg`, with what the command that waits for it waits for. -/
def State.mirrorWait (h : Handle) (reqId : Word64) (m : Msg) (s : State) : Option (NodeId × Nat) × State :=
  match s.mirrorNode h with
  | some n =>
    let s := s.postFor n reqId m
    (some (n, (s.peer n).txOrd), s)
  | none => (none, s)

/-! ## Creation -/

def Layer.empty : Layer := ⟨0, 0, 0, [], none, []⟩

def freshSeq (r : SeqCreateReq) (st : SeqState) : Seq :=
  ⟨r.seq, r.groups, r.shared, r.replicas, r.tag, List.replicate r.layers Layer.empty, [], st, true, []⟩

def State.addSeq (q : Seq) (s : State) : State :=
  ({ s with store := { s.store with seqs := s.store.seqs ++ [q] } }).delta [.seq q.handle]

/-- Sequences of a namespace (R301). -/
def State.nsCount (s : State) (n : Nat) : Nat := (s.store.seqs.filter fun q => nsOf q.handle == n).length

/-- Room for one more sequence (R303). -/
def State.seqRoom (s : State) (n : Nat) : Bool :=
  (match s.ns? n with | some x => decide (s.nsCount n < x.maxSeq) | none => false) &&
  (s.store.seqs.isEmpty || decide (s.store.seqs.length < Config.descriptorSpace))

/-! ## Tails -/

/-- A layer's page table gets an entry. -/
def State.addEntry (h : Handle) (l : Nat) (e : Entry) (s : State) : State :=
  (s.updLayer h l fun x => { x with entries := (x.entries.filter fun y => y.block != e.block) ++ [e] }).delta [.entry h l e.block]

/-- Drops the entries of a layer that satisfy `p`, with their references. -/
def State.dropEntries (home : Bool) (h : Handle) (l : Nat) (p : Entry → Bool) (s : State) : State :=
  match s.seq? h with
  | none => s
  | some q =>
    let gone := (q.layer l).entries.filter p
    let s := (s.updLayer h l fun x => { x with entries := x.entries.filter fun e => !p e }).delta (gone.map fun e => .entry h l e.block)
    gone.foldl (fun s e => s.dropRef home e.page) s

/-- Pins a page that opens in a ring layer for the attends that wait for positions of the layer (R41). -/
def State.pinForWaits (h : Handle) (l : Nat) (page : Handle) (s : State) : State :=
  let waits := fun (i : Inflight) => match i.wait.inner with | .positions r => r.req.seq == h && r.req.layer == l | _ => false
  s.cmds.list.foldl (fun s i =>
    if waits i then (s.updInflight i.id fun x => { x with pins := x.pins ++ [page] }).pin [page] else s) s

/-- Opens the tail page of a block (R48); in a ring layer the page that the slot held leaves the sequence (R40). -/
def State.openTail (home above : Bool) (q : Seq) (l block : Nat) (img : Image) (s : State) : Option State :=
  match s.newPage (s.seqPtn q.handle) ⟨q.handle, l, block⟩ img (img.frames (q.group l)) above with
  | none => none
  | some (h, s) =>
    let s := s.addEntry q.handle l ⟨block, h, [], 0⟩
    match (q.group l).window with
    | some w => some ((s.pinForWaits q.handle l h).dropEntries home q.handle l fun e => decide (e.block + w / 256 + 1 = block))
    | none => some s

/-- The tail page of a block, opened where the layer has none. -/
def State.withTail (home above : Bool) (h : Handle) (l : Nat) (s : State) : Option State :=
  match s.seq? h with
  | none => none
  | some q =>
    let n := (q.layer l).length
    match (q.layer l).entry? (n / 256) with
    | some _ => some s
    | none =>
      let g := q.group l
      let pad := List.replicate (n % 256) (List.replicate g.ctot (0 : Word16))
      s.openTail home above q l (n / 256) ((emptyTail g h l (n / 256)).addRows pad)

/-- Queues a full tail page for sealing (R24, R48). -/
def State.queueSeal (h : Handle) (s : State) : State := s.updPage h fun p => { p with sealing := .queued false }

/-- Writes rows at a layer's length, opening tail pages and queueing full ones for sealing (R48). -/
def State.putRows (home above : Bool) (h : Handle) (l : Nat) : Nat → List (List Word16) → State → Option State
  | 0, _, s => some s
  | k + 1, rows, s =>
    if rows = [] then some s
    else match s.withTail home above h l with
      | none => none
      | some s =>
        match s.seq? h with
        | none => none
        | some q =>
          let n := (q.layer l).length
          let m := min (256 - n % 256) rows.length
          match (q.layer l).entry? (n / 256) with
          | none => none
          | some e =>
            let s := s.updPage e.page fun p => { p with img := p.img.addRows (rows.take m) }
            let s := s.updLayer h l fun x => { x with length := n + m }
            let s := if (n + m) % 256 = 0 then
                let s := s.queueSeal e.page
                (s.withTail home above h l).getD s
              else s
            State.putRows home above h l k (rows.drop m) s

/-! ## Append records and appends (R36, R45, R310) -/

/-- How one layer takes an append (R45). -/
inductive Fit where
  | apply | duplicate | conflict | gap | lost
  deriving DecidableEq, Repr

def State.fitLayer (s : State) (a : AppendReq) (q : Seq) (l : Nat) : Fit :=
  let x := q.layer l
  if x.length < a.pos then (if x.loss.isSome then .lost else .gap)
  else if a.pos = x.length then .apply
  else if s.store.appendRecs.any fun r => r.seq == a.seq && r.layers.contains l && r.first == a.pos && r.digest == a.digest &&
      r.bulk == a.bulk && !r.removed then .duplicate
  else .conflict

/-- How all layers of an append take it (R310). -/
def State.fit (s : State) (a : AppendReq) (q : Seq) : Fit :=
  let f := a.layers.map (s.fitLayer a q)
  if f.contains .conflict then .conflict
  else if f.contains .lost then .lost
  else if f.contains .gap then .gap
  else if f.all (· == .duplicate) then .duplicate
  else if f.contains .duplicate then .conflict
  else .apply

/-- The token IDs agree with those recorded (R36). -/
def tokensAgree (q : Seq) : Nat → List Word32 → Bool
  | _, [] => true
  | pos, id :: l => (q.token pos == noToken || q.token pos == id) && tokensAgree q (pos + 1) l

/-- After an applied append the lost range begins at the new length; the record goes at its end (R453). -/
def Layer.advanceLoss (x : Layer) : Layer :=
  match x.loss with
  | none => x
  | some r => { x with loss := if r.fin ≤ x.length then none else some { r with first := x.length } }

/-- Applies an append to every layer it names (R45, R47): rows, token IDs, the record. -/
def State.applyRows (home above : Bool) (a : AppendReq) (reqId : Word64) (ptn : Nat) (s : State) : Option State :=
  let step := fun (o : Option State) (x : Nat × List (List Word16)) => match o with
    | none => none
    | some s => (s.putRows home above a.seq x.1 (x.2.length + 1) x.2).map fun s => s.updLayer a.seq x.1 Layer.advanceLoss
  match (List.zip a.layers a.rows).foldl step (some s) with
  | none => none
  | some s =>
    let s := s.updSeq a.seq fun q => { q with tokens := putTokens a.pos a.tokens q.tokens }
    let rec' : AppendRec := ⟨a.seq, a.layers, a.pos, a.count, a.digest, a.bulk, reqId, ptn, false⟩
    some (({ s with store := { s.store with appendRecs := s.store.appendRecs ++ [rec'] } }).delta (a.layers.map fun l => .length a.seq l))

/-! ## The journal and the persisted length (R50 to R52) -/

def State.journaled (s : State) (h : Handle) (l pos : Nat) : Bool :=
  s.store.journal.any fun e => e.seq == h && e.layer == l && e.pos == pos

/-- Whether the block of a layer is persisted by its page: sealed and on flash here, or held sealed by another node (log
47). -/
def State.blockOnFlash (s : State) (q : Seq) (l block : Nat) : Bool :=
  match (q.layer l).entry? block with
  | some e => match s.page? e.page with
    | some x => !x.img.tail && x.flash
    | none => !s.isOwn e.page
  | none => false

/-- The persisted length that the journal and flash give, from `p` on. -/
def State.persistFrom (s : State) (q : Seq) (l : Nat) : Nat → Nat → Nat
  | 0, p => p
  | k + 1, p =>
    if (q.layer l).length ≤ p then p
    else if s.blockOnFlash q l (p / 256) then s.persistFrom q l k (min (q.layer l).length ((p / 256 + 1) * 256))
    else if s.journaled q.handle l p then s.persistFrom q l k (p + 1)
    else p

/-- The map leaves of a sequence's pages come into the leaf cache (R240). -/
def State.loadLeaves (q : Seq) (s : State) : State :=
  let own := q.layers.flatMap fun l => (l.entries.map (·.page)).filter fun h => s.isOwn h && (s.mapEntry? (handleFrame h)).isSome
  ((own.map fun h => handleFrame h / 512).eraseDups).foldl (fun s n => s.touchLeaf n) s

/-- Makes a sequence's descriptor resident: a control core installs it for a seal or a message (R16, R17). -/
def State.install (h : Handle) (s : State) : State :=
  match s.seq? h with
  | some q => if q.resident then s else (s.loadLeaves q).updSeq h fun q => { q with resident := true }
  | none => s

/-- Brings a layer's persisted length up to date; a home tells its tandem (R380 kind 7). -/
def State.notePersisted (h : Handle) (l : Nat) (s : State) : State :=
  match s.seq? h with
  | none => s
  | some q =>
    let x := q.layer l
    let p := s.persistFrom q l x.length x.persisted
    if p = x.persisted then s
    else ((s.updLayer h l fun y => { y with persisted := p }).delta [.length h l]).mirrorMsg h 0 (.stepPersisted h l p)

/-- Positions of a layer below `upTo` whose rows stand in tail frames and that the journal lacks. -/
def State.toJournal (s : State) (q : Seq) (l upTo : Nat) : List Nat :=
  ((List.range (upTo - (q.layer l).persisted)).map (· + (q.layer l).persisted)).filter fun p =>
    !s.journaled q.handle l p && (match s.blockPage q l (p / 256) with | some x => x.img.tail | none => false)

/-- Sealed pages of a layer that hold positions from the persisted length to `upTo` and lie on no flash. -/
def State.toFlash (s : State) (q : Seq) (l upTo : Nat) : List Page :=
  ((q.layer l).entries.filter fun e => decide ((q.layer l).persisted < 256 * (e.block + 1) ∧ 256 * e.block < upTo)).filterMap fun e =>
    match s.page? e.page with
    | some p => if p.sealed? && !p.flash then some p else none
    | none => none

/-- Journals one position. -/
def State.journalPut (q : Seq) (l pos : Nat) (s : State) : State :=
  match s.blockPage q l (pos / 256) with
  | none => s
  | some p =>
    let row := p.img.rows.getD (pos % 256) []
    let r := s.store.appendRecs.find? fun r => r.seq == q.handle && r.layers.contains l && decide (r.first ≤ pos ∧ pos < r.first + r.count)
    let e : JEntry := ⟨journalHalf q.handle, q.handle, l, pos, q.token pos, row, r, entryBytes row, if p.img.marked (pos % 256) then p.img.inherit else none⟩
    { s with store := { s.store with journal := s.store.journal ++ [e] } }

/-- Starts the flash write that a `PERSISTED` position waits for (R52). A ring page goes to no flash (R40), so positions of
sealed ring pages that the journal lacks keep an append at `PERSISTED` waiting (DESIGN CHOICE, log 48). -/
def State.startFlash (h : Handle) (s : State) : State :=
  s.updPage h fun p => if p.job = .none ∧ !p.img.ring then p.startJob .toFlash else p

/-- Makes a layer persistent up to `upTo`, as far as this step can (R52). -/
def State.persist (h : Handle) (l upTo : Nat) (s : State) : State :=
  match s.seq? h with
  | none => s
  | some q =>
    let s := (s.toJournal q l upTo).foldl (fun s p => s.journalPut q l p) s
    let s := (s.toFlash q l upTo).foldl (fun s p => s.startFlash p.handle) s
    s.notePersisted h l

/-- Journal bytes that an append at `PERSISTED` needs: its own rows and the positions below it that the journal
lacks. -/
def State.journalNeed (s : State) (a : AppendReq) (q : Seq) : Nat :=
  sumNat ((List.zip a.layers a.rows).map fun x =>
    sumNat (x.2.map entryBytes) +
    sumNat ((s.toJournal q x.1 a.pos).map fun _ => 64 + 2 * (q.group x.1).ctot))

/-- Journal entries retire when their page is sealed and on flash (R52). -/
def State.retireJournal (h : Handle) (l block : Nat) (s : State) : State :=
  { s with store := { s.store with journal := s.store.journal.filter fun e => !(e.seq == h && e.layer == l && e.pos / 256 == block) } }

/-! ## Acknowledgement at a level (R47, R50) -/

/-- The level that an append asks for: 1 `LOCAL`, 2 `MIRRORED`, 3 `PERSISTED` (R50, R308). -/
def State.levelOf (s : State) (a : AppendReq) : Nat :=
  if a.level = 0 then ((s.ns? (nsOf a.seq)).map fun n => n.level + 1).getD 2 else a.level

/-- Every layer of the append has reached its level. -/
def State.reached (s : State) (a : AppendReq) : Bool :=
  match s.seq? a.seq with
  | none => false
  | some q =>
    let lvl := s.levelOf a
    a.layers.all fun l =>
      let x := q.layer l
      let e := a.pos + a.count
      decide (e ≤ x.length) && (decide (lvl < 2) || decide (e ≤ x.mirrored)) && (decide (lvl < 3) || decide (e ≤ x.persisted))

/-- The reply of R308 or R310. -/
def State.appendReply (s : State) (a : AppendReq) : List Byte :=
  match s.seq? a.seq with
  | none => []
  | some q => a.layers.flatMap fun l =>
      let x := q.layer l
      let f := leBytes 4 x.length ++ leBytes 4 x.mirrored ++ leBytes 4 x.persisted
      if a.bulk then leBytes 2 l ++ leBytes 2 0 ++ f else f ++ leBytes 4 0

/-- Whether an append in flight before this one holds back its reply (R47: position order per layer). -/
def behind (ahead : List AppendReq) (a : AppendReq) : Bool :=
  ahead.any fun b => b.seq == a.seq && decide (b.pos < a.pos) && b.layers.any fun l => a.layers.contains l

/-- Replies to the appends whose level is reached, in position order per layer (R47, R50). -/
def State.ackAppends : List Inflight → List AppendReq → State → State
  | [], _, s => s
  | i :: rest, ahead, s =>
    match i.wait with
    | .level a dup =>
      if s.reached a ∧ ¬ behind ahead a then
        State.ackAppends rest ahead (s.complete i (if dup then .okDuplicate else .ok) none 0 (s.appendReply a))
      else State.ackAppends rest (a :: ahead) s
    | _ => State.ackAppends rest ahead s

/-- Lets every append that can reply do so. -/
def State.progress (s : State) : State := s.ackAppends s.cmds.list []

/-! ## Appends on the home -/

/-- The entries of R285 for a layer's lost range (R453). -/
def lostEntry (q : Seq) (l : Nat) : Option LostRange :=
  match (q.layer l).loss with
  | some r => some ⟨q.handle, l, (q.layer l).length, r.fin - (q.layer l).length⟩
  | none => none

def lostBytes (l : List LostRange) : List Byte :=
  leBytes 4 l.length ++ l.flatMap fun r => leBytes 8 r.seq.toNat ++ leBytes 2 r.layer ++ leBytes 2 0 ++ leBytes 4 r.first ++
    leBytes 4 r.count ++ leBytes 4 0

/-- Writes an append's rows at their layers' length, journals them at `PERSISTED` and mirrors them (R45, R50 to
R52). -/
def State.applyAppend (c : Cmd) (a : AppendReq) (s : State) : Res :=
  match s.seq? a.seq with
  | none => .no .unknownSeq
  | some q =>
    if ¬ tokensAgree q a.pos a.tokens then .no .conflict
    else if s.levelOf a = 3 ∧ ¬ s.journalRoom (journalHalf a.seq) (s.journalNeed a q) then
      if a.timeoutUs = 0 then .no .noSpace else .wait (.journal a) [] s
    else match s.applyRows true false a c.pkt.reqId c.ptn with
      | none => .no .noSpace
      | some s =>
        let s := s.mirrorMsg a.seq c.pkt.reqId (.mirrorWrite a)
        let s := if s.levelOf a = 3 then a.layers.foldl (fun s l => s.persist a.seq l (a.pos + a.count)) s else s
        .wait (.level a false) [] s

/-- A repeated append: it changes nothing, and is acknowledged once the first one has reached the level asked for now; at
`PERSISTED` the home brings the persisted length up (R45, R52). -/
def State.repeatAppend (q : Seq) (a : AppendReq) (s : State) : Res :=
  if s.levelOf a ≠ 3 then .wait (.level a true) [] s
  else
    let upTo := a.pos + a.count
    let need := sumNat (a.layers.map fun l => (s.toJournal q l upTo).length * (64 + 2 * (q.group l).ctot))
    if ¬ s.journalRoom (journalHalf a.seq) need then
      if a.timeoutUs = 0 then .no .noSpace else .wait (.journal a) [] s
    else .wait (.level a true) [] (a.layers.foldl (fun s l => s.persist a.seq l upTo) s)

/-- An append as R45 and R310 handle it. -/
def State.runAppend (c : Cmd) (a : AppendReq) (s : State) : Res :=
  match s.seq? a.seq with
  | none => .no .unknownSeq
  | some q =>
    match s.fit a q with
    | .conflict => .no .conflict
    | .lost => .done .lostRecompute (lostBytes (a.layers.filterMap (lostEntry q))) s
    | .gap =>
      if a.timeoutUs = 0 then .done .notYet (notYet q) s else .wait (.gap a) [] s
    | .duplicate => s.repeatAppend q a
    | .apply => s.applyAppend c a
where
  /-- The payload of R284 for the lowest layer that waits. -/
  notYet (q : Seq) : List Byte :=
    let l := (a.layers.find? fun l => decide ((q.layer l).length < a.pos)).getD 0
    leBytes 2 l ++ leBytes 2 0 ++ leBytes 4 (q.layer l).length

/-- The NOT_YET payload of a layer (R284). -/
def notYetBytes (q : Seq) (l : Nat) : List Byte := leBytes 2 l ++ leBytes 2 0 ++ leBytes 4 (q.layer l).length

/-! ## The pages that a read covers (R41, R59, R62, R114, R206) -/

/-- Marked tokens of a page-table entry's page. -/
def State.entryRequant (s : State) (e : Entry) : Nat := match s.page? e.page with | some p => p.img.requant | none => e.requant

/-- The envelopes of a page's source planes as this node holds them. -/
def State.entryEnv (s : State) (e : Entry) : List (List (Word16 × Word16)) :=
  match s.page? e.page with
  | some p => p.img.planes.map (·.env)
  | none => e.env

/-- The lowest position that a read at `vis` sees (R41). -/
def lowestSeen (g : LayerGroup) (vis : Nat) : Nat := match g.window with | some w => vis - w | none => 0

/-- Positions of a block in [lo, hi). -/
def spanMask (block lo hi : Nat) : BitVec 256 := maskOf fun i => decide (lo ≤ 256 * block + i ∧ 256 * block + i < hi)

/-- What a page-table entry gives an attend: the page as it stands, with the positions given. -/
def State.pinOf (s : State) (e : Entry) (m : BitVec 256) (tags : List Word32) : Pinned :=
  let p := s.page? e.page
  ⟨e.page, e.block, p.map (·.img), s.entryEnv e, m, tags, match p with | some x => (x.hbm.bind (·.pch)).isSome | none => false,
    s.entryRequant e⟩

/-- The entries of a layer that hold positions in [lo, hi), in block order. -/
def Layer.spanning (x : Layer) (lo hi : Nat) : List Entry :=
  sortBy (fun (a b : Entry) => decide (a.block < b.block))
    (x.entries.filter fun e => decide (lo < 256 * (e.block + 1) ∧ 256 * e.block < hi))

/-- An image as read at admission with the rows that have landed since (R20, R59). -/
def grown (old now : Image) : Image :=
  if old.tail then { old with rows := old.rows ++ now.rows.drop old.rows.length, fill := max old.fill now.fill } else old

/-- Every position of a block. -/
def fullMask : BitVec 256 := BitVec.ofNat 256 (2 ^ 256 - 1)

/-- The end of the rows that a pinned page gives. -/
def Pinned.reach (p : Pinned) : Nat :=
  match p.img with
  | some i => 256 * p.block + (if i.tail then i.fill else 256)
  | none => 256 * (p.block + 1)

/-- Positions of a block that pins give already. -/
def claimed (l : List Pinned) (block : Nat) : BitVec 256 :=
  l.foldl (fun m p => if p.block = block then m ||| p.mask else m) 0

/-- A pinned page gives, of its rows, what no other of the pins gives. -/
def Pinned.claim (l : List Pinned) (p : Pinned) : Pinned :=
  { p with mask := p.mask ||| (spanMask p.block 0 p.reach &&& ~~~(claimed l p.block)) }

/-- The pages of the window now, each with the positions of its block that it gives: those pinned before, with the rows that
have landed in them since, and for other positions what the layer's table holds and the pages that opened during the wait
(R41, R59). -/
def State.windowPins (s : State) (q : Seq) (r : AttendReq) (old : List Pinned) (extra : List Handle) : List Pinned :=
  let lo := lowestSeen (q.group r.layer) r.vis
  let kept := old.map fun p => match s.page? p.page with
    | some x => Pinned.claim old { p with img := p.img.map fun i => grown i x.img }
    | none => p
  let fresh := fun (h : Handle) => !kept.any fun p => p.page == h
  let table := ((q.layer r.layer).spanning lo r.vis).filter fun e => fresh e.page
  let opened := extra.reverse.filterMap fun h => match s.page? h with
    | some x =>
      if x.name.seq = q.handle ∧ x.name.layer = r.layer ∧ lo < 256 * (x.name.block + 1) ∧ 256 * x.name.block < r.vis ∧ fresh h then
        some (⟨x.name.block, h, [], 0⟩ : Entry)
      else none
    | none => none
  let add := fun (l : List Pinned) (e : Entry) =>
    let p := Pinned.claim l (s.pinOf e 0 [])
    if p.mask = 0 then l else l ++ [p]
  sortBy (fun (a b : Pinned) => decide (a.block < b.block)) ((table ++ opened).foldl add kept)

/-- The pins of an attend at admission, before its positions have landed: the window's pages with the positions that stand. -/
def State.admitPins (s : State) (q : Seq) (r : AttendReq) : List Pinned :=
  ((q.layer r.layer).spanning (lowestSeen (q.group r.layer) r.vis) r.vis).map fun e =>
    Pinned.claim [] (s.pinOf e 0 [])

/-- The token ID at a position: as pinned at admission below the layer's length of then, as recorded now above it (R206). -/
def pinnedToken (ids : List TokBlock) (length : Nat) (q : Seq) (pos : Nat) : Word32 :=
  if pos < length then
    match ids.find? fun b => b.idx == pos / 256 with
    | some b => b.ids.getD (pos % 256) noToken
    | none => noToken
  else q.token pos

/-- The token-ID blocks that a filter's version reads for the positions seen at `vis` (R115). -/
def filterBlocks (q : Seq) (g : LayerGroup) (vis : Nat) (v : PatVer) : List TokBlock :=
  q.tokens.filter fun b => decide (lowestSeen g vis / 256 - v.lookback ≤ b.idx ∧ 256 * b.idx < vis)

/-- Token-ID blocks as a read that waits has pinned them, with what has been recorded since (R206). -/
def pinnedBlocks (ids : List TokBlock) (length : Nat) (q : Seq) (g : LayerGroup) (vis : Nat) : Option PatVer → List TokBlock
  | none => []
  | some v => ((ids ++ filterBlocks q g vis v).map (·.idx)).eraseDups.map fun k =>
      ⟨k, (List.range 256).map fun j => pinnedToken ids length q (256 * k + j), none, false⟩

/-- Before a truncation: an attend that waits keeps the window as it stands, and reads keep their token IDs (R59, R206). -/
def State.standReads (h : Handle) (layers : List Nat) (s : State) : State :=
  match s.seq? h with
  | none => s
  | some q => s.cmds.list.foldl (fun s i => match i.wait.inner with
    | .positions r =>
      if r.req.seq = h ∧ layers.contains r.req.layer then
        let r' := { r with pins := s.windowPins q r.req r.pins i.pins
                           ids := pinnedBlocks r.ids r.seen q r.group r.req.vis r.filter
                           seen := max r.seen (q.layer r.req.layer).length }
        let more := (r'.pins.map (·.page)).filter fun p => !i.pins.contains p
        (s.pin more).updInflight i.id fun j => { j with pins := j.pins ++ more, wait := j.wait.wrap (.positions r') }
      else s
    | .gradWait r =>
      if r.seq = h ∧ layers.contains r.layer then
        let r' := { r with ids := pinnedBlocks r.ids r.length q r.group (listMax (r.rows.map (·.vis))) r.version
                           length := max r.length (q.layer r.layer).length }
        s.updInflight i.id fun j => { j with wait := j.wait.wrap (.gradWait r') }
      else s
    | _ => s) s

/-! ## Truncation (R57, R58) -/

/-- Zeroes and frees gradient planes above `t` (R147). -/
def cutGrads (h : Handle) (l t : Nat) (gs : List Grad) : List Grad :=
  (gs.filter fun g => !(g.seq == h && g.layer == l && decide (t ≤ 256 * g.block))).map fun g =>
    if g.seq = h ∧ g.layer = l ∧ t < 256 * (g.block + 1) then
      { g with vals := (enumFrom 0 g.vals).map fun x => if 256 * g.block + x.1 < t then x.2 else x.2.map fun r => r.map fun _ => 0 }
    else g

/-- The page that holds position t − 1 becomes the tail: cut in place where it is this sequence's own tail frame, else
copied or decoded into a new one (R54, R57). -/
def State.cutBlock (home : Bool) (h : Handle) (l t : Nat) (s : State) : Option State :=
  match s.seq? h with
  | none => none
  | some q =>
    match (q.layer l).entry? (t / 256) with
    | none => some s
    | some e =>
      match s.page? e.page with
      | none => some s
      | some p =>
        if p.img.tail ∧ p.refs ≤ 1 then
          some ((s.cancelSeal p).updPage e.page fun p => { p with img := cutTail (q.group l) p.img (t % 256) })
        else
          let img := cutPage (q.group l) p.img h (t % 256)
          match s.newPage p.ptn ⟨h, l, t / 256⟩ img (img.frames (q.group l)) true with
          | none => none
          | some (n, s) =>
            some ((s.addEntry h l ⟨t / 256, n, [], 0⟩).dropRef home e.page)

/-- Shortens one layer to `t` (R57). -/
def State.truncLayer (home : Bool) (h : Handle) (l t : Nat) (s : State) : Option State :=
  match s.seq? h with
  | none => some s
  | some q =>
    if (q.layer l).length ≤ t then some s
    else
      let s := s.dropEntries home h l fun e => decide (t ≤ 256 * e.block)
      match (if t % 256 = 0 then some s else s.cutBlock home h l t) with
      | none => none
      | some s =>
        let s := s.updLayer h l fun x =>
          { x with length := t, mirrored := min t x.mirrored, persisted := min t x.persisted }
        some ({ s with store := { s.store with
            journal := s.store.journal.filter fun e => !(e.seq == h && e.layer == l && decide (t ≤ e.pos))
            grads := cutGrads h l t s.store.grads } }.delta [.length h l])

/-- Journals the rows of a layer's tail page that lie below its persisted length and that the journal lacks; those that
do not fit count as persisted no more (R37, R52). -/
def State.rejournal (h : Handle) (l : Nat) (s : State) : State :=
  match s.seq? h with
  | none => s
  | some q =>
    let x := q.layer l
    match s.blockPage q l (x.length / 256) with
    | none => s
    | some p =>
      let first := 256 * p.img.block
      let need := ((List.range (x.persisted - first)).map (· + first)).filter fun k => !s.journaled h l k
      if ¬ p.img.tail ∨ need = [] then s
      else if s.journalRoom (journalHalf h) (sumNat (need.map fun _ => 64 + 2 * (q.group l).ctot)) then
        need.foldl (fun s k => s.journalPut q l k) s
      else s.updLayer h l fun y => { y with persisted := min y.persisted (need.headD 0) }

/-- Marks the records of appends with a position at `t` or above as removed (R58). -/
def removeRecs (h : Handle) (layers : List Nat) (t : Nat) (l : List AppendRec) : List AppendRec :=
  updWhere (fun r => r.seq == h && decide (t < r.first + r.count) && r.layers.any layers.contains) (fun r => { r with removed := true }) l

/-- Truncates the named layers of a sequence in one step, with its records and token IDs. -/
def State.truncSeq (home : Bool) (h : Handle) (layers : List Nat) (t : Nat) (s : State) : Option State :=
  let step := fun (o : Option State) (l : Nat) => match o with | none => none | some s => s.truncLayer home h l t
  match layers.foldl step (some (s.standReads h layers)) with
  | none => none
  | some s =>
    let s := { s with store := { s.store with appendRecs := removeRecs h layers t s.store.appendRecs } }
    let s := s.updSeq h fun q => { q with tokens := cutTokens q.tokLen q.tokens }
    /- The rows of a new tail that a flash page held are journaled again, so that they stay persisted (R37, R52). -/
    some (if home then layers.foldl (fun s l => s.rejournal h l) s else s)

/-- Answers with a status the appends of a sequence that wait for their level and hold positions at `t` or above
(R58). -/
def State.endAppends (h : Handle) (t : Nat) (st : Status) : List Inflight → State → State
  | [], s => s
  | i :: l, s =>
    match i.wait with
    | .level a _ => State.endAppends h t st l (if a.seq = h ∧ t < a.pos + a.count then s.complete i st none 0 [] else s)
    | _ => State.endAppends h t st l s

/-! ## Deletion (R304) -/

/-- Removes a sequence with its references, journal entries and gradient planes. -/
def State.removeSeq (home : Bool) (h : Handle) (s : State) : State :=
  match s.seq? h with
  | none => s
  | some q =>
    let s := (List.range q.layers.length).foldl (fun s l => s.dropEntries home h l fun _ => true) s
    ({ s with store := { s.store with
        seqs := s.store.seqs.filter fun x => !(x.handle == h)
        journal := s.store.journal.filter fun e => !(e.seq == h)
        grads := s.store.grads.filter fun g => !(g.seq == h) } }).delta [.seq h]

/-- Whether a command waits on a sequence for something that its deletion takes away. -/
def waitsOn (h : Handle) : Wait → Bool
  | .positions r => r.req.seq == h
  | .batchEntry _ _ w => waitsOn h w
  | .gap a | .journal a | .level a _ => a.seq == h
  | .descriptor x => x == h
  | .gradWait r => r.seq == h
  | _ => false

/-- Ends with `UNKNOWN_SEQ` the commands that waited on a deleted sequence (R304). -/
def State.endWaits (h : Handle) : List Inflight → State → State
  | [], s => s
  | i :: l, s => State.endWaits h l (if waitsOn h i.wait then s.complete i .unknownSeq none 0 [] else s)

/-! ## Forks on one node (R53 to R56) -/

/-- The largest reference count (R56). -/
def refMaxCount : Nat := 2 ^ 32 - 1

/-- A page's count can take one more reference. -/
def State.refRoom (s : State) (h : Handle) : Bool :=
  decide (s.remoteRefs h < refMaxCount) && (match s.page? h with | some p => decide (p.refs < refMaxCount) | none => true)

/-- Every page that a fork would share can take one more reference (R56). -/
def State.refsOk (s : State) (q : Seq) (f : Nat) : Bool :=
  q.layers.all fun l => l.entries.all fun e => decide (f < 256 * (e.block + 1)) || s.refRoom e.page

/-- One layer of the child: shared entries below `f`, and the cut page (R54). -/
def State.forkLayer (parent : Seq) (child : Handle) (f l : Nat) (s : State) : Option State :=
  let x := parent.layer l
  let shared := x.entries.filter fun e => decide (256 * (e.block + 1) ≤ f)
  let s := shared.foldl (fun s e => s.refer e.page) s
  let s := (s.updLayer child l fun y => { y with length := f, entries := shared }).delta
    (.length child l :: shared.map fun e => .entry child l e.block)
  if f % 256 = 0 then some s
  else match s.blockPage parent l (f / 256) with
    | none => some s
    | some p =>
      let g := parent.group l
      let img := cutPage g p.img child (f % 256)
      match s.newPage (s.seqPtn child) ⟨child, l, f / 256⟩ img (img.frames g) false with
      | none => none
      | some (h, s) => some (s.addEntry child l ⟨f / 256, h, [], 0⟩)

/-- The fork step where this node holds the parent (R54). -/
def State.forkHere (r : ForkReq) (s : State) : Option State :=
  match s.seq? r.parent with
  | none => none
  | some q =>
    let child : Seq := ⟨r.child, q.groups, r.shared, r.replicas, r.tag, q.layers.map fun _ => Layer.empty,
      cutTokens r.f q.tokens, .live, true, []⟩
    let step := fun (o : Option State) (l : Nat) => match o with | none => none | some s => s.forkLayer q r.child r.f l
    match (List.range q.layers.length).foldl step (some (s.addSeq child)) with
    | none => none
    | some s => some ((List.range q.layers.length).foldl (fun s l => s.notePersisted r.child l) s)

/-! ## Copies of pages to other nodes (R25, R37, R444) -/

/-- Sends a sealed page to a node, and expects its acknowledgement (R381). -/
def State.sendCopy (n : NodeId) (purpose : Nat) (h : Handle) (l : Nat) (p : Page) (s : State) : State :=
  let (k, s) := s.postSeq n 0 (.pageCopy purpose h l (.image p.img))
  let s := s.updPeer n fun x => { x with copies := x.copies ++ [⟨k, p.handle, purpose⟩] }
  if purpose = 2 then s.updPage p.handle fun x => { x with awaiting := addNew n x.awaiting } else s

/-- Replicates a sealed page of a `SHARED` sequence to the members of its replica set that hold no copy (R37). -/
def State.replicate (q : Seq) (l : Nat) (p : Page) (s : State) : State :=
  q.replicas.foldl (fun s n =>
    if n = s.self ∨ p.copies.any (fun c => handleNode c == n) then s else s.sendCopy n 2 q.handle l p) s

end Sys2Proof.Machine
end

