-- ==== Sys2Proof/Machine/Shape.lean ====
section
/-! DEFINITION. What the engines' units compute: the directed exponential, tanh and logarithm (04_attention_execution.md
R123, 05_score_shaping.md R159), sums and WP64 accumulation (R119, R126), and shaping programs in point and interval mode
(R151 to R162). -/

namespace Sys2Proof.Machine

/-! ## Enclosures of e^x, tanh and log2 by rationals -/

/-- A positive rational rounded down or up to 160 significant bits. -/
def sig (up : Bool) (q : Rat) : Rat :=
  if q ≤ 0 then 0
  else
    let u := pow2 (ratLog2 q - 160)
    (if up then rndInt .ru (q / u) else rndInt .rd (q / u)) * u

/-- The first `n` terms of the series of e^y after `acc`, where `term` is the next term's predecessor. -/
def expSeries (y : Rat) : Nat → Nat → Rat → Rat → Rat
  | 0, _, _, acc => acc
  | k + 1, i, term, acc => let t := term * y / i; expSeries y k (i + 1) t (acc + t)

def sqTimes (up : Bool) : Nat → Rat → Rat
  | 0, q => q
  | k + 1, q => sqTimes up k (sig up (q * q))

/-- Bounds on e^x for 0 ≤ x ≤ 256. -/
def expPos (x : Rat) : Rat × Rat :=
  let y := x / 2048
  let lo := sig false (expSeries y 20 1 1 1)
  let hi := sig true (expSeries y 20 1 1 1 + y ^ 20 / 2 ^ 60)
  (sqTimes false 11 lo, sqTimes true 11 hi)

/-- Bounds on e^x for |x| ≤ 256. -/
def expEncl (x : Rat) : Rat × Rat :=
  if 0 ≤ x then expPos x else let e := expPos (-x); (sig false (1 / e.2), sig true (1 / e.1))

/-- Bounds on tanh x for x ≥ 0. -/
def tanhEncl (x : Rat) : Rat × Rat :=
  if 44 ≤ x then (1 - pow2 (-100), 1)
  else
    let e := expPos (2 * x)
    (max 0 ((e.1 - 1) / (e.1 + 1)), (e.2 - 1) / (e.2 + 1))

/-- The fraction bits of log2 of `m` in [1, 2), by repeated squaring. -/
def log2Bits (up : Bool) : Nat → Rat → Rat → Rat → Rat
  | 0, _, _, acc => acc
  | k + 1, m, w, acc =>
    let m := sig up (m * m)
    if 2 ≤ m then log2Bits up k (m / 2) (w / 2) (acc + w) else log2Bits up k m (w / 2) acc

/-- Bounds on log2 x for x > 0. -/
def log2Encl (x : Rat) : Rat × Rat :=
  let e := ratLog2 x
  let m := x / pow2 e
  if m = 1 then (e, e) else (e + log2Bits false 60 m (1 / 2) 0, e + log2Bits true 60 m (1 / 2) 0 + pow2 (-59))

/-! ## The units' functions (log 8)

A value that the units choose stands where it meets the manual's bounds; else the correctly directed value does. -/

/-- What the units do: elementary functions by kind, the order of sums, WP64 sums and products, near-bank scores. -/
structure Units where
  fn : Nat → Val → Val
  order : Nat → Nat → List Nat
  wpAdd : Sys2Proof.WP64 → Sys2Proof.WP64 → Sys2Proof.WP64
  wpMul : Word32 → Rat → Sys2Proof.WP64
  nearBank : Handle → Nat → Nat → Word32

/-- `cand` where it lies in [lo, hi], else `canon`. -/
def pickIn (cand : Word32) (canon : Val) (lo hi : Rat) : Val :=
  let v := f32 cand
  if v.finite ∧ lo ≤ v.rat ∧ v.rat ≤ hi then v else canon

/-- A factor's relative room. -/
def rel21 : Rat := pow2 (-21)
def rel22 : Rat := pow2 (-22)

def maxF32 : Rat := fp32.maxFinite

/-- The least subnormal number of FP32. -/
def least : Rat := pow2 (-149)

/-- The exponentials of R123: kind 0 is expU, 1 expD, 2 the nearest one. e^0 is 1 in the nearest one (R141). A subnormal result is
not flushed to zero (R8). -/
def expVal (kind : Nat) (cand : Word32) (x : Val) : Val :=
  match x with
  | .nan => .nan
  | .inf true => .fin false 0
  | .inf false => .inf false
  | .fin s m =>
    let q := (Val.fin s m).rat
    if q < -104 then (if kind = 0 then .fin false (pow2 (-149)) else .fin false 0)
    else if 88 + 72 / 100 < q ∧ kind = 0 then .inf false
    else if q = 0 ∧ kind = 2 then .fin false 1
    else
      let e := expEncl (if 256 < q then 256 else q)
      let normal : Bool := decide (pow2 (-126) ≤ e.1 ∧ e.2 ≤ pow2 127)
      if kind = 0 then pickIn cand (fp32.round .ru e.2) e.2 (if normal then e.1 * (1 + rel21) else maxF32)
      else if kind = 1 then pickIn cand (fp32.round .rd e.1) (if normal then e.2 * (1 - rel21) else min e.1 least) e.1
      else pickIn cand (fp32.round .rn e.1) (if normal then e.2 * (1 - rel22) else max (e.1 - least) (min e.1 least))
        (if normal then e.1 * (1 + rel22) else e.2 + least)

/-- A directed result moved on in its direction, by less than 4 units in the last place: to a multiple of 1, 2 or 4 units, one for each
cell of 4 units, as the units choose (`step`, by kind and cell). It does not decrease in its argument, whatever the choice, and it
stays within 2^-21 of what it started from (R159; log 8). -/
def outward (step : Nat → Nat → Nat) (kind : Nat) (up : Bool) (v : Val) : Val :=
  match v with
  | .fin s m =>
    let b := fp32.encode (.fin false m)
    if b < 2 ^ 23 then v
    else
      let away : Bool := s != up
      let u := 2 ^ (step kind (if away then (b + 3) / 4 else b / 4) % 3)
      match fp32.decode (if away then (b + u - 1) / u * u else b / u * u) with
      | .fin _ n => .fin s n
      | x => x
  | v => v

/-- tanh for x ≥ 0: kind 3 up, 4 down, 5 nearest. -/
def tanhPos (step : Nat → Nat → Nat) (kind : Nat) (cand : Word32) (q : Rat) : Val :=
  if q = 0 then .fin false 0
  else
    let e := tanhEncl q
    let normal : Bool := decide (pow2 (-126) ≤ e.1)
    let small := pow2 (-148)
    if kind = 3 then outward step 3 true (fp32.round .ru e.2)
    else if kind = 4 then outward step 4 false (fp32.round .rd e.1)
    else pickIn cand (fp32.round .rn e.1) (if normal then e.2 * (1 - rel22) else max (e.1 - small) (min e.1 least))
      (if normal then e.1 * (1 + rel22) else e.2 + small)

/-- tanh: TU of a negative number is −TD of its magnitude (R159, "odd" read of the pair: DEDUCED, log 8). -/
def tanhVal (step : Nat → Nat → Nat) (kind : Nat) (cand : Bool → Word32) (x : Val) : Val :=
  match x with
  | .nan => .nan
  | .inf s => .fin s 1
  | .fin s m =>
    if s then vNeg (tanhPos step (if kind = 3 then 4 else if kind = 4 then 3 else 5) (cand true) m) else tanhPos step kind (cand false) m

/-- log2 of max(x, 0): kind 6 up, 7 down, 8 nearest. -/
def log2Val (step : Nat → Nat → Nat) (kind : Nat) (cand : Word32) (x : Val) : Val :=
  match x with
  | .nan => .nan
  | .inf s => .inf s
  | .fin s m =>
    if s ∨ m = 0 then .inf true
    else
      let e := log2Encl m
      let room := pow2 (-22) * min |e.1| |e.2| + pow2 (-46)
      if kind = 6 then outward step 6 true (fp32.round .ru e.2)
      else if kind = 7 then outward step 7 false (fp32.round .rd e.1)
      else pickIn cand (fp32.round .rn e.1) (e.2 - room) (e.1 + room)

/-- An elementary function by kind, with the units' own choices. -/
def unitFn (pick : Nat → Word32 → Word32) (step : Nat → Nat → Nat) (kind : Nat) (x : Val) : Val :=
  if kind ≤ 2 then expVal kind (pick kind (ofF32 x)) x
  else if kind ≤ 5 then
    tanhVal step kind (fun neg => if neg then pick (if kind = 3 then 4 else if kind = 4 then 3 else 5) (ofF32 (vNeg x)) else pick kind (ofF32 x)) x
  else log2Val step kind (pick kind (ofF32 x)) x

/-- `cand` where it is a permutation of 0 to n − 1, else the natural order. -/
def orderOk (cand : List Nat) (n : Nat) : List Nat :=
  if cand.length = n ∧ (List.range n).all cand.contains then cand else List.range n

/-- A WP64 result within R126's error of `q`, else the pair nearest to it. -/
def wpPick (c : Word32 × Word32) (q : Rat) : Sys2Proof.WP64 :=
  let cand : Sys2Proof.WP64 := ⟨c.1, c.2⟩
  let v := wpRat cand
  if (f32 cand.hi).finite ∧ (f32 cand.lo).finite ∧ cand.hi = f32Of .rn v ∧ |v - q| ≤ pow2 (-45) * |v| + pow2 (-149) then cand
  else wpOf q

/-- The units of this node, for the work of one draw. -/
def Units.node (draw : Nat) : Units where
  fn := unitFn Config.unitPick Config.unitStep
  order := fun key n => if n ≤ 1 then List.range n else orderOk (Config.sumOrder draw key n) n
  wpAdd := fun a b => wpPick (Config.wpAddPick a b) (wpRat a + wpRat b)
  wpMul := fun w v => wpPick (Config.wpMulPick w v) (f32Rat w * v)
  nearBank := Config.nearBankScore draw

/-- Units that choose the nearest value everywhere and sum in order: used to check the model against worked
examples. -/
def Units.plain : Units where
  fn := unitFn (fun _ _ => f32NaN) fun _ _ => 0
  order := fun _ n => List.range n
  wpAdd := fun a b => wpOf (wpRat a + wpRat b)
  wpMul := fun w v => wpOf (f32Rat w * v)
  nearBank := fun _ _ _ => f32NaN
where
  f32NaN : Word32 := 0x7FC00000

/-! ## FP32 sums -/

/-- The terms in the order that the units take them. -/
def inOrder {α : Type} (u : Units) (key : Nat) (l : List α) : List α := (u.order key l.length).filterMap fun i => l[i]?

/-- A sum with every partial sum rounded by `d`. -/
def sumV (u : Units) (key : Nat) (d : Rnd) (l : List Val) : Val := (inOrder u key l).foldl (vAdd d) (.fin false 0)

/-- A sum of exact terms, every partial sum rounded up. -/
def sumUp (u : Units) (key : Nat) (l : List Rat) : Val :=
  (inOrder u key l).foldl (fun acc q => match acc with | .fin s m => fp32.round .ru ((Val.fin s m).rat + q) | v => v) (.fin false 0)

/-- A rational times a value, rounded up; infinities stay, zero times anything is zero. -/
def scaleUp (q : Rat) (v : Val) : Val :=
  match v with
  | .fin s m => fp32.round .ru (q * (Val.fin s m).rat)
  | v => if q = 0 then .fin false 0 else v

def upVal (q : Rat) : Val := fp32.round .ru q

/-! ## Extended arithmetic (R153) -/

/-- Addition with (+∞) + (−∞) = −∞. -/
def xAdd (d : Rnd) (a b : Val) : Val :=
  match a, b with
  | .inf s, .inf t => if s = t then .inf s else .inf true
  | a, b => vAdd d a b

/-- Multiplication with 0 × (±∞) = 0. That zero is +0 (DESIGN CHOICE, log 63). -/
def xMul (d : Rnd) (a b : Val) : Val :=
  match vMul d a b with
  | .nan => .fin false 0
  | v => v

/-- The minimum and the maximum of two values; of +0 and −0 the first operand (DESIGN CHOICE, log 63). -/
def xMin (a b : Val) : Val := if vLt b a then b else a
def xMax (a b : Val) : Val := if vLt a b then b else a
def vAbs : Val → Val
  | .fin _ m => .fin false m
  | .inf _ => .inf false
  | .nan => .nan
def vLe (a b : Val) : Bool := vLt a b || vEq a b
def zeroV : Val := .fin false 0

def satInt (i : Int) : Int := max (-2147483648) (min 2147483647 i)

/-! ## Instruction words (R156, R157) -/

/-- Register files that a field can name. -/
inductive RFile where
  | none | flt | int | pred
  deriving DecidableEq, Repr

/-- What a field of a file may hold. -/
def RFile.okField (f : RFile) (n : Nat) : Bool :=
  match f with | .none => n == 0 | .flt => decide (n < 16) | .int => decide (n < 8) | .pred => decide (n < 4)

inductive PForm where
  | a (d x y : RFile) (usesC : Bool)
  | k (d : RFile)
  | h (d : RFile)
  | ret
  deriving DecidableEq, Repr

/-- The defined opcodes. -/
def progForm : Nat → Option PForm
  | 0x01 | 0x02 | 0x03 | 0x04 | 0x05 => some (.a .flt .flt .flt false)
  | 0x06 | 0x07 | 0x08 | 0x09 | 0x0A => some (.a .flt .flt .none false)
  | 0x0B => some (.a .flt .flt .flt true)
  | 0x0C => some (.k .flt)
  | 0x0D => some (.h .flt)
  | 0x0E => some (.a .flt .int .none false)
  | 0x10 | 0x11 | 0x12 | 0x13 => some (.a .int .int .int false)
  | 0x14 => some (.k .int)
  | 0x15 => some (.h .int)
  | 0x16 => some (.a .int .int .int true)
  | 0x18 => some (.a .pred .flt .flt true)
  | 0x19 => some (.a .pred .int .int true)
  | 0x1A | 0x1B => some (.k .pred)
  | 0x1C => some (.a .pred .pred .none false)
  | 0x1D | 0x1E => some (.a .pred .pred .pred false)
  | 0x3F => some .ret
  | _ => none

def pOp (w : Word32) : Nat := bits w.toNat 26 6
def pD (w : Word32) : Nat := bits w.toNat 22 4
def pA (w : Word32) : Nat := bits w.toNat 18 4
def pB (w : Word32) : Nat := bits w.toNat 14 4
def pC (w : Word32) : Nat := bits w.toNat 12 2
def pImm (w : Word32) : Nat := bits w.toNat 0 16

/-- The checks of R162 on one word. -/
def progWordOk (w : Word32) : Bool :=
  match progForm (pOp w) with
  | none => false
  | some (.a d x y c) =>
    d.okField (pD w) && x.okField (pA w) && y.okField (pB w) && (c || pC w == 0) && bits w.toNat 0 12 == 0
  | some (.k d) => d.okField (pD w) && bits w.toNat 0 18 == 0
  | some (.h d) => d.okField (pD w) && bits w.toNat 16 6 == 0 && !(pOp w == 0x0D && (bf16.decode (pImm w)).isNan)
  | some .ret => pD w == 0 && pB w == 0 && pC w == 0 && bits w.toNat 0 12 == 0

/-- The words of a program image, where the image passes R161 and R162. -/
def parseProgram (b : List Byte) : Option (List Word32) :=
  let n := field b 3 1
  let ws := (leWords 4 (b.drop 8)).map fun x => (BitVec.ofNat 32 x : Word32)
  if field b 0 2 = 0x5350 ∧ field b 2 1 = 1 ∧ 1 ≤ n ∧ n ≤ 64 ∧ field b 4 4 = 0 ∧ b.length = 8 + 4 * n ∧ ws.all progWordOk ∧
      (ws.dropLast.all fun w => pOp w != 0x3F) ∧ (ws.getLast?).map pOp = some 0x3F then some ws
  else none

/-- R166: no constant that an FLDK reads is a NaN. -/
def constantsOk (ws : List Word32) (k : List Word32) : Bool :=
  ws.all fun w => pOp w != 0x0C || !(f32 (k.getD (pA w) 0)).isNan

/-! ## Point mode (R154) -/

structure PointRegs where
  f : List Val
  i : List Int
  p : List Bool
  tag : Word32

def cond (c : Nat) (lt eq : Bool) : Bool := match c with | 0 => lt | 1 => lt || eq | 2 => eq | _ => !eq

def immInt (n : Nat) : Int := if n < 32768 then n else (n : Int) - 65536
def wordInt (w : Word32) : Int := w.toInt

/-- One instruction in point mode. -/
def pointStep (u : Units) (k : List Word32) (r : PointRegs) (w : Word32) : PointRegs :=
  let fa := r.f.getD (pA w) zeroV
  let fb := r.f.getD (pB w) zeroV
  let ia := r.i.getD (pA w) 0
  let ib := r.i.getD (pB w) 0
  let qa := r.p.getD (pA w) false
  let qb := r.p.getD (pB w) false
  let qc := r.p.getD (pC w) false
  let kw := k.getD (pA w) 0
  let setF := fun v => { r with f := updAt (pD w) (fun _ => v) r.f }
  let setI := fun v => { r with i := updAt (pD w) (fun _ => v) r.i }
  let setP := fun v => { r with p := updAt (pD w) (fun _ => v) r.p }
  match pOp w with
  | 0x01 => setF (xAdd .rn fa fb) | 0x02 => setF (xAdd .rn fa (vNeg fb)) | 0x03 => setF (xMul .rn fa fb)
  | 0x04 => setF (xMin fa fb) | 0x05 => setF (xMax fa fb) | 0x06 => setF (vNeg fa) | 0x07 => setF (vAbs fa)
  | 0x08 => setF fa | 0x09 => setF (u.fn 5 fa) | 0x0A => setF (u.fn 8 fa) | 0x0B => setF (if qc then fa else fb)
  | 0x0C => setF (f32 kw) | 0x0D => setF (bf16.decode (pImm w)) | 0x0E => setF (fp32.round .rn ia)
  | 0x10 => setI (satInt (ia + ib)) | 0x11 => setI (satInt (ia - ib)) | 0x12 => setI (min ia ib) | 0x13 => setI (max ia ib)
  | 0x14 => setI (wordInt kw) | 0x15 => setI (immInt (pImm w)) | 0x16 => setI (if qc then ia else ib)
  | 0x18 => setP (cond (pC w) (vLt fa fb) (vEq fa fb))
  | 0x19 => setP (cond (pC w) (decide (ia < ib)) (decide (ia = ib)))
  | 0x1A => setP (r.tag &&& kw != 0) | 0x1B => setP (r.tag &&& kw == kw)
  | 0x1C => setP (!qa) | 0x1D => setP (qa && qb) | 0x1E => setP (qa || qb)
  | _ => r

/-- The output register of the last word. -/
def outReg (ws : List Word32) : Nat := ((ws.getLast?).map pA).getD 0

/-- The point output: +∞ becomes the largest finite value. -/
def runPoint (u : Units) (ws k : List Word32) (r : PointRegs) : Val :=
  match (ws.foldl (pointStep u k) r).f.getD (outReg ws) zeroV with
  | .inf false => .fin false maxF32
  | v => v

/-! ## Interval mode (R155, R158, R160) -/

structure IvRegs where
  f : List (Val × Val)
  i : List (Int × Int)
  p : List (Option Bool)
  tand : Word32
  tor : Word32

def ivAbs (a : Val × Val) : Val × Val :=
  if vLe zeroV a.1 then a else if vLe a.2 zeroV then (vNeg a.2, vNeg a.1) else (zeroV, xMax (vNeg a.1) a.2)

def ivMul (a b : Val × Val) : Val × Val :=
  let c := [(a.1, b.1), (a.1, b.2), (a.2, b.1), (a.2, b.2)]
  let lo := c.map fun x => xMul .rd x.1 x.2
  let hi := c.map fun x => xMul .ru x.1 x.2
  (lo.foldl xMin (lo.headD zeroV), hi.foldl xMax (hi.headD zeroV))

def notO : Option Bool → Option Bool
  | some b => some (!b)
  | none => none
def andO : Option Bool → Option Bool → Option Bool
  | some false, _ | _, some false => some false
  | some true, some true => some true
  | _, _ => none
def orO (a b : Option Bool) : Option Bool := notO (andO (notO a) (notO b))

/-- A comparison by R160 from the orders of the endpoints. -/
def ivCond (c : Nat) (hiLtLo loGeHi hiLeLo loGtHi allEq apart : Bool) : Option Bool :=
  let tri := fun (t f : Bool) => if t then some true else if f then some false else none
  match c with
  | 0 => tri hiLtLo loGeHi
  | 1 => tri hiLeLo loGtHi
  | 2 => tri allEq apart
  | _ => tri apart allEq

def fCond (c : Nat) (a b : Val × Val) : Option Bool :=
  ivCond c (vLt a.2 b.1) (vLe b.2 a.1) (vLe a.2 b.1) (vLt b.2 a.1) (vEq a.1 a.2 && vEq b.1 b.2 && vEq a.1 b.1)
    (vLt a.2 b.1 || vLt b.2 a.1)

def iCond (c : Nat) (a b : Int × Int) : Option Bool :=
  ivCond c (decide (a.2 < b.1)) (decide (b.2 ≤ a.1)) (decide (a.2 ≤ b.1)) (decide (b.2 < a.1))
    (decide (a.1 = a.2 ∧ b.1 = b.2 ∧ a.1 = b.1)) (decide (a.2 < b.1 ∨ b.2 < a.1))

/-- One instruction in interval mode. -/
def ivStep (u : Units) (k : List Word32) (r : IvRegs) (w : Word32) : IvRegs :=
  let z := (zeroV, zeroV)
  let fa := r.f.getD (pA w) z
  let fb := r.f.getD (pB w) z
  let ia := r.i.getD (pA w) (0, 0)
  let ib := r.i.getD (pB w) (0, 0)
  let qa := r.p.getD (pA w) none
  let qb := r.p.getD (pB w) none
  let qc := r.p.getD (pC w) none
  let kw := k.getD (pA w) 0
  let setF := fun v => { r with f := updAt (pD w) (fun _ => v) r.f }
  let setI := fun v => { r with i := updAt (pD w) (fun _ => v) r.i }
  let setP := fun v => { r with p := updAt (pD w) (fun _ => v) r.p }
  match pOp w with
  | 0x01 => setF (xAdd .rd fa.1 fb.1, xAdd .ru fa.2 fb.2)
  | 0x02 => setF (xAdd .rd fa.1 (vNeg fb.2), xAdd .ru fa.2 (vNeg fb.1))
  | 0x03 => setF (ivMul fa fb)
  | 0x04 => setF (xMin fa.1 fb.1, xMin fa.2 fb.2) | 0x05 => setF (xMax fa.1 fb.1, xMax fa.2 fb.2)
  | 0x06 => setF (vNeg fa.2, vNeg fa.1) | 0x07 => setF (ivAbs fa) | 0x08 => setF fa
  | 0x09 => setF (u.fn 4 fa.1, u.fn 3 fa.2) | 0x0A => setF (u.fn 7 fa.1, u.fn 6 fa.2)
  | 0x0B => setF (match qc with | some true => fa | some false => fb | none => (xMin fa.1 fb.1, xMax fa.2 fb.2))
  | 0x0C => setF (f32 kw, f32 kw) | 0x0D => setF (bf16.decode (pImm w), bf16.decode (pImm w))
  | 0x0E => setF (fp32.round .rd ia.1, fp32.round .ru ia.2)
  | 0x10 => setI (satInt (ia.1 + ib.1), satInt (ia.2 + ib.2)) | 0x11 => setI (satInt (ia.1 - ib.2), satInt (ia.2 - ib.1))
  | 0x12 => setI (min ia.1 ib.1, min ia.2 ib.2) | 0x13 => setI (max ia.1 ib.1, max ia.2 ib.2)
  | 0x14 => setI (wordInt kw, wordInt kw) | 0x15 => setI (immInt (pImm w), immInt (pImm w))
  | 0x16 => setI (match qc with | some true => ia | some false => ib | none => (min ia.1 ib.1, max ia.2 ib.2))
  | 0x18 => setP (fCond (pC w) fa fb) | 0x19 => setP (iCond (pC w) ia ib)
  | 0x1A => setP (if r.tand &&& kw != 0 then some true else if r.tor &&& kw == 0 then some false else none)
  | 0x1B => setP (if r.tand &&& kw == kw then some true else if r.tor &&& kw != kw then some false else none)
  | 0x1C => setP (notO qa) | 0x1D => setP (andO qa qb) | 0x1E => setP (orO qa qb)
  | _ => r

def runIv (u : Units) (ws k : List Word32) (r : IvRegs) : Val × Val :=
  (ws.foldl (ivStep u k) r).f.getD (outReg ws) (zeroV, zeroV)

/-! ## The three evaluations of R151 -/

/-- What a command's shaping needs: the program where one is named, its constants, the visibility position, the layer. -/
structure Shaper where
  prog : Option (List Word32)
  k : List Word32
  vis : Nat
  layer : Nat

def Shaper.point (sh : Shaper) (u : Units) (h t : Nat) (tag : Word32) (z : Val) : Val :=
  match sh.prog with
  | none => z
  | some ws => runPoint u ws sh.k ⟨z :: List.replicate 15 zeroV,
      [(t : Int), (sh.vis : Int) - 1 - t, h, sh.layer] ++ List.replicate 4 0, List.replicate 4 false, tag⟩

def ivRegs (z : Val × Val) (pos dist : Int × Int) (h layer : Nat) (tand tor : Word32) : IvRegs :=
  ⟨z :: List.replicate 15 (zeroV, zeroV), [pos, dist, ((h : Int), (h : Int)), ((layer : Int), (layer : Int))] ++ List.replicate 4 (0, 0),
   List.replicate 4 (some false), tand, tor⟩

def Shaper.token (sh : Shaper) (u : Units) (h t : Nat) (tag : Word32) (z : Val × Val) : Val × Val :=
  match sh.prog with
  | none => z
  | some ws =>
    let d := (sh.vis : Int) - 1 - t
    runIv u ws sh.k (ivRegs z ((t : Int), (t : Int)) (d, d) h sh.layer tag tag)

def Shaper.page (sh : Shaper) (u : Units) (h tmin tmax : Nat) (tand tor : Word32) (z : Val × Val) : Val × Val :=
  match sh.prog with
  | none => z
  | some ws =>
    runIv u ws sh.k (ivRegs z ((tmin : Int), (tmax : Int)) ((sh.vis : Int) - 1 - tmax, (sh.vis : Int) - 1 - tmin) h sh.layer tand tor)

end Sys2Proof.Machine
end

