-- ==== Sys2Proof/Machine/Pattern.lean ====
section
/-! DEFINITION. Pattern automata: the compiled image and its checks (07_token_patterns.md R193 to R196), match words
(R197), banks (R198) and filters (R200, R201). -/

namespace Sys2Proof.Machine

/-! ## Images (R193 to R196) -/

/-- A run's FIRST and CLASS with its reserved bytes zero. -/
def runOf (b : List Byte) : Option (Nat × Nat) := if zeros (slice b 5 3) then some (field b 0 4, field b 4 1) else none

/-- FIRST values rise strictly. -/
def rising : List Nat → Bool
  | [] => true
  | [_] => true
  | a :: b :: l => decide (a < b) && rising (b :: l)

/-- Cuts a list in two at `n`. -/
def cutAt {α : Type} (n : Nat) (l : List α) : List α × List α := (l.take n, l.drop n)

/-- A pattern image, where it passes R196. The banks are set where the version is placed. -/
def parsePattern (b : List Byte) : Option PatVer :=
  let npat := field b 5 1
  let ncl := field b 6 2
  let nst := field b 8 4
  let start := field b 12 2
  let look := field b 14 1
  let nruns := field b 16 4
  let offAcc := 160 + 8 * nruns
  let offTab := offAcc + 4 * nst
  if b.length < 160 ∨ field b 0 4 ≠ 0x50415431 ∨ field b 4 1 ≠ 1 ∨ npat < 1 ∨ 32 < npat ∨ ncl < 1 ∨ 256 < ncl ∨
      nst < 1 ∨ 65536 < nst ∨ nst ≤ start ∨ 16 < look ∨ field b 15 1 ≠ 0 ∨ nruns < 1 ∨ 262144 < nruns ∨
      ¬ zeros (slice b 20 12) ∨ b.length ≠ offTab + 2 * nst * ncl ∨ ¬ zeros (slice b (32 + 4 * npat) (4 * (32 - npat))) then none
  else
    let runs := (chunks 8 (slice b 160 (8 * nruns))).mapM runOf
    let acc := (leWords 4 (slice b offAcc (4 * nst)))
    let tab := leWords 2 (b.drop offTab)
    match runs with
    | none => none
    | some runs =>
      if (runs.headD (1, 0)).1 = 0 ∧ rising (runs.map (·.1)) ∧ runs.all (fun r => decide (r.2 < ncl)) ∧
          acc.all (fun w => decide (w < 2 ^ npat)) ∧ tab.all (fun x => decide (x < nst)) then
        some ⟨npat, ncl, nst, start, look, (leWords 4 (slice b 32 128)).map fun x => BitVec.ofNat 32 x, runs,
          acc.map fun x => BitVec.ofNat 32 x, tab, digest b, 0, 0, 0⟩
      else none

/-! ## Match words (R197) -/

/-- CLASS of a token ID (R194). -/
def PatVer.classOf (v : PatVer) (tok : Word32) : Nat :=
  v.runs.foldl (fun c r => if r.1 ≤ tok.toNat then r.2 else c) 0

def PatVer.next (v : PatVer) (s : Nat) (tok : Word32) : Nat := v.tab.getD (v.nclass * s + v.classOf tok) 0

/-- The states after each position from `u` on, for the tokens given. -/
def PatVer.scan (v : PatVer) (s : Nat) : List Word32 → List Nat
  | [] => []
  | t :: l => let s := v.next s t; s :: v.scan s l

/-- The match words of the 256 positions of block `b`. -/
def PatVer.blockWords (v : PatVer) (tok : Nat → Word32) (b : Nat) : List Word32 :=
  let first := 256 * (b - v.lookback)
  let states := v.scan v.start ((List.range (256 * (b + 1) - first)).map fun i => tok (first + i))
  (states.drop (256 * b - first)).map fun s => v.acc.getD s 0

/-! ## Filters (R200, R201) -/

/-- The rules of R200 that hold in every command. -/
def Filter.ok (f : Filter) : Bool :=
  let m := f.mode.toNat
  f.select != 0 && m % 4 != 3 && decide (m < 16) && !(m % 4 == 0 && !bit m 2) && decide (f.slot < 1024)

def Filter.exclude (f : Filter) : Nat := f.mode.toNat % 4
def Filter.tags (f : Filter) : Bool := bit f.mode.toNat 2
def Filter.passes (f : Filter) (w : Word32) : Bool := (w &&& f.select != 0) != bit f.mode.toNat 3

def maskBits (m : BitVec 256) : List Nat := (List.range 256).filter m.getLsbD
def maskCount (m : BitVec 256) : Nat := (maskBits m).length

/-- What is left of a block's positions under a filter, and the tags it delivers (R201). -/
def filterBlock (v : PatVer) (f : Filter) (tok : Nat → Word32) (b : Nat) (t0 : BitVec 256) : BitVec 256 × List Word32 :=
  if t0 = 0 then (0, [])
  else
    let words := v.blockWords tok b
    let pass := fun i => t0.getLsbD i && f.passes (words.getD i 0)
    let left := match f.exclude with
      | 1 => if (List.range 256).any pass then t0 else 0
      | 2 => maskOf pass
      | _ => t0
    (left, if f.tags then words else [])

/-! ## Slots and banks (R192, R198, R205) -/

def State.patSlot? (s : State) (n : Nat) : Option PatSlot := s.slots.pats.find? fun p => p.num == n
def State.progSlot? (s : State) (n : Nat) : Option ProgSlot := s.slots.progs.find? fun p => p.num == n

/-- The pattern version that a command in flight is bound to, with its slot. -/
def Inflight.boundPat (i : Inflight) : Option (Nat × PatVer) :=
  match i.wait.inner with
  | .positions r | .attend r =>
    match r.req.filter, r.filter with
    | some f, some v => some (f.slot, v)
    | _, _ => none
  | .gradWait r | .grad r =>
    match r.filter, r.version with
    | some f, some v => some (f.slot, v)
    | _, _ => none
  | _ => none

/-- The program version that a command in flight is bound to, with its slot. -/
def Inflight.boundProg (i : Inflight) : Option (Nat × ProgVer) :=
  match i.wait.inner with
  | .positions r | .attend r =>
    match r.req.program, r.program with
    | some n, some v => some (n, v)
    | _, _ => none
  | _ => none

def State.patBound (s : State) (slot : Nat) (v : PatVer) : Bool := s.cmds.list.any fun i => i.boundPat == some (slot, v)
def State.progBound (s : State) (slot : Nat) (v : ProgVer) : Bool := s.cmds.list.any fun i => i.boundProg == some (slot, v)

/-- Replaced or unloaded versions that a command still holds (R164, R205). -/
def State.oldPats (s : State) (p : PatSlot) : List PatVer := p.old.filter (s.patBound p.num)
def State.oldProgs (s : State) (p : ProgSlot) : List ProgVer := p.old.filter (s.progBound p.num)

/-- The versions that hold banks. -/
def State.placedPats (s : State) : List PatVer := s.slots.pats.flatMap fun p => p.current.toList ++ s.oldPats p

def engineOfBank (bank : Nat) : Nat := bank / 8

/-- A bank that no version holds and whose automata engine is not fenced (R198, R441). -/
def State.bankFree (s : State) (bank : Nat) : Bool :=
  !s.eng.pasFenced.contains (engineOfBank bank) &&
  s.placedPats.all fun v => decide (bank < v.firstBank ∨ v.firstBank + v.nbanks ≤ bank)

/-- Class-map runs that an engine stores. -/
def State.mapRuns (s : State) (pa : Nat) : Nat :=
  sumNat (s.placedPats.map fun v =>
    if v.firstBank < 8 * (pa + 1) ∧ 8 * pa < v.firstBank + v.nbanks then v.runs.length else 0)

/-- The lowest run of free banks for a version, whose engines have class-map room (R198). -/
def State.placeBanks (s : State) (v : PatVer) : Option PatVer :=
  let n := (v.nstates + 1023) / 1024
  match (List.range (65 - n)).find? fun b => (List.range n).all fun i => s.bankFree (b + i) with
  | none => none
  | some b =>
    let pas := ((List.range n).map fun i => engineOfBank (b + i)).dedup
    if pas.all fun pa => decide (s.mapRuns pa + v.runs.length ≤ 524288) then some { v with firstBank := b, nbanks := n }
    else none

/-- How a filter binds at admission (R115): a version, or the status that refuses the command. -/
def State.bindFilter (s : State) (ptn : Nat) (f : Filter) : Except Status PatVer :=
  match s.patSlot? f.slot with
  | none => .error .badParam
  | some p =>
    if p.owner = noPtn then .error .badParam
    else if p.owner ≠ ptn then .error .denied
    else match p.current with
      | some v => .ok v
      | none => .error .busyRetry

/-- How a program slot binds at admission (R163, R164, R166). -/
def State.bindProgram (s : State) (ptn slot : Nat) (k : List Word32) : Except Status ProgVer :=
  match s.progSlot? slot with
  | none => .error .badParam
  | some p =>
    match p.current with
    | none => .error .badParam
    | some v => if p.owner ≠ ptn then .error .denied else if constantsOk v.words k then .ok v else .error .badParam

end Sys2Proof.Machine
end

