-- ==== Sys2Proof/Machine/Partial.lean ====
section
/-! DEFINITION. Certified partials (04_attention_execution.md R109 to R139): envelope bounds and selection, scoring, weights,
certificates, the refinement loop, the partial set and the merge of partials. -/

namespace Sys2Proof

open Machine

/-- A request of phase 2 of a recall: its sequence does not name the pages' own (R189). -/
def PartialReq.ofRecall (b : PartialReq) : Bool := b.seq == 0

def Image.plane (i : Image) (p : Nat) : Plane := i.planes.getD p planeZero

/-- l of a record, hi + lo. -/
def HeadRec.lRat (r : HeadRec) : Rat := wpRat r.l

def HeadRec.isEmpty (r : HeadRec) : Bool := bit r.flags.toNat 0

def HeadRec.bytes (compact : Bool) (r : HeadRec) : List Byte :=
  leBytes 4 r.m.toNat ++ leBytes 2 r.flags.toNat ++ zeroBytes 2 ++
  (if compact then leBytes 4 r.l.hi.toNat ++ zeroBytes 4 else wpBytes r.l) ++
  leBytes 4 r.el.toNat ++ leBytes 4 r.eo.toNat ++ leBytes 4 r.vmax.toNat ++ leBytes 4 r.ntok ++
  r.o.flatMap fun w => if compact then leBytes 4 w.hi.toNat else wpBytes w

def PartialSet.bytes (p : PartialSet) : List Byte :=
  leBytes 4 p.vis ++ leBytes 2 p.heads.length ++ leBytes 2 p.cv ++ leBytes 1 (b2n p.compact) ++ leBytes 1 (b2n p.nearBank) ++
  zeroBytes 2 ++ leBytes 4 p.pagesSelected ++ leBytes 4 p.pagesUnselected ++ leBytes 4 p.tokensRefined ++
  leBytes 4 p.tailTokens ++ leBytes 4 p.length ++ p.heads.flatMap (HeadRec.bytes p.compact)

end Sys2Proof

namespace Sys2Proof.Machine

/-! ## Extended non-negative reals: none is +∞ -/

abbrev ER := Option Rat

def erAdd (a b : ER) : ER := match a, b with | some x, some y => some (x + y) | _, _ => none
/-- A product, with zero times anything zero. -/
def erMul (a b : ER) : ER :=
  match a, b with
  | some x, some y => some (x * y)
  | some x, none | none, some x => if x = 0 then some 0 else none
  | none, none => none
def erLe (a b : ER) : Bool := match a, b with | _, none => true | none, some _ => false | some x, some y => decide (x ≤ y)
def erLt (a b : ER) : Bool := !erLe b a
def erOf : Val → ER
  | .fin s m => some (Val.fin s m).rat
  | _ => none
def erVal : ER → Val
  | some q => Val.ofRat q
  | none => .inf false
/-- Rounded up to FP32. -/
def erUp : ER → ER
  | some q => erOf (fp32.round .ru q)
  | none => none
def erWord (a : ER) : Word32 := match a with | some q => f32Of .ru q | none => fPosInf

/-- A sum of terms, every partial sum rounded up. -/
def erSum (u : Units) (key : Nat) (l : List ER) : ER := (inOrder u key l).foldl (fun acc x => erUp (erAdd acc x)) (some 0)

def wordEr (w : Word32) : ER := erOf (f32 w)

/-! ## What a command brings to its pages -/

/-- The parameters that the scoring of pages needs. `q` holds each head's query vector. -/
structure Scorer where
  u : Units
  g : LayerGroup
  alpha : Rat
  q : List (List Rat)
  sh : Shaper
  nearBank : List Handle

def Scorer.heads (x : Scorer) : Nat := x.q.length

/-- Source plane and channel of each key channel of a head, in order (R109). -/
def keyChans (g : LayerGroup) (h : Nat) : List (Nat × Nat) :=
  (g.keyPlanes h).flatMap fun p => (List.range (g.planes.getD p (0, 0, 0)).2.2).map fun c => (p, c)

/-- The query elements of a head with their planes and channels. -/
def Scorer.keys (x : Scorer) (h : Nat) : List (Rat × Nat × Nat) := List.zip (x.q.getD h []) (keyChans x.g h)

/-- A page is scored from its BF16 rows (R120). -/
def fromRows (i : Image) : Bool := i.tail || i.layout == .exact

/-- The rows' element of a source plane. -/
def Scorer.row (x : Scorer) (i : Image) (p t c : Nat) : Rat := rowValue i.rows (x.g.cpre p) t c

/-! ## Envelope bounds (R116, R117) -/

def Pinned.envAt (p : Pinned) (pl c : Nat) : Word16 × Word16 := (p.env.getD pl []).getD c (0, 0)

/-- ZHI (up) or ZLO (down) of a page for a head. -/
def Scorer.bound (x : Scorer) (up : Bool) (key : Nat) (p : Pinned) (h : Nat) : Val :=
  let d : Rnd := if up then .ru else .rd
  let terms := (x.keys h).map fun k =>
    let e := p.envAt k.2.1 k.2.2
    fp32.round d (k.1 * b16Rat (if (0 ≤ k.1) = (up = true) then e.2 else e.1))
  match sumV x.u key d terms with
  | .fin s m => fp32.round d (x.alpha * (Val.fin s m).rat)
  | v => v

def andAll (l : List Word32) : Word32 := match l with | [] => 0 | w :: l => l.foldl (· &&& ·) w
def orAll (l : List Word32) : Word32 := l.foldl (· ||| ·) 0

/-- [SLO, SHI] of a page for a head. -/
def Scorer.pageBounds (x : Scorer) (p : Pinned) (h : Nat) : Val × Val :=
  let ts := maskBits p.mask
  let tags := ts.map fun i => p.tags.getD i 0
  let lo := 256 * p.block + ts.headD 0
  let hi := 256 * p.block + ts.getLastD 0
  let key := 2 * (p.block * 128 + h)
  x.sh.page x.u h lo hi (andAll tags) (orAll tags) (x.bound false key p h, x.bound true (key + 1) p h)

/-! ## Initial selection (R118) -/

/-- The covered sealed pages: a tail frame, full or not, is scored exactly (R20). -/
def Pinned.isTail (p : Pinned) : Bool := match p.img with | some i => i.tail | none => false

/-- A page whose SHI is −∞ for every head: it contributes nothing and is never selected (R118). -/
def Scorer.silent (x : Scorer) (p : Pinned) : Bool := (List.range x.heads).all fun h => (x.pageBounds p h).2 == .inf true

/-- SHI − M as a rational; none where it is −∞. -/
def gap (shi m : Val) : Option Rat :=
  match shi, m with
  | .inf true, _ => none
  | .inf false, _ => some 0
  | .fin s a, .fin t b => some ((Val.fin s a).rat - (Val.fin t b).rat)
  | _, _ => none

def maxO (a b : Option Rat) : Option Rat :=
  match a, b with
  | some x, some y => some (max x y)
  | none, b => b
  | a, none => a

/-- The largest gap of each page over the heads. -/
def Scorer.gaps (x : Scorer) (pages : List Pinned) : List (Pinned × Option Rat) :=
  let shis := pages.map fun p => (List.range x.heads).map fun h => (x.pageBounds p h).2
  let ms := (List.range x.heads).map fun h => (shis.map fun l => l.getD h (.inf true)).foldl xMax (.inf true)
  List.zip pages (shis.map fun l => (List.zipWith gap l ms).foldl maxO none)

/-- The pages that are selected first, in block order; a page budget of 0 is no limit. -/
def Scorer.select (x : Scorer) (theta : Rat) (budget : Nat) (exhaustive : Bool) (pages : List Pinned) : List Handle :=
  let near := fun (d : Option Rat) => match d with | some d => decide (-theta ≤ d) | none => false
  let above := fun (a b : Option Rat) => match a, b with
    | some x, some y => decide (y < x)
    | some _, none => true
    | none, _ => false
  let cand := (x.gaps pages).filter fun y => near y.2 || (exhaustive && !x.silent y.1)
  let byGap := sortBy (fun (a b : Pinned × Option Rat) => above a.2 b.2 || (a.2 == b.2 && decide (a.1.block < b.1.block))) cand
  let kept := if budget = 0 then byGap else byGap.take budget
  (sortBy (fun (a b : Pinned × Option Rat) => decide (a.1.block < b.1.block)) kept).map fun y => y.1.page

/-! ## Scoring (R119 to R122) -/

/-- The sum of FP32 terms in the units' order, times α. -/
def Scorer.zOf (x : Scorer) (key : Nat) (terms : List Rat) : Val :=
  vMul .rn (Val.ofRat x.alpha) (sumV x.u key .rn (terms.map fun t => fp32.round .rn t))

/-- The table entries that a token's key channels take: base, and with refinement residual. -/
def Scorer.codeTerms (x : Scorer) (i : Image) (h t : Nat) (refined : Bool) : List Rat :=
  let ks := x.keys h
  let base := ks.map fun k => let p := i.plane k.2.1; k.1 * planeStep p (groupOf p.kind p.channels t k.2.2) * codeDiff p t k.2.2
  if refined then
    base ++ ks.map fun k =>
      let p := i.plane k.2.1
      k.1 * planeStep p (groupOf p.kind p.channels t k.2.2) * (2 * resCodeAt p t k.2.2 + 1 : Int) / 32
  else base

def Scorer.rowTerms (x : Scorer) (i : Image) (h t : Nat) : List Rat :=
  (x.keys h).map fun k => k.1 * x.row i k.2.1 t k.2.2

/-- Group of a key channel at token `t` of an image's plane. -/
def Scorer.keyGroup (x : Scorer) (pl t c : Nat) : Nat :=
  let d := x.g.planes.getD pl (0, 0, 0)
  groupOf d.1 d.2.2 t c

/-- κ (R121). -/
def Scorer.kappa (x : Scorer) (key : Nat) (i : Image) (h t : Nat) (refined : Bool) : Val :=
  let terms := (x.keys h).map fun k =>
    let j := x.keyGroup k.2.1 t k.2.2
    if fromRows i then (if i.marked t then |k.1| * requantBound (i.bound k.2.1 j) (x.row i k.2.1 t k.2.2) else 0)
    else |k.1| * (planeStep (i.plane k.2.1) j / (if refined then 32 else 2) + i.bound k.2.1 j)
  scaleUp x.alpha (sumUp x.u key terms)

/-- A (R120, R121). -/
def Scorer.mag (x : Scorer) (key : Nat) (i : Image) (h t : Nat) : Val :=
  if fromRows i then sumUp x.u key ((x.rowTerms i h t).map fun q => |q|)
  else scaleUp 16 (sumUp x.u key ((x.keys h).map fun k => |k.1| * planeStep (i.plane k.2.1) (x.keyGroup k.2.1 t k.2.2)))

/-- ε_a (R121). -/
def epsArith (alpha : Rat) (n : Nat) (a : Val) : Val :=
  match a with
  | .fin s m => upVal (pow2 (-23) * (n + 1) * alpha * (Val.fin s m).rat + (n + 1) * pow2 (-149))
  | v => v

/-- A scored token of a head: point score, score interval, value bound and what it adds its weight to. `blk` is its
unrefined block. -/
structure Tok where
  pos : Nat
  s : Val
  lo : Val
  hi : Val
  vals : List Rat
  dv : Rat
  vmax : Rat
  page : Handle
  blk : Option Nat
  /-- Its values are stored as such: a tail or exact page (R126, R141). -/
  exact : Bool

/-- The stored values that a token contributes, and δv (R127). -/
def Scorer.values (x : Scorer) (i : Image) (h t : Nat) (refined : Bool) : List Rat × Rat :=
  let p := x.g.valPlane h
  let C := (x.g.planes.getD p (0, 0, 0)).2.2
  let cs := List.range C
  if fromRows i then
    let ys := cs.map fun c => x.row i p t c
    (ys, if i.marked t then ((enumFrom 0 ys).map fun y => requantBound (i.bound p (x.keyGroup p t y.1)) y.2).foldl max 0 else 0)
  else
    let pl := i.plane p
    let step := fun c => planeStep pl (groupOf pl.kind pl.channels t c)
    let iota := fun c => i.bound p (groupOf pl.kind pl.channels t c)
    if refined then (cs.map fun c => refinedValue pl t c, (cs.map fun c => step c / 32 + iota c).foldl max 0)
    else (cs.map fun c => baseValue pl t c, (cs.map fun c => step c / 2 + iota c).foldl max 0)

/-- VMAX of a page for a head: from the envelopes of its value channels, or over the covered rows of a tail (R129). -/
def Scorer.vmaxOf (x : Scorer) (p : Pinned) (h : Nat) : Rat :=
  let pl := x.g.valPlane h
  let C := (x.g.planes.getD pl (0, 0, 0)).2.2
  match p.img with
  | some i =>
    if i.tail then
      let cells := (maskBits p.mask).flatMap fun t => (List.range C).map fun c =>
        let y := x.row i pl t c
        |y| + (if i.marked t then requantBound (i.bound pl (x.keyGroup pl t c)) y else 0)
      (upVal (cells.foldl max 0)).rat
    else env pl C
  | none => env pl C
where
  /-- From the envelopes. -/
  env (pl C : Nat) : Rat :=
    ((List.range C).map fun c => let e := p.envAt pl c; max |b16Rat e.1| |b16Rat e.2|).foldl max 0

/-- Scores one covered token of a page for a head. -/
def Scorer.token (x : Scorer) (p : Pinned) (i : Image) (h t : Nat) (refined : Bool) (vmax : Rat) : Tok :=
  let pos := 256 * p.block + t
  let key := 8 * (pos * 128 + h)
  let terms := if fromRows i then x.rowTerms i h t else x.codeTerms i h t refined
  let n := terms.length
  let eps := vAdd .ru (x.kappa (key + 1) i h t refined) (epsArith x.alpha n (x.mag (key + 2) i h t))
  let z0 := x.zOf key terms
  let z := if x.nearBank.contains p.page then
      let exact := x.alpha * terms.foldl (· + ·) 0
      let e := (epsArith x.alpha n (x.mag (key + 2) i h t)).rat
      pickIn (x.u.nearBank p.page h t) z0 (exact - e) (exact + e)
    else z0
  let iv := (vAdd .rd z (vNeg eps), vAdd .ru z eps)
  let tag := p.tags.getD t 0
  let s := x.sh.point x.u h pos tag z
  let b := x.sh.token x.u h pos tag iv
  let v := x.values i h t refined
  ⟨pos, s, b.1, b.2, v.1, v.2, vmax, p.page, if fromRows i ∨ refined then none else some (t / 32), fromRows i⟩

/-- The scored tokens of a page for a head. -/
def Scorer.pageToks (x : Scorer) (refined : List (Handle × Nat)) (p : Pinned) (h : Nat) : List Tok :=
  match p.img with
  | none => []
  | some i =>
    let v := x.vmaxOf p h
    (maskBits p.mask).map fun t => x.token p i h t (refined.contains (p.page, t / 32)) v

/-! ## Weights, sums and the certificate of one head (R123 to R132) -/

/-- A covered page that is bounded by its envelopes only. -/
structure Uns where
  page : Handle
  shi : Val
  n : Nat
  vmax : Rat

/-- A token's weight and weight bound, with what the certificate takes from them. -/
structure Weighed where
  tok : Tok
  w : Word32
  omega : ER

/-- m (R124); none where the head's partial is empty. -/
def refMax (ss hs : List Val) : Option Val :=
  let fin := fun (l : List Val) => l.filter Val.finite
  let top := fun (l : List Val) => match l with | [] => none | v :: r => some (r.foldl xMax v)
  match (top ss).filter Val.finite with
  | some m => some m
  | none => match top (fin hs) with
    | some m => some m
    | none => if (ss ++ hs).any (fun v => v == .inf false) then some (.fin false maxF32) else none

/-- Weight and weight bound (R125). -/
def weigh (u : Units) (m : Val) (t : Tok) : Weighed :=
  let sub := fun d a => vAdd d a (vNeg m)
  let w := u.fn 2 (sub .rn t.s)
  let up := match u.fn 0 (sub .ru t.hi) with
    | .fin s a => erUp (some ((Val.fin s a).rat - w.rat))
    | _ => none
  let dn := erUp (some (w.rat - (u.fn 1 (sub .rd t.lo)).rat))
  let mx := fun a b => if erLe a b then b else a
  ⟨t, ofF32 w, mx (some 0) (mx up dn)⟩

/-- U of an unselected page (R128). -/
def unsMass (u : Units) (m : Val) (x : Uns) : ER :=
  match u.fn 0 (vAdd .ru x.shi (vNeg m)) with
  | .fin s a => erUp (some (x.n * (Val.fin s a).rat))
  | _ => if x.n = 0 then some 0 else none

/-- One head's own partial with the parts that the loop compares (R130, R133). -/
structure HeadEval where
  hrec : HeadRec
  elsel : ER
  eosel : ER
  weighed : List Weighed
  mass : List (Uns × ER)

/-- An empty record (R141): `EMPTY` and `TOL_MET` are its only flags. -/
def emptyHead (cv ntok : Nat) : HeadRec :=
  ⟨fNegInf, 3, ⟨0, 0⟩, 0, 0, 0, ntok, List.replicate cv ⟨0, 0⟩⟩

/-- Flag bits of a head record (R137). -/
def flEmpty : Nat := 1
def flTol : Nat := 2
def flRequant : Nat := 4
def flUnsel : Nat := 8
def flLost : Nat := 16
def flShaped : Nat := 32

def erMaxRat (l : List Rat) : Rat := l.foldl max 0

/-- One head over its scored tokens and unselected pages. `ms` are the references of remote partials that will be
merged; `vmax` is the largest over every covered page that this partial answers for. -/
def headEval (u : Units) (key cv ntok flags : Nat) (toks : List Tok) (uns : List Uns) (ms : List Val) (vmax : Rat) : HeadEval :=
  match refMax (toks.map (·.s) ++ ms) (toks.map (·.hi) ++ uns.map (·.shi)) with
  | none => ⟨emptyHead cv ntok, some 0, some 0, [], []⟩
  | some m =>
    if toks = [] ∧ uns.isEmpty then ⟨emptyHead cv ntok, some 0, some 0, [], []⟩
    else
      let ws := toks.map (weigh u m)
      let acc := inOrder u (key + 3) ws
      let single : Bool := match acc with | [x] => x.tok.exact && x.w == ofF32 (.fin false 1) | _ => false
      let l := if single then ⟨ofF32 (.fin false 1), 0⟩ else acc.foldl (fun a x => u.wpAdd a ⟨x.w, 0⟩) WP64.zero
      let o := (List.range cv).map fun c =>
        if vmax = 0 then WP64.zero
        else if single then ⟨f32Of .rn ((acc.headD (weigh u m ⟨0, m, m, m, [], 0, 0, 0, none, true⟩)).tok.vals.getD c 0), 0⟩
        else acc.foldl (fun a x => u.wpAdd a (u.wpMul x.w (x.tok.vals.getD c 0))) WP64.zero
      let n : Rat := toks.length
      let w := fun (x : Weighed) => f32Rat x.w
      let ao := erSum u (key + 4) (ws.map fun x => erMul (some (w x)) (erUp (some (x.tok.vmax + x.tok.dv))))
      let elsel := erSum u (key + 5) (ws.map (·.omega) ++ [some (n * pow2 (-44) * wpRat l), some (n * pow2 (-147))])
      let eosel := erSum u (key + 6) ((ws.map fun x => erMul x.omega (some x.tok.vmax)) ++ (ws.map fun x => some (w x * x.tok.dv)) ++
        [erMul (some (pow2 (-23) + n * pow2 (-44))) ao, some (n * pow2 (-145))])
      let mass := uns.map fun x => (x, unsMass u m x)
      let el := erSum u (key + 7) (elsel :: mass.map (·.2))
      let eo := if vmax = 0 then some 0 else erSum u (key + 8) (eosel :: mass.map fun x => erMul x.2 (some x.1.vmax))
      ⟨⟨ofF32 m, BitVec.ofNat 16 flags, l, erWord el, erWord eo, f32Of .ru vmax, ntok, o⟩, elsel, eosel, ws, mass⟩

/-! ## Tolerance (R111, R138) -/

/-- Whether a record meets τ. -/
def meets (tau : Rat) (r : HeadRec) : Bool :=
  let v := f32Rat r.vmax
  if v = 0 then true
  else
    let inner := erUp (erAdd (wordEr r.eo) (erUp (erMul (some v) (wordEr r.el))))
    let l := fp32.round .rd r.lRat
    match inner, l with
    | some a, .fin s m => !s && m != 0 && vLe (fp32.round .ru (a / m)) (fp32.round .rd (2 * tau * v))
    | _, _ => false

/-- D / (2 τ VMAX): none where it is infinite (R133). -/
def badness (tau : Rat) (r : HeadRec) : ER :=
  let v := f32Rat r.vmax
  if v = 0 then some 0
  else if r.lRat ≤ 0 then none
  else match wordEr r.eo, wordEr r.el with
    | some eo, some el => some ((eo + v * el) / r.lRat / (2 * tau * v))
    | _, _ => none

/-- The compact form of a record (R138): l and o in FP32, low words zero. -/
def compactHead (r : HeadRec) : HeadRec :=
  let one := fun (w : WP64) => f32Of .rn (wpRat w)
  let l := one r.l
  let o := r.o.map one
  let top := erMaxRat (o.map fun w => |f32Rat w|)
  { r with
    l := ⟨l, 0⟩, o := o.map fun w => ⟨w, 0⟩
    el := erWord (erUp (erAdd (wordEr r.el) (some (pow2 (-23) * f32Rat l + pow2 (-149)))))
    eo := erWord (erUp (erAdd (wordEr r.eo) (some (pow2 (-23) * top + pow2 (-149))))) }

/-! ## Merging (R139) -/

/-- c~ and μ of an operand whose reference is `x` below the merged one. -/
def mergeFactor (u : Units) (m mx : Val) : Word32 × ER :=
  if vEq m mx then (ofF32 (.fin false 1), some 0)
  else
    let c := u.fn 2 (vAdd .rn mx (vNeg m))
    let hi := u.fn 0 (vAdd .ru mx (vNeg m))
    let lo := u.fn 1 (vAdd .rd mx (vNeg m))
    let up := match hi with | .fin s a => some ((Val.fin s a).rat - c.rat) | _ => none
    let mx' := fun a b => if erLe a b then b else a
    (ofF32 c, erUp (mx' (some 0) (mx' up (some (c.rat - lo.rat)))))

/-- Merges two partials of one head. -/
def mergeHead (u : Units) (key : Nat) (a b : HeadRec) : HeadRec :=
  if a.isEmpty then b
  else if b.isEmpty then a
  else
    let m := xMax (f32 a.m) (f32 b.m)
    let fa := mergeFactor u m (f32 a.m)
    let fb := mergeFactor u m (f32 b.m)
    let c := fun (f : Word32 × ER) => some (f32Rat f.1)
    let mix := fun (x y : WP64) => u.wpAdd (u.wpMul fa.1 (wpRat x)) (u.wpMul fb.1 (wpRat y))
    let l := mix a.l b.l
    let mass := fun (x : HeadRec) => erAdd (some x.lRat) (wordEr x.el)
    let size := fun (x : HeadRec) => erUp (erAdd (erMul (some (f32Rat x.vmax)) (erUp (mass x))) (wordEr x.eo))
    let vm := fun (x : HeadRec) => some (f32Rat x.vmax)
    let el := erSum u key [erMul (c fa) (wordEr a.el), erMul (c fb) (wordEr b.el), erMul fa.2 (mass a), erMul fb.2 (mass b),
      some (pow2 (-43) * wpRat l), some (pow2 (-147))]
    let eo := erSum u (key + 1) [erMul (c fa) (wordEr a.eo), erMul (c fb) (wordEr b.eo), erMul fa.2 (erMul (vm a) (mass a)),
      erMul fb.2 (erMul (vm b) (mass b)), erMul (some (pow2 (-43))) (erAdd (erMul (c fa) (size a)) (erMul (c fb) (size b))),
      some (pow2 (-147))]
    let flags := (a.flags ||| b.flags) &&& BitVec.ofNat 16 (flRequant + flUnsel + flLost + flShaped)
    ⟨ofF32 m, flags, l, erWord el, erWord eo, fMax a.vmax b.vmax, a.ntok + b.ntok, List.zipWith mix a.o b.o⟩

/-! ## The loop (R133 to R135) -/

/-- What the loop works on: the covered pages, the tolerance, the budgets, whether pages may be admitted (a holder of a
partial request admits none, R134). -/
structure Work where
  x : Scorer
  pages : List Pinned
  tau : Rat
  exhaustive : Bool
  compact : Bool
  admits : Bool
  pageBudget : Nat
  tokenLimit : Bool
  cv : Nat

/-- How far the loop has come. -/
structure LoopSt where
  selected : List Handle
  refined : List (Handle × Nat)
  budget : Nat
  deriving DecidableEq, Repr

/-- How a run of the loop ended: finished, or a page, or a residual group of one, is wanted that is not here (R22, R23). -/
inductive LoopEnd where
  | done (st : LoopSt)
  | want (p : Pinned) (st : LoopSt)
  | wantGroup (b : Handle × Nat) (st : LoopSt)

def Work.page? (k : Work) (h : Handle) : Option Pinned := k.pages.find? fun p => p.page == h

/-- Pages of answered remote partials, and pages that no holder answered for (R27). -/
def answered (rs : List Remote) : List Handle := rs.flatMap fun r => if r.answer.isSome then r.pages else []
def lostPages (rs : List Remote) : List Handle := rs.flatMap fun r => if r.failed && r.answer.isNone then r.pages else []

/-- Every head with what the loop compares. -/
def Work.evals (k : Work) (rs : List Remote) (st : LoopSt) : List HeadEval :=
  let away := answered rs
  let lost := lostPages rs
  let mine := k.pages.filter fun p => !away.contains p.page
  let scored := mine.filter fun p => p.isTail || (p.img.isSome && st.selected.contains p.page)
  let rest := mine.filter fun p => !(p.isTail || (p.img.isSome && st.selected.contains p.page))
  let ntok := sumNat (mine.map fun p => maskCount p.mask)
  let requant := mine.any fun p => match p.img with | some i => (maskBits p.mask).any i.marked | none => p.requant != 0
  let flags := (if requant then flRequant else 0) + (if rest = [] then 0 else flUnsel) +
    (if rest.any fun p => lost.contains p.page then flLost else 0) + (if k.x.sh.prog.isSome then flShaped else 0)
  (List.range k.x.heads).map fun h =>
    let toks := scored.flatMap fun p => k.x.pageToks st.refined p h
    let uns := rest.map fun p => ⟨p.page, (k.x.pageBounds p h).2, maskCount p.mask, k.x.vmaxOf p h⟩
    let ms := rs.filterMap fun r => match r.answer with
      | some a => match a.heads[h]? with | some y => if y.isEmpty then none else some (f32 y.m) | none => none
      | none => none
    headEval k.x.u (4096 * h) k.cv ntok flags toks uns ms (erMaxRat (mine.map fun p => k.x.vmaxOf p h))

/-- The record of each head with the remote partials merged in the units' order (R139). -/
def Work.merged (k : Work) (rs : List Remote) (es : List HeadEval) : List HeadRec :=
  let total := sumNat (k.pages.map fun p => maskCount p.mask)
  (enumFrom 0 es).map fun y =>
    let parts := rs.filterMap fun r => r.answer.bind fun a => a.heads[y.1]?
    let r := (inOrder k.x.u (4096 * y.1 + 9) parts).foldl (fun acc p => mergeHead k.x.u (4096 * y.1 + 10) acc p) y.2.hrec
    { r with ntok := if parts = [] then r.ntok else total }

/-- The record that is judged and returned: compact where the command asks for it (R138). An empty one stays as R141 gives
it. -/
def Work.judged (k : Work) (r : HeadRec) : HeadRec := if k.compact && !r.isEmpty then compactHead r else r

/-- The head that misses the tolerance by most, the lowest on ties. -/
def worst (l : List ER) : Nat :=
  ((enumFrom 0 l).foldl (fun (b : Option (Nat × ER)) x => match b with
    | none => some x
    | some y => if erLt y.2 x.2 then some x else b) none).map (·.1) |>.getD 0

def erTotal (l : List ER) : ER := l.foldl erAdd (some 0)

/-- The contribution of each unrefined block (R133). -/
def blockShares (vh : Rat) (ws : List Weighed) : List ((Handle × Nat) × ER) :=
  ws.foldl (fun acc x => match x.tok.blk with
    | none => acc
    | some g =>
      let key := (x.tok.page, g)
      let add := erAdd (erMul x.omega (some (x.tok.vmax + vh))) (some (f32Rat x.w * x.tok.dv))
      assocSet key (erAdd ((assoc key acc).getD (some 0)) add) acc) []

/-- The entry with the largest share, the first on ties. -/
def largest {α : Type} (l : List (α × ER)) : Option α :=
  (l.foldl (fun (b : Option (α × ER)) x => match b with
    | none => some x
    | some y => if erLt y.2 x.2 then some x else b) none).map (·.1)

/-- The unselected pages that may be admitted. -/
def Work.admissible (k : Work) (rs : List Remote) (st : LoopSt) (mass : List (Uns × ER)) : List (Uns × ER) :=
  if ¬ k.admits ∨ (k.pageBudget ≠ 0 ∧ k.pageBudget ≤ st.selected.length) then []
  else mass.filter fun x => !(lostPages rs).contains x.1.page && !st.selected.contains x.1.page &&
    match k.page? x.1.page with | some p => !k.x.silent p | none => true

def Work.mayRefine (k : Work) (st : LoopSt) : Bool := !k.tokenLimit || decide (32 ≤ st.budget)

/-- R133. `ready` says which pages can be read now where the selection is as given, `fetched` which residual groups are here. -/
def Work.loop (k : Work) (rs : List Remote) (ready : List Handle → Handle → Bool) (fetched : Handle × Nat → Bool) : Nat → LoopSt → LoopEnd
  | 0, st => .done st
  | fuel + 1, st =>
    let es := k.evals rs st
    let rec' := (k.merged rs es).map k.judged
    let h := worst (rec'.map (badness k.tau))
    match es[h]?, rec'[h]? with
    | some e, some r =>
      let vh := f32Rat r.vmax
      let adm := k.admissible rs st e.mass
      let blocks := if k.mayRefine st then blockShares vh e.weighed else []
      if k.exhaustive ∧ adm = [] ∧ blocks = [] then .done st
      else if ¬ k.exhaustive ∧ rec'.all (meets k.tau) then .done st
      else
        let share := fun (x : Uns × ER) => erMul x.2 (some (x.1.vmax + vh))
        let uns := erTotal (e.mass.map share)
        let sto := erAdd e.eosel (erMul (some vh) e.elsel)
        let admitNext := fun (_ : Unit) => match largest (adm.map fun x => (x.1.page, share x)) with
          | none => LoopEnd.done st
          | some p =>
            let st' := { st with selected := st.selected ++ [p] }
            match k.page? p with
            | some y => if y.img.isSome ∧ ready st'.selected p then Work.loop k rs ready fetched fuel st' else .want y st'
            | none => .done st
        if erLe sto uns ∧ adm ≠ [] then admitNext ()
        else match largest blocks with
          | some b =>
            if fetched b then Work.loop k rs ready fetched fuel { st with refined := st.refined ++ [b], budget := st.budget - 32 }
            else .wantGroup b st
          | none => admitNext ()
    | _, _ => .done st

def Work.fuel (k : Work) : Nat := 9 * k.pages.length + 2

/-- The status of R135 for the records returned. -/
def Work.status (k : Work) (rs : List Remote) (st : LoopSt) (es : List HeadEval) (rec' : List HeadRec) : Status :=
  let lost : Bool := k.pages.any fun p => (lostPages rs).contains p.page
  /- Pages that contribute nothing are never selected, so they hold no more back (R118). -/
  let idle := fun (h : Handle) => (lostPages rs).contains h || match k.page? h with | some p => k.x.silent p | none => false
  let noPages : Bool := es.all fun e => e.mass.all fun x => idle x.1.page
  let noBlocks : Bool := (es.all fun e => e.weighed.all fun x => x.tok.blk.isNone) && !rs.any (fun r => r.answer.isSome && r.short)
  let silent := (k.pages.filter fun p => !p.isTail && !st.selected.contains p.page && k.x.silent p).length
  if rec'.all (meets k.tau) then .ok
  else if k.exhaustive ∧ ¬ lost ∧ noPages ∧ noBlocks then .ok
  else if lost ∨ (st.selected.length + silent + (k.pages.filter Pinned.isTail).length = k.pages.length ∧ noBlocks) then .toleranceUnmet
  else .budgetExhausted

/-- Covered tokens of the blocks refined. -/
def Work.tokensRefined (k : Work) (st : LoopSt) : Nat :=
  sumNat (st.refined.map fun b => match k.page? b.1 with
    | some p => ((maskBits p.mask).filter fun t => t / 32 == b.2).length
    | none => 0)

/-- The partial set that a finished loop gives (R136, R137). -/
def Work.result (k : Work) (vis length : Nat) (rs : List Remote) (st : LoopSt) : Status × PartialSet :=
  let es := k.evals rs st
  let rec' := (k.merged rs es).map k.judged
  let sealedPages := k.pages.filter fun p => !p.isTail
  let sel := (sealedPages.filter fun p => (answered rs).contains p.page || (p.img.isSome && st.selected.contains p.page)).length
  let tail := sumNat ((k.pages.filter Pinned.isTail).map fun p => maskCount p.mask)
  let far := sumNat (rs.map fun r => match r.answer with | some a => a.tokensRefined | none => 0)
  let nb := !k.x.nearBank.isEmpty || rs.any fun r => match r.answer with | some a => a.nearBank | none => false
  let tol := fun (r : HeadRec) =>
    let f := r.flags &&& ~~~BitVec.ofNat 16 flTol
    { r with flags := if meets k.tau r then f ||| BitVec.ofNat 16 flTol else f }
  (k.status rs st es rec',
   ⟨vis, k.cv, k.compact, nb, sel, sealedPages.length - sel, k.tokensRefined st + far, tail, length, rec'.map tol⟩)

/-! ## The empty partial (R141) -/

/-- The bytes of a partial set in either form (R136 to R138). -/
def partialLen (heads cv : Nat) (compact : Bool) : Nat := 32 + heads * (32 + (if compact then 4 else 8) * cv)

/-- The partial set over no positions (R141). -/
def emptyPartial (vis cv heads length : Nat) (compact : Bool) : PartialSet :=
  ⟨vis, cv, compact, false, 0, 0, 0, 0, length, List.replicate heads (emptyHead cv 0)⟩

end Sys2Proof.Machine
end

