-- ==== Sys2Proof/Machine/SeqCmds.lean ====
section
/-! DEFINITION. The namespace and sequence commands (11_command_reference.md R300 to R311): what each checks, does and
answers. -/

namespace Sys2Proof.Machine

/-! ## Shared pieces -/

/-- The sequence that the first eight payload bytes name. -/
def seqAt0 (b : List Byte) : Handle := BitVec.ofNat 64 (field b 0 8)

/-- What a payload that begins with a sequence handle names at step 5 (R277). -/
def namesWrite (b : List Byte) : Named := if b.length < 8 then .nothing else .seqWrite (seqAt0 b)
def namesRead (b : List Byte) : Named := if b.length < 8 then .nothing else .seqRead (seqAt0 b)

/-- No positional check. -/
def noSix (_ : Cmd) (_ : State) : Option Res := none
def noReply (_ : Cmd) (_ : State) : Nat := 0
def emptyDup (_ : Cmd) (s : State) : Res := .done .okDuplicate [] s

/-- The first check that fails. -/
def firstBad (l : List (Bool × Status)) : Option Status := (l.find? fun x => !x.1).map (·.2)

/-- A namespace that a command names: a management session reaches every partition's (R293). -/
def State.nsNamed (s : State) (c : Cmd) (n : Nat) : Option Status :=
  match c.pkt.src with
  | .mgmt _ => if n = 0 ∨ n = 0xFFFF then some .badParam else if (s.ns? n).isSome then none else some .unknownSeq
  | _ => s.nsCheck c.ptn n

/-! ## Namespaces (R33, R300, R301) -/

def nsNodes (b : List Byte) : List Nat := leWords 2 (slice b 16 (2 * field b 12 2))
def nsIndex (b : List Byte) : List Nat := leWords 2 (slice b (16 + 2 * field b 12 2) (2 * field b 14 2))

def nsCreateOk (b : List Byte) : Bool :=
  let fl := field b 3 1
  let recallF := bit fl 0
  let placed := bit fl 1
  let nn := field b 12 2
  let ni := field b 14 2
  decide (16 ≤ b.length) && decide (b.length = 16 + 2 * (nn + ni)) && decide (fl < 4) && decide (field b 4 1 ≤ 2) &&
  zeros (slice b 5 3) && decide (1 ≤ field b 8 4) &&
  (if placed then decide (2 ≤ nn ∧ nn ≤ 256) else nn == 0) &&
  (if recallF && !placed then decide (1 ≤ ni ∧ ni ≤ 4096) else ni == 0) &&
  (nsNodes b ++ nsIndex b).all fun n => decide (n < 4096)

/-- The owner that the command names, or the status that R300 gives. -/
def nsOwner (c : Cmd) (s : State) : Option Status :=
  let n := field c.data 2 1
  match c.pkt.src with
  | .mgmt _ => if (s.ptn? n).isSome then none else some .badParam
  | _ => if n = c.ptn then none else some .denied

/-- The partition's storage key is of the `ONCHIP` kind (R397). -/
def State.onchip (s : State) (ptn : Nat) : Bool := match s.ptn? ptn with | some p => p.keyMode == 1 | none => false

def nsCreateSeven (c : Cmd) (s : State) : Option Status :=
  let b := c.data
  let n := field b 0 2
  if ¬ nsCreateOk b ∨ n = 0 ∨ n = 0xFFFF then some .badParam
  else match nsOwner c s with
    | some st => some st
    | none =>
      if field b 4 1 = 2 ∧ s.onchip (field b 2 1) then some .badParam
      else if bit (field b 3 1) 1 ∧ ¬ bit (((s.ptn? (field b 2 1)).map (·.priv.toNat)).getD 0) 8 then some .denied else none

def nsCreateRun (c : Cmd) (s : State) : Res :=
  let b := c.data
  let n := field b 0 2
  if (s.ns? n).isSome then .no .conflict
  else
    let ids := fun l => l.map fun x => (BitVec.ofNat 12 x : NodeId)
    let x : Ns := ⟨n, field b 2 1, bit (field b 3 1) 0, bit (field b 3 1) 1, field b 4 1, field b 8 4, ids (nsNodes b),
      ids (nsIndex b), none, none, b⟩
    .ok [] (({ s with store := { s.store with nss := s.store.nss ++ [x] } } : State).delta [.ns n])

def nsCreateDef : OpDef := ⟨fun _ => .nothing, noSix, nsCreateSeven, noReply, nsCreateRun, emptyDup⟩

def nsModifySeven (c : Cmd) (s : State) : Option Status :=
  let b := c.data
  if b.length ≠ 8 ∨ field b 2 2 ≠ 0 ∨ field b 4 4 = 0 then some .badParam else s.nsNamed c (field b 0 2)

def nsModifyRun (c : Cmd) (s : State) : Res :=
  let n := field c.data 0 2
  .ok [] (({ s with store := { s.store with
    nss := updWhere (fun x => x.num == n) (fun x => { x with maxSeq := field c.data 4 4 }) s.store.nss } } : State).delta [.ns n])

def nsModifyDef : OpDef := ⟨fun _ => .nothing, noSix, nsModifySeven, noReply, nsModifyRun, emptyDup⟩

def nsDeleteSeven (c : Cmd) (s : State) : Option Status :=
  let b := c.data
  if b.length ≠ 8 ∨ ¬ zeros (slice b 2 6) then some .badParam else s.nsNamed c (field b 0 2)

/-- The node holds something of a namespace (R301). -/
def State.nsUsed (s : State) (n : Nat) : Bool :=
  decide (0 < s.nsCount n) || (s.store.pages.any fun p => nsOf p.name.seq == n) ||
  (s.rcl.segments.any fun g => g.name.ns == n && !g.entries.isEmpty) ||
  match s.ns? n with | some x => x.current.isSome || x.retained.isSome | none => false

def nsDeleteRun (c : Cmd) (s : State) : Res :=
  let n := field c.data 0 2
  if s.nsUsed n then .no .conflict
  else .ok [] (({ s with
    store := { s.store with nss := s.store.nss.filter fun x => !(x.num == n) }
    rcl := { s.rcl with segments := s.rcl.segments.filter fun g => !(g.name.ns == n) } } : State).delta [.ns n])

def nsDeleteDef : OpDef := ⟨fun _ => .nothing, noSix, nsDeleteSeven, noReply, nsDeleteRun, emptyDup⟩

/-! ## Creation and deletion of sequences (R303, R304) -/

def seqCreateSeven (c : Cmd) (s : State) : Option Status :=
  match parseSeqCreate c.data with
  | none => some .badParam
  | some r => if serialOf r.seq = 0 then some .badParam else s.nsCheck c.ptn (nsOf r.seq)

def seqCreateRun (c : Cmd) (s : State) : Res :=
  match parseSeqCreate c.data with
  | none => .no .badParam
  | some r =>
    if (s.seq? r.seq).isSome then .no .conflict
    else if ¬ s.seqRoom (nsOf r.seq) then .no .noSpace
    else .ok [] ((s.addSeq (freshSeq r .live)).mirrorMsg r.seq c.pkt.reqId (.stepCreate r))

def seqCreateDef : OpDef := ⟨namesWrite, noSix, seqCreateSeven, noReply, seqCreateRun, emptyDup⟩

/-- A payload of `n` bytes whose bytes from `z` on are reserved and that names a sequence. -/
def seqSeven (n z : Nat) (c : Cmd) (s : State) : Option Status :=
  if c.data.length ≠ n ∨ ¬ zeros (c.data.drop z) then some .badParam else s.seqCheck c.ptn (seqAt0 c.data)

/-- Waits for the tandem to apply a mirrored step, or ends at once where there is no tandem (R58, R304, R305). -/
def afterMirror (h : Handle) (x : Option (NodeId × Nat) × State) : Res :=
  match x.1 with
  | some (n, k) => .wait (.mirror n k h) [] x.2
  | none => .ok [] x.2

def seqDeleteRun (c : Cmd) (s : State) : Res :=
  let h := seqAt0 c.data
  let x := s.mirrorWait h c.pkt.reqId (.stepDelete h)
  let t := x.2.removeSeq true h
  afterMirror h (x.1, t.endWaits h t.cmds.list)

def seqDeleteDef : OpDef := ⟨namesWrite, noSix, seqSeven 8 8, noReply, seqDeleteRun, emptyDup⟩

/-! ## Tags and descriptions (R306, R307, R311) -/

def seqTagSeven (c : Cmd) (s : State) : Option Status := seqSeven 16 12 c s

def seqTagRun (c : Cmd) (s : State) : Res :=
  let h := seqAt0 c.data
  let tag : Word32 := BitVec.ofNat 32 (field c.data 8 4)
  .ok [] (((s.updSeq h fun q => { q with tag := tag }).delta [.seq h]).mirrorMsg h c.pkt.reqId (.stepTag h tag))

def seqTagDef : OpDef := ⟨namesWrite, noSix, seqTagSeven, noReply, seqTagRun, emptyDup⟩

/-- Whether the node answers for a sequence as its home: under its map, or under the one before (R450). -/
def State.actsHome (s : State) (h : Handle) : Bool := s.isHome h || (!s.isTandem h && s.wasHome h)

def replicaBytes (l : List NodeId) : List Byte := fitBytes 16 (l.flatMap fun n => leBytes 2 n.toNat)

/-- A page of a layer is sealed; one that another node holds always is (R67). -/
def State.entrySealed (s : State) (e : Entry) : Bool := match s.page? e.page with | some p => p.sealed? | none => true

def State.layerRecord (s : State) (q : Seq) (l : Nat) : List Byte :=
  let x := q.layer l
  let mirrored := if s.actsHome q.handle then x.mirrored else x.length
  leBytes 2 l ++ zeroBytes 2 ++ leBytes 4 x.length ++ leBytes 4 mirrored ++ leBytes 4 x.persisted ++
  leBytes 4 (x.entries.filter s.entrySealed).length ++ leBytes 4 (sumNat (x.entries.map s.entryRequant)) ++ zeroBytes 8

def seqDescribeSeven (c : Cmd) (s : State) : Option Status :=
  let b := c.data
  match seqSeven 16 12 c s with
  | some st => some st
  | none =>
    match s.seq? (seqAt0 b) with
    | none => some .unknownSeq
    | some q =>
      if 1 ≤ field b 10 2 ∧ field b 10 2 ≤ 256 ∧ field b 8 2 + field b 10 2 ≤ q.layers.length then none else some .badParam

def seqDescribeMax (c : Cmd) (s : State) : Nat :=
  48 + 16 * ((s.seq? (seqAt0 c.data)).map (·.groups.length)).getD 0 + 32 * field c.data 10 2

def seqDescribeRun (c : Cmd) (s : State) : Res :=
  let b := c.data
  match s.seq? (seqAt0 b) with
  | none => .no .unknownSeq
  | some q =>
    let node := fun (o : Option NodeId) => leBytes 2 ((o.map (·.toNat)).getD 0)
    .ok (leBytes 8 q.handle.toNat ++ leBytes 2 q.layers.length ++ leBytes 1 q.groups.length ++ leBytes 1 (b2n q.shared) ++
      leBytes 4 q.tag.toNat ++ leBytes 4 q.tokLen ++ node (s.homeOf q.handle) ++ node (s.tandemOf q.handle) ++
      leBytes 1 q.replicas.length ++ zeroBytes 7 ++ replicaBytes q.replicas ++ q.groups.flatMap LayerGroup.bytes ++
      (List.range (field b 10 2)).flatMap fun i => s.layerRecord q (field b 8 2 + i)) s

def seqDescribeDef : OpDef := ⟨namesRead, noSix, seqDescribeSeven, seqDescribeMax, seqDescribeRun, emptyDup⟩

def pageListSeven (c : Cmd) (s : State) : Option Status :=
  let b := c.data
  if b.length ≠ 24 ∨ field b 10 2 ≠ 0 ∨ ¬ zeros (b.drop 20) ∨ field b 16 4 = 0 ∨ 4096 < field b 16 4 then some .badParam
  else match s.seqCheck c.ptn (seqAt0 b) with
    | some st => some st
    | none => match s.seq? (seqAt0 b) with
      | none => some .unknownSeq
      | some q => if field b 8 2 < q.layers.length then none else some .badParam

/-- One record of R311. Of a page that another node holds it says what this node keeps of it (DESIGN CHOICE, log 67). -/
def State.pageRecord (s : State) (e : Entry) : List Byte :=
  let head := leBytes 8 e.page.toNat ++ leBytes 4 e.block
  match s.page? e.page with
  | some p =>
    let inOpen : Bool := match p.hbm with | some l => l.pch.isSome | none => false
    let away := !s.isOwn e.page
    head ++ leBytes 1 (b2n p.sealed?) ++
    leBytes 1 (b2n p.hbm.isSome + 2 * b2n p.flash + 4 * b2n inOpen + 8 * b2n away) ++
    leBytes 1 (b2n p.img.inherit.isSome + 2 * b2n p.img.summary.isSome + 4 * b2n (decide (1 < p.refs))) ++ zeroBytes 1 ++
    leBytes 4 p.refs ++ leBytes 2 p.img.requant ++ zeroBytes 2
  | none =>
    head ++ leBytes 1 1 ++ leBytes 1 8 ++
    leBytes 1 (b2n (decide (0 < e.requant)) + 2 * b2n ((s.placed? e.page).bind (·.index)).isSome +
      4 * b2n (decide (1 < s.remoteRefs e.page))) ++ zeroBytes 1 ++
    leBytes 4 (s.remoteRefs e.page) ++ leBytes 2 e.requant ++ zeroBytes 2

def pageListRun (c : Cmd) (s : State) : Res :=
  let b := c.data
  match s.seq? (seqAt0 b) with
  | none => .no .unknownSeq
  | some q =>
    let all := sortBy (fun (x y : Entry) => decide (x.block < y.block))
      ((q.layer (field b 8 2)).entries.filter fun e => decide (field b 12 4 ≤ e.block))
    let out := all.take (field b 16 4)
    let next := match all.drop (field b 16 4) with | [] => 0xFFFFFFFF | e :: _ => e.block
    .ok (leBytes 4 out.length ++ leBytes 4 next ++ zeroBytes 8 ++ out.flatMap s.pageRecord) s

def pageListDef : OpDef :=
  ⟨namesRead, noSix, pageListSeven, fun c _ => 16 + 24 * field c.data 16 4, pageListRun, emptyDup⟩

/-! ## Pages that a cut reads (R54, R57) -/

/-- The pages that a cut at `t` decodes and that this node does not hold in good order: layer, block, handle. -/
def State.cutMissing (s : State) (q : Seq) (t : Nat) : List (Nat × Handle) :=
  if t % 256 = 0 then []
  else (List.range q.layers.length).filterMap fun l =>
    if (q.layer l).length ≤ t then none
    else match (q.layer l).entry? (t / 256) with
      | none => none
      | some e => match s.page? e.page with
        | some p => if p.recovering then some (l, e.page) else none
        | none => some (l, e.page)

/-- Asks the holders for the pages that a cut needs and that lie elsewhere, and waits (R381). -/
def State.fetchCut (q : Seq) (t : Nat) (need : List (Nat × Handle)) (s : State) : Res :=
  let ask := fun (s : State) (x : Nat × Handle) =>
    if (s.page? x.2).isSome then s else s.postMsg (handleNode x.2) (.pageFetch x.2 q.handle x.1 (t / 256))
  .wait (.recovery (need.map (·.2))) [] (need.foldl ask s)

/-! ## Truncation (R57 to R59, R306) -/

def truncateSeven (c : Cmd) (s : State) : Option Status :=
  match seqSeven 16 12 c s with
  | some st => some st
  | none => match s.seq? (seqAt0 c.data) with
    | none => some .unknownSeq
    | some q => if q.tokLen < field c.data 8 4 then some .badParam else none

/-- A truncation on the home: the step, the loss records gone (R453), the appends that it undoes answered (R58). -/
def State.truncHome (h : Handle) (t : Nat) (s : State) : Option State :=
  match s.seq? h with
  | none => none
  | some q =>
    match s.truncSeq true h (List.range q.layers.length) t with
    | none => none
    | some s =>
      let s := (s.updSeq h fun q => { q with layers := q.layers.map fun x => { x with loss := none } }).delta
        ((enumFrom 0 q.layers).filterMap fun x => if x.2.loss.isSome then some (.loss h x.1) else none)
      some (s.endAppends h t .conflict s.cmds.list)

def truncateRun (c : Cmd) (s : State) : Res :=
  let h := seqAt0 c.data
  let t := field c.data 8 4
  match s.seq? h with
  | none => .no .unknownSeq
  | some q =>
    let need := s.cutMissing q t
    /- The lengths may have changed while the command waited for its pages (R57). -/
    if q.tokLen < t then .no .badParam
    else if need ≠ [] then s.fetchCut q t need
    else match s.truncHome h t with
      | none => .no .noSpace
      | some s => afterMirror h (s.mirrorWait h c.pkt.reqId (.stepTruncate h t))

def truncateDef : OpDef := ⟨namesWrite, noSix, truncateSeven, noReply, truncateRun, emptyDup⟩

/-! ## Resynchronisation of one sequence (R447) -/

/-- The rows of a layer's tail from its block's start, with the positions' token IDs, as an append (R447). -/
def State.tailAppend (s : State) (q : Seq) (l : Nat) (p : Page) : AppendReq :=
  let first := 256 * p.img.block
  let ids := (List.range p.img.fill).map fun i => q.token (first + i)
  let r := s.store.appendRecs.find? fun r => r.seq == q.handle && r.layers.contains l && r.first == first
  ⟨q.handle, false, [l], 2, first, ids, [p.img.rows], (r.map (·.digest)).getD 0, 0⟩

/-- Sends a layer's tail: the rows, or the frame image where it holds requantised positions (R447). -/
def State.sendTail (n : NodeId) (q : Seq) (l : Nat) (s : State) : State :=
  let len := (q.layer l).length
  /- A layer without tail rows: an append of no positions, whose acknowledgement tells the length (log 27). -/
  let empty := if len = 0 then s else s.postMsg n (.mirrorWrite ⟨q.handle, false, [l], 2, len, [], [[]], 0, 0⟩)
  match s.blockPage q l (len / 256) with
  | none => empty
  | some p =>
    if p.img.fill = 0 then empty
    else
      let recs := s.store.appendRecs.filter fun r =>
        r.seq == q.handle && r.layers.contains l && decide (256 * p.img.block < r.first + r.count)
      if p.img.inherit.isSome then s.postMsg n (.stepTail q.handle l p.img recs)
      else s.postMsg n (.mirrorWrite (s.tailAppend q l p))

/-- A recorded append, for its record to travel with: its token IDs, and its rows as far as they stand in tails. -/
def State.recordAppend (s : State) (q : Seq) (r : AppendRec) : AppendReq :=
  let at' := (List.range r.count).map (· + r.first)
  let row := fun (l p : Nat) => (s.blockPage q l (p / 256)).bind fun x => if x.img.tail then x.img.rows[p % 256]? else none
  ⟨q.handle, r.bulk, r.layers, 2, r.first, at'.map q.token, r.layers.map fun l => at'.filterMap (row l), r.digest, 0⟩

/-- The append records of a sequence go to the node that it is resynchronised to, each with a MIRROR_WRITE of its append behind
the tails (R283; log 27). -/
def State.sendRecords (n : NodeId) (q : Seq) (s : State) : State :=
  (s.store.appendRecs.filter fun r => r.seq == q.handle && !r.removed).foldl (fun s r =>
    s.postFor n r.reqId (.mirrorWrite (s.recordAppend q r))) s

/-- Sends what R447 sends of one sequence: its creation, its tails, its token-ID blocks, and where the pages are not
replicated its sealed pages, with the purpose given. -/
def State.resyncMsgs (n : NodeId) (purpose : Nat) (q : Seq) (s : State) : State :=
  let s := s.postMsg n (.stepCreate ⟨q.handle, q.groups, q.shared, q.tag, q.replicas⟩)
  let layers := List.range q.layers.length
  let s := (layers.foldl (fun s l => s.sendTail n q l) s).sendRecords n q
  let s := q.tokens.foldl (fun s b => s.postMsg n (.pageCopy purpose q.handle 0xFFFF (.tokens b.idx b.ids (b.crc.getD 0)))) s
  if q.shared then s
  else layers.foldl (fun s l => (q.layer l).entries.foldl (fun s e =>
    match s.page? e.page with
    | some p => if p.sealed? ∧ ¬ p.copies.any (fun c => handleNode c == n) then s.sendCopy n purpose q.handle l p else s
    | none => s) s) s

/-- A command that waits for a mirrored step of the sequence waits for the end of its resynchronisation. -/
def State.stepResent (n : NodeId) (h : Handle) (s : State) : State :=
  let last := (s.peer n).txOrd
  { s with cmds := { s.cmds with list := s.cmds.list.map fun i => match i.wait with
      | .mirror _ _ x => if x = h then { i with wait := .mirror n last h } else i
      | _ => i } }

/-- Resynchronises a tandem, or moves a sequence to its new home (R447, R448). -/
def State.resyncSeq (n : NodeId) (purpose : Nat) (q : Seq) (s : State) : State :=
  let s := s.resyncMsgs n purpose q
  if purpose = 5 then s.stepResent n q.handle else s

/-! ## Forks (R53 to R56, R305) -/

/-- Every layer of a sequence reaches a fork position (R53). -/
def Seq.covers (q : Seq) (f : Nat) : Bool := q.layers.all fun l => decide (f ≤ l.length)

def forkSeven (c : Cmd) (s : State) : Option Status :=
  match parseFork c.data with
  | none => some .badParam
  | some r =>
    match s.seqCheck c.ptn r.parent with
    | some st => some st
    | none =>
      if serialOf r.child = 0 then some .badParam
      else match s.nsCheck c.ptn (nsOf r.child) with
        | some st => some st
        | none => match s.seq? r.parent with
          | none => some .unknownSeq
          | some q => if r.f = 0 ∨ ¬ q.covers r.f then some .badParam else none

/-- The entries of a layer whose blocks lie wholly below `f`. -/
def Layer.below (x : Layer) (f : Nat) : List Entry := x.entries.filter fun e => decide (256 * (e.block + 1) ≤ f)

/-- Unsealed pages wholly below `f` (R55). -/
def State.unsealedBelow (s : State) (q : Seq) (f : Nat) : List Handle :=
  q.layers.flatMap fun x => (x.below f).filterMap fun e => if s.entrySealed e then none else some e.page

/-- Raises a waiting seal to the priority of attends (R24, R55). -/
def State.raiseSeal (h : Handle) (s : State) : State :=
  s.updPage h fun p => match p.sealing with | .queued _ => { p with sealing := .queued true } | _ => p

/-- Asks the child's home to create the child (R55, R305). Answers the SEQ of FORK_CREATE. -/
def State.sendForkCreate (reqId : Word64) (r : ForkReq) (n : NodeId) (q : Seq) (s : State) : Nat × State :=
  let layers := enumFrom 0 q.layers
  let pages := layers.flatMap fun x => (x.2.below r.f).map fun e => ⟨x.1, e.block, e.page, s.entryEnv e, s.entryRequant e⟩
  let cut := if r.f % 256 = 0 then [] else layers.filterMap fun x =>
    (s.blockPage q x.1 (r.f / 256)).map fun p => (x.1, Copied.image (cutPage (q.group x.1) p.img r.child (r.f % 256)))
  s.postSeq n reqId (.forkCreate r q.groups ((cutTokens r.f q.tokens).map (·.ids)) pages cut)

/-- Applies the fork on this node and sends the child to its tandem (R54, R305). -/
def forkLocal (c : Cmd) (r : ForkReq) (s : State) : Res :=
  if ¬ s.seqRoom (nsOf r.child) then .no .noSpace
  else match s.forkHere r with
    | none => .no .noSpace
    | some s =>
      let same := s.tandemOf r.child = s.tandemOf r.parent
      let s := match s.mirrorNode r.child, s.seq? r.child with
        | some n, some q => if same then s else s.resyncSeq n 5 q
        | _, _ => s
      afterMirror r.child (s.mirrorWait r.child c.pkt.reqId (.stepFork r))

/-- The fork once nothing below `f` waits for a seal: here, or by the child's home. -/
def forkReady (c : Cmd) (r : ForkReq) (q : Seq) (s : State) : Res :=
  if ¬ s.refsOk q r.f then .no .noSpace
  else if s.isHome r.child then forkLocal c r s
  else match s.homeOf r.child with
    | none => .no .busyRetry
    | some n =>
      let x := s.sendForkCreate c.pkt.reqId r n q
      .wait (.forkAccept r (BitVec.ofNat 32 x.1)) [] x.2

def forkRun (c : Cmd) (s : State) : Res :=
  match parseFork c.data with
  | none => .no .badParam
  | some r =>
    match s.seq? r.parent with
    | none => .no .unknownSeq
    | some q =>
      if (s.seq? r.child).isSome then .no .conflict
      /- The lengths may have changed while the command waited (R53). -/
      else if ¬ q.covers r.f then .no .badParam
      else
        let need := s.cutMissing q r.f
        if need ≠ [] then s.fetchCut q r.f need
        else if s.isHome r.child then forkReady c r q s
        else
          let w := s.unsealedBelow q r.f
          if w = [] then forkReady c r q s
          else .wait (.forkSeals r) [] (w.foldl (fun s h => s.raiseSeal h) s)

def forkDef : OpDef :=
  ⟨fun b => if b.length < 8 then .nothing else .seqWrite (seqAt0 b), noSix, forkSeven, noReply, forkRun, emptyDup⟩

/-- The fork step on the parent's home once the child's home has accepted: references, and the step sent to the child's
home and tandem (R53, R55, R305). -/
def State.forkCommit (i : Inflight) (r : ForkReq) (s : State) : State :=
  match s.seq? r.parent with
  | none => s.complete i .unknownSeq none 0 []
  | some q =>
    /- The parent may have changed while the acceptance was awaited (R53, R56). -/
    if ¬ q.covers r.f then s.complete i .badParam none 0 []
    else if ¬ s.refsOk q r.f then s.complete i .noSpace none 0 []
    else
    let pages := q.layers.flatMap fun x => (x.below r.f).map (·.page)
    let s := pages.foldl (fun s h => s.refer h) s
    let send := fun (n : NodeId) (s : State) =>
      let s := s.postFor n i.reqId (.stepFork r)
      (n, (s.peer n).txOrd, s)
    match s.homeOf r.child, s.tandemOf r.child with
    | some n, some t =>
      let (n, k, s) := send n s
      if t = s.self then
        s.updInflight i.id fun x => { x with wait := .mirror n k r.child }
      else
        let (t, k, s) := send t s
        s.updInflight i.id fun x => { x with wait := .mirror t k r.child }
    | _, _ => s.complete i .ok none 0 []

/-! ## Appends (R45, R308 to R310) -/

/-- Cuts BF16 bytes into rows of `c` elements. -/
def rowsOf (c : Nat) (b : List Byte) : List (List Word16) := chunks c ((leWords 2 b).map fun n => BitVec.ofNat 16 n)

/-- The rows of the layers named, in order, from the bytes of ROWS. -/
def layerRows (q : Seq) (n : Nat) : List Nat → List Byte → List (List (List Word16))
  | [], _ => []
  | l :: ls, b => let w := 2 * n * (q.group l).ctot; rowsOf (q.group l).ctot (b.take w) :: layerRows q n ls (b.drop w)

def waitOf (n : Nat) : Nat := if n = 0xFFFF then 200 else n
def waitOk (n : Nat) : Bool := decide (n ≤ 10000) || n == 0xFFFF

/-- Offset of TOKEN_IDS, the first position, the count, the level, the timeout and the layers named. -/
structure AppendHead where
  base : Nat
  pos : Nat
  count : Nat
  level : Nat
  timeout : Nat
  layers : List Nat

def appendHead (bulk : Bool) (b : List Byte) : AppendHead :=
  if bulk then
    ⟨64, field b 12 4, field b 16 4, field b 8 1, field b 20 2,
     (List.range 256).filter fun l => bit (field b (32 + l / 8) 1) (l % 8)⟩
  else ⟨32, field b 12 4, field b 16 2, field b 10 1, field b 18 2, [field b 8 2]⟩

/-- The checks of R308 and R309 that need no sequence. -/
def appendHeadOk (bulk : Bool) (b : List Byte) : Bool :=
  let h := appendHead bulk b
  decide (h.base ≤ b.length) && decide (h.level ≤ 3) && waitOk h.timeout && decide (1 ≤ h.count) &&
  decide (h.pos + h.count ≤ 2 ^ 28) &&
  (if bulk then
    decide (h.count ≤ 65536) && field b 9 1 == 0 && zeros (slice b 22 2) && decide (1 ≤ h.layers.length) &&
    decide (h.layers.length = field b 10 2)
  else
    decide (h.count ≤ 256) && field b 11 1 == 0 && zeros (slice b 20 4) &&
    decide (h.pos / 256 = (h.pos + h.count - 1) / 256))

/-- An append as its payload gives it, where its length fits the sequence's geometry. -/
def parseAppend (q : Seq) (bulk : Bool) (b : List Byte) : Option AppendReq :=
  let h := appendHead bulk b
  let rows := up64 (h.base + 4 * h.count)
  let body := sumNat (h.layers.map fun l => 2 * h.count * (q.group l).ctot)
  if ¬ appendHeadOk bulk b ∨ ¬ h.layers.all (fun l => decide (l < q.layers.length)) then none
  else if b.length ≠ rows + body ∨ ¬ zeros (slice b (h.base + 4 * h.count) (rows - (h.base + 4 * h.count))) then none
  else some ⟨q.handle, bulk, h.layers, h.level, h.pos, (leWords 4 (slice b h.base (4 * h.count))).map fun n => BitVec.ofNat 32 n,
    layerRows q h.count h.layers (b.drop rows), BitVec.ofNat 64 (field b 24 8), waitOf h.timeout⟩

/-- R9, R81, R104: token IDs recorded, rows finite and at most 2^64 in magnitude. -/
def appendValuesOk (a : AppendReq) : Bool :=
  (a.tokens.all fun t => t != noToken) &&
  a.rows.all fun l => l.all fun r => r.all fun w => b16Finite w && decide (|b16Rat w| ≤ 2 ^ 64)

/-- The tier takes `PERSISTED` appends: `SERVICE`, WR_EN set, a frame set of the freewheel area armed (R249, R260,
R471). -/
def State.persistOk (s : State) : Bool :=
  s.flash.state == .service && s.writeEnabled && (s.flash.setA == .armed || s.flash.setB == .armed)

/-- Step 6 of an append (R279, R282, R58). -/
def appendSix (bulk : Bool) (c : Cmd) (s : State) : Option Res :=
  let b := c.data
  let base := if bulk then 64 else 32
  if b.length < base then none
  else
    let dig : Word64 := BitVec.ofNat 64 (field b 24 8)
    if digest64 (b.drop base) ≠ dig then some (.no .conflict)
    else match s.store.appendRecs.find? fun r => r.ptn == c.ptn && r.reqId == c.pkt.reqId with
      | some r =>
        if r.removed ∨ r.bulk ≠ bulk ∨ r.digest ≠ dig then some (.no .conflict)
        else match s.seq? r.seq with
          | none => some (.no .unknownSeq)
          | some q => match parseAppend q bulk b with
            | none => some (.no .conflict)
            | some a =>
              let a := { a with layers := r.layers, pos := r.first }
              if s.levelOf a = 3 ∧ ¬ s.reached a ∧ ¬ s.persistOk then some (.no .mediaExhausted) else some (s.repeatAppend q a)
      | none =>
        if s.store.cmdRecs.any fun r => r.ptn == c.ptn && r.reqId == c.pkt.reqId then some (.no .conflict)
        else match s.running? c with
          | none => none
          | some i => if i.op = c.op ∧ i.payload = c.data then some (.wait (.dup none) [] s) else some (.no .conflict)

def appendSeven (bulk : Bool) (c : Cmd) (s : State) : Option Status :=
  if ¬ appendHeadOk bulk c.data then some .badParam
  else match s.seqCheck c.ptn (seqAt0 c.data) with
    | some st => some st
    | none => match s.seq? (seqAt0 c.data) with
      | none => some .unknownSeq
      | some q => match parseAppend q bulk c.data with
        | none => some .badParam
        | some a => if appendValuesOk a ∧ ¬ (s.levelOf a = 3 ∧ s.onchip c.ptn) then none else some .badParam

def appendRun (bulk : Bool) (c : Cmd) (s : State) : Res :=
  match s.seq? (seqAt0 c.data) with
  | none => .no .unknownSeq
  | some q => match parseAppend q bulk c.data with
    | none => .no .badParam
    | some a => if s.levelOf a = 3 ∧ ¬ s.persistOk then .no .mediaExhausted else s.runAppend c a

def appendMax (bulk : Bool) (c : Cmd) (_ : State) : Nat := if bulk then 16 * field c.data 10 2 else 16

def appendOf (bulk : Bool) : OpDef :=
  ⟨namesWrite, appendSix bulk, appendSeven bulk, appendMax bulk, appendRun bulk, emptyDup⟩
def appendDef : OpDef := appendOf false
def appendBulkDef : OpDef := appendOf true

/-! ## The commands -/

/-- A command's arrival, and the replies of the appends that it lets end. -/
def State.arriveAll (op : Op) (d : OpDef) (p : Packet) (s : State) : State := (s.arrive op d p).progress

def runNsCreate (p : Packet) (s : State) : State := s.arriveAll .nsCreate nsCreateDef p
def runNsModify (p : Packet) (s : State) : State := s.arriveAll .nsModify nsModifyDef p
def runNsDelete (p : Packet) (s : State) : State := s.arriveAll .nsDelete nsDeleteDef p
def runSeqCreate (p : Packet) (s : State) : State := s.arriveAll .seqCreate seqCreateDef p
def runSeqDelete (p : Packet) (s : State) : State := s.arriveAll .seqDelete seqDeleteDef p
def runFork (p : Packet) (s : State) : State := s.arriveAll .fork forkDef p
def runTruncate (p : Packet) (s : State) : State := s.arriveAll .truncate truncateDef p
def runSeqTag (p : Packet) (s : State) : State := s.arriveAll .seqTag seqTagDef p
def runSeqDescribe (p : Packet) (s : State) : State := s.arriveAll .seqDescribe seqDescribeDef p
def runPageList (p : Packet) (s : State) : State := s.arriveAll .pageList pageListDef p
def runAppend' (p : Packet) (s : State) : State := s.arriveAll .append appendDef p
def runAppendBulk (p : Packet) (s : State) : State := s.arriveAll .appendBulk appendBulkDef p


end Sys2Proof.Machine
end

