-- ==== Sys2Proof/Machine/Recover.lean ====
section
/-! DEFINITION. Engine steps (15_resilience.md R437), and the recovery of uncorrectable objects: sources (R436, R443), new
locations (R442), loss records (R452, R453). -/

namespace Sys2Proof.Machine

/-! ## Engine steps -/

/-- An engine that can take a step: in use, not fenced, idle, not standing in for another (log 16). -/
def Engine.idle (e : Engine) : Bool := e.inUse && !e.fenced && e.step.isNone && e.replacing.isNone

def State.freeEngine (s : State) : Option Nat :=
  ((enumFrom 0 s.eng.engines).find? fun x => x.2.idle).map (·.1)

def State.updEngine (n : Nat) (f : Engine → Engine) (s : State) : State :=
  { s with eng := { s.eng with engines := updAt n f s.eng.engines } }

/-- A step runs on an engine, or is held after a fault. -/
def State.stepRuns (s : State) (x : Step) : Bool :=
  (s.eng.engines.any fun e => match e.step with | some (_, y) => y == x | none => false) || s.eng.held.any fun h => h.step == x

/-- Gives a step to an engine, which a queued step ungates (R478). -/
def State.startStep (ptn : Nat) (x : Step) (s : State) : State :=
  match s.freeEngine with
  | none => s
  | some n => s.updEngine n fun e => { e with step := some (ptn, x), gated := false }

/-- An attend or a gradient pass whose pages are here and whose remote requests are settled. -/
def State.ready (s : State) : Wait → Bool
  | .attend r => r.needs.isEmpty && r.remotes.all fun x => x.answer.isSome || x.failed
  | .grad r => r.needs.isEmpty && r.remotes.isEmpty && r.pins.all fun x => match s.page? x.1.page with | some p => !p.recovering | none => true
  | _ => false

/-- The engine step of a command in flight. -/
def Inflight.step? (i : Inflight) : Option Step :=
  match i.wait.inner with
  | .attend _ => some (.attend i.id)
  | .grad _ => some (.grad i.id)
  | _ => none

def State.ptnFenced (s : State) (n : Nat) : Bool := match s.ptn? n with | some p => p.fenced | none => false

/-! ## Seals take engines (R16, R24, R83, R107, R174) -/

/-- The image of a full tail frame, with the model, list and code that the current model gives it (R105, R173). Where a
recall-enabled namespace has no current model, or its model does not summarise the layer, the page is sealed without a summary
code, FLAGS[2] clear (DESIGN CHOICE, log 50). -/
def State.sealFull (s : State) (q : Seq) (p : Page) : Image × Option (Nat × Nat) :=
  let g := q.group p.name.layer
  let base := sealImage g p.img none
  let code := if g.window.isSome then none else match (s.ns? (nsOf q.handle)).bind (·.current) with
    | some m => (summaryOf m g base).map fun x => (m.num, x)
    | none => none
  match code with
  | some (m, l, c) => (sealImage g p.img (some c), some (m, l))
  | none => (base, none)

/-- The tail page that a name gives while its seal waits or runs. -/
def State.sealPage (s : State) (n : PageName) : Option Page :=
  s.store.pages.find? fun p => p.name == n && p.img.tail && p.refs != 0 && p.sealing != .idle

/-- An engine takes a seal: it allocates the frames of the image that it writes (R107). Without frames the seal stays
queued. -/
def State.beginSeal (e : Nat) (p : Page) (s : State) : State :=
  match s.seq? p.name.seq with
  | none => s
  | some q =>
    let x := s.sealFull q p
    match s.newPage p.ptn p.name x.1 (x.1.frames (q.group p.name.layer)) true with
    | none => s
    | some (k, s) =>
      let s := (s.install p.name.seq).updPage k fun y => { y with refs := 0, pins := 1 }
      (s.updPage p.handle fun y => { y with sealing := .running e k 0 }).updEngine e fun y =>
        { y with step := some (p.ptn, .seal p.name), gated := false }

/-- No engine has been chosen for a held step. -/
def anyEngine : Nat := 0xFF

/-- A seal may take an engine: its sequence is homed here, the node admits work, its partition is not fenced, and no
replacement is being loaded for it (R438). -/
def State.sealMay (s : State) (p : Page) : Bool :=
  s.admits && s.isHome p.name.seq && !p.recovering && !s.ptnFenced p.ptn && !(s.eng.held.any fun h => h.step == .seal p.name && h.on != anyEngine)

/-- Seals raised to the priority of attends take idle engines (R24), before the attends that wait (DESIGN CHOICE, log 51). -/
def State.dispatchSeals : List Page → State → State
  | [], s => s
  | p :: l, s =>
    match s.freeEngine with
    | some e => State.dispatchSeals l (if p.sealing = .queued true ∧ p.img.tail ∧ p.refs ≠ 0 ∧ s.sealMay p then s.beginSeal e p else s)
    | none => s

/-- Gives the steps that can run to idle engines, in order of admission. -/
def State.dispatchFrom : List Inflight → State → State
  | [], s => s
  | i :: l, s =>
    State.dispatchFrom l (match i.step? with
      | some x => if s.ready i.wait.inner ∧ ¬ s.stepRuns x ∧ ¬ s.ptnFenced i.ptn then s.startStep i.ptn x else s
      | none => s)

def State.dispatch (s : State) : State :=
  let s := s.dispatchSeals (s.store.pages.filter fun p => p.sealing == .queued true)
  s.dispatchFrom s.cmds.list

/-! ## Sources (R436) -/

/-- The replica set's members, lowest ID first. -/
def replicaOrder (l : List NodeId) : List NodeId := sortBy (fun (a b : NodeId) => decide (a.toNat < b.toNat)) l

/-- The nodes to ask for a page of a sequence after local copies, in the order of R436; a node that is not the home asks
the home (R452). `copies` are the nodes of second copies. -/
def State.sourcesFor (s : State) (q : Seq) (tail : Bool) (copies : List NodeId) : List NodeId :=
  let l :=
    if ¬ s.isHome q.handle then (s.homeOf q.handle).toList
    else (if q.shared ∧ ¬ tail then [] else (s.tandemOf q.handle).toList) ++
      (if q.shared ∧ ¬ tail then replicaOrder q.replicas else []) ++ copies
  l.eraseDups.filter fun n => n != s.self

/-- The nodes that hold other copies of a page. -/
def State.copyNodes (s : State) (h : Handle) : List NodeId :=
  match s.page? h with
  | some p => p.copies.map handleNode
  | none => ((s.placed? h).map fun x => x.copies.map handleNode).getD []

/-- The nodes to ask for a page under any handle: for a page of another node that node first (R67). -/
def State.sourcesOf (s : State) (h : Handle) : List NodeId :=
  let own := if s.isOwn h then [] else [handleNode h]
  match s.referrers h with
  | (q, _, _) :: _ =>
    let tail := match s.page? h with | some p => p.img.tail | none => false
    (own ++ s.sourcesFor q tail (s.copyNodes h)).eraseDups
  | [] => (own ++ s.copyNodes h).eraseDups.filter fun n => n != s.self

/-- Asks the next source for a page (R381, R443): answers whether there was one. -/
def State.fetchNext (h : Handle) (name : PageName) (tail : Bool) (tried : List NodeId) (s : State) : Option State :=
  let s := { s with store := { s.store with fetches := s.store.fetches.filter fun f => f.tokens || !(f.page == h) } }
  match (s.sourcesOf h).find? fun n => !tried.contains n with
  | none => none
  | some n =>
    let x := s.postSeq n 0 (.pageFetch (if tail then 0 else h) name.seq name.layer name.block)
    some { x.2 with store := { x.2.store with
      fetches := x.2.store.fetches ++ [⟨n, BitVec.ofNat 32 x.1, h, name, false, n :: tried⟩] } }

/-! ## Waiting commands -/

/-- Runs again the commands that waited for pages to be recovered, once all are here. -/
def State.retryCmd (i : Inflight) (s : State) : State :=
  let run := match i.op with | .truncate => some truncateRun | .fork => some forkRun | _ => none
  match run with
  | some f => s.resettle i (f i.cmd s)
  | none => s

/-- A page has come: attends no longer wait for it, and read it as it now stands where they pinned it sealed (R218, R442);
commands that cut it go on. -/
def State.pageReady (h : Handle) (s : State) : State :=
  let here := fun (s : State) (x : Handle) => match s.page? x with | some p => !p.recovering | none => false
  let now := s.page? h
  let fresh := fun (x : Pinned) => if x.page = h ∧ !x.isTail then
    { x with img := match now with | some p => if p.img.tail then x.img else some p.img | none => x.img } else x
  let att := fun (r : AttendRun) => if r.needs.contains h then { r with needs := delAll h r.needs, pins := r.pins.map fresh } else r
  let grad := fun (r : GradRun) =>
    if r.needs.contains h then { r with needs := delAll h r.needs, pins := r.pins.map fun x => (fresh x.1, x.2) } else r
  let s := { s with cmds := { s.cmds with
      list := s.cmds.list.map fun (i : Inflight) => { i with wait := mapRead att grad i.wait }
      parts := s.cmds.parts.map fun (x : HeldPart) => { x with needs := delAll h x.needs }
      grads := s.cmds.grads.map fun (x : HeldGrad) => { x with needs := delAll h x.needs } } }
  let s := s.cmds.list.foldl (fun (s : State) (i : Inflight) => match i.wait with
    | .recovery l => if l.contains h ∧ l.all (here s) then s.retryCmd i else s
    | _ => s) s
  s.dispatch
where
  /-- Changes the attend or the gradient pass that a wait runs. -/
  mapRead (f : AttendRun → AttendRun) (g : GradRun → GradRun) : Wait → Wait
    | .attend r => .attend (f r)
    | .grad r => .grad (g r)
    | .batchEntry p k w => .batchEntry p k (mapRead f g w)
    | w => w

/-! ## Loss (R452, R453) -/

/-- Ends the commands that wait on a layer for what has been lost (R58, R453). -/
def State.endLost (h : Handle) (l : Nat) (page : Option Handle) (bytes : List Byte) : List Inflight → State → State
  | [], s => s
  | i :: rest, s =>
    let len := match s.seq? h with | some q => (q.layer l).length | none => 0
    let s := match i.wait.inner with
      | .positions r => if r.req.seq = h ∧ r.req.layer = l ∧ len < r.req.vis then s.complete i .lostRecompute none 0 bytes else s
      | .attend r =>
        if r.req.seq = h ∧ r.req.layer = l ∧ (page.any r.needs.contains) = true then
          s.complete i .lostRecompute none 0 bytes
        else s
      | .grad r => if r.seq = h ∧ r.layer = l ∧ (page.any r.needs.contains) = true then s.complete i .lostRecompute none 0 bytes else s
      | .gap a => if a.seq = h ∧ a.layers.contains l then s.complete i .lostRecompute none 0 bytes else s
      | .gradWait r => if r.seq = h ∧ r.layer = l then s.complete i .lostRecompute none 0 bytes else s
      | .level a _ => if a.seq = h ∧ a.layers.contains l ∧ len < a.pos + a.count then s.complete i .conflict none 0 [] else s
      | _ => s
    State.endLost h l page bytes rest s

/-- A layer loses its positions from `first` on: truncated, its record made. A lost range that stood already keeps its end. -/
def State.loseLayer (home : Bool) (h : Handle) (l first fin : Nat) (s : State) : State :=
  match s.truncSeq home h [l] first with
  | none => s
  | some s => (s.updLayer h l fun x => { x with loss := some ⟨first, max fin ((x.loss.map (·.fin)).getD 0)⟩ }).delta [.loss h l]

/-- The home's step of R452 on one layer: the mirrored step, LOSS and its record, the commands that waited. -/
def State.loseHome (h : Handle) (l first : Nat) (page : Option Handle) (s : State) : State :=
  match s.seq? h with
  | none => s
  | some q =>
    let fin := (q.layer l).length
    if fin ≤ first then s
    else
      let s := (s.loseLayer true h l first fin).mirrorMsg h 0 (.stepLoss h l first fin)
      let det := leBytes 8 h.toNat ++ leBytes 4 l ++ leBytes 4 first ++ leBytes 4 (fin - first)
      let s := s.raise .fabHealth 19 ⟨7, 1, 2, s.seqPtn h, 0, det⟩
      let bytes := match s.seq? h with | some q => lostBytes (lostEntry q l).toList | none => []
      s.endLost h l page bytes s.cmds.list

/-- Every homed sequence that refers to a page loses its layer from the position at `off` of the block. -/
def State.losePage (h : Handle) (off : Nat) (s : State) : State :=
  (s.referrers h).foldl (fun s x => if s.isHome x.1.handle then s.loseHome x.1.handle x.2.1 (256 * x.2.2 + off) (some h) else s) s

/-- Leading rows of a tail frame that the journal holds. -/
def State.journalRows (s : State) (p : Page) : Nat :=
  ((List.range p.img.fill).takeWhile fun i => s.journaled p.name.seq p.name.layer (256 * p.name.block + i)).length

/-! ## Recovery (R442) -/

/-- A read in flight has selected a page, or reads it as its tail. -/
def AttendRun.reads (h : Handle) (r : AttendRun) : Bool :=
  r.selected.contains h || r.pins.any fun x => x.page == h && x.isTail && x.mask != 0

/-- The reads in flight of a page whose copy has gone bad use no byte of it: they wait for its recovery, and their engine steps that
run are discarded (R218, R227, R228, R437). -/
def State.readsWait (h : Handle) (s : State) : State :=
  let hit := fun (i : Inflight) => match i.wait.inner with
    | .attend r => r.reads h
    | .grad r => r.pins.any fun x => x.1.page == h && x.1.img.isSome
    | _ => false
  let ids := (s.cmds.list.filter hit).map (·.id)
  let stop := fun (e : Engine) => match e.step with
    | some (_, .attend id) | some (_, .grad id) => if ids.contains id then { e with step := none } else e
    | _ => e
  { s with
    cmds := { s.cmds with list := s.cmds.list.map fun i => if hit i then { i with wait := go i.wait } else i }
    eng := { s.eng with engines := s.eng.engines.map stop, held := s.eng.held.filter fun x => match x.step with
      | .attend id | .grad id => !ids.contains id
      | _ => true } }
where
  go : Wait → Wait
    | .attend r => .attend { r with needs := addNew h r.needs }
    | .grad r => .grad { r with needs := addNew h r.needs }
    | .batchEntry p k w => .batchEntry p k (go w)
    | w => w

/-- Puts a page at new locations: HBM frames in a protected region of a stack in service; flash frames for a page that
lay only there. -/
def State.relocate (p : Page) (s : State) : State :=
  let inHbm := fun (s : State) => match s.chooseStack p.name.block p.name.layer (shardOf p.name.seq) p.frames with
    | some st => s.updPage p.handle (Page.moveTo (some ⟨st, none, 0⟩))
    | none => s
  if p.hbm.isSome ∨ ¬ p.flash then inHbm s
  else
    let t := (s.freeFlash (handleFrame p.handle) p.frames).updPage p.handle fun x => { x with flash := false }
    match t.page? p.handle with
    | none => s
    | some x => match t.writePage x with | some t => t | none => inHbm t

/-- The recovered page: its image in place, no longer recovering. -/
def State.recovered (h : Handle) (img : Option Image) (s : State) : State :=
  match s.page? h with
  | none => s
  | some p =>
    let s := s.updPage h fun x =>
      let i := img.getD x.img
      { x with recovering := false, img := i, frames := if i.tail = x.img.tail then x.frames else i.frames (s.groupFor p.name.seq p.name.layer i) }
    let s := { s with store := { s.store with fetches := s.store.fetches.filter fun f => f.tokens || !(f.page == h) } }
    (s.relocate p).pageReady h

/-- No source is left (R452): a tail keeps the rows that the journal holds; what is missing is lost where this node is a
home; else the page stays recovering and reads of it are declined. -/
def State.noSource (h : Handle) (s : State) : State :=
  match s.page? h with
  | some p =>
    if ¬ (s.referrers h).any fun x => s.isHome x.1.handle then s
    else if p.img.tail then
      let k := s.journalRows p
      let s := if k = p.img.fill then s else s.losePage h k
      s.recovered h none
    else (s.losePage h 0).pageReady h
  | none => (s.losePage h 0).pageReady h

/-- Tries the next source for a page, or gives up. -/
def State.nextSource (h : Handle) (name : PageName) (tail : Bool) (tried : List NodeId) (s : State) : State :=
  match s.fetchNext h name tail tried with
  | some s => s
  | none => s.noSource h

/-- Counts an uncorrectable event of the last 60 s (R455). -/
def State.noteUe (s : State) : State :=
  let now := s.pow.tsc.toNat
  { s with map := { s.map with ueTimes := (now :: s.map.ueTimes).filter fun t => decide (now ≤ t + 60000000000) } }

/-- A page found uncorrectable: its other clean copy on this node first, then the sources in order. `flashBad` says which
copy failed. -/
def State.uncorrectable (h : Handle) (flashBad : Bool) (s : State) : State :=
  match s.page? h with
  | none => s
  | some p =>
    if p.recovering then s
    else
    let s := s.noteUe
    let flashBad := flashBad || p.hbm.isNone
    if flashBad ∧ p.hbm.isSome then
      let t := (s.freeFlash (handleFrame h) p.frames).updPage h fun x => { x with flash := false }
      match t.page? h with
      | some x => ((t.writePage x).getD t).pageReady h
      | none => s
    else if ¬ flashBad ∧ p.flash then (s.relocate p).pageReady h
    else ((s.updPage h fun x => { x with recovering := true }).readsWait h).nextSource h p.name p.img.tail []

/-- Asks the next source for a token-ID block: the tandem or, elsewhere, the home; with none left a home loses every layer from
the block on (R442, R452). -/
def State.fetchTokens (seq : Handle) (idx : Nat) (tried : List NodeId) (s : State) : State :=
  let s := { s with store := { s.store with fetches := s.store.fetches.filter fun f => !(f.tokens && f.name.seq == seq && f.name.block == idx) } }
  match s.seq? seq with
  | none => s
  | some q =>
    match (s.sourcesFor q true []).find? fun n => !tried.contains n with
    | some n =>
      let x := s.postSeq n 0 (.pageFetch 0 seq 0xFFFF idx)
      { x.2 with store := { x.2.store with
        fetches := x.2.store.fetches ++ [⟨n, BitVec.ofNat 32 x.1, 0, ⟨seq, 0xFFFF, idx⟩, true, n :: tried⟩] } }
    | none =>
      if ¬ s.isHome seq then s
      else
        let s := s.updSeq seq fun q => { q with tokens := updWhere (fun b => b.idx == idx) (fun b => { b with recovering := false }) q.tokens }
        (List.range q.layers.length).foldl (fun s l => s.loseHome seq l (256 * idx) none) s

/-- Changes the token-ID blocks that the reads of a sequence in flight have pinned (R206). -/
def State.updIds (seq : Handle) (f : List TokBlock → List TokBlock) (s : State) : State :=
  let att := fun (r : AttendRun) => if r.req.seq = seq then { r with ids := f r.ids } else r
  let grad := fun (r : GradRun) => if r.seq = seq then { r with ids := f r.ids } else r
  { s with cmds := { s.cmds with list := s.cmds.list.map fun (i : Inflight) => { i with wait := go att grad i.wait } } }
where
  go (a : AttendRun → AttendRun) (g : GradRun → GradRun) : Wait → Wait
    | .positions r => .positions (a r)
    | .gradWait r => .gradWait (g r)
    | .batchEntry p k w => .batchEntry p k (go a g w)
    | w => w

/-- A token-ID block found uncorrectable (R442). -/
def State.tokensUncorrectable (seq : Handle) (idx : Nat) (s : State) : State :=
  let mark := updWhere (fun (b : TokBlock) => b.idx == idx) fun b => { b with recovering := true }
  ((s.noteUe.updSeq seq fun q => { q with tokens := mark q.tokens }).updIds seq mark).fetchTokens seq idx []

/-- A page of another node is wanted here: asked for once. -/
def State.wantPage (h : Handle) (name : PageName) (s : State) : State :=
  if s.store.fetches.any fun f => !f.tokens && f.page == h then s else s.nextSource h name false []

end Sys2Proof.Machine
end

