-- ==== Sys2Proof/Machine/Attend.lean ====
section
/-! DEFINITION. `ATTEND` and `ATTEND_BATCH` (04_attention_execution.md; 11_command_reference.md R312, R313): admission, pins,
selection, remote partials, near-bank routing, drafting, the engine step, and the answers. -/

namespace Sys2Proof.Machine

/-! ## The request (R113, R312) -/

def inF32 (w : Word32) (lo hi : Rat) : Bool := (f32 w).finite && decide (lo ≤ f32Rat w) && decide (f32Rat w ≤ hi)

/-- Query bytes as one list of BF16 per head. -/
def queryOf (hq ck : Nat) (b : List Byte) : List (List Word16) :=
  (chunks ck ((leWords 2 (b.take (2 * hq * ck))).map fun n => BitVec.ofNat 16 n)).take hq

def queryOk (l : List (List Word16)) : Bool := l.all fun h => h.all fun w => b16Finite w && decide (|b16Rat w| ≤ 2 ^ 32)

def words32 (b : List Byte) : List Word32 := (leWords 4 b).map fun n => BitVec.ofNat 32 n

/-- The pattern filter at an offset: slot, mode, SELECT. -/
def filterAt (b : List Byte) (slot mode sel : Nat) : Filter :=
  ⟨field b slot 2, BitVec.ofNat 8 (field b mode 1), BitVec.ofNat 32 (field b sel 4)⟩

/-- An `ATTEND` payload within the ranges of R113, for a sequence. -/
def parseAttend (q : Seq) (b : List Byte) : Option AttendReq :=
  let l := field b 8 2
  let g := q.group l
  let fl := field b 10 2
  let alpha : Word32 := BitVec.ofNat 32 (field b 16 4)
  let tau : Word32 := BitVec.ofNat 32 (field b 20 4)
  let theta : Word32 := BitVec.ofNat 32 (field b 24 4)
  let tb := field b 32 4
  let query := queryOf g.qHeads g.ck (b.drop 112)
  let f := filterAt b 40 42 44
  if b.length = 112 + 2 * g.qHeads * g.ck ∧ l < q.layers.length ∧ fl < 32 ∧ field b 43 1 = 0 ∧ field b 12 4 ≤ 2 ^ 28 ∧
      inF32 alpha (pow2 (-16)) 1 ∧ (tau = 0 ∨ inF32 tau (pow2 (-40)) 1) ∧ (theta = 0 ∨ inF32 theta 1 88) ∧
      field b 28 4 ≤ 2 ^ 20 ∧ (tb = 0 ∨ (32 ≤ tb ∧ tb ≤ 2 ^ 28 ∧ tb % 32 = 0)) ∧ waitOk (field b 36 2) ∧
      (field b 38 1 ≤ 8 ∨ field b 38 1 = 0xFF) ∧ (bit fl 3 ∨ (field b 39 1 = 0 ∧ zeros (slice b 48 64))) ∧
      (if bit fl 4 then f.ok = true else zeros (slice b 40 8) = true) ∧ queryOk query then
    some ⟨q.handle, l, bit fl 0, bit fl 1, bit fl 2, if bit fl 3 then some (field b 39 1) else none,
      if bit fl 4 then some f else none, field b 12 4, alpha, if tau = 0 then f32Of .rn (pow2 (-10)) else tau,
      if theta = 0 then f32Of .rn 12 else theta, field b 28 4, tb, waitOf (field b 36 2), field b 38 1,
      words32 (slice b 48 64), query⟩
  else none

/-- R41: the first seen position is still kept, by the layer's length. After a truncation or a fork a ring layer may hold less than
that; the spec gives no rule for it, and an `ATTEND` that reaches below what is held covers what is there (DESIGN CHOICE, log
53). -/
def ringOk (g : LayerGroup) (length vis : Nat) : Bool :=
  match g.window with
  | some w => decide (256 * (length / 256 - w / 256) ≤ vis - w)
  | none => true

/-- Binds a program and a filter (R115, R163, R192). -/
def State.bindAll (s : State) (ptn : Nat) (prog : Option Nat) (k : List Word32) (f : Option Filter) :
    Except Status (Option ProgVer × Option PatVer) :=
  match (match prog with | some n => (s.bindProgram ptn n k).map some | none => .ok none) with
  | .error st => .error st
  | .ok p => match (match f with | some x => (s.bindFilter ptn x).map some | none => .ok none) with
    | .error st => .error st
    | .ok v => .ok (p, v)

def attendSeven (c : Cmd) (s : State) : Option Status :=
  if c.data.length < 112 then some .badParam
  else match s.seqCheck c.ptn (seqAt0 c.data) with
    | some st => some st
    | none => match s.seq? (seqAt0 c.data) with
      | none => some .unknownSeq
      | some q => match parseAttend q c.data with
        | none => some .badParam
        | some r =>
          if ¬ ringOk (q.group r.layer) (q.layer r.layer).length r.vis then some .badParam
          else match s.bindAll c.ptn r.program r.k r.filter with
            | .error st => some st
            | .ok _ => none

/-- The largest partial set of a sequence's layer (R273). -/
def attendMax (c : Cmd) (s : State) : Nat :=
  match s.seq? (seqAt0 c.data) with
  | some q => let g := q.group (field c.data 8 2); partialLen g.qHeads g.cv (bit (field c.data 10 2) 0)
  | none => 0

/-! ## Covered pages (R62, R114, R115, R201) -/

/-- Masks and tags of the window's pages; pages that the filter excludes leave (R115, R201). `tok` gives the token IDs as
pinned. -/
def coverPins (tok : Nat → Word32) (lo hi : Nat) (f : Option (Filter × PatVer)) (l : List Pinned) : List Pinned :=
  l.filterMap fun p =>
    let m := p.mask &&& spanMask p.block lo hi
    let x := match f with | some (f, v) => filterBlock v f tok p.block m | none => (m, [])
    if x.1 = 0 then none else some { p with mask := x.1, tags := x.2 }

def bothO {α β : Type} : Option α → Option β → Option (α × β)
  | some a, some b => some (a, b)
  | _, _ => none

/-! ## The work of a run -/

def AttendRun.scorer (r : AttendRun) (draw : Nat) : Scorer :=
  ⟨Units.node draw, r.group, f32Rat r.req.alpha, r.req.query.map fun h => h.map b16Rat,
   ⟨r.program.map (·.words), r.req.k, r.req.vis, r.req.layer⟩, r.nearBank⟩

def AttendRun.work (r : AttendRun) (draw : Nat) : Work :=
  ⟨r.scorer draw, r.pins, f32Rat r.req.tau, r.req.exhaustive, r.req.compact, true, r.req.pageBudget, r.req.tokenBudget != 0,
   r.group.cv⟩

/-! ## Pages in the staging cache (R13, R21 to R23) -/

/-- Bytes that a read of a page fetches: those below its residual plane (R257). -/
def State.readBytes (s : State) (p : Page) : Nat :=
  let o := offsetsOf (s.groupFor p.name.seq p.name.layer p.img) p.img.tail p.img.inherit.isSome
  if o.res = 0 then o.fin else o.res

/-- The channel of a page's first flash frame. -/
def State.pageChan (s : State) (h : Handle) : Nat := (s.pageDie h).chan.val

/-- The die whose cache takes a page: the one of the flash channel that it comes from (R13; log 46). -/
def State.lineDie (s : State) (h : Handle) : Die := if s.pageChan h < 16 then .west else .east

/-- Frames of a die's staging cache, and a partition's part of them (R13, R22). -/
def stagingCap : Nat := 2048
def State.lineShare (s : State) (ptn : Nat) : Nat := match s.ptn? ptn with | some p => stagingCap * p.enginePm / 1000 | none => 0

/-- Frames that a partition's lines take on a die. -/
def State.linesUsed (s : State) (d : Die) (ptn : Nat) : Nat :=
  sumNat (s.staging.map fun l => if l.die = d ∧ l.ptn = ptn then l.frames else 0)

/-- Evicts lines, oldest use first, until a partition has room for `n` more frames of its part (log 46). -/
def State.lineRoom (d : Die) (ptn n : Nat) : List Line → State → State
  | [], s => s
  | l :: rest, s =>
    if s.linesUsed d ptn + n ≤ s.lineShare ptn then s else State.lineRoom d ptn n rest (s.evict l.page)

/-- A line is used: its 10 ms begin again (R22, R257). -/
def State.touchLine (h : Handle) (s : State) : State :=
  { s with staging := updWhere (fun l => l.page == h) (fun l => { l with usedAt := s.pow.tsc.toNat }) s.staging }

/-- A page comes into the staging cache. One larger than its partition's part takes the whole part, and the rest streams
through. -/
def State.stage (p : Page) (drafted : Bool) (s : State) : State :=
  if s.staging.any (fun l => l.page == p.handle) then s.touchLine p.handle
  else
    let d := s.lineDie p.handle
    let n := min (s.lineShare p.ptn) ((s.readBytes p + 65535) / 65536)
    let mine := sortBy (fun (a b : Line) => decide (a.usedAt < b.usedAt)) (s.staging.filter fun l => l.die == d && l.ptn == p.ptn)
    let s := s.lineRoom d p.ptn n mine
    { s with staging := s.staging ++ [⟨p.handle, p.name.layer, p.name.seq, drafted, d, p.ptn, n, s.pow.tsc.toNat, []⟩] }

/-- A sealed page fails its checks (R106): a segment word, PAGE_CRC, the header, or a NaN among its E4M3 values. -/
def State.fails (s : State) (p : Page) : Bool := p.sealed? && !p.img.good (s.groupFor p.name.seq p.name.layer p.img)

/-- A page that is about to be read is checked; one that fails is uncorrectable (R106). -/
def State.verify (h : Handle) (s : State) : State :=
  match s.page? h with
  | some p => if !p.recovering && s.fails p then s.uncorrectable h false else s
  | none => s

/-- A page can be read now: in HBM or in the staging cache, not recovering, its checks passed. -/
def State.readable (s : State) (h : Handle) : Bool :=
  match s.page? h with
  | some p => !p.recovering && (p.hbm.isSome || s.staging.any fun l => l.page == h) && !s.fails p
  | none => false

/-- A residual group can be read now: its page is in HBM, or the group has been fetched (R23). -/
def State.groupHere (s : State) (b : Handle × Nat) : Bool :=
  match s.page? b.1 with
  | some p => p.hbm.isSome || !p.flash || s.staging.any fun l => l.page == b.1 && l.residual.contains b.2
  | none => true

/-- A command, a partial request or a gradient request waits for a page. -/
def State.wantsPage (s : State) (h : Handle) : Bool :=
  (s.cmds.list.any fun i => match i.wait.inner with
    | .attend r => r.needs.contains h
    | .grad r => r.needs.contains h
    | _ => false) ||
  (s.cmds.parts.any fun x => x.needs.contains h) || s.cmds.grads.any fun x => x.needs.contains h

/-- Starts an attend's flash read of a page, unless a read is in flight (R22, R257). -/
def State.readFlash (h : Handle) (s : State) : State :=
  if s.flash.drafting.contains h || s.wantsPage h then s
  else match s.page? h with
    | some p => if p.recovering ∨ p.hbm.isSome then s else (s.queueWork .attend h (s.pageDie h)).emit (.flashRead h)
    | none => s

/-- Notes that a command selected pages (R221, R254, R255); the history goes back 65,536 ms. -/
def State.noteSelected (reqId : Word64) (l : List Handle) (s : State) : State :=
  let now := s.pow.tsc.toNat
  l.foldl (fun s h => s.updPage h fun p =>
    { p with lastSel := now, recentSel := ((now, reqId) :: p.recentSel).filter fun t => decide (now ≤ t.1 + 65536000000) }) s

/-! ## Partial requests (R27, R134, R165, R202, R378) -/

def progDigest (v : Option ProgVer) : Digest := match v with | some v => v.digest | none => 0

/-- The request for some of a run's pages, under the handles that the node asked knows. -/
def AttendRun.request (r : AttendRun) (names : Handle → Handle) (pages : List Handle) (budget : Nat) (further : Bool) :
    PartialReq :=
  let ps := pages.filterMap fun h => r.pins.find? fun p => p.page == h
  let tags := match r.req.filter with | some f => f.tags | none => false
  /- A holder without the sequence does not know a ring's window: the masks tell it (DESIGN CHOICE, log 68). -/
  let cut := ps.any fun p => p.mask != spanMask p.block 0 r.req.vis
  ⟨r.req.seq, r.req.layer, r.req.exhaustive || further, r.program.isSome, r.req.vis, r.req.alpha, r.req.tau, budget, r.req.query.length,
   r.req.program.getD 0, r.group.ck, progDigest r.program, r.req.k, pages.map names,
   if r.req.filter.isSome ∨ cut = true then some (ps.map (·.mask)) else none, if tags then some (ps.map (·.tags)) else none, r.req.query⟩

/-- Counts a partial request to a peer (R457). -/
def secondNs : Nat := 1000000000

/-- The times of the last second, with now (R457). -/
def State.withNow (s : State) (l : List Nat) : List Nat :=
  s.pow.tsc.toNat :: l.filter fun t => decide (s.pow.tsc.toNat ≤ t + secondNs)

/-- A partial request was sent to a peer, or one to it timed out or was declined with REASON 4 (R457). -/
def State.countReq (n : NodeId) (s : State) : State := s.updPeer n fun p => { p with reqSent := s.withNow p.reqSent }
def State.countFailed (n : NodeId) (s : State) : State := s.updPeer n fun p => { p with reqFailed := s.withNow p.reqFailed }

/-- Sends one partial request and remembers it. -/
def State.sendPartial (i : Inflight) (r : AttendRun) (n : NodeId) (names : Handle → Handle) (pages : List Handle) (budget : Nat)
    (resent : Bool) (s : State) (further : Bool := false) : AttendRun × State :=
  let x := s.postSeq n i.reqId (.partialReq (r.request names pages budget further))
  ({ r with remotes := r.remotes ++ [⟨n, BitVec.ofNat 32 x.1, pages, resent, none, false, further, false⟩] },
   (x.2.countReq n).countPtn i.ptn 1 6)

/-- A request's share of the remaining token budget (R134). -/
def budgetShare (left n total : Nat) : Nat := max 32 (left * n / total / 32 * 32)

/-- Groups handles by a node, at most 4,096 a group. -/
def groupPages (node : Handle → NodeId) (l : List Handle) : List (NodeId × List Handle) :=
  ((l.map node).eraseDups).flatMap fun n => (chunks 4096 (l.filter fun h => node h == n)).map fun c => (n, c)

/-- Asks the holders of the remote pages among those given. -/
def State.askRemote (i : Inflight) (r : AttendRun) (pages : List Handle) (total : Nat) (s : State) : AttendRun × State :=
  (groupPages handleNode pages).foldl (fun x g =>
    let r := x.1
    let b := if r.req.tokenBudget = 0 then 0 else budgetShare r.budgetLeft g.2.length total
    x.2.sendPartial i { r with budgetLeft := r.budgetLeft - b } g.1 id g.2 b false) (r, s)

/-- The handles that the home knows of a page's copies on other nodes. -/
def State.copiesOf (s : State) (h : Handle) : List Handle :=
  match s.page? h with | some p => p.copies | none => ((s.placed? h).map Placed.copies).getD []

/-- A page's handle on a node; where the home has none, its own (log 26). -/
def State.nameAt (s : State) (h : Handle) (n : NodeId) : Handle :=
  if handleNode h = n then h else ((s.copiesOf h).find? fun c => handleNode c == n).getD h

/-- The copies of a page after the one on node `after`, in the order of R436, with the handle that each is known by: the
tandem of a `PRIVATE` sequence, the replica set, second copies. -/
def State.nextHolder (s : State) (seq : Handle) (h : Handle) (after : NodeId) : Option (NodeId × Handle) :=
  let known := s.copiesOf h
  let named := fun (n : NodeId) => (n, s.nameAt h n)
  let nodes := (handleNode h :: match s.seq? seq with
    | some q => s.sourcesFor q false (known.map handleNode)
    | none => known.map handleNode).eraseDups
  ((nodes.dropWhile (· != after)).drop 1).head?.map named

/-- Nodes to which the pages of a failed request go next; the same holder where there is none (R27). -/
def State.resend (i : Inflight) (r : AttendRun) (x : Remote) (budget : Nat) (s : State) : AttendRun × State :=
  let node := fun h => ((s.nextHolder r.req.seq h x.node).map (·.1)).getD x.node
  let names := fun h => ((s.nextHolder r.req.seq h x.node).map (·.2)).getD h
  (groupPages node x.pages).foldl (fun y g => y.2.sendPartial i y.1 g.1 names g.2 budget true) (r, s)

/-! ## Near-bank routing (R143, R224) -/

/-- A stack's units take sequences (R143, R226). -/
def State.nbAccepts (s : State) (stack : Nat) : Bool :=
  ((s.stack stack).state == .service || (s.stack stack).state == .draining) && s.rf (.memStkCtl stack) 2 1 != 0 && !s.allGated

/-- The pages whose key planes lie in the open region of a stack and may go to its units. -/
def State.nbPages (s : State) (layout : Layout) (pages : List Handle) (stack : Nat) : List Handle :=
  if layout ≠ .split ∨ ¬ s.nbAccepts stack then []
  else pages.filter fun h => match s.page? h with
    | some p => p.sealed? && !p.recovering && (match p.hbm with
      | some ⟨st, some pch, _⟩ => st == stack && !(s.stack stack).unitsFenced.contains pch
      | _ => false)
    | none => false

def State.updStack (n : Nat) (f : Stack → Stack) (s : State) : State :=
  { s with hbm := { s.hbm with stk := updAt n f s.hbm.stk } }

/-- Starts sequences for a command's pages on a stack (R224): each unit gets the page's frame run and expected CRC-64 values.
`residual` says that the residual tables go with the base tables. -/
def State.nbStart (id stack : Nat) (residual : Bool) (pages : List Handle) (s : State) : State :=
  pages.foldl (fun (s : State) h => match (s.page? h).bind fun p => p.hbm.map fun l => (p, l) with
    | some (p, l) => s.updStack stack fun t =>
        if t.running.any (fun x => x.page == h && x.cmd == id) then t
        else { t with running := t.running ++ [⟨h, l.pch.getD 0, l.first, p.frames, p.openRec, residual, id, false⟩] }
    | none => s) s

/-- The pages among `mine` that go to a stack's units: where the pages that the command or its batch selects there, `all`,
reach the threshold (R143). -/
def State.nbMine (s : State) (layout : Layout) (mine all : List Handle) (stack : Nat) : List Handle :=
  if s.nbThr = 0 ∨ (s.nbPages layout all stack).length < s.nbThr then [] else s.nbPages layout mine stack

/-- Sends a command's pages to the units of both compute stacks; answers the pages sent. -/
def State.routeNear (id : Nat) (layout : Layout) (residual : Bool) (mine all : List Handle) (s : State) : List Handle × State :=
  let one := s.nbMine layout mine all 3
  let two := s.nbMine layout mine all 4
  (one ++ two, (s.nbStart id 3 residual one).nbStart id 4 residual two)

/-! ## Drafting (R28, R256, R257, R382) -/

def State.draftLimit (s : State) : Nat := s.rf .flsDraft 0 16

/-- A drafting read of a page is of use: it is live, on flash alone, in no line, and no read of it is in flight (R257, R259). -/
def State.draftable (s : State) (h : Handle) : Bool :=
  match s.page? h with
  | some p => p.refs != 0 && p.flash && p.hbm.isNone && !p.recovering && !(s.staging.any fun x => x.page == h) &&
      !s.flash.drafting.contains h && !s.wantsPage h
  | none => false

/-- Issues the drafting reads that wait, up to DRAFT_INFLIGHT; each is looked at again as it is issued. -/
def State.issueDrafts : Nat → State → State
  | 0, s => s
  | k + 1, s =>
    match s.flash.draftQueue with
    | [] => s
    | h :: l =>
      if s.draftLimit ≤ s.flash.drafting.length then s
      else if ¬ s.draftable h then State.issueDrafts k { s with flash := { s.flash with draftQueue := l } }
      else
        let s := { s with flash := { s.flash with draftQueue := l, drafting := s.flash.drafting ++ [h] } }
        State.issueDrafts k (((s.queueWork .draft h (s.pageDie h)).emit (.flashRead h)).count 4 nodeScope (8 * s.pageChan h + 5))

/-- The rule of R257 for handles of pages of this node: a hit restarts the line's timer. -/
def State.draftHere (l : List Handle) (s : State) : State :=
  let s := l.foldl (fun s h =>
    if s.staging.any fun x => x.page == h then s.touchLine h
    else if s.draftable h ∧ ¬ s.flash.draftQueue.contains h then { s with flash := { s.flash with draftQueue := s.flash.draftQueue ++ [h] } }
    else s) s
  s.issueDrafts s.flash.draftQueue.length

/-- Drafts for the layers after an attend's. -/
def State.draft (q : Seq) (r : AttendReq) (ptn : Nat) (reqId : Word64) (s : State) : State :=
  let d := if r.draft = 0xFF then s.draftDepth ptn else r.draft
  let n := q.layers.length
  (List.range d).foldl (fun s i =>
    let l := (r.layer + i + 1) % n
    if (q.group l).window.isSome then s
    else
      let hs := (q.layer l).selection
      let s := s.draftHere (hs.filter s.isOwn)
      (groupPages handleNode (hs.filter fun h => !s.isOwn h)).foldl (fun s g =>
        s.postFor g.1 reqId (.draftHint q.handle l g.2)) s) s

/-! ## Starting (R118, R134) -/

/-- What an attend selects from the pages it covers. -/
def AttendRun.choose (r : AttendRun) (draw : Nat) : List Handle :=
  (r.scorer draw).select (f32Rat r.req.theta) r.req.pageBudget r.req.exhaustive (r.pins.filter fun p => !p.isTail)

/-- The run with its covered pages as they stand now. -/
def State.coveredRun (s : State) (q : Seq) (r : AttendRun) (extra : List Handle) : AttendRun :=
  let lo := lowestSeen r.group r.req.vis
  { r with pins := coverPins (pinnedToken r.ids r.seen q) lo r.req.vis (bothO r.req.filter r.filter) (s.windowPins q r.req r.pins extra) }

/-- The pages that the other entries of a batch have selected (R143). -/
def State.batchPages (s : State) (i : Inflight) : List Handle :=
  match i.wait with
  | .batchEntry p _ _ => s.cmds.list.flatMap fun j => match j.wait with
    | .batchEntry p' _ (.attend r) => if p' = p then r.selected else []
    | _ => []
  | _ => []

/-- A command in flight is an entry of a batch. -/
def Inflight.inBatch (i : Inflight) : Bool := match i.wait with | .batchEntry _ _ _ => true | _ => false

/-- Starts a run held in flight: selection, partial requests, reads of what is not here, near-bank sequences. `batch` are pages
that the whole batch selects. -/
def State.startRun (i : Inflight) (q : Seq) (r : AttendRun) (batch : List Handle) (s : State) : State :=
  let r := s.coveredRun q r i.pins
  let sel := r.choose s.freeCtr
  let s := (s.drawn.noteSelected i.reqId sel).pin (r.pins.map (·.page))
  let s := sel.foldl (fun s h => s.verify h) s
  let r := { r with selected := sel }
  let isTail := fun h => r.pins.any fun p => p.page == h && p.isTail
  let local' := fun h => (s.page? h).isSome
  let x := s.askRemote i r (sel.filter fun h => !local' h) sel.length
  let r := x.1
  let s := x.2
  let need := ((r.pins.filter Pinned.isTail).map (·.page) ++ sel.filter local').filter fun h =>
    if isTail h then (match s.page? h with | some p => p.recovering | none => false) else !s.readable h
  let s := need.foldl (fun s h => s.readFlash h) s
  let all := (batch ++ s.batchPages i ++ sel).eraseDups
  let x := if r.req.lowlat then ([], s) else s.routeNear i.id r.group.layout (r.req.exhaustive || i.inBatch) sel all
  let pins := i.pins ++ r.pins.map (·.page)
  let r := { r with needs := (need ++ x.1).eraseDups }
  x.2.updInflight i.id fun j => { j with pins := pins, wait := j.wait.wrap (.attend r) }

/-- A full block whose check word does not match (R104). -/
def TokBlock.fails (b : TokBlock) : Bool := match b.crc with | some c => c != tokCrc b.ids | none => false

/-- Token-ID blocks that a filter reads and that are being recovered (R115, R442). -/
def tokensBad (q : Seq) (g : LayerGroup) (vis : Nat) (v : Option PatVer) : Bool :=
  match v with
  | none => false
  | some v => (filterBlocks q g vis v).any fun b => b.recovering

/-- The full blocks that a filter reads are checked; one that fails is uncorrectable (R104, R115). -/
def State.verifyTokens (q : Seq) (g : LayerGroup) (vis : Nat) (v : Option PatVer) (s : State) : State :=
  match v with
  | none => s
  | some v => ((filterBlocks q g vis v).filter fun b => !b.recovering && b.fails).foldl (fun s b => s.tokensUncorrectable q.handle b.idx) s

/-- A layer of a tandem keeps the window that a read sees (R75). -/
def Layer.keeps (x : Layer) (lo vis : Nat) : Bool :=
  (List.range ((vis + 255) / 256)).all fun b => decide (256 * (b + 1) ≤ lo) || (x.entry? b).isSome

/-- A ring layer that this node serves as a tandem lacks a page of the window (R75). -/
def State.windowShort (s : State) (q : Seq) (l vis : Nat) : Bool :=
  !s.isHome q.handle && (q.group l).window.isSome && !(q.layer l).keeps (lowestSeen (q.group l) vis) vis

/-- The positions have landed, the window is here, and the token-ID plane can be read. -/
def State.landed (s : State) (q : Seq) (r : AttendRun) : Bool :=
  decide (r.req.vis ≤ (q.layer r.req.layer).length) && !s.windowShort q r.req.layer r.req.vis && !tokensBad q r.group r.req.vis r.filter

/-- The run of an attend at admission, with the layer's length at that moment (R137). -/
def freshRun (q : Seq) (r : AttendReq) (p : Option ProgVer) (v : Option PatVer) : AttendRun :=
  let g := q.group r.layer
  ⟨r, g, (q.layer r.layer).length, [], [], [], [], p, v, [], [], r.tokenBudget, match v with | some v => filterBlocks q g r.vis v | none => [], [], (q.layer r.layer).length⟩

/-- What R72, R141 and R453 answer at once, or the run. -/
def State.attendAt (q : Seq) (r : AttendReq) (p : Option ProgVer) (v : Option PatVer) (s : State) :
    Except (Status × List Byte) AttendRun :=
  let len := (q.layer r.layer).length
  let g := q.group r.layer
  if r.vis = 0 then .error (.ok, (emptyPartial 0 g.cv g.qHeads len r.compact).bytes)
  else if len < r.vis ∧ (q.layer r.layer).loss.isSome then .error (.lostRecompute, lostBytes (lostEntry q r.layer).toList)
  else if (len < r.vis ∨ s.windowShort q r.layer r.vis = true) ∧ r.timeoutUs = 0 then .error (.notYet, notYetBytes q r.layer)
  else
    let run := freshRun q r p v
    if s.landed q run then .ok run
    else .ok { run with pins := s.admitPins q r }

/-- The run's admission: drafting starts, it is held, and it starts where its positions have landed. `wrap` puts the wait
in its place. -/
def State.admitRun (c : Cmd) (q : Seq) (run : AttendRun) (batch : List Handle) (wrap : Wait → Wait) (s : State) : State :=
  let s := s.draft q run.req c.ptn c.pkt.reqId
  let pins := run.pins.map (·.page)
  let id := s.cmds.nextId
  let s := (s.pin pins).hold c (wrap (.positions run)) pins
  match s.inflight? id with
  | some i => if s.landed q run then s.startRun i q run batch else s
  | none => s

/-- What an attend does that ends at once: drafting starts, and one that covers no position leaves an empty selection record
(R256). -/
def State.endAtOnce (c : Cmd) (q : Seq) (r : AttendReq) (s : State) : State :=
  let s := s.draft q r c.ptn c.pkt.reqId
  if r.vis = 0 then s.updLayer r.seq r.layer fun y => { y with selection := [] } else s

def attendRun (c : Cmd) (s : State) : Res :=
  match s.seq? (seqAt0 c.data) with
  | none => .no .unknownSeq
  | some q => match parseAttend q c.data with
    | none => .no .badParam
    | some r => match s.bindAll c.ptn r.program r.k r.filter with
      | .error st => .no st
      | .ok b =>
        let s := (s.countPtn c.ptn 1 0).verifyTokens q (q.group r.layer) r.vis b.2
        match s.attendAt ((s.seq? q.handle).getD q) r b.1 b.2 with
        | .error (st, payload) => .done st payload (s.endAtOnce c q r)
        | .ok run => .held (s.admitRun c ((s.seq? q.handle).getD q) run [] id)

def attendDef : OpDef := ⟨namesRead, noSix, attendSeven, attendMax, attendRun, emptyDup⟩

/-! ## Batches (R142, R313) -/

/-- The directory: offset and length of each entry. -/
def batchDir (b : List Byte) : List (Nat × Nat) :=
  (List.range (field b 0 2)).map fun i => (field b (8 + 8 * i) 4, field b (12 + 8 * i) 4)

/-- Entries lie apart from each other and from the directory, and nothing else is there. -/
def batchOk (b : List Byte) : Bool :=
  let n := field b 0 2
  let d := sortBy (fun (x y : Nat × Nat) => decide (x.1 < y.1)) (batchDir b)
  let fin := d.foldl (fun (acc : Bool × Nat) x =>
    (acc.1 && decide (acc.2 ≤ x.1) && x.1 % 64 == 0 && zeros (slice b acc.2 (x.1 - acc.2)), x.1 + x.2)) (true, 8 + 8 * n)
  decide (8 ≤ b.length) && decide (1 ≤ n ∧ n ≤ 64) && zeros (slice b 2 6) && decide (8 + 8 * n ≤ b.length) &&
  fin.1 && decide (fin.2 ≤ b.length) && zeros (b.drop fin.2)

def batchSeven (c : Cmd) (_ : State) : Option Status := if batchOk c.data then none else some .badParam

def batchCmds (c : Cmd) : List Cmd := (batchDir c.data).map fun x => { c with op := .attend, data := slice c.data x.1 x.2 }

def batchMax (c : Cmd) (s : State) : Nat :=
  8 + sumNat ((batchCmds c).map fun e => 8 + roundUp 8 (attendMax e s))

/-- Step 5 of one entry, then a wait for its sequence, or nothing. -/
def State.entryFive (e : Cmd) (s : State) : Except Status (Option Wait) :=
  if e.data.length < 8 then .ok none
  else match s.five (.seqRead (seqAt0 e.data)) e.pkt.epoch.toNat (s.srcPriv e.pkt.src) with
    | .refuse st _ => .error st
    | .hold => .ok (some .epoch)
    | .pass =>
      if s.unready (seqAt0 e.data) then .ok (some (.transfer (seqAt0 e.data)))
      else match s.seq? (seqAt0 e.data) with
        | some q => if q.resident then .ok none else .ok (some (.descriptor (seqAt0 e.data)))
        | none => .ok none

/-- Step 7 of one entry and its run. `batch` are the pages that the whole batch selects. -/
def State.entryRun (parent k : Nat) (e : Cmd) (batch : List Handle) (s : State) : State :=
  match attendSeven e s with
  | some st => s.entryDone parent k st []
  | none =>
    match s.seq? (seqAt0 e.data) with
    | none => s.entryDone parent k .unknownSeq []
    | some q => match parseAttend q e.data with
      | none => s.entryDone parent k .badParam []
      | some r => match s.bindAll e.ptn r.program r.k r.filter with
        | .error st => s.entryDone parent k st []
        | .ok b =>
          let s := (s.countPtn e.ptn 1 0).verifyTokens q (q.group r.layer) r.vis b.2
          match s.attendAt ((s.seq? q.handle).getD q) r b.1 b.2 with
          | .error (st, payload) => (s.endAtOnce e q r).entryDone parent k st payload
          | .ok run => s.admitRun e ((s.seq? q.handle).getD q) run batch (.batchEntry parent k)

/-- One entry from step 5 on. -/
def State.entryStart (parent k : Nat) (e : Cmd) (batch : List Handle) (s : State) : State :=
  match s.entryFive e with
  | .error st => s.entryDone parent k st []
  | .ok (some w) => s.hold e (.batchEntry parent k w) []
  | .ok none => s.entryRun parent k e batch

/-- What an entry selects if it starts now. -/
def State.entrySelects (s : State) (e : Cmd) : List Handle :=
  match s.entryFive e, attendSeven e s, s.seq? (seqAt0 e.data) with
  | .ok none, none, some q => match parseAttend q e.data with
    | some r => match s.bindAll e.ptn r.program r.k r.filter with
      | .ok b => match s.attendAt q r b.1 b.2 with
        | .ok run => if s.landed q run then (s.coveredRun q run []).choose s.freeCtr else []
        | .error _ => []
      | .error _ => []
    | none => []
  | _, _, _ => []

def batchRun (c : Cmd) (s : State) : Res :=
  let es := batchCmds c
  let parent := s.cmds.nextId
  let all := (es.flatMap s.entrySelects).eraseDups
  let s := s.hold c (.batch (es.map fun _ => none)) []
  .held ((enumFrom 0 es).foldl (fun s x => s.entryStart parent x.1 x.2 all) s)

def attendBatchDef : OpDef := ⟨fun _ => .nothing, noSix, batchSeven, batchMax, batchRun, emptyDup⟩

/-! ## The engine step (R133, R256, R437) -/

/-- Sets the run of an attend in flight. -/
def State.setRun (id : Nat) (r : AttendRun) (s : State) : State :=
  s.updInflight id fun j => { j with wait := j.wait.wrap (.attend r) }

/-- Evicts the lines that an attend has consumed. A line that another running attend has selected stays until that one has
consumed it too (DESIGN CHOICE, log 54). -/
def State.evictUsed (id : Nat) (l : List Handle) (s : State) : State :=
  let others := s.cmds.list.flatMap fun i => if i.id = id then [] else match i.wait.inner with
    | .attend r => r.selected
    | _ => []
  { s with staging := s.staging.filter fun x => !(l.contains x.page && !others.contains x.page) }

/-- An attend's end: its result, its counts, its layer's selection record. -/
def State.finishRun (i : Inflight) (r : AttendRun) (st : LoopSt) (s : State) : State :=
  let x := (r.work s.freeCtr).result r.req.vis r.length r.remotes st
  let p := x.2
  let s := s.drawn
  let lost := (lostPages r.remotes).length
  let s := (((((s.countPtn i.ptn 1 1 p.pagesSelected).countPtn i.ptn 1 2 p.pagesUnselected).countPtn i.ptn 1 3
    (st.selected.length - r.selected.length)).countPtn i.ptn 1 4 p.tokensRefined).countPtn i.ptn 1 5 p.tailTokens).countPtn i.ptn 1 7 lost
  let s := s.countPtn i.ptn 1 8 r.nearBank.length
  let s := s.updLayer r.req.seq r.req.layer fun y => { y with selection := st.selected.take 4096 }
  (s.evictUsed i.id st.selected).complete i x.1 none 0 p.bytes

/-- The holders whose own terms keep a merged partial from τ and that the node asks once more, with EXHAUSTIVE set, while the
budget allows; whether it does is its own choice (R134). -/
def State.asksFurther (s : State) (r : AttendRun) (st : LoopSt) : List Remote :=
  let k := r.work s.freeCtr
  let unmet := fun (_ : Unit) => !((k.merged r.remotes (k.evals r.remotes st)).map k.judged).all (meets k.tau)
  let budget : Bool := r.req.tokenBudget == 0 || decide (32 ≤ st.budget)
  r.remotes.filter fun x => match x.answer with
    | some p => !x.further && !r.req.exhaustive && budget && p.heads.any (fun h => !meets k.tau h) && unmet () &&
        Config.asksFurther s.freeCtr
    | none => false

/-- Sends the further requests; the first partials stay until their answers replace them. -/
def State.askFurther (i : Inflight) (r : AttendRun) (st : LoopSt) (l : List Remote) (s : State) : State :=
  let total := max 1 st.selected.length
  let spent := r.remotes.map fun x => if l.contains x then { x with further := true } else x
  let r : AttendRun := { r with selected := st.selected, refined := st.refined, budgetLeft := st.budget, remotes := spent }
  let ask := fun (y : AttendRun × State) (x : Remote) =>
    let b := if r.req.tokenBudget = 0 then 0 else budgetShare y.1.budgetLeft x.pages.length total
    y.2.sendPartial i { y.1 with budgetLeft := y.1.budgetLeft - b } x.node (fun h => y.2.nameAt h x.node) x.pages b false true
  let y := l.foldl ask (r, s.drawn)
  y.2.setRun i.id y.1

/-- A page that is here and that no unit scores is waited for no longer. -/
def State.nbSettled (id : Nat) (h : Handle) (sent : List Handle) (s : State) : State :=
  if sent.contains h ∨ ¬ s.readable h then s
  else match s.inflight? id with
    | some i => match i.wait.inner with
      | .attend r => s.setRun id { r with needs := delAll h r.needs }
      | _ => s
    | none => s

/-- An attend's step commits: it ends, or it goes on once a page that it admits has come (R22, R134). -/
def State.commitAttend (i : Inflight) (r : AttendRun) (s : State) : State :=
  let k := r.work s.freeCtr
  /- A page that near-bank units are to score is not read by the engines (R143). -/
  let nb := fun (sel : List Handle) (h : Handle) =>
    let all := (s.batchPages i ++ sel).eraseDups
    !r.req.lowlat && !r.nearBank.contains h && [3, 4].any fun n => (s.nbMine r.group.layout [h] all n).contains h
  match k.loop r.remotes (fun sel h => s.readable h && !nb sel h) s.groupHere k.fuel ⟨r.selected, r.refined, r.budgetLeft⟩ with
  | .done st =>
    match s.asksFurther r st with
    | [] => s.finishRun i r st
    | l => s.askFurther i r st l
  | .want p st =>
    let r' := { r with selected := st.selected, refined := st.refined, budgetLeft := st.budget }
    let s := ((s.drawn.noteSelected i.reqId [p.page]).countPtn i.ptn 1 3).verify p.page
    if p.img.isSome then
      let x := if r.req.lowlat then ([], s) else s.routeNear i.id r.group.layout (r.req.exhaustive || i.inBatch) [p.page]
        (s.batchPages i ++ st.selected).eraseDups
      (((x.2.readFlash p.page).setRun i.id { r' with needs := [p.page] }).nbSettled i.id p.page x.1).dispatch
    else
      let x := s.askRemote i r' [p.page] st.selected.length
      x.2.setRun i.id x.1
  | .wantGroup b st =>
    (s.drawn.readFlash b.1).setRun i.id { r with
      selected := st.selected, refined := st.refined, budgetLeft := st.budget, needs := [b.1], residual := [b] }

/-! ## Remote partials on the home (R27, R379) -/

/-- The run that a partial request belongs to. -/
def State.remoteOf (s : State) (reqId : Word64) (node : NodeId) (reqSeq : Word32) : Option (Inflight × AttendRun × Remote) :=
  s.cmds.list.findSome? fun i => match i.wait.inner with
    | .attend r =>
      if i.reqId = reqId then
        (r.remotes.find? fun x => x.node == node && x.reqSeq == reqSeq && x.answer.isNone && !x.failed).map fun x => (i, r, x)
      else none
    | _ => none

/-- A partial that did not arrive: sent again once, else its pages count as unselected (R27). A further request goes, and the
first partial stands (log 40). -/
def State.remoteFailed (i : Inflight) (r : AttendRun) (x : Remote) (s : State) : State :=
  if x.further then (s.setRun i.id { r with remotes := delAll x r.remotes }).dispatch
  else if x.resent then
    (s.setRun i.id { r with remotes := updWhere (· == x) (fun y => { y with failed := true }) r.remotes }).dispatch
  else
    let r := { r with remotes := delAll x r.remotes }
    let b := if r.req.tokenBudget = 0 then 0 else budgetShare r.budgetLeft x.pages.length (max 1 r.selected.length)
    let y := s.resend i { r with budgetLeft := r.budgetLeft - b } x b
    y.2.setRun i.id y.1

/-- FANOUT_TIMEOUT for a partial request of an attend. -/
def State.attendFanout (id : Nat) (reqSeq : Word32) (s : State) : State :=
  match s.inflight? id with
  | some i => match i.wait.inner with
    | .attend r =>
      match r.remotes.find? fun x => x.reqSeq == reqSeq && x.answer.isNone && !x.failed with
      | some x => (s.countFailed x.node).remoteFailed i r x
      | none => s
    | _ => s
  | none => s

/-- The heads of an answered partial agree with the command in number and width. -/
def AttendRun.fits (r : AttendRun) (p : PartialSet) : Bool :=
  p.heads.length == r.req.query.length && p.heads.all fun h => h.o.length == r.group.cv

/-- A partial arrives: taken, or discarded where it is late. A tandem that could not serve the request in time answers `NOT_YET`
(R75), which is no partial. Pages that the holder lost are recovered here (R379). -/
def State.gotPartial (src : NodeId) (reqId : Word64) (reqSeq : Word32) (status : Nat) (p : PartialSet) (lost : List LostRange) (s : State) :
    State :=
  match s.remoteOf reqId src reqSeq with
  | none => s
  | some (i, r, x) =>
    let short := status == Status.budgetExhausted.code
    if ¬ r.fits p ∨ status = Status.notYet.code ∨ (x.further = true ∧ lost ≠ []) then s.remoteFailed i r x
    else if x.further then
      let l := r.remotes.filter fun y => !(y.further && y.answer.isSome && y.node == x.node && y.pages == x.pages)
      (s.setRun i.id { r with remotes := updWhere (· == x) (fun y => { y with answer := some p, short := short }) l }).dispatch
    else
      let blocks := lost.map fun l => l.first / 256
      let gone := x.pages.filter fun h => r.pins.any fun q => q.page == h && blocks.contains q.block
      let r' := { r with
        remotes := updWhere (· == x) (fun y => { y with answer := some p, short := short, pages := y.pages.filter fun h => !gone.contains h }) r.remotes
        needs := r.needs ++ gone }
      let s := s.setRun i.id r'
      let s := gone.foldl (fun s h => match r.pins.find? fun q => q.page == h with
        | some q => s.wantPage h ⟨r.req.seq, r.req.layer, q.block⟩
        | none => s) s
      s.dispatch

/-! ## The holder (R75, R134, R165, R202, R378, R379) -/

/-- A page of a request as its holder reads it. -/
def State.holderPin (s : State) (b : PartialReq) (k : Nat) (p : Page) : Pinned :=
  let w : Option Nat := match s.seq? b.seq with | some q => (q.group b.layer).window | none => none
  let lo := match w with | some w => b.vis - w | none => 0
  let m := match b.masks with | some l => l.getD k 0 | none => spanMask p.name.block lo b.vis
  let tags := match b.tags with | some l => l.getD k [] | none => []
  ⟨p.handle, p.name.block, some p.img, p.img.planes.map (·.env), m, tags, false, p.img.requant⟩

/-- The pages of a request that this node holds, released ones where they were pinned at its admission; `held` says that they
were. -/
def State.holderPins (s : State) (b : PartialReq) (held : Bool) : List (Page × Pinned) :=
  (enumFrom 0 b.pages).filterMap fun x => match s.page? x.2 with
    | some p => if p.refs = 0 ∧ ¬ held then none else some (p, s.holderPin b x.1 p)
    | none => none

/-- The layer group that a holder scores a page by: its sequence's, or what the page's own image says. -/
def State.pageGroup (s : State) (seq : Handle) (layer hq : Nat) (p : Page) : LayerGroup :=
  match s.seq? seq with
  | some q => q.group layer
  | none => { imageGroup p.img with qHeads := hq }

/-- The program version that a request names by its slot and digest: the slot's current one, or one it still holds (R164,
R165). -/
def State.progHeld (s : State) (slot : Nat) (d : Digest) : Option ProgVer :=
  (s.progSlot? slot).bind fun p => (p.current.toList ++ p.old).find? fun v => v.digest == d

/-- The sequence's tandem lacks positions, or a ring window, that a request sees (R75). -/
def State.tandemShort (s : State) (b : PartialReq) : Bool :=
  b.seq != 0 && s.isTandem b.seq && (match s.seq? b.seq with
    | some q => decide ((q.layer b.layer).length < b.vis) || s.windowShort q b.layer b.vis
    | none => true)

/-- The reason of R379 for which a partial request is declined. -/
def State.declines (s : State) (epoch : Word32) (b : PartialReq) : Option Nat :=
  let gone := (s.holderPins b false).length < b.pages.length ∧ (b.ofRecall = false ∨ s.holderPins b false = [])
  if b.program ∧ (s.progHeld b.progSlot b.progDigest).isNone then some 1
  else if epoch.toNat < s.epoch ∧ s.prevEpoch ≠ some epoch.toNat then some 3
  else if ¬ s.tandemShort b ∧ gone then some 2
  else if ¬ s.admits then some 4
  else none

/-- Runs a partial request: the loop over its pages, without admission; pages that are being recovered are reported lost and
left out (R379), pages of another key-channel geometry are left out (R190). `nb` are the pages that near-bank units have
scored. -/
def State.holderAnswer (b : PartialReq) (pins : List (Page × Pinned)) (nb : List Handle) (s : State) : Msg × State :=
  let bad := pins.filter fun x => x.1.recovering
  let good := pins.filter fun x => !x.1.recovering
  let shaped := fun (g : LayerGroup) => g.ck == b.ck && g.kvHeads != 0 && b.hq % g.kvHeads == 0
  let groups := good.map fun x => (x, s.pageGroup b.seq b.layer b.hq x.1)
  let g := match groups.find? fun y => shaped y.2 with | some y => y.2 | none => groupZero
  let covered := (groups.filter fun y => shaped y.2 && y.2.layout == g.layout && y.2.kvHeads == g.kvHeads && y.1.2.mask != 0).map fun y => y.1.2
  let prog := if b.program then (s.progHeld b.progSlot b.progDigest).map (·.words) else none
  let x : Scorer := ⟨Units.node s.freeCtr, g, f32Rat b.alpha, b.query.map fun h => h.map b16Rat, ⟨prog, b.k, b.vis, b.layer⟩, nb⟩
  let k : Work := ⟨x, covered, f32Rat b.tau, b.exhaustive, false, false, 0, b.tokenBudget != 0, g.cv⟩
  let sel := covered.map (·.page)
  let fin := match k.loop [] (fun _ _ => true) (fun _ => true) k.fuel ⟨sel, [], b.tokenBudget⟩ with
    | .done st | .want _ st | .wantGroup _ st => st
  let len := match s.seq? b.seq with | some q => (q.layer b.layer).length | none => 0
  let r := k.result b.vis len [] fin
  let lost := bad.map fun y => ⟨b.seq, b.layer, 256 * y.2.block, 256⟩
  (.partialReply 0 (if lost = [] then r.1.code else Status.lostRecompute.code) r.2 lost, s.drawn)

def State.updPart (id : Nat) (f : HeldPart → HeldPart) (s : State) : State :=
  { s with cmds := { s.cmds with parts := updWhere (fun x => x.id == id) f s.cmds.parts } }

/-- A held request is over: its pins go. -/
def State.dropPart (x : HeldPart) (s : State) : State :=
  ({ s with cmds := { s.cmds with parts := s.cmds.parts.filter fun y => y.id != x.id } } : State).unpin x.req.pages

/-- Where an answer to a request of this node's own recall goes (R190): into the request, as RecallAsk keeps it. -/
def RecallRun.ownAnswer (reqSeq : Word32) (m : Msg) (r : RecallRun) : RecallRun :=
  let a : Option (Nat × Option PartialSet) := match m with
    | .partialReply _ st p _ => some (st, some p)
    | .partialDecline _ k => some (k, none)
    | _ => none
  { r with asks := updWhere (fun y => y.reqSeq == reqSeq && y.answer.isNone) (fun y => { y with answer := a }) r.asks }

/-- Answers a partial request: a message to the node that sent it, or this node's own recall. -/
def State.answerPart (h : MsgHdr) (m : Msg) (s : State) : State :=
  if h.src ≠ s.self then s.postFor h.src h.reqId m
  else
    let f := fun (w : Wait) => match w with | .recall r => Wait.recall (r.ownAnswer h.seq m) | w => w
    { s with cmds := { s.cmds with list := updWhere (fun i => i.reqId == h.reqId) (fun i => { i with wait := f i.wait }) s.cmds.list } }

/-- Answers a held request where the tandem's positions have landed and its pages are here. -/
def State.servePart (x : HeldPart) (s : State) : State :=
  if x.needs ≠ [] ∨ s.tandemShort x.req = true then s
  else
    let pins := s.holderPins x.req true
    if pins.length < x.req.pages.length ∧ ¬ x.req.ofRecall then (s.dropPart x).answerPart x.hdr (.partialDecline x.hdr.seq 2)
    else
      let y := s.holderAnswer x.req pins x.nearBank
      let m := match y.1 with | .partialReply _ st p l => Msg.partialReply x.hdr.seq st p l | m => m
      let t := y.2.dropPart x
      let t := if x.req.ofRecall then t else t.noteSelected x.hdr.reqId (pins.map fun p => p.1.handle)
      t.answerPart x.hdr m

/-- Answers every held request that can be answered now. -/
def State.serveParts (s : State) : State := s.cmds.parts.foldl (fun s x => s.servePart x) s

/-- A partial request at its holder: its pages are pinned and checked, flash pages read through the staging cache, planes in
open regions sent to the units; it is answered once all is here (R16, R22, R62, R75, R143). -/
def State.gotPartialReq (h : MsgHdr) (b : PartialReq) (s : State) : State :=
  let s := s.install b.seq
  match s.declines h.epoch b with
  | some k => s.answerPart h (.partialDecline h.seq k)
  | none =>
    let s := b.pages.foldl (fun s p => s.verify p) (s.pin b.pages)
    let need := b.pages.filter fun p => match s.page? p with | some x => x.sealed? && !x.recovering && !s.readable p | none => false
    let s := need.foldl (fun s p => s.readFlash p) s
    let id := s.cmds.nextId
    let layout := match b.pages.findSome? s.page? with | some p => p.img.layout | none => .exact
    let x := s.routeNear id layout b.exhaustive b.pages b.pages
    let part : HeldPart := ⟨id, h, b, (need ++ x.1).eraseDups, []⟩
    ({ x.2 with cmds := { x.2.cmds with nextId := id + 1, parts := x.2.cmds.parts ++ [part] } } : State).servePart part

/-- A tandem's wait for the positions of a request is over (R75). -/
def State.partExpired (id : Nat) (s : State) : State :=
  match s.cmds.parts.find? fun x => x.id == id with
  | none => s
  | some x =>
    if ¬ s.tandemShort x.req then s
    else
      let len := match s.seq? x.req.seq with | some q => (q.layer x.req.layer).length | none => 0
      (s.dropPart x).answerPart x.hdr
        (.partialReply x.hdr.seq Status.notYet.code (emptyPartial x.req.vis 0 0 len false) [])

/-! ## Waits (R19, R72) -/

/-- An attend whose positions have landed starts. -/
def State.positionsLanded (id : Nat) (s : State) : State :=
  match s.inflight? id with
  | some i => match i.wait.inner with
    | .positions r => match s.seq? r.req.seq with
      | some q => if s.landed q r then (s.startRun i q r []).dispatch else s
      | none => s
    | _ => s
  | none => s

/-- An attend's timeout: `NOT_YET` with the layer's length. -/
def State.attendExpired (id : Nat) (s : State) : State :=
  match s.inflight? id with
  | some i => match i.wait.inner with
    | .positions r => match s.seq? r.req.seq with
      | some q => if (q.layer r.req.layer).length < r.req.vis then s.complete i .notYet none 0 (notYetBytes q r.req.layer) else s
      | none => s
    | _ => s
  | none => s

def runAttend' (p : Packet) (s : State) : State := (s.arriveAll .attend attendDef p).dispatch
def runAttendBatch (p : Packet) (s : State) : State := (s.arriveAll .attendBatch attendBatchDef p).dispatch

end Sys2Proof.Machine
end

