-- ==== Sys2Proof/Machine/Receive.lean ====
section
/-! DEFINITION. Receiving messages (13_chainline_fabric.md R371 to R376, R386): the tag, the incarnation, the epoch, the
ordered stream and the memory of unordered messages. -/

namespace Sys2Proof.Machine

/-- The node takes messages: its firmware serves and its links are powered. -/
def State.listens (s : State) : Bool := s.pow.phase == .service && s.pow.state == .ride

/-- Counter of a fabric link (R508). -/
def fabTel (link k : Nat) : Nat := 16 * link + k

/-- Messages with the ordered ones among them numbered anew from `k + 1`. -/
def renumbered : Nat → List Sent → List Sent
  | _, [] => []
  | k, x :: l =>
    if x.msg.ordered then { x with seq := k + 1 } :: renumbered (k + x.msg.segments) l else x :: renumbered k l

/-- The SEQ that ordered message `k`, not sent yet, has in the stream to the peer's next incarnation. -/
def Peer.moved (p : Peer) (k : Nat) : Option Nat :=
  ((List.zip p.waiting (renumbered 0 p.waiting)).find? fun x =>
    x.1.msg.ordered && decide (x.1.seq ≤ k) && decide (k < x.1.seq + x.1.msg.segments)).map fun x => x.2.seq + (k - x.1.seq)

/-- The node's stream to a new incarnation of a peer: it starts again with what waits for a key (R374, R376, R407; log 27). -/
def Peer.renewed (incarn : Word32) (p : Peer) : Peer :=
  let w := renumbered 0 p.waiting
  let ord := w.filter (·.msg.ordered)
  { p with
    incarn := incarn, rxOrd := 0, held := [], ackOwed := false, seen := [], hbRx := 0, watched := false, tokenSeen := 0
    waiting := w, txOrd := sumNat (ord.map (·.msg.segments))
    unacked := ord.flatMap fun x => (List.range x.msg.segments).map fun i => { x with seq := x.seq + i }
    copies := p.copies.filterMap fun c => (p.moved c.seq).map fun k => { c with seq := k } }

/-- A copy that went to the older incarnation: a move ends, a replica is sent again (R25, R68; log 27). -/
def State.copyLost (n : NodeId) (c : CopySent) (s : State) : State :=
  match c.purpose with
  | 1 => (s.updPage c.page fun p => if p.job = .place n then p.endJob else p).updPlaced c.page fun y =>
      if y.moving = some n then { y with moving := none } else y
  | 2 => match s.page? c.page with | some p => s.sendCopy n 2 p.name.seq p.name.layer p | none => s
  | _ => s

/-- A command that waits for a mirrored step: for the step's new SEQ, for the resynchronisation, or, of a sequence that is
gone here, no more. -/
def State.stepMoved (n : NodeId) (p : Peer) (s : State) (i : Inflight) : State :=
  match i.wait with
  | .mirror m k h =>
    if m ≠ n then s
    else match p.moved k with
      | some k => s.updInflight i.id fun x => { x with wait := .mirror n k h }
      | none =>
        if (s.seq? h).isSome then s.updInflight i.id fun x => { x with wait := .mirror n (2 ^ 32) h }
        else s.complete i .ok none 0 []
  | _ => s

/-- A higher incarnation of a peer: its stream state and what it had asked for go, and the node's own stream to it starts
again (R374, R376; log 27). -/
def State.newIncarn (n : NodeId) (incarn : Word32) (s : State) : State :=
  let old := s.peer n
  let s := s.updPeer n (Peer.renewed incarn)
  let s := (old.copies.filter fun c => (old.moved c.seq).isNone).foldl (fun s c => s.copyLost n c) s
  let s := s.cmds.list.foldl (State.stepMoved n old) s
  let s := (s.cmds.parts.filter fun x => x.hdr.src == n).foldl (fun s x => s.dropPart x) s
  let grads := s.cmds.grads.filter fun x => x.hdr.src == n
  let s := grads.foldl (fun (s : State) x => s.unpin x.req.pages) s
  { s with
    cmds := { s.cmds with grads := s.cmds.grads.filter fun x => !grads.contains x }
    rcl := ⟨s.rcl.segments.map fun g => { g with
        window := g.window.filter fun q => q.node != n
        passes := g.passes.map fun p => (p.1.filter fun q => q.node != n, p.2) },
      s.rcl.jobs.filter fun j => j.node != n⟩
    fab := { s.fab with reassembly := s.fab.reassembly.filter fun x => x.src != n } }

/-- What every message but a handshake passes first: the tag, the incarnation; then its EPOCH is looked at, and the first
message under a new key ends the initiator's hold (R373, R376, R386, R422). Answers whether the message is handled: in the
freewheel only a HEARTBEAT is (R470). -/
def State.screen (h : MsgHdr) (s : State) (beat : Bool := false) : Bool × State :=
  let p := s.peer h.src
  if ¬ s.listens ∧ ¬ (beat ∧ s.pow.phase = .service ∧ s.pow.state = .freewheel) then (false, s)
  else if ¬ h.tagOk ∨ ¬ p.keyed then
    (false, (s.count 6 nodeScope (fabTel h.link 13)).raise .fabSts 3
      ⟨5, 7, 1, 0xFF, h.link, leBytes 2 h.src.toNat ++ zeroBytes 2 ++ leBytes 4 h.epoch.toNat⟩)
  else if h.incarn.toNat < p.incarn.toNat then (false, s.count 6 nodeScope (fabTel h.link 14))
  else
    let s := if p.incarn.toNat < h.incarn.toNat then s.newIncarn h.src h.incarn else s
    let s := if s.epoch < h.epoch.toNat then s.postMsg h.src (.mapFetch h.epoch) else s
    let s := if p.holdUntilFirst then (s.updPeer h.src fun p => { p with holdUntilFirst := false }).releaseWaiting h.src else s
    (true, s.count 6 nodeScope (fabTel h.link 12))

/-- The frames gathered for a message go once the message is handled (R371). -/
def State.gathered (h : MsgHdr) (ordered : Bool) (s : State) : State :=
  { s with fab := { s.fab with
      reassembly := s.fab.reassembly.filter fun x => !(x.src == h.src && x.ordered == ordered && x.seq == h.seq) } }

/-- One millisecond in ns (R375). -/
def seenNs : Nat := 1000000

/-- An unordered message: discarded where its SEQ was seen within 1 ms (R375), else handled. -/
def State.unordered (h : MsgHdr) (act : State → State) (s : State) (beat : Bool := false) : State :=
  let x := (s.gathered h false).screen h beat
  if ¬ x.1 then x.2
  else
    let s := x.2
    let now := s.pow.tsc.toNat
    let old := (s.peer h.src).seen.filter fun y => decide (now ≤ y.2 + seenNs)
    if old.any fun y => y.1 == h.seq.toNat then s.count 6 nodeScope (fabTel h.link 14)
    else act (s.updPeer h.src fun p => { p with seen := (h.seq.toNat, now) :: old })

/-- A request that an expelled node answers no more once its drain window is over (R459). -/
def State.serve (h : MsgHdr) (act : State → State) (s : State) : State :=
  s.unordered h fun s =>
    let gone : Bool := match s.map.map with
      | some m => MapBody.stateOf m s.self == some 2 && s.map.prev.isNone
      | none => false
    if gone then s else act s

/-- The message of an ordered command, for its length. -/
def orderedMsg : Instr → Option (MsgHdr × Msg)
  | .mirrorWrite h a => some (h, .mirrorWrite a)
  | .mirrorStepCreate h r => some (h, .stepCreate r)
  | .mirrorStepDelete h q => some (h, .stepDelete q)
  | .mirrorStepFork h f => some (h, .stepFork f)
  | .mirrorStepTruncate h q t => some (h, .stepTruncate q t)
  | .mirrorStepTag h q t => some (h, .stepTag q t)
  | .mirrorStepSealCommit h p l c => some (h, .stepSeal p l c)
  | .mirrorStepPersisted h q l p => some (h, .stepPersisted q l p)
  | .mirrorStepTailImage h q l i r => some (h, .stepTail q l i r)
  | .mirrorStepLayerLoss h q l f e => some (h, .stepLoss q l f e)
  | .mirrorStepRestoredLengths h q v l => some (h, .stepLengths q v l)
  | .mirrorStepTransferDone h n c => some (h, .stepTransferDone n c)
  | .pageCopy h p q l c => some (h, .pageCopy p q l c)
  | .pageRelease h p c => some (h, .pageRelease p c)
  | _ => none

/-- Messages of a stream held ahead of a gap (R374). -/
def heldLimit : Nat := 256

/-- Delivers what the stream holds in SEQ order. -/
def State.drainStream (deliver : Instr → State → State) (n : NodeId) : Nat → State → State
  | 0, s => s
  | k + 1, s =>
    let p := s.peer n
    match p.held.find? fun x => x.1 == p.rxOrd + 1 with
    | none => s
    | some (_, i) =>
      let m := match orderedMsg i with | some (_, m) => m.segments | none => 1
      let s := s.updPeer n fun p => { p with
        rxOrd := p.rxOrd + m, ackOwed := true, held := p.held.filter fun x => decide (p.rxOrd + m < x.1) }
      State.drainStream deliver n k (deliver i s)

/-- An ordered message: delivered in SEQ order, held ahead of a gap, dropped where it has been delivered or 256 are held
(R374). -/
def State.orderedIn (deliver : Instr → State → State) (i : Instr) (s : State) : State :=
  match orderedMsg i with
  | none => s
  | some (h, _) =>
    let x := (s.gathered h true).screen h
    if ¬ x.1 then x.2
    else
      let s := x.2
      let p := s.peer h.src
      if h.seq.toNat ≤ p.rxOrd then
        (s.updPeer h.src fun p => { p with ackOwed := true }).count 6 nodeScope (fabTel h.link 14)
      else if p.held.any fun y => y.1 == h.seq.toNat then s.count 6 nodeScope (fabTel h.link 14)
      else if heldLimit ≤ p.held.length ∧ h.seq.toNat ≠ p.rxOrd + 1 then s.count 6 nodeScope (fabTel h.link 14)
      else (s.updPeer h.src fun p => { p with held := p.held ++ [(h.seq.toNat, i)] }).drainStream deliver h.src (heldLimit + 1)

/-! ## End-to-end acknowledgement (R374) -/

/-- Commands that wait for a mirrored step end once it is acknowledged; a fork's child is then mirrored to its position at
every layer (R58, R304, R305). -/
def State.stepsAcked (n : NodeId) (upTo : Nat) : List Inflight → State → State
  | [], s => s
  | i :: l, s =>
    match i.wait with
    | .mirror m k h =>
      if m = n ∧ k ≤ upTo then
        let s := if i.op = .fork then s.updSeq h fun q => { q with layers := q.layers.map fun x => { x with mirrored := x.length } } else s
        State.stepsAcked n upTo l (s.complete i .ok none 0 [])
      else State.stepsAcked n upTo l s
    | _ => State.stepsAcked n upTo l s

def State.gotE2eAck (n : NodeId) (upTo : Nat) (s : State) : State :=
  let s := s.updPeer n fun p => { p with unacked := p.unacked.filter fun x => decide (upTo < x.seq) }
  s.stepsAcked n upTo s.cmds.list

/-- Sends the acknowledgement that a stream owes. -/
def State.sendE2eAck (n : NodeId) (s : State) : State :=
  let p := s.peer n
  if p.ackOwed ∧ s.listens then (s.updPeer n fun p => { p with ackOwed := false }).postMsg n (.e2eAck p.rxOrd) else s

/-- The messages of a stream that are sent again: each whole message once, at its first segment. -/
def resendGo : Option Sent → List Sent → List Sent
  | _, [] => []
  | none, x :: l => x :: resendGo (some x) l
  | some p, x :: l =>
    if x.msg = p.msg ∧ x.seq = p.seq + 1 ∧ 1 < x.msg.segments then resendGo (some x) l else x :: resendGo (some x) l

def State.retransmitStream (n : NodeId) (s : State) : State :=
  let p := s.peer n
  if ¬ s.listens ∨ ¬ p.keyed ∨ p.holdUntilFirst then s
  else (resendGo none p.unacked).foldl (fun s x => if p.waiting.contains x then s else s.transmit n x) s

/-! ## Commands -/

def execPartialReq (h : MsgHdr) (b : PartialReq) (s : State) : Host.Outcome State Fault Refusal :=
  .next (s.serve h fun s => s.gotPartialReq h b)
def execDraftHint (h : MsgHdr) (_ : Handle) (_ : Nat) (pages : List Handle) (s : State) : Host.Outcome State Fault Refusal :=
  .next (s.unordered h fun s => s.draftHere pages)
def execE2eAckTimer (peer : NodeId) (s : State) : Host.Outcome State Fault Refusal := .next (s.sendE2eAck peer)
def execOrderedRtoExpiry (peer : NodeId) (s : State) : Host.Outcome State Fault Refusal := .next (s.retransmitStream peer)

end Sys2Proof.Machine
end

