-- ==== Sys2Proof/Machine/Copies.lean ====
section
/-! DEFINITION. Mirrors, page copies and forks between nodes: what a tandem, a replica, a holder and a home do with MIRROR_WRITE,
MIRROR_STEP, MIRROR_ACK, PAGE_COPY, PAGE_RELEASE, PAGE_FETCH, FORK_CREATE and FORK_ACCEPT (13_chainline_fabric.md R380,
R381; 02_sequences_and_pages.md R50 to R69; 15_resilience.md R442 to R454). -/

namespace Sys2Proof.Machine

/-! ## Records that travel with a step (R283) -/

def ForkReq.bytes (r : Sys2Proof.ForkReq) : List Byte :=
  leBytes 8 r.parent.toNat ++ leBytes 8 r.child.toNat ++ leBytes 4 r.f ++ leBytes 1 (b2n r.shared) ++ leBytes 1 r.replicas.length ++
  zeroBytes 2 ++ leBytes 4 r.tag.toNat ++ zeroBytes 4 ++ replicaBytes r.replicas

def SeqCreateReq.bytes (r : Sys2Proof.SeqCreateReq) : List Byte :=
  leBytes 8 r.seq.toNat ++ leBytes 2 (sumNat (r.groups.map (·.layers))) ++ leBytes 1 r.groups.length ++ leBytes 1 (b2n r.shared) ++
  leBytes 4 r.tag.toNat ++ leBytes 1 r.replicas.length ++ zeroBytes 7 ++ replicaBytes r.replicas ++ r.groups.flatMap LayerGroup.bytes

/-- The record of a recorded command that arrives with its step. -/
def State.stepRecord (h : MsgHdr) (seq : Handle) (op : Op) (payload : List Byte) (s : State) : State :=
  if h.reqId = 0 then s
  else { s with store := { s.store with cmdRecs := s.store.cmdRecs ++
      [⟨s.seqPtn seq, h.reqId, op, digest128 payload, Status.ok.code, s.recordEnd⟩] } }

/-! ## On the tandem (R51, R75 to R77, R380) -/

/-- The message carries an epoch older than this node's (R77). -/
def State.stale (s : State) (h : MsgHdr) : Bool := decide (h.epoch.toNat < s.epoch)

def State.ackMirror (h : MsgHdr) (seq : Handle) (layer : Nat) (st : Status) (s : State) : State :=
  let len := match s.seq? seq with | some q => (q.layer layer).length | none => 0
  s.postFor h.src h.reqId (.mirrorAck seq layer st.code len)

/-- One layer's rows of a mirrored append: those from its length on; a tail that resynchronisation sends begins at its
block's start (R447, log 27). -/
def State.mirrorLayer (a : AppendReq) (x : Nat × List (List Word16)) (s : State) : State :=
  match s.seq? a.seq with
  | none => s
  | some q =>
    let len := (q.layer x.1).length
    let s := if len < a.pos then s.updLayer a.seq x.1 fun y => { y with length := a.pos } else s
    let rows := if len < a.pos then x.2 else x.2.drop (len - a.pos)
    match s.putRows false true a.seq x.1 (rows.length + 1) rows with
    | some t => t.updLayer a.seq x.1 Layer.advanceLoss
    | none => s

def State.gotMirrorWrite (h : MsgHdr) (a : AppendReq) (s : State) : State :=
  let ackAll := fun (st : Status) (s : State) => a.layers.foldl (fun s l => s.ackMirror h a.seq l st) s
  if s.stale h then ackAll .staleEpoch s
  else match s.seq? a.seq with
    | none => ackAll .unknownSeq s
    | some _ =>
      let s := (List.zip a.layers a.rows).foldl (fun s x => s.mirrorLayer a x) (s.install a.seq)
      let s := s.updSeq a.seq fun q => { q with tokens := putTokens a.pos a.tokens q.tokens }
      let r : AppendRec := ⟨a.seq, a.layers, a.pos, a.count, a.digest, a.bulk, h.reqId, s.seqPtn a.seq, false⟩
      let s := if h.reqId = 0 ∨ s.store.appendRecs.contains r then s
        else { s with store := { s.store with appendRecs := s.store.appendRecs ++ [r] } }
      (ackAll .ok s).serveParts

/-- A mirrored step that is not stale. -/
def State.step' (h : MsgHdr) (seq : Handle) (act : State → State) (s : State) : State :=
  if s.stale h then s.ackMirror h seq 0 .staleEpoch else act s

/-- A sealed page of a block that this node has still to get: zeros under the envelopes known, recovering. -/
def blankImage (g : LayerGroup) (h : Handle) (l block : Nat) (env : List (List (Word16 × Word16))) : Image :=
  let i := sealImage g { emptyTail g h l block with rows := [], fill := 256 } none
  { i with planes := (enumFrom 0 i.planes).map fun x => { x.2 with env := env.getD x.1 x.2.env } }

/-- A page that a new home has not: asked for in the order of R436; without a source its positions are lost (R442, R452; log
55). -/
def State.missPage (q : Seq) (l block : Nat) (env : List (List (Word16 × Word16))) (s : State) : State :=
  let g := q.group l
  let img := blankImage g q.handle l block env
  match s.newPage (s.seqPtn q.handle) ⟨q.handle, l, block⟩ img (img.frames g) true with
  | none => s.loseHome q.handle l (256 * block) none
  | some (k, s) =>
    let s := s.addEntry q.handle l ⟨block, k, [], 0⟩
    (s.updPage k fun p => { p with recovering := true }).nextSource k ⟨q.handle, l, block⟩ false []

/-- The blocks of a layer below its length whose pages this node, a new home, lacks: those of a `SHARED` sequence, whose sealed
pages lie on the replica set (R25, R26, R37), and those that a resynchronisation has not brought (R73, R452). -/
def State.missing (s : State) (q : Seq) (l : Nat) : List (Nat × List (List (Word16 × Word16))) :=
  let x := q.layer l
  let first := match (q.group l).window with | some w => x.length / 256 - w / 256 | none => 0
  ((List.range ((x.length + 255) / 256)).filter fun b => decide (first ≤ b)).filterMap fun b => match x.entry? b with
    | some e => if (s.page? e.page).isNone ∧ s.isOwn e.page ∧ (s.placed? e.page).isNone then some (b, e.env) else none
    | none => some (b, [])

/-- A node that is now the home of a sequence: it gets the pages that it lacks, queues the seals of full tails, indexes the
pages that have a code (log 56), and its mirrored lengths rise as the tandem acknowledges what it sends (R48, R447). -/
def State.takeSeq (h : Handle) (s : State) : State :=
  match s.seq? h with
  | none => s
  | some q =>
    let s := (List.range q.layers.length).foldl (fun s l => (s.missing q l).foldl (fun s x => s.missPage q l x.1 x.2) s) s
    let full := fun (s : State) (e : Entry) => match s.page? e.page with
      | some p =>
        if p.img.tail ∧ p.img.fill = 256 ∧ p.sealing = .idle then s.queueSeal e.page
        else match p.index with
          | some x => if s.indexed e.page then s else s.putIndex p.ptn x.1 { x.2 with page := e.page }
          | none => s
      | none => s
    let s := (q.layers.flatMap (·.entries)).foldl full s
    let s := s.updSeq h fun q => { q with layers := q.layers.map fun x => { x with mirrored := 0 } }
    match s.mirrorNode h, s.seq? h with
    | some n, some q => s.resyncSeq n 5 q
    | _, _ => s

/-- The sequences of a shard that are arriving have arrived (R448). -/
def State.shardArrived (shard : Nat) (s : State) : State :=
  let come := (s.store.seqs.filter fun q => q.state == .arriving && shardOf q.handle == shard).map (·.handle)
  come.foldl (fun s h =>
    let s := s.updSeq h fun q => { q with state := .live }
    if s.isHome h then s.takeSeq h else s) s

/-- A restored sequence that is not settled. -/
def SeqState.unsettled : SeqState → Bool
  | .settling _ => true
  | _ => false

def State.gotStepCreate (h : MsgHdr) (r : SeqCreateReq) (s : State) : State :=
  s.step' h r.seq fun s =>
    /- A node that is not the home gives up a restored copy for what the home sends (R454). -/
    let s := match s.seq? r.seq with
      | some q => if q.state.unsettled ∧ ¬ s.isHome r.seq then s.removeSeq false r.seq else s
      | none => s
    if (s.seq? r.seq).isSome then s
    else
      let shard := shardOf r.seq
      let s := s.stepRecord h r.seq .seqCreate (SeqCreateReq.bytes r)
      if s.isHome r.seq ∧ s.map.transfersIn.any (fun t => t.shard == shard) then
        let s := s.shardArrived shard
        let s := s.addSeq (freshSeq r .arriving)
        let ts := updWhere (fun (t : Transfer) => t.shard == shard) (fun t => ⟨t.shard, t.arrived + 1⟩) s.map.transfersIn
        { s with map := { s.map with transfersIn := ts } }
      else s.addSeq (freshSeq r .live)

def State.gotStepDelete (h : MsgHdr) (seq : Handle) (s : State) : State :=
  s.step' h seq fun s =>
    let t := (s.stepRecord h seq .seqDelete (leBytes 8 seq.toNat)).removeSeq false seq
    t.endWaits seq t.cmds.list

def State.gotStepTruncate (h : MsgHdr) (seq : Handle) (t : Nat) (s : State) : State :=
  s.step' h seq fun s =>
    match s.seq? seq with
    | none => s
    | some q =>
      let s := s.stepRecord h seq .truncate (leBytes 8 seq.toNat ++ leBytes 4 t ++ zeroBytes 4)
      match s.truncSeq false seq (List.range q.layers.length) t with
      | none => s
      | some s => s.updSeq seq fun q => { q with layers := q.layers.map fun x => { x with loss := none } }

def State.gotStepTag (h : MsgHdr) (seq : Handle) (tag : Word32) (s : State) : State :=
  s.step' h seq fun s => (s.updSeq seq fun q => { q with tag := tag }).delta [.seq seq]

def State.gotStepPersisted (h : MsgHdr) (seq : Handle) (l p : Nat) (s : State) : State :=
  s.step' h seq fun s => s.updLayer seq l fun x => { x with persisted := min p x.length }

/-- Replaces what a layer's table names for a block; the old reference goes. -/
def State.setEntry (home : Bool) (seq : Handle) (l : Nat) (e : Entry) (s : State) : State :=
  let old := (match s.seq? seq with | some q => ((q.layer l).entry? e.block).map (·.page) | none => none)
  let s := s.addEntry seq l e
  match old with
  | some p => if p = e.page then s else s.dropRef home p
  | none => s

/-- LIST of a MIRROR_STEP of kind 6 whose page has no summary code: the message has no other place to say so (DESIGN CHOICE,
log 58). -/
def noList : Nat := 4294967295

/-- The tandem's part of a seal (R25, R108): the same image from its own tail; for a `SHARED` sequence the tail goes and the
envelopes stay (R26). The list and the code of the message are kept with the page, for the model that is current here (R174). -/
def State.gotStepSeal (h : MsgHdr) (n : PageName) (list : Nat) (code : List Byte) (s : State) : State :=
  s.step' h n.seq fun s =>
    match s.seq? n.seq with
    | none => s
    | some q =>
      match s.blockPage q n.layer n.block with
      | none => s
      | some p =>
        if ¬ p.img.tail then s
        else
          let g := q.group n.layer
          let img := sealImage g p.img (if list = noList then none else some code)
          let s := s.install n.seq
          if q.shared then
            let ents := updWhere (fun (e : Entry) => e.block == n.block) fun e => ⟨e.block, e.page, img.planes.map (·.env), img.requant⟩
            let s := (s.updLayer n.seq n.layer fun x => { x with entries := ents x.entries }).delta [.entry n.seq n.layer n.block]
            s.dropLocal p.handle 1
          else match s.newPage p.ptn n img (img.frames g) true with
            | none => s
            | some (k, s) =>
              /- Every `PRIVATE` sequence of this node that shares the tail follows (R49). -/
              let refs := (s.referrers p.handle).filter fun x => !x.1.shared
              let m := ((s.ns? (nsOf n.seq)).bind (·.current)).map (·.num)
              let idx := if list = noList then none else m.map fun m =>
                (list, (⟨k, n.seq, n.block, n.layer, m, img.inherit.isSome, h.epoch, q.tag, code⟩ : IdxEntry))
              let s := s.updPage k fun x => { x with index := idx }
              ((if refs.length < p.refs then s else s.endSeal p).repoint refs p.handle k).serveParts

def State.gotStepTail (h : MsgHdr) (seq : Handle) (l : Nat) (img : Image) (recs : List AppendRec) (s : State) : State :=
  s.step' h seq fun s =>
    match s.seq? seq with
    | none => s
    | some q =>
      match s.newPage (s.seqPtn seq) ⟨seq, l, img.block⟩ img (img.frames (q.group l)) true with
      | none => s
      | some (k, s) =>
        let s := s.setEntry false seq l ⟨img.block, k, [], 0⟩
        let s := s.updLayer seq l fun x => { x with length := max x.length (256 * img.block + img.fill) }
        let s := { s with store := { s.store with appendRecs := s.store.appendRecs ++ recs.filter fun r => !s.store.appendRecs.contains r } }
        (s.ackMirror h seq l .ok).serveParts

def State.gotStepLoss (h : MsgHdr) (seq : Handle) (l first fin : Nat) (s : State) : State :=
  s.step' h seq fun s => s.loseLayer false seq l first fin

/-- The fork step: a pending child is committed; a tandem that holds the parent makes the child (R305, R451). -/
def State.gotStepFork (h : MsgHdr) (f : ForkReq) (s : State) : State :=
  s.step' h f.child fun s =>
    let s := s.stepRecord h f.parent .fork (ForkReq.bytes f)
    match s.seq? f.child with
    | some q => match q.state with
      | .pendingChild _ => (s.updSeq f.child fun q => { q with state := .live }).delta [.child f.child]
      | _ => s
    | none => (s.forkHere f).getD s

/-- The end of a shard's transfer (R448). -/
def State.gotTransferDone (h : MsgHdr) (shard : Nat) (s : State) : State :=
  if s.stale h then s
  else if s.epoch < h.epoch.toNat then
    { s with map := { s.map with doneEarly := (shard, h.epoch.toNat) :: s.map.doneEarly } }
  else
    let s := s.shardArrived shard
    { s with map := { s.map with transfersIn := s.map.transfersIn.filter fun t => t.shard != shard } }

/-! ## On the home: MIRROR_ACK (R47, R51, R77, R287) -/

/-- Ends the appends and steps that a tandem has refused by its epoch. -/
def State.endStale (n : NodeId) (seq : Handle) (l : Nat) : List Inflight → State → State
  | [], s => s
  | i :: rest, s =>
    let s := match i.wait with
      | .level a _ => if a.seq = seq ∧ a.layers.contains l ∧ 2 ≤ s.levelOf a then s.complete i .staleEpoch (s.homeOf seq) 0 [] else s
      | .mirror m _ h => if m = n ∧ h = seq then s.complete i .staleEpoch (s.homeOf seq) 0 [] else s
      | _ => s
    State.endStale n seq l rest s

def State.gotMirrorAck (src : NodeId) (seq : Handle) (l status mirrored : Nat) (s : State) : State :=
  if s.mirrorNode seq ≠ some src then s
  else if status = Status.staleEpoch.code then
    let s := { s with map := { s.map with refused := addNew seq s.map.refused } }
    s.endStale src seq l s.cmds.list
  else if status ≠ Status.ok.code then s
  else ((s.updLayer seq l fun x => { x with mirrored := max x.mirrored (min mirrored x.length) }).delta [.length seq l]).progress

/-! ## Page copies (R381, R444) -/

/-- A copy passes its checks (R106, R107); a tail frame is taken as sent. -/
def copyOk (g : LayerGroup) (l : Nat) (i : Image) : Bool := i.tail || (i.layer == l && i.good g)

/-- Stores a copied page here and answers with its handle. -/
def State.storeCopy (h : MsgHdr) (purpose : Nat) (seq : Handle) (l : Nat) (i : Image) (s : State) : Option Handle × State :=
  let g := s.groupFor seq l i
  match s.newPage (s.seqPtn seq) ⟨seq, l, i.block⟩ i (i.frames g) (purpose != 1) with
  | none => (none, s.postFor h.src h.reqId (.pageCopyAck h.seq 0 Status.noSpace.code))
  | some (k, s) => (some k, s.postFor h.src h.reqId (.pageCopyAck h.seq k Status.ok.code))

/-- The fetch that a copy answers. -/
def State.fetchOf (s : State) (src : NodeId) (seq : Handle) (l block : Nat) (tokens : Bool) : Option Fetch :=
  s.store.fetches.find? fun f => f.node == src && f.name.seq == seq && (f.tokens == tokens) && (f.tokens || f.name.layer == l) &&
    f.name.block == block

def MapBody.domain (m : Sys2Proof.MapBody) (n : NodeId) : Option Nat := (m.nodes.find? fun x => x.1 == n).map (·.2.1)

/-- The second copies of a page of a sequence lie on nodes of which one is in another failure domain than `n` (R67). -/
def State.secondCopy (s : State) (q : Seq) (n : NodeId) : Bool :=
  let at' := if q.shared then q.replicas else (s.tandemOf q.handle).toList
  match s.map.map with
  | some m => at'.any fun k => k != n && MapBody.domain m k != MapBody.domain m n
  | none => false

/-- A placement move's step (R68): the references of this node's sequences name the new handle, and go from the old page; it
stays while sequences of other homes refer to it. The index entry goes to this node's segment first (log 56). -/
def State.placed (old new : Handle) (s : State) : State :=
  match s.page? old with
  | none => s
  | some p =>
    let refs := s.referrers old
    let env := p.img.planes.map (·.env)
    let s := refs.foldl (fun s x => s.updEntry x fun e => { e with page := new, env := env, requant := p.img.requant }) s
    let idx := p.index.map fun x => (x.1, { x.2 with page := new })
    let s := s.updPlaced new fun y =>
      { y with refs := y.refs + refs.length, owners := assocSet (handleNode new) 1 y.owners, copies := y.copies ++ p.copies, index := idx }
    let s := match idx with
      | some x => s.putIndex p.ptn x.1 x.2
      | none => s
    ((s.updPage old Page.endJob).updPage old fun x => { x with refs := x.refs - refs.length }).delta [.refs old]

/-- A page that another node holds has moved on: its references name the new handle and the old holder hears of it (R68). -/
def State.placedOn (x : Placed) (new : Handle) (s : State) : State :=
  let refs := s.referrers x.page
  let s := refs.foldl (fun s y => s.updEntry y fun e => { e with page := new }) s
  let idx := x.index.map fun y => (y.1, { y.2 with page := new })
  let s := match idx, refs with
    | some y, (q, _, _) :: _ => s.putIndex (s.seqPtn q.handle) y.1 y.2
    | _, _ => s
  let s := if s.isOwn new then
      s.updPage new fun p => { p with refs := refs.length, copies := x.copies, index := idx }
    else s.updPlaced new fun y =>
      { y with refs := y.refs + refs.length, owners := assocSet (handleNode new) 1 y.owners, copies := y.copies ++ x.copies, index := idx }
  ({ x with copies := [] } |> fun x => s.dropPlaced true x x.refs)

/-- A page fetched from its holder for a placement move: it goes on to the target, or is this node's again (R68). -/
def State.movedHere (h : Handle) (s : State) : State :=
  match s.placed? h, s.page? h with
  | some x, some p =>
    match x.moving with
    | none => s
    | some t =>
      if t = s.self then
        match s.newPage p.ptn p.name p.img p.frames false with
        | some (k, s) => s.placedOn x k
        | none => s.updPlaced h fun y => { y with moving := none }
      else s.sendCopy t 1 p.name.seq p.name.layer p
  | _, _ => s

/-- A copy that answers a fetch: the page in place, a tail's missing positions lost (R442, R452); a page of another node is
kept under its own handle while commands read it. -/
def State.takeFetched (f : Fetch) (i : Image) (s : State) : State :=
  match s.page? f.page with
  | some p =>
    let n := i.fill
    let s := s.recovered f.page (some (if p.img.tail ∧ i.tail then { i with seq := p.img.seq } else i))
    if p.img.tail ∧ i.tail ∧ n < p.img.fill then s.losePage f.page n else s
  | none =>
    let g := s.groupFor f.name.seq f.name.layer i
    let p := Page.fresh f.page (s.seqPtn f.name.seq) f.name i (i.frames g) s.pow.tsc.toNat
    let s := { s with store := { s.store with
      pages := s.store.pages ++ [p], fetches := s.store.fetches.filter fun x => x.tokens || !(x.page == f.page) } }
    ((s.stage p false).pageReady f.page).movedHere f.page

/-- Puts a token-ID block into a sequence. -/
def State.setTokens (seq : Handle) (idx : Nat) (ids : List Word32) (s : State) : State :=
  s.updSeq seq fun q => { q with tokens := (q.tokens.filter fun b => b.idx != idx) ++
    [⟨idx, ids, if ids.all (· != noToken) then some (tokCrc ids) else none, false⟩] }

/-- A recovered token-ID block: the reads that wait take it for the bad one, and attends that waited for it start. -/
def State.tokensReady (seq : Handle) (idx : Nat) (s : State) : State :=
  let s := match (s.seq? seq).bind fun q => q.tokens.find? fun b => b.idx == idx with
    | some b => s.updIds seq (updWhere (fun (x : TokBlock) => x.idx == idx && x.recovering) fun _ => b)
    | none => s
  s.cmds.list.foldl (fun s i => match i.wait.inner with | .positions _ => s.positionsLanded i.id | _ => s) s

/-- A transfer or resynchronisation copy that this node must not take: of an older epoch, or for a sequence whose home it is
and that is not arriving (R76, R77; log 57). -/
def State.strayCopy (s : State) (h : MsgHdr) (purpose : Nat) (seq : Handle) : Bool :=
  (purpose == 4 || purpose == 5) && (s.stale h || match s.seq? seq with
    | some q => s.isHome seq && q.state != .arriving
    | none => true)

def State.gotPageCopy (h : MsgHdr) (purpose : Nat) (seq : Handle) (l : Nat) (c : Copied) (s : State) : State :=
  match c with
  | .tokens idx ids crc =>
    let full := ids.all (· != noToken)
    let bad := ids.length ≠ 256 ∨ (full ∧ crc ≠ tokCrc ids)
    if purpose = 6 then
      match s.fetchOf h.src seq 0xFFFF idx true with
      | none => s
      | some f =>
        if bad then (s.postFor h.src h.reqId (.pageCopyAck h.seq 0 Status.internal.code)).fetchTokens seq idx f.tried
        else
          let s := (s.setTokens seq idx ids).postFor h.src h.reqId (.pageCopyAck h.seq 0 Status.ok.code)
          { s with store := { s.store with fetches := delAll f s.store.fetches } }.tokensReady seq idx
    else if bad ∨ s.strayCopy h purpose seq = true then s.postFor h.src h.reqId (.pageCopyAck h.seq 0 Status.internal.code)
    else (s.setTokens seq idx ids).postFor h.src h.reqId (.pageCopyAck h.seq 0 Status.ok.code)
  | .image i =>
    let ok := copyOk (s.groupFor seq l i) l i
    if purpose = 3 then
      match s.fetchOf h.src seq l i.block false with
      | none => s
      | some f =>
        if ok then (s.takeFetched f i).postFor h.src h.reqId (.pageCopyAck h.seq f.page Status.ok.code)
        else (s.postFor h.src h.reqId (.pageCopyAck h.seq 0 Status.internal.code)).nextSource f.page f.name i.tail f.tried
    else if ¬ ok ∨ s.strayCopy h purpose seq = true then s.postFor h.src h.reqId (.pageCopyAck h.seq 0 Status.internal.code)
    else
      let x := s.storeCopy h purpose seq l i
      match x.1 with
      | none => x.2
      | some k =>
        if purpose = 4 ∨ purpose = 5 then
          let s := x.2.setEntry false seq l ⟨i.block, k, [], 0⟩
          (s.updLayer seq l fun y => { y with length := max y.length (256 * i.block + i.fill) }).serveParts
        else x.2

/-- The list and code of a sealed page as a MIRROR_STEP carries them (R174; log 58). -/
def Page.sealSummary (p : Page) : Nat × List Byte :=
  match p.index with
  | some x => (x.1, x.2.code)
  | none => (noList, zeroBytes 32)

/-- The answer to a copy that this node sent (R37, R68, R381, R447 to R449). -/
def State.gotCopyAck (src : NodeId) (reqSeq : Word32) (page : Handle) (status : Nat) (s : State) : State :=
  match (s.peer src).copies.find? fun c => c.seq == reqSeq.toNat with
  | none => s
  | some c =>
    let s := s.updPeer src fun p => { p with copies := delAll c p.copies }
    let ok := status = Status.ok.code
    match c.purpose with
    | 1 =>
      let live : Bool := match s.page? c.page with | some p => p.job == .place src && p.refs != 0 | none => false
      match s.placed? c.page with
      | some x =>
        if x.moving ≠ some src then (if ok then s.postMsg src (.pageRelease page 1) else s)
        else if ok then s.placedOn x page
        else s.updPlaced c.page fun y => { y with moving := none }
      | none =>
        if ¬ live then (if ok then s.postMsg src (.pageRelease page 1) else s)
        else if ok then s.placed c.page page
        else s.updPage c.page Page.endJob
    | 2 =>
      /- A member that could not take the page is still awaited: the tandem keeps its tail (R25). -/
      if ¬ ok then s
      else
        let s := s.updPage c.page fun p => { p with awaiting := delAll src p.awaiting, copies := addNew page p.copies }
        match s.page? c.page with
        | some p =>
          let x := p.sealSummary
          if p.awaiting ≠ [] then s
          else (s.referrers c.page).foldl (fun s (q, l, b) =>
            if q.shared ∧ s.isHome q.handle then s.mirrorMsg q.handle 0 (.stepSeal ⟨q.handle, l, b⟩ x.1 x.2) else s) s
        | none => s
    | _ => if ok then s.updPage c.page fun p => { p with copies := addNew page p.copies } else s

/-- Released references of a page held here for another node's sequences, or counted here for them (R64). -/
def State.gotRelease (page : Handle) (count : Nat) (s : State) : State :=
  if s.isOwn page then s.dropLocal page count
  else match s.placed? page with
    | some x => s.dropPlaced true x count
    | none => s

/-- The image that a fetch asks for, where this node holds it in good order. -/
def State.fetched (s : State) (page seq : Handle) (l block : Nat) : Option Image :=
  let own := if page = 0 then none else s.page? page
  let byName := match s.seq? seq with
    | some q => s.blockPage q l block
    | none => s.store.pages.find? fun p => p.name == PageName.mk seq l block && p.refs != 0
  match own, byName with
  | some p, _ => if p.recovering then none else some p.img
  | none, some p => if p.recovering ∨ (page = 0 ∧ ¬ p.img.tail) then none else some p.img
  | none, none => none

def State.gotPageFetch (h : MsgHdr) (page seq : Handle) (l block : Nat) (s : State) : State :=
  let decline := s.postFor h.src h.reqId (.partialDecline h.seq 2)
  if l = 0xFFFF then
    match (s.seq? seq).bind fun q => q.tokens.find? fun b => b.idx == block && !b.recovering with
    | some b => s.postFor h.src h.reqId (.pageCopy 6 seq 0xFFFF (.tokens b.idx b.ids (b.crc.getD 0)))
    | none => decline
  else match s.fetched page seq l block with
    | some i => s.postFor h.src h.reqId (.pageCopy 3 seq l (.image i))
    | none => decline

/-- A source declines a fetch or does not answer in time (R443). -/
def State.fetchFailed (f : Fetch) (s : State) : State :=
  if f.tokens then s.fetchTokens f.name.seq f.name.block f.tried
  else
    let tail := match s.page? f.page with | some p => p.img.tail | none => false
    s.nextSource f.page f.name tail f.tried

def State.fetchBySeq (s : State) (n : Option NodeId) (reqSeq : Word32) : Option Fetch :=
  s.store.fetches.find? fun f => f.reqSeq == reqSeq && (match n with | some x => f.node == x | none => true)

/-! ## Forks to another home (R55, R305, R451) -/

/-- The status of a FORK_CREATE. -/
def State.forkVerdict (s : State) (reqId : Word64) (f : ForkReq) : Status × Bool :=
  match s.seq? f.child with
  | some q => (if q.state = .pendingChild reqId then .ok else .conflict, false)
  | none =>
    if (s.ns? (nsOf f.child)).isNone then (.unknownSeq, false)
    else if ¬ s.seqRoom (nsOf f.child) then (.noSpace, false)
    else (.ok, true)

/-- The pending child with the parent's page handles and envelopes, its cut tails and token IDs. -/
def State.makeChild (src : NodeId) (reqId : Word64) (f : ForkReq) (groups : List LayerGroup) (tokens : List (List Word32)) (pages : List ForkPage)
    (cut : List (Nat × Copied)) (s : State) : Option State :=
  let n := sumNat (groups.map (·.layers))
  let toks := (enumFrom 0 tokens).map fun x => (⟨x.1, x.2, if x.2.all (· != noToken) then some (tokCrc x.2) else none, false⟩ : TokBlock)
  let child : Seq := ⟨f.child, groups, f.shared, f.replicas, f.tag, List.replicate n { Layer.empty with length := f.f }, toks,
    .pendingChild reqId, true, []⟩
  let s := (s.addSeq child).delta [.child f.child]
  let s := pages.foldl (fun s p =>
    (s.referFrom src p.handle).addEntry f.child p.layer ⟨p.block, p.handle, p.env, p.requant⟩) s
  let put := fun (o : Option State) (x : Nat × Copied) => match o, x.2 with
    | some s, .image i =>
      match s.newPage (s.seqPtn f.child) ⟨f.child, x.1, i.block⟩ { i with seq := f.child } (i.frames (child.group x.1)) false with
      | some (k, s) => some (s.addEntry f.child x.1 ⟨i.block, k, [], 0⟩)
      | none => none
    | o, _ => o
  cut.foldl put (some s)

def State.gotForkCreate (h : MsgHdr) (f : ForkReq) (groups : List LayerGroup) (tokens : List (List Word32)) (pages : List ForkPage)
    (cut : List (Nat × Copied)) (s : State) : State :=
  let v := s.forkVerdict h.reqId f
  if ¬ v.2 then s.postFor h.src h.reqId (.forkAccept h.seq v.1.code)
  else if ¬ pages.all (fun p => s.refRoom p.handle) then s.postFor h.src h.reqId (.forkAccept h.seq Status.noSpace.code)
  else match s.makeChild h.src h.reqId f groups tokens pages cut with
    | none => s.postFor h.src h.reqId (.forkAccept h.seq Status.noSpace.code)
    | some s =>
      let s := match s.mirrorNode f.child, s.seq? f.child with
        | some n, some q => s.resyncSeq n 5 q
        | _, _ => s
      s.postFor h.src h.reqId (.forkAccept h.seq Status.ok.code)

def State.gotForkAccept (src : NodeId) (reqSeq : Word32) (status : Nat) (s : State) : State :=
  match s.cmds.list.find? fun i => (match i.wait with | .forkAccept f k => k == reqSeq && s.homeOf f.child == some src | _ => false) with
  | none => s
  | some i => match i.wait with
    | .forkAccept f _ => if status = Status.ok.code then s.forkCommit i f else s.complete i (Status.ofCode status) none 0 []
    | _ => s

/-- No acceptance within 1 ms (R305, R530). -/
def State.forkTimedOut (id : Nat) (s : State) : State :=
  match s.inflight? id with
  | some i => match i.wait with | .forkAccept _ _ => s.complete i .busyRetry none 1000 [] | _ => s
  | none => s

/-- A pending child without its committed step goes with its page references (R451). -/
def State.dropPending (h : Handle) (s : State) : State :=
  match s.seq? h with
  | some q => match q.state with
    | .pendingChild _ => (s.mirrorMsg h 0 (.stepDelete h)).removeSeq false h
    | _ => s
  | none => s

/-! ## Placement (R68) -/

/-- Moves a sealed page to another node of its namespace's node set: one that this node holds, or one that another node
holds for it. A second copy is to lie in another failure domain than the target (R67). -/
def State.placementMove (h : Handle) (target : NodeId) (s : State) : State :=
  match (s.referrers h).find? fun r => s.isHome r.1.handle with
  | none => s
  | some (q, l, b) =>
    match s.ns? (nsOf q.handle) with
    | none => s
    | some x =>
      if ¬ x.selfPlaced ∨ ¬ x.nodes.contains target ∨ target = handleNode h ∨ ¬ s.secondCopy q target then s
      else match s.placed? h with
        | some y =>
          if y.moving.isSome then s
          else (s.updPlaced h fun y => { y with moving := some target }).wantPage h ⟨q.handle, l, b⟩
        | none => match s.page? h with
          | some p =>
            if p.sealed? ∧ ¬ p.img.ring ∧ p.job = .none ∧ ¬ p.recovering ∧ p.refs ≠ 0 ∧ target ≠ s.self then
              (s.updPage h (Page.startJob (.place target))).sendCopy target 1 q.handle l p
            else s
          | none => s

/-! ## Commands that need no released holds -/

def execMirrorAck (h : MsgHdr) (seq : Handle) (layer status mirrored : Nat) (s : State) : Host.Outcome State Fault Refusal :=
  .next (s.unordered h fun s => s.gotMirrorAck h.src seq layer status mirrored)
def execPageCopyAck (h : MsgHdr) (reqSeq : Word32) (page : Handle) (status : Nat) (s : State) : Host.Outcome State Fault Refusal :=
  .next (s.unordered h fun s => s.gotCopyAck h.src reqSeq page status)
def execPageFetch (h : MsgHdr) (page seq : Handle) (layer block : Nat) (s : State) : Host.Outcome State Fault Refusal :=
  .next (s.unordered h fun s => s.gotPageFetch h page seq layer block)
def execForkCreate (h : MsgHdr) (f : ForkReq) (groups : List LayerGroup) (tokens : List (List Word32)) (pages : List ForkPage)
    (cut : List (Nat × Copied)) (s : State) : Host.Outcome State Fault Refusal :=
  .next (s.serve h fun s => s.gotForkCreate h f groups tokens pages cut)
def execForkAccept (h : MsgHdr) (reqSeq : Word32) (status : Nat) (s : State) : Host.Outcome State Fault Refusal :=
  .next (s.unordered h fun s => s.gotForkAccept h.src reqSeq status)
def execForkAcceptTimeout (id : Nat) (s : State) : Host.Outcome State Fault Refusal := .next (s.forkTimedOut id)
def execPlacementMove (page : Handle) (target : NodeId) (s : State) : Host.Outcome State Fault Refusal :=
  .next (s.placementMove page target)

end Sys2Proof.Machine
end

