-- ==== Sys2Proof/Machine/Grad.lean ====
section
/-! DEFINITION. `GRAD_ATTEND`, `GRAD_READ` and `GRAD_CLEAR` (04_attention_execution.md R145 to R149; 11_command_reference.md R314,
R315), and the gradient requests between nodes (R148). -/

namespace Sys2Proof.Machine

/-! ## The request (R145, R314) -/

def gradRowLen (g : LayerGroup) : Nat := up64 (16 + 16 * g.qHeads + 6 * g.qHeads * g.channels)

/-- One row; the reserved bytes and the padding must be zero. -/
def gradRowOf (g : LayerGroup) (b : List Byte) : Option GradRow :=
  let hq := g.qHeads
  let c := g.channels
  let at' := fun h k => (BitVec.ofNat 32 (field b (16 + 16 * h + k) 4) : Word32)
  let hs := List.range hq
  let qOff := 16 + 16 * hq
  let oOff := qOff + 2 * hq * c
  if zeros (slice b 4 12) ∧ hs.all (fun h => field b (16 + 16 * h + 12) 4 == 0) ∧ zeros (b.drop (oOff + 4 * hq * c)) then
    some ⟨field b 0 4, hs.map fun h => at' h 0, hs.map fun h => at' h 4, hs.map fun h => at' h 8,
      queryOf hq c (b.drop qOff), chunks c (words32 (slice b oOff (4 * hq * c)))⟩
  else none

/-- Statistics and vectors within their ranges (R9, R113, R145). -/
def gradRowOk (r : GradRow) : Bool :=
  decide (r.vis ≤ 2 ^ 28) && r.m.all f32Finite && (r.l.all fun w => f32Finite w && decide (0 < f32Rat w)) && r.drow.all f32Finite &&
  queryOk r.query && r.dO.all fun h => h.all f32Finite

/-- A `GRAD_ATTEND` payload within its ranges, on a layer of an exact group; ring groups are none (R39). -/
def parseGrad (q : Seq) (b : List Byte) : Option GradRun :=
  let l := field b 8 2
  let g := q.group l
  let n := field b 12 2
  let fl := field b 10 2
  let alpha : Word32 := BitVec.ofNat 32 (field b 16 4)
  let f := filterAt b 20 22 24
  if 32 ≤ b.length ∧ l < q.layers.length ∧ g.layout = .exact ∧ g.window = none ∧ fl < 2 ∧ 1 ≤ n ∧ n ≤ 64 ∧ waitOk (field b 14 2) ∧
      inF32 alpha (pow2 (-16)) 1 ∧ field b 23 1 = 0 ∧ field b 28 4 = 0 ∧
      (if bit fl 0 then f.ok = true ∧ (f.exclude = 1 ∨ f.exclude = 2) else zeros (slice b 20 8) = true) ∧
      b.length = 32 + n * gradRowLen g then
    match (chunks (gradRowLen g) (b.drop 32)).mapM (gradRowOf g) with
    | some rows =>
      if rows.all gradRowOk then
        some ⟨q.handle, l, g, alpha, waitOf (field b 14 2), rows, if bit fl 0 then some f else none, none, [], [], [], false, [],
          (q.layer l).length, []⟩
      else none
    | none => none
  else none

/-- The highest visibility position of a pass. -/
def GradRun.top (r : GradRun) : Nat := listMax (r.rows.map (·.vis))

def gradSeven (c : Cmd) (s : State) : Option Status :=
  if c.data.length < 32 then some .badParam
  else match s.seqCheck c.ptn (seqAt0 c.data) with
    | some st => some st
    | none => match s.seq? (seqAt0 c.data) with
      | none => some .unknownSeq
      | some q => match parseGrad q c.data with
        | none => some .badParam
        | some r =>
          if ¬ r.rows.all (fun x => ringOk r.group (q.layer r.layer).length x.vis) then some .badParam
          else match s.bindAll c.ptn none [] r.filter with
            | .error st => some st
            | .ok _ => none

def gradMax (c : Cmd) (s : State) : Nat :=
  match s.seq? (seqAt0 c.data) with
  | some q => let g := q.group (field c.data 8 2); 8 + 4 * field c.data 12 2 * g.qHeads * g.channels
  | none => 0

/-! ## Gradient planes (R147) -/

def zeroGrad (g : LayerGroup) : List (List (List Word32)) :=
  List.replicate 256 (g.planes.map fun p => List.replicate p.2.2 0)

def State.grad? (s : State) (seq : Handle) (l block : Nat) : Option Grad :=
  s.store.grads.find? fun g => g.seq == seq && g.layer == l && g.block == block

/-- Allocates the planes of a block unless they are there, in the stack that R216 gives a page of that block; none where the quota
or every stack is full. -/
def State.allocGrad (ptn : Nat) (g : LayerGroup) (seq : Handle) (l block : Nat) (s : State) : Option State :=
  if (s.grad? seq l block).isSome then some s
  else
    let x : Grad := ⟨seq, l, block, ptn, 0, zeroGrad g⟩
    (s.quotaRoom ptn (gradFrames x)).bind fun s => (s.chooseStack block l (shardOf seq) (gradFrames x)).map fun n =>
      { s with store := { s.store with grads := s.store.grads ++ [{ x with stack := n }] } }

def State.allocGrads (ptn : Nat) (g : LayerGroup) (seq : Handle) (l : Nat) : List Nat → State → Option State
  | [], s => some s
  | b :: bs, s => match s.allocGrad ptn g seq l b with
    | some s => State.allocGrads ptn g seq l bs s
    | none => none

/-- Adds a term to an element: an FP32 addition, rounded to nearest (R148). -/
def State.addGrad (seq : Handle) (l block plane t c : Nat) (w : Word32) (s : State) : State :=
  let f := fun (v : List (List (List Word32))) => updAt t (updAt plane (updAt c fun x => fAdd x w)) v
  { s with store := { s.store with grads := s.store.grads.map fun g =>
      if g.seq = seq ∧ g.layer = l ∧ g.block = block then { g with vals := f g.vals } else g } }

/-! ## The pass (R146) -/

/-- What one position adds for one row and head: dQ by key channel, dV by value channel, dK by key channel. -/
structure GradTerms where
  dq : List Word32
  dv : List Word32
  dk : List Word32

/-- A sum of products in FP32, in the units' order. -/
def dotF (u : Units) (key : Nat) (a b : List Word32) : Word32 :=
  (inOrder u key (List.zipWith (fun x y => fMul x y) a b)).foldl (fun s x => fAdd s x) 0

/-- A positive finite number divided into a value. -/
def vDiv (v : Val) (d : Rat) : Val := match v with | .fin s m => fp32.round .rn ((Val.fin s m).rat / d) | v => v

/-- The arithmetic of R146. Each operation that it writes is one FP32 operation rounded to nearest, as R148 says of the additions;
the exponential is the one that weights use, and sums of products go in an order that the units choose (DESIGN CHOICE, log 11). -/
def gradTerms (u : Units) (place : Nat) (g : LayerGroup) (alpha : Word32) (i : Image) (r : GradRow) (h t : Nat) : GradTerms :=
  let kp := (g.keyPlanes h).headD 0
  let vp := g.valPlane h
  let row := i.rows.getD t []
  let stored := fun (p : Nat) => (List.range g.channels).map fun c => b16To32 (row.getD (g.cpre p + c) 0)
  let k := stored kp
  let q := (r.query.getD h []).map b16To32
  let dO := r.dO.getD h []
  let score := fMul alpha (dotF u (2 * place) q k)
  let p := ofF32 (vDiv (u.fn 2 (f32 (fSub score (r.m.getD h 0)))) (f32Rat (r.l.getD h 0)))
  let ds := fMul p (fSub (dotF u (2 * place + 1) dO (stored vp)) (r.drow.getD h 0))
  let scaled := fMul alpha ds
  ⟨k.map fun x => fMul scaled x, dO.map fun x => fMul p x, q.map fun x => fMul scaled x⟩

/-- Adds dV and dK of a position to the planes of its block. -/
def State.addTerms (seq : Handle) (l : Nat) (g : LayerGroup) (block h t : Nat) (x : GradTerms) (s : State) : State :=
  let kp := (g.keyPlanes h).headD 0
  let vp := g.valPlane h
  let s := (enumFrom 0 x.dv).foldl (fun s y => s.addGrad seq l block vp t y.1 y.2) s
  (enumFrom 0 x.dk).foldl (fun s y => s.addGrad seq l block kp t y.1 y.2) s

/-- The dQ of a row and head over the positions given, in the units' order, and the additions. `adds` says whether a page's
planes take them. -/
def State.gradHead (draw : Nat) (seq : Handle) (l : Nat) (g : LayerGroup) (alpha : Word32) (adds : Handle → Bool) (r : GradRow) (row h : Nat)
    (cells : List (Pinned × Nat)) (s : State) : List Word32 × State :=
  let u := Units.node draw
  (inOrder u (row * 128 + h) cells).foldl (fun acc y =>
    match y.1.img with
    | none => acc
    | some i =>
      let x := gradTerms u ((256 * y.1.block + y.2) * 8192 + row * 128 + h + 8192) g alpha i r h y.2
      (List.zipWith fAdd acc.1 x.dq, if adds y.1.page then acc.2.addTerms seq l g y.1.block h y.2 x else acc.2))
    (List.replicate g.channels 0, s)

/-- Every row and head of a pass over its pages: dQ by row, row-major. -/
def State.gradPass (draw : Nat) (seq : Handle) (l : Nat) (g : LayerGroup) (alpha : Word32) (adds : Handle → Bool) (rows : List GradRow)
    (pins : List (Pinned × List (BitVec 256))) (s : State) : List (List Word32) × State :=
  (enumFrom 0 rows).foldl (fun acc r =>
    let cells := pins.flatMap fun p => (maskBits (p.2.getD r.1 0)).map fun t => (p.1, t)
    let y := (List.range g.qHeads).foldl (fun (a : List Word32 × State) h =>
      let z := a.2.gradHead draw seq l g alpha adds r.2 r.1 h cells
      (a.1 ++ z.1, z.2)) ([], acc.2)
    (acc.1 ++ [y.1], y.2)) ([], s)

/-! ## Admission and start -/

/-- The window pages of a pass with the positions that each row covers (R114, R201). -/
def State.gradPins (s : State) (q : Seq) (r : GradRun) : List (Pinned × List (BitVec 256)) :=
  let f := bothO r.filter r.version
  (((q.layer r.layer).spanning 0 r.top).map fun e =>
    (s.pinOf e 0 [], r.rows.map fun x =>
      let m := spanMask e.block (lowestSeen r.group x.vis) x.vis
      match f with | some (f, v) => (filterBlock v f (pinnedToken r.ids r.length q) e.block m).1 | none => m)).filter fun y =>
    y.2.any (· != 0)

/-- The masks of some pages for one row. -/
def GradRun.masksOf (r : GradRun) (pages : List Handle) (row : Nat) : List (BitVec 256) :=
  pages.map fun h => match r.pins.find? fun p => p.1.page == h with
    | some p => p.2.getD row 0
    | none => 0

/-- The rows of a pass, in sets that one request can carry: all of them, or under a filter those whose masks are the same. -/
def GradRun.rowSets (r : GradRun) (pages : List Handle) : List (List Nat) :=
  let all := List.range r.rows.length
  if r.filter.isNone then [all]
  else ((all.map (r.masksOf pages)).eraseDups).map fun m => all.filter fun i => r.masksOf pages i == m

/-- The request for some rows and pages. -/
def GradRun.request (r : GradRun) (rows : List Nat) (pages : List Handle) : GradReq :=
  ⟨r.seq, r.layer, r.alpha, rows.filterMap fun i => r.rows[i]?,
   if r.filter.isSome then some (r.masksOf pages (rows.headD 0)) else none, pages⟩

/-- The requests to holders (R148). -/
def State.askGrad (reqId : Word64) (r : GradRun) (s : State) : GradRun × State :=
  let away := (r.pins.filter fun p => p.1.img.isNone).map fun p => p.1.page
  (groupPages handleNode away).foldl (fun acc g => (r.rowSets g.2).foldl (fun acc rows =>
    let x := acc.2.postSeq g.1 reqId (.gradReq (r.request rows g.2))
    ({ acc.1 with remotes := acc.1.remotes ++ [⟨g.1, BitVec.ofNat 32 x.1, rows, g.2, false⟩] }, x.2)) acc) (r, s)

/-- Positions and token IDs that a pass needs have landed. -/
def gradLanded (q : Seq) (r : GradRun) : Bool :=
  decide (r.top ≤ (q.layer r.layer).length) && !tokensBad q r.group r.top r.version

/-- A pass whose positions have landed: its planes allocated, its requests sent, its pages checked, those on flash read
(R22, R147, R148). -/
def State.startGrad (ptn : Nat) (reqId : Word64) (q : Seq) (r : GradRun) (s : State) : Option (GradRun × State) :=
  let r := { r with pins := s.gradPins q r }
  let here := r.pins.filter fun p => p.1.img.isSome
  match (if r.duplicate then some s else s.allocGrads ptn r.group r.seq r.layer (here.map fun p => p.1.block)) with
  | none => none
  | some s =>
    let x := s.askGrad reqId r
    let s := here.foldl (fun s p => s.verify p.1.page) x.2
    let need := (here.filter fun p => !p.1.isTail && !s.readable p.1.page).map fun p => p.1.page
    some ({ x.1 with needs := need }, need.foldl (fun s h => s.readFlash h) s)

/-- Runs a pass, or a duplicate of one that has run: dQ again, nothing accumulated (R149). The duplicate reads what stands now:
positions that are gone since, a filter slot that is empty or in transition answer it as they would a first run (DESIGN CHOICE,
log 28). -/
def gradRun (dup : Bool) (c : Cmd) (s : State) : Res :=
  match s.seq? (seqAt0 c.data) with
  | none => .no .unknownSeq
  | some q => match parseGrad q c.data with
    | none => .no .badParam
    | some r => match s.bindAll c.ptn none [] r.filter with
      | .error st => .no st
      | .ok b =>
        let ids := match b.2 with | some v => filterBlocks q r.group r.top v | none => []
        let r := { r with version := b.2, duplicate := dup, ids := ids }
        let s := s.verifyTokens q r.group r.top b.2
        let q := (s.seq? q.handle).getD q
        let len := (q.layer r.layer).length
        if len < r.top ∧ (q.layer r.layer).loss.isSome then .done .lostRecompute (lostBytes (lostEntry q r.layer).toList) s
        else if len < r.top ∧ r.timeoutUs = 0 then .done .notYet (notYetBytes q r.layer) s
        else
          let s := s.countPtn c.ptn 1 10 r.rows.length
          if ¬ gradLanded q r then
            .wait (.gradWait r) (((q.layer r.layer).spanning 0 r.top).map (·.page)) s
          else match s.startGrad c.ptn c.pkt.reqId q r with
            | none => .no .noSpace
            | some x => .wait (.grad x.1) (x.1.pins.map fun p => p.1.page) x.2

def gradAttendDef : OpDef := ⟨namesWrite, noSix, gradSeven, gradMax, gradRun false, gradRun true⟩

/-- The pass's engine step commits: the additions take effect as one, the reply carries the sums of every node (R146,
R437). -/
def State.commitGrad (i : Inflight) (r : GradRun) (s : State) : State :=
  let draw := s.freeCtr
  let x := s.drawn.gradPass draw r.seq r.layer r.group r.alpha (fun _ => !r.duplicate) r.rows (r.pins.filter fun p => p.1.img.isSome)
  let sums := (enumFrom 0 x.1).map fun y => (r.dq.filter fun d => d.1 == y.1).foldl (fun a d => List.zipWith fAdd a d.2) y.2
  let payload := leBytes 2 r.rows.length ++ leBytes 2 r.group.qHeads ++ leBytes 2 r.group.channels ++ zeroBytes 2 ++
    sums.flatMap fun l => l.flatMap fun w => leBytes 4 w.toNat
  x.2.complete i (if r.duplicate then .okDuplicate else .ok) none 0 payload

/-! ## Between nodes (R148) -/

/-- What a holder adds and answers: rows that it has already added to a block for this REQ_ID are not added again. -/
def State.holderGrad (h : MsgHdr) (b : GradReq) (ps : List Page) (s : State) : State :=
  let hq := (b.rows.headD ⟨0, [], [], [], [], []⟩).m.length
  let g := s.pageGroup b.seq b.layer hq (ps.headD (Page.fresh 0 0 ⟨0, 0, 0⟩ (emptyTail groupZero 0 0 0) 0 0))
  let ptn := s.seqPtn b.seq
  let pins := (enumFrom 0 ps).map fun x =>
    ((⟨x.2.handle, x.2.name.block, some x.2.img, [], 0, [], false, x.2.img.requant⟩ : Pinned), b.rows.map fun r =>
      let m := spanMask x.2.name.block (lowestSeen g r.vis) r.vis
      match b.masks with | some l => m &&& l.getD x.1 0 | none => m)
  match s.allocGrads ptn g b.seq b.layer (ps.map (·.name.block)) with
  | none => s.postFor h.src h.reqId (.partialDecline h.seq 4)
  | some s =>
    let note := fun (p : Page) => (⟨ptn, h.reqId, b.seq, b.layer, p.name.block, b.rows⟩ : GradSeen)
    let old := s.store.gradSeen
    let fresh := fun k => match ps.find? fun p => p.handle == k with | some p => !old.contains (note p) | none => false
    let x := s.drawn.gradPass s.freeCtr b.seq b.layer g b.alpha fresh b.rows pins
    let seen := (ps.map note).filter fun n => !old.contains n
    ({ x.2 with store := { x.2.store with gradSeen := old ++ seen } } : State).postFor h.src h.reqId (.gradReply h.seq x.1.flatten)

/-- Runs a held gradient request once its pages have been read; its pins go. -/
def State.serveGrad (x : HeldGrad) (s : State) : State :=
  if x.needs ≠ [] then s
  else
    let s := ({ s with cmds := { s.cmds with grads := delAll x s.cmds.grads } } : State)
    let ps := x.req.pages.filterMap s.page?
    (if ps.length < x.req.pages.length ∨ ps.any (·.recovering) = true then s.postFor x.hdr.src x.hdr.reqId (.partialDecline x.hdr.seq 2)
     else s.holderGrad x.hdr x.req ps).unpin x.req.pages

def State.serveGrads (s : State) : State := s.cmds.grads.foldl (fun s x => s.serveGrad x) s

/-- A gradient request at a holder: its pages are pinned and checked, those on flash read (R16, R62, R148). -/
def State.gotGradReq (h : MsgHdr) (b : GradReq) (s : State) : State :=
  let s := b.pages.foldl (fun s p => s.verify p) (s.install b.seq)
  let held := b.pages.all fun p => match s.page? p with | some x => x.refs != 0 && !x.recovering | none => false
  if b.pages = [] ∨ held = false then s.postFor h.src h.reqId (.partialDecline h.seq 2)
  else if h.epoch.toNat < s.epoch ∧ s.prevEpoch ≠ some h.epoch.toNat then s.postFor h.src h.reqId (.partialDecline h.seq 3)
  else
    let need := b.pages.filter fun p => match s.page? p with | some x => x.sealed? && !s.readable p | none => false
    let s := need.foldl (fun s p => s.readFlash p) (s.pin b.pages)
    let x : HeldGrad := ⟨h, b, need⟩
    ({ s with cmds := { s.cmds with grads := s.cmds.grads ++ [x] } } : State).serveGrad x

/-- The pass that a gradient request belongs to. -/
def State.gradOf (s : State) (src : NodeId) (reqSeq : Word32) : Option (Inflight × GradRun × GradRemote) :=
  s.cmds.list.findSome? fun i => match i.wait with
    | .grad r => (r.remotes.find? fun x => x.node == src && x.reqSeq == reqSeq).map fun x => (i, r, x)
    | _ => none

def State.setGrad (id : Nat) (r : GradRun) (s : State) : State := s.updInflight id fun j => { j with wait := .grad r }

def State.gotGradReply (src : NodeId) (reqSeq : Word32) (dq : List Word32) (s : State) : State :=
  match s.gradOf src reqSeq with
  | none => s
  | some (i, r, x) =>
    let parts := chunks (r.group.qHeads * r.group.channels) dq
    (s.setGrad i.id { r with remotes := delAll x r.remotes, dq := r.dq ++ List.zip x.rows parts }).dispatch

/-- A gradient request that is declined or not answered is sent again once to its holder; then the command ends: with `NO_SPACE`
where the holder declined with REASON 4, which is how it says that it has no room for the planes, else with `INTERNAL` (log
28). -/
def State.gradFailed (i : Inflight) (r : GradRun) (x : GradRemote) (reason : Nat) (s : State) : State :=
  if x.resent then s.complete i (if reason = 4 then .noSpace else .internal) none 0 []
  else
    let y := s.postSeq x.node i.reqId (.gradReq (r.request x.rows x.pages))
    y.2.setGrad i.id { r with remotes := delAll x r.remotes ++ [{ x with reqSeq := BitVec.ofNat 32 y.1, resent := true }] }

/-! ## Reading and clearing planes (R315) -/

/-- The fields that both commands share. -/
def gradNamed (c : Cmd) (s : State) : Option Status :=
  let b := c.data
  if b.length ≠ 20 ∨ field b 10 2 ≠ 0 then some .badParam
  else match s.nsCheck c.ptn (nsOf (seqAt0 b)) with
    | some st => some st
    | none =>
      match s.seq? (seqAt0 b) with
      | some q => if field b 8 2 < q.layers.length then none else some .badParam
      | none => if s.store.grads.any fun g => g.seq == seqAt0 b then none else some .unknownSeq

def gradReadSeven (c : Cmd) (s : State) : Option Status :=
  if 1 ≤ field c.data 16 4 ∧ field c.data 16 4 ≤ 4096 then gradNamed c s else some .badParam

/-- A plane's bytes, tokens by channels (R147). -/
def gradBytes (g : Grad) : List Byte :=
  let planes := (g.vals.headD []).length
  (List.range planes).flatMap fun p => g.vals.flatMap fun t => (t.getD p []).flatMap fun w => leBytes 4 w.toNat

def State.gradBlocks (s : State) (c : Cmd) : List (Nat × Option Grad) :=
  (List.range (field c.data 16 4)).map fun i =>
    let b := field c.data 12 4 + i
    (b, s.grad? (seqAt0 c.data) (field c.data 8 2) b)

/-- Every block named, allocated (R273): the sequence's geometry, or that of the planes held where it is gone. -/
def gradReadMax (c : Cmd) (s : State) : Nat :=
  let h := seqAt0 c.data
  let l := field c.data 8 2
  let ctot := match s.seq? h with
    | some q => (q.group l).ctot
    | none => (s.store.grads.filter fun g => g.seq == h && g.layer == l).foldl
        (fun (m : Nat) g => max m (sumNat ((g.vals.headD []).map (·.length)))) 0
  field c.data 16 4 * (16 + 1024 * ctot)

def gradReadRun (c : Cmd) (s : State) : Res :=
  .ok ((s.gradBlocks c).flatMap fun x =>
    leBytes 4 x.1 ++ leBytes 4 (b2n x.2.isSome) ++ zeroBytes 8 ++ match x.2 with | some g => gradBytes g | none => []) s

def gradReadDef : OpDef := ⟨fun _ => .nothing, noSix, gradReadSeven, gradReadMax, gradReadRun, emptyDup⟩

def gradClearRun (c : Cmd) (s : State) : Res :=
  let b := c.data
  let n := field b 16 4
  let f := field b 12 4
  .ok [] { s with store := { s.store with grads := s.store.grads.filter fun g =>
    !(g.seq == seqAt0 b && g.layer == field b 8 2 && (n == 0 || decide (f ≤ g.block ∧ g.block < f + n))) } }

def gradClearDef : OpDef := ⟨fun _ => .nothing, noSix, gradNamed, noReply, gradClearRun, emptyDup⟩

/-! ## Waits and commands -/

/-- The positions of an attend, of a gradient pass or of a partial request held at a tandem have landed (R19, R72, R75). -/
def State.landedEvent (id : Nat) (s : State) : State :=
  match s.inflight? id with
  | some i => match i.wait with
    | .gradWait r => match s.seq? r.seq with
      | some q =>
        if ¬ gradLanded q r then s
        else match s.startGrad i.ptn i.reqId q r with
          | none => s.complete i .noSpace none 0 []
          | some x =>
            let more := (x.1.pins.map fun p => p.1.page).filter fun h => !i.pins.contains h
            (((x.2.setGrad id x.1).pin more).updInflight id fun j => { j with pins := j.pins ++ more }).dispatch
      | none => s
    | _ => s.positionsLanded id
  | none => match s.cmds.parts.find? fun x => x.id == id with
    | some x => s.servePart x
    | none => s

/-- A wait for positions is over: an attend's, a gradient pass's, or a partial request's at a tandem (R72, R75). -/
def State.waitExpired (id : Nat) (s : State) : State :=
  match s.inflight? id with
  | some i => match i.wait with
    | .gradWait r => match s.seq? r.seq with
      | some q => if (q.layer r.layer).length < r.top then s.complete i .notYet none 0 (notYetBytes q r.layer) else s
      | none => s
    | _ => s.attendExpired id
  | none => s.partExpired id

/-- The gradient passes that wait and whose positions and token IDs have landed start. -/
def State.startGrads (s : State) : State :=
  s.cmds.list.foldl (fun s i => match i.wait with | .gradWait _ => s.landedEvent i.id | _ => s) s

def runGradAttend (p : Packet) (s : State) : State := (s.arriveAll .gradAttend gradAttendDef p).dispatch
def runGradRead (p : Packet) (s : State) : State := s.arriveAll .gradRead gradReadDef p
def runGradClear (p : Packet) (s : State) : State := s.arriveAll .gradClear gradClearDef p

def execGradReq (h : MsgHdr) (b : GradReq) (s : State) : Host.Outcome State Fault Refusal :=
  .next (s.serve h fun s => s.gotGradReq h b)
def execGradReply (h : MsgHdr) (reqSeq : Word32) (dq : List Word32) (s : State) : Host.Outcome State Fault Refusal :=
  .next (s.unordered h fun s => s.gotGradReply h.src reqSeq dq)
def execAttendPositionsLanded (id : Nat) (s : State) : Host.Outcome State Fault Refusal := .next (s.landedEvent id)
def execAttendWaitExpiry (id : Nat) (s : State) : Host.Outcome State Fault Refusal := .next (s.waitExpired id)

end Sys2Proof.Machine
end

