-- ==== Sys2Proof/Machine/Slots.lean ====
section
/-! DEFINITION. Pattern slots, shaping-program slots and recall models: `PAT_*`, `PROG_*` and `MODEL_*`
(07_token_patterns.md R192 to R208; 05_score_shaping.md R161 to R167; 06_memory_recall.md R169 to R173;
11_command_reference.md R318 to R320, R529). -/

namespace Sys2Proof.Machine

/-! ## Pattern slots -/

def PatSlot.empty (n : Nat) : PatSlot := ⟨n, noPtn, none, [], [], 0⟩
def State.patSlot (s : State) (n : Nat) : PatSlot := (s.patSlot? n).getD (PatSlot.empty n)

/-- Puts a slot; a slot that is empty and holds nothing is not listed. -/
def State.setPat (p : PatSlot) (s : State) : State :=
  let rest := s.slots.pats.filter fun x => x.num != p.num
  let p := { p with old := s.oldPats p }
  { s with slots := { s.slots with pats := if p = PatSlot.empty p.num then rest else rest ++ [p] } }

def patSlotMax : Nat := 1024
/-- Bytes that a staging area may hold (R318). -/
def patStageMax : Nat := 37748736

/-- SLOT and its owner. -/
def patOwned (c : Cmd) (s : State) : Option Status :=
  let n := field c.data 0 2
  if patSlotMax ≤ n then some .badParam
  else let o := (s.patSlot n).owner; if o = noPtn ∨ o = c.ptn then none else some .denied

/-- A payload of SLOT and 6 reserved bytes. -/
def patSeven (c : Cmd) (s : State) : Option Status :=
  if c.data.length ≠ 8 ∨ ¬ zeros (c.data.drop 2) then some .badParam else patOwned c s

def patInvalidateRun (c : Cmd) (s : State) : Res :=
  let p := s.patSlot (field c.data 0 2)
  .ok [] (s.setPat { p with owner := c.ptn, current := none, old := p.old ++ p.current.toList, staging := [], stagingLen := 0 })

def patInvalidateDef : OpDef := ⟨fun _ => .nothing, noSix, patSeven, noReply, patInvalidateRun, emptyDup⟩

def patWriteSeven (c : Cmd) (s : State) : Option Status :=
  let b := c.data
  let n := field b 8 4
  if b.length < 16 ∨ field b 2 2 ≠ 0 ∨ field b 12 4 ≠ 0 ∨ n < 1 ∨ 65536 < n ∨ b.length ≠ 16 + n ∨ patStageMax < field b 4 4 + n then
    some .badParam
  else patOwned c s

def patWriteRun (c : Cmd) (s : State) : Res :=
  let b := c.data
  let p := s.patSlot (field b 0 2)
  if p.owner = noPtn ∨ p.current.isSome then .no .busyRetry
  else
    let len := max p.stagingLen (field b 4 4 + field b 8 4)
    match s.quotaRoom c.ptn (stagingFrames len - stagingFrames p.stagingLen) with
    | none => .no .noSpace
    | some s => .ok [] (s.setPat { p with staging := Mem.writeList p.staging (field b 4 4) (b.drop 16), stagingLen := len })

def patWriteDef : OpDef := ⟨fun _ => .nothing, noSix, patWriteSeven, noReply, patWriteRun, emptyDup⟩

def patValidateSeven (c : Cmd) (s : State) : Option Status :=
  let b := c.data
  if b.length ≠ 40 ∨ field b 2 2 ≠ 0 ∨ patStageMax < field b 4 4 then some .badParam else patOwned c s

/-- A slot holds at most two versions: a validation that would make it hold a third, while replaced versions are still bound, waits
(R205; log 61). -/
def patValidateRun (c : Cmd) (s : State) : Res :=
  let b := c.data
  let p := s.patSlot (field b 0 2)
  let want : Digest := BitVec.ofNat 256 (field b 8 32)
  match p.current with
  | some v => if v.digest = want then .ok [] s else .no .conflict
  | none =>
    let img := Mem.readList p.staging 0 (field b 4 4)
    if 2 ≤ (s.oldPats p).length then .no .busyRetry
    else if p.owner = noPtn ∨ digest img ≠ want then .no .conflict
    else match parsePattern img with
      | none => .no .badParam
      | some v => match s.placeBanks v with
        | none => .no .noSpace
        | some v =>
          let v := { v with serial := s.slots.nextVer }
          .ok [] (({ s with slots := { s.slots with nextVer := s.slots.nextVer + 1 } } : State).setPat { p with current := some v })

def patValidateDef : OpDef := ⟨fun _ => .nothing, noSix, patValidateSeven, noReply, patValidateRun, emptyDup⟩

def patUnloadRun (c : Cmd) (s : State) : Res :=
  let p := s.patSlot (field c.data 0 2)
  .ok [] (s.setPat { PatSlot.empty p.num with old := p.old ++ p.current.toList })

def patUnloadDef : OpDef := ⟨fun _ => .nothing, noSix, patSeven, noReply, patUnloadRun, emptyDup⟩

def digestBytes (d : Digest) : List Byte := leBytes 32 d.toNat

def patDescribeRun (c : Cmd) (s : State) : Res :=
  let p := s.patSlot (field c.data 0 2)
  let st := if p.owner = noPtn then 0 else if p.current.isSome then 2 else 1
  .ok (match p.current with
    | none => leBytes 1 st ++ leBytes 1 p.owner ++ zeroBytes 174
    | some v => leBytes 1 st ++ leBytes 1 p.owner ++ leBytes 1 v.npat ++ leBytes 1 v.lookback ++ leBytes 4 v.nstates ++
        leBytes 1 v.firstBank ++ leBytes 1 v.nbanks ++ zeroBytes 6 ++ digestBytes v.digest ++
        fitBytes 128 (v.patid.flatMap fun w => leBytes 4 w.toNat)) s

def patDescribeDef : OpDef := ⟨fun _ => .nothing, noSix, patSeven, fun _ _ => 176, patDescribeRun, emptyDup⟩

/-! ## Program slots -/

def ProgSlot.empty (n : Nat) : ProgSlot := ⟨n, noPtn, none, []⟩
def State.progSlot (s : State) (n : Nat) : ProgSlot := (s.progSlot? n).getD (ProgSlot.empty n)

/-- Puts a slot; versions that no command holds are freed, and a slot that holds none is free (R163, R164). -/
def State.setProg (p : ProgSlot) (s : State) : State :=
  let rest := s.slots.progs.filter fun x => x.num != p.num
  let p := { p with old := s.oldProgs p }
  { s with slots := { s.slots with progs := if p.current.isNone ∧ p.old = [] then rest else rest ++ [p] } }

/-- A slot with a version belongs to the partition that loaded it. -/
def progOwned (c : Cmd) (s : State) : Option Status :=
  let p := s.progSlot (field c.data 0 1)
  if p.current.isSome ∧ p.owner ≠ c.ptn then some .denied else none

def progSeven (c : Cmd) (s : State) : Option Status :=
  if c.data.length ≠ 8 ∨ ¬ zeros (c.data.drop 1) then some .badParam else progOwned c s

def progLoadSeven (c : Cmd) (s : State) : Option Status :=
  let b := c.data
  if b.length < 8 ∨ ¬ zeros (slice b 1 7) ∨ (parseProgram (b.drop 8)).isNone then some .badParam else progOwned c s

def progLoadRun (c : Cmd) (s : State) : Res :=
  let img := c.data.drop 8
  let p := s.progSlot (field c.data 0 1)
  let old := s.oldProgs p
  let bound := p.current.toList.filter (s.progBound p.num)
  match parseProgram img with
  | none => .no .badParam
  | some ws =>
    if p.current.isNone ∧ old ≠ [] ∧ p.owner ≠ c.ptn then .no .busyRetry
    else if 2 ≤ (old ++ bound).length then .no .busyRetry
    else
      let v : ProgVer := ⟨ws, digest img, s.slots.nextVer⟩
      .ok (digestBytes v.digest) (({ s with slots := { s.slots with nextVer := s.slots.nextVer + 1 } } : State).setProg ⟨p.num, c.ptn, some v, old ++ bound⟩)

/-- The digest of the slot's version at the time of the duplicate (R291). -/
def progLoadDup (c : Cmd) (s : State) : Res :=
  .done .okDuplicate (match (s.progSlot (field c.data 0 1)).current with | some v => digestBytes v.digest | none => []) s

def progLoadDef : OpDef := ⟨fun _ => .nothing, noSix, progLoadSeven, fun _ _ => 32, progLoadRun, progLoadDup⟩

def progUnloadRun (c : Cmd) (s : State) : Res :=
  let p := s.progSlot (field c.data 0 1)
  .ok [] (if p.current.isNone then s else s.setProg { p with current := none, old := p.old ++ p.current.toList })

def progUnloadDef : OpDef := ⟨fun _ => .nothing, noSix, progSeven, noReply, progUnloadRun, emptyDup⟩

def progDescribeRun (c : Cmd) (s : State) : Res :=
  let p := s.progSlot (field c.data 0 1)
  let old := s.oldProgs p
  let bound := (p.current.toList.filter (s.progBound p.num)).length + old.length
  .ok (match p.current with
    | none => leBytes 1 0 ++ leBytes 1 noPtn ++ leBytes 1 0 ++ leBytes 1 bound ++ zeroBytes 36
    | some v => leBytes 1 1 ++ leBytes 1 p.owner ++ leBytes 1 v.words.length ++ leBytes 1 bound ++ zeroBytes 4 ++ digestBytes v.digest) s

def progDescribeDef : OpDef := ⟨fun _ => .nothing, noSix, progSeven, fun _ _ => 40, progDescribeRun, emptyDup⟩

/-! ## Bound envelopes (R429) -/

def labelBind : List Byte := ascii [0x50, 0x54, 0x42, 0x49, 0x4E, 0x44, 0x30, 0x31]
def magicOk (b : List Byte) (m : Nat) : Bool := field b 0 4 == m && field b 4 1 == 1

/-- The unwrapped image: none where the envelope is malformed or is not for this node. -/
def unwrapBound (kind : Nat) (b : List Byte) : Option (List Byte) :=
  let n := field b 6 2
  let len := field b 8 4
  let body := 32 + 1648 * n
  if ¬ magicOk b 0x50424E31 ∨ field b 5 1 ≠ kind ∨ n < 1 ∨ 4096 < n ∨ ¬ zeros (slice b 24 8) ∨ b.length ≠ body + len + 16 then none
  else
    match (chunks 1648 (slice b 32 (1648 * n))).find? fun r => r.take 32 == Config.identity with
    | none => none
    | some r =>
      let ss := Config.bindOpen (slice r 32 1568)
      let w := leNat (shake256 32 (ss ++ labelBind ++ r.take 32))
      match Config.gcmOpen w (zeroBytes 12) (r.take 32) (slice r 1600 48) with
      | none => none
      | some cek => (Config.gcmOpen (leNat (fitBytes 32 cek)) (slice b 12 12) (b.take 32) (b.drop body)).map (fitBytes len)

/-! ## Model images (R170 to R172) -/

def bf16s (b : List Byte) : List Word16 := (leWords 2 b).map fun n => BitVec.ofNat 16 n

/-- A matrix by its descriptor: its extent, and CIN, W and b. -/
def parseMatrix (b d : List Byte) : Option ((Nat × Nat) × (Nat × List (List Word16) × List Word32)) :=
  let off := field d 0 4
  let cin := field d 4 2
  let len := field d 8 4
  let body := slice b off len
  let w := bf16s (body.take (512 * cin))
  let bias := words32 (body.drop (512 * cin))
  if 32 ≤ cin ∧ cin ≤ 16384 ∧ cin % 32 = 0 ∧ field d 6 2 = 0 ∧ field d 12 4 = 0 ∧ len = 512 * cin + 1024 ∧ off % 64 = 0 ∧
      off + len ≤ b.length ∧ w.all b16Finite ∧ bias.all f32Finite then
    some ((off, len), (cin, chunks cin w, bias))
  else none

/-- Extents in rising order do not overlap and begin past `at`. -/
def apart (from' : Nat) : List (Nat × Nat) → Bool
  | [] => true
  | x :: l => decide (from' ≤ x.1) && apart (x.1 + x.2) l

/-- A weight set: the layer map and the matrices (R170). A body that lies over the header or the descriptors is refused too (DESIGN
CHOICE, log 64). -/
def parseWeights (b : List Byte) : Option (List Nat × List (Nat × List (List Word16) × List Word32)) :=
  let m := field b 5 1
  if ¬ magicOk b 0x53574531 ∨ m < 1 ∨ 16 < m ∨ field b 6 2 ≠ 0 ∨ ¬ zeros (slice b 264 8) ∨ b.length < 272 + 16 * m then none
  else
    let lm := (slice b 8 256).map (·.toNat)
    match (chunks 16 (slice b 272 (16 * m))).mapM (parseMatrix b) with
    | none => none
    | some ms =>
      let ext := sortBy (fun (x y : Nat × Nat) => decide (x.1 < y.1)) (ms.map (·.1))
      if lm.all (fun k => decide (k < m) || k == 0xFF) ∧ apart (272 + 16 * m) ext then some (lm, ms.map (·.2)) else none

/-- A codebook: coarse centroids and sub-quantisers (R171). -/
def parseCodebook (b : List Byte) : Option (List (List Word16) × List (List (List Word32))) :=
  let n := field b 8 4
  if ¬ magicOk b 0x53434231 ∨ ¬ zeros (slice b 5 3) ∨ n < 1 ∨ 65536 < n ∨ field b 12 4 ≠ 0 ∨ b.length ≠ 16 + 512 * n + 262144 then none
  else
    let c := bf16s (slice b 16 (512 * n))
    let p := words32 (b.drop (16 + 512 * n))
    if c.all b16Finite ∧ p.all f32Finite then some (chunks 256 c, (chunks 2048 p).map (chunks 8)) else none

/-! ## Models (R169, R320) -/

def nlistMax : Nat := 1048576

/-- WLEN, CLEN and the places of the images. -/
def modelShape (b : List Byte) : Bool :=
  let w := field b 4 4
  let c := field b 8 4
  decide (16 ≤ b.length) && field b 3 1 == 0 && field b 12 4 == 0 && decide (b.length = up64 (16 + w) + c) &&
  zeros (slice b (16 + w) (up64 (16 + w) - (16 + w)))

def modelSeven (c : Cmd) (s : State) : Option Status :=
  let b := c.data
  if ¬ modelShape b then some .badParam
  else match s.nsNamed c (field b 0 2) with
    | some st => some st
    | none => match s.ns? (field b 0 2) with
      | some x => if x.recallOn then none else some .badParam
      | none => some .unknownSeq

/-- A running recall uses a model: one of this node's commands, or one of another node whose scans this node holds (R169). -/
def State.modelBound (s : State) (ns model : Nat) : Bool :=
  (s.cmds.list.any fun i => match i.wait with | .recall r => r.req.ns == ns && r.req.model == model | _ => false) ||
  s.rcl.segments.any fun g => g.name.ns == ns && g.name.model == model && !g.removed && (g.window != [] || g.passes != [])

/-- A model is removed: its segments and the codes of its pages are its no more (R169, R178). -/
def State.removeModel (ns model : Nat) (s : State) : State :=
  let mine := fun (x : Option (Nat × IdxEntry)) => x.filter fun y => !(y.2.model == model && nsOf y.2.seq == ns)
  let pages := s.store.pages.map fun p => { p with index := mine p.index }
  let refs := s.store.remoteRefs.map fun p => { p with index := mine p.index }
  { s with store := { s.store with pages := pages, remoteRefs := refs },
           rcl := { s.rcl with segments := updWhere (fun g => g.name.ns == ns && g.name.model == model) (fun g => { g with removed := true }) s.rcl.segments } }

def modelInstallRun (c : Cmd) (s : State) : Res :=
  let b := c.data
  let n := field b 0 2
  let num := field b 2 1
  let w := field b 4 4
  if s.flash.state = .readOnly then .no .mediaExhausted
  else match s.ns? n, unwrapBound 1 (slice b 16 w), unwrapBound 2 (slice b (up64 (16 + w)) (field b 8 4)) with
  | some x, some wi, some ci =>
    match parseWeights wi, parseCodebook ci with
    | some (lm, ms), some (co, pq) =>
      let m : Model := ⟨num, digest wi, digest ci, lm, ms, co, pq⟩
      let others := s.store.nss.flatMap fun y => y.current.toList ++ (if y.num = n then [] else y.retained.toList)
      if (x.current.toList ++ x.retained.toList).any fun y => y.num == num then .no .badParam
      else if nlistMax < co.length + sumNat (others.map fun y => y.coarse.length) then .no .noSpace
      else if (match x.retained with | some y => s.modelBound n y.num | none => false) then .no .busyRetry
      else
        let s := match x.retained with | some y => s.removeModel n y.num | none => s
        .ok (digestBytes m.wDigest ++ digestBytes m.cDigest) (({ s with store := { s.store with
          nss := s.store.nss.map fun y => if y.num = n then { y with current := some m, retained := y.current } else y } } : State).delta [.ns n])
    | _, _ => .no .badParam
  | _, _, _ => .no .denied

/-- The digests of the model that the first run installed (R291). -/
def modelInstallDup (c : Cmd) (s : State) : Res :=
  let models := match s.ns? (field c.data 0 2) with | some x => x.current.toList ++ x.retained.toList | none => []
  .done .okDuplicate (match models.find? fun m => m.num == field c.data 2 1 with
    | some m => digestBytes m.wDigest ++ digestBytes m.cDigest
    | none => []) s

def modelInstallDef : OpDef := ⟨fun _ => .nothing, noSix, modelSeven, fun _ _ => 64, modelInstallRun, modelInstallDup⟩

def modelDescribeSeven (c : Cmd) (s : State) : Option Status :=
  if c.data.length ≠ 8 ∨ ¬ zeros (c.data.drop 2) then some .badParam else s.nsNamed c (field c.data 0 2)

/-- Index entries of a model on this node whose pages are live. -/
def State.liveEntries (s : State) (ns model : Nat) : Nat :=
  sumNat ((s.rcl.segments.filter fun g => g.name.ns == ns && g.name.model == model && !g.removed).map fun g => (g.entries.filter fun e => s.live e.page).length)

def State.modelRecord (s : State) (ns role : Nat) (m : Option Model) : List Byte :=
  match m with
  | none => zeroBytes 80
  | some m => leBytes 1 m.num ++ leBytes 1 role ++ zeroBytes 2 ++ leBytes 4 m.coarse.length ++ leBytes 8 (s.liveEntries ns m.num) ++
      digestBytes m.wDigest ++ digestBytes m.cDigest

def modelDescribeRun (c : Cmd) (s : State) : Res :=
  match s.ns? (field c.data 0 2) with
  | none => .no .unknownSeq
  | some x => .ok (s.modelRecord x.num 1 x.current ++ s.modelRecord x.num 2 x.retained) s

def modelDescribeDef : OpDef := ⟨fun _ => .nothing, noSix, modelDescribeSeven, fun _ _ => 160, modelDescribeRun, emptyDup⟩

/-! ## Commands -/

def runPatInvalidate (p : Packet) (s : State) : State := s.arriveAll .patInvalidate patInvalidateDef p
def runPatWrite (p : Packet) (s : State) : State := s.arriveAll .patWrite patWriteDef p
def runPatValidate (p : Packet) (s : State) : State := s.arriveAll .patValidate patValidateDef p
def runPatUnload (p : Packet) (s : State) : State := s.arriveAll .patUnload patUnloadDef p
def runPatDescribe (p : Packet) (s : State) : State := s.arriveAll .patDescribe patDescribeDef p
def runProgLoad (p : Packet) (s : State) : State := s.arriveAll .progLoad progLoadDef p
def runProgUnload (p : Packet) (s : State) : State := s.arriveAll .progUnload progUnloadDef p
def runProgDescribe (p : Packet) (s : State) : State := s.arriveAll .progDescribe progDescribeDef p
def runModelInstall (p : Packet) (s : State) : State := s.arriveAll .modelInstall modelInstallDef p
def runModelDescribe (p : Packet) (s : State) : State := s.arriveAll .modelDescribe modelDescribeDef p


end Sys2Proof.Machine
end

