-- ==== Sys2Proof/Machine/Recall.lean ====
section
/-! DEFINITION. Memory recall (06_memory_recall.md R169 to R191; 11_command_reference.md R316, R317): the index, list scans on
a holding node, and `RECALL` and `RECALL_ATTEND` on the coordinating node. -/

namespace Sys2Proof.Machine

/-! ## Distances (R174, R182, R184) -/

/-- D of a code: the tables' entries summed in order. -/
def distOf (m : Model) (q : List Word32) (list : Nat) (code : List Byte) : Word32 :=
  let rho := List.zipWith fSub q (centroid m list)
  (List.range 32).foldl (fun acc j =>
    fAdd acc (dist ((rho.drop (8 * j)).take 8) ((m.pq.getD j []).getD (code.getD j 0).toNat []))) fZero

/-- The order of candidates: D, then the lower PAGE value. -/
def candBefore (a b : Cand) : Bool := fLt a.d b.d || (!fLt b.d a.d && decide (a.page.toNat < b.page.toNat))

/-- The `n` lists nearest to a query, ties to the lower number (R181). -/
def nearest (m : Model) (q : List Word32) (n : Nat) : List Nat :=
  let ds := (enumFrom 0 m.coarse).map fun x => (x.1, dist q (x.2.map b16To32))
  ((sortBy (fun (a b : Nat × Word32) => fLt a.2 b.2 || (!fLt b.2 a.2 && decide (a.1 < b.1))) ds).take n).map (·.1)

/-! ## A scan of one list (R184) -/

/-- The page of an entry is live: on this node, or on another that this node's sequences refer to (R67). -/
def State.entryLive (s : State) (h : Handle) : Bool := if s.isOwn h then s.live h else s.remoteRefs h != 0

/-- The filters that a list scan applies; TMASK = 0 is no tag filter (R180, R184). -/
def ScanReq.admits (q : Sys2Proof.ScanReq) (e : IdxEntry) : Bool :=
  (q.tmask == 0 || e.tag &&& q.tmask == q.tvalue) && (q.emax == 0 || decide (q.emin.toNat ≤ e.epoch.toNat ∧ e.epoch.toNat ≤ q.emax.toNat)) &&
  q.layers.getLsbD e.layer

def IdxEntry.cand (e : IdxEntry) (d : Word32) : Cand := ⟨e.page, e.seq, e.block, e.layer, e.model, e.inherit, e.epoch, e.code, d⟩

/-- One query's result of one list. The entry budget counts every entry read, and TRUNCATED says that it left entries out: a list
of exactly that many is not truncated (DESIGN CHOICE, log 59). -/
def State.scanList (s : State) (m : Model) (q : ScanReq) (list : Nat) (entries : List IdxEntry) : ListResult :=
  let read := if q.budget = 0 then entries else entries.take q.budget
  let ours := read.filter fun e => e.model == q.model
  let live := ours.filter fun e => s.entryLive e.page
  let cands := (live.filter (ScanReq.admits q)).map fun e => e.cand (distOf m q.q list e.code)
  ⟨list, q.budget != 0 && decide (q.budget < entries.length), read.length, ours.length - live.length,
   (sortBy candBefore cands).take q.k⟩

/-! ## The coordinating node: state -/

def State.setRecall (id : Nat) (r : RecallRun) (s : State) : State := s.updInflight id fun i => { i with wait := .recall r }

def State.recallOf (s : State) (id : Nat) : Option (Inflight × RecallRun) :=
  (s.inflight? id).bind fun i => match i.wait with | .recall r => some (i, r) | _ => none

/-- The recall of a REQ_ID that a condition picks out. -/
def State.recallBy (s : State) (reqId : Word64) (ok : RecallRun → Bool) : Option (Inflight × RecallRun) :=
  s.cmds.list.findSome? fun i => match i.wait with
    | .recall r => if i.reqId = reqId ∧ ok r then some (i, r) else none
    | _ => none

/-! ## The reply (R186, R187, R191) -/

/-- The first k candidates that remain, in merge order. -/
def RecallRun.results (r : RecallRun) : List Cand := (sortBy candBefore r.passed).take r.kk

def RecallRun.reason (r : RecallRun) : Nat :=
  if r.kk ≤ r.results.length then 0
  else if r.missing ≠ 0 then 3
  else if r.deadline || r.got.any (·.truncated) then 2
  else 1

def RecallRun.status (r : RecallRun) : Status := if r.reason = 0 then .ok else .okShort

def Cand.bytes (checked attended : Bool) (c : Sys2Proof.Cand) : List Byte :=
  leBytes 8 c.page.toNat ++ leBytes 8 c.seq.toNat ++ leBytes 4 c.block ++ leBytes 1 c.layer ++
  leBytes 1 (b2n c.inherit + 2 * b2n checked + 4 * b2n attended) ++ zeroBytes 2 ++ leBytes 4 c.d.toNat ++ leBytes 4 c.epoch.toNat

def RecallRun.bytes (r : RecallRun) (attended : List Handle) : List Byte :=
  let l := r.results
  leBytes 2 l.length ++ leBytes 1 r.reason ++ leBytes 1 (b2n (r.got.any (·.truncated)) + r.flags.toNat) ++ leBytes 1 r.req.model ++
  zeroBytes 3 ++ leBytes 2 r.nprobe ++ leBytes 2 r.missing ++ zeroBytes 4 ++
  leBytes 8 (sumNat (r.got.map (·.scanned))) ++ leBytes 4 (sumNat (r.got.map (·.stale))) ++ leBytes 4 r.dropped ++
  l.flatMap fun c => Cand.bytes r.filter.isSome (attended.contains c.page) c

/-! ## Phase 2 (R189 to R191) -/

/-- A partial that a holder returned for phase 2: of the command's width. -/
def RecallAttend.fits (x : RecallAttend) (p : PartialSet) : Bool :=
  p.heads.length == x.query.length && p.heads.all fun h => h.o.length == x.group.cv

/-- The partials of phase 2 with the pages that they include. -/
def RecallRun.parts (r : RecallRun) (x : RecallAttend) : List (List Handle × PartialSet) :=
  r.asks.filterMap fun y => match y.answer with
    | some (_, some p) => if x.fits p ∧ p.pagesSelected = y.pages.length ∧ y.pages ≠ [] then some (y.pages.map (·.1), p) else none
    | _ => none

/-- Ends a `RECALL_ATTEND`: the attended pages' partials merged, judged against τ (R139, R191). -/
def State.finishAttended (i : Inflight) (r : RecallRun) (x : RecallAttend) (s : State) : State :=
  let u := Units.node s.freeCtr
  let ps := r.parts x
  let tau := f32Rat x.tau
  let head := fun h =>
    let parts := ps.filterMap fun p => p.2.heads[h]?
    let m := (inOrder u (4096 * h) parts).foldl (fun acc p => mergeHead u (4096 * h + 1) acc p) (emptyHead x.group.cv 0)
    if x.compact then compactHead m else m
  let heads := (List.range x.query.length).map head
  let ok := heads.all (meets tau)
  let tol := fun (m : HeadRec) =>
    { m with flags := (m.flags &&& BitVec.ofNat 16 (0xFFFF - flTol)) ||| (if meets tau m then BitVec.ofNat 16 flTol else 0) }
  let attended := ps.flatMap (·.1)
  let p : PartialSet := ⟨0, x.group.cv, x.compact, ps.any (·.2.nearBank), attended.length, 0, sumNat (ps.map (·.2.tokensRefined)), 0, 0,
    heads.map tol⟩
  let st := if ok then r.status else if r.budgetHit then .budgetExhausted else .toleranceUnmet
  s.drawn.complete i st none 0 (r.bytes attended ++ p.bytes)

/-- The partial request for recalled pages, under the handles that name them now; all their positions are covered (R189). -/
def RecallRun.partReq (x : RecallAttend) (layer budget : Nat) (pages : List Handle) : PartialReq :=
  ⟨0, layer, false, false, 0, x.alpha, x.tau, budget, x.query.length, 0, x.group.ck, 0, List.replicate 16 0, pages,
   some (pages.map fun _ => fullMask), none, x.query⟩

/-- Sends one request to the holder of some recalled pages, with its share of what is left of the token budget (R134, R189); this
node is a holder too. -/
def State.askHolder (i : Inflight) (r : RecallRun) (x : RecallAttend) (pages : List (Handle × Handle)) (resent : Bool) (s : State) :
    RecallRun × State :=
  let n := match pages with | p :: _ => handleNode p.2 | [] => s.self
  let layer := match pages with | p :: _ => ((r.results.find? fun c => c.page == p.1).map (·.layer)).getD 0 | [] => 0
  let b := if x.tokenBudget = 0 then 0 else budgetShare r.budgetLeft pages.length (max 1 r.results.length)
  let req := RecallRun.partReq x layer b (pages.map (·.2))
  let ask := fun (q : Word32) => { r with asks := r.asks ++ [⟨n, q, pages, resent, none, false⟩], budgetLeft := r.budgetLeft - b }
  if n = s.self then
    let q : Word32 := BitVec.ofNat 32 s.cmds.nextId
    let r := ask q
    let s := ({ s with cmds := { s.cmds with nextId := s.cmds.nextId + 1 } } : State).setRecall i.id r
    let s := s.gotPartialReq ⟨0, s.self, BitVec.ofNat 32 s.epoch, 0, i.reqId, q, true⟩ req
    (match s.recallOf i.id with | some (_, r) => r | none => r, s)
  else
    let k := s.postSeq n i.reqId (.partialReq req)
    (ask (BitVec.ofNat 32 k.1), (k.2.countReq n).countPtn i.ptn 1 6)

/-- The handle and code that a block's page has now, for a HANDLE_QUERY (R190). -/
def State.handleOf (s : State) (seq : Handle) (layer block : Nat) : Handle × List Byte :=
  match (s.seq? seq).bind fun q => (q.layer layer).entry? block with
  | none => (0, zeroBytes 32)
  | some e =>
    match s.page? e.page with
    | some p => if p.img.tail then (0, zeroBytes 32) else (e.page, p.img.summary.getD (zeroBytes 32))
    | none => match (s.placed? e.page).bind (·.index) with
      | some x => (e.page, x.2.code)
      | none => (0, zeroBytes 32)

/-- The page's new handle, where it has one and carries the same code: asked for under it (R190). -/
def State.askMoved (i : Inflight) (r : RecallRun) (x : RecallAttend) (c : Cand) (h : Handle) (code : List Byte) (s : State) :
    RecallRun × State :=
  if h = 0 ∨ h = c.page ∨ code ≠ c.code then (r, s) else s.askHolder i r x [(c.page, h)] false

/-- Asks the home of a page's sequence for its handle now. -/
def State.askHome (i : Inflight) (r : RecallRun) (x : RecallAttend) (c : Cand) (s : State) : RecallRun × State :=
  match s.homeOf c.seq with
  | none => (r, s)
  | some n =>
    if n = s.self then
      let y := s.handleOf c.seq c.layer c.block
      s.askMoved i r x c y.1 y.2
    else
      let k := s.postSeq n i.reqId (.handleQuery c.seq c.layer c.block)
      ({ r with queries := r.queries ++ [(BitVec.ofNat 32 k.1, c)] }, k.2)

/-- A holder's partial says that its share of the budget ran out (R135, R191). -/
def RecallAsk.short (y : RecallAsk) : Bool :=
  match y.answer with | some (st, some _) => st == Status.budgetExhausted.code | _ => false

/-- Takes the answer to one request of phase 2. A partial that includes fewer pages than were asked for does not say which: each
page is asked for by itself (log 60). A page that its holder no longer has under the handle recalled is looked up at its home,
once; a request that failed otherwise goes to the same holder once more (R190). -/
def State.takeAsk (i : Inflight) (r : RecallRun) (x : RecallAttend) (y : RecallAsk) (s : State) : RecallRun × State :=
  let rest := { r with asks := delAll y r.asks }
  let dead := { r with asks := updWhere (· == y) (fun z => { z with failed := true }) r.asks }
  match y.answer with
  | some (_, some p) =>
    if p.pagesSelected < y.pages.length ∧ 1 < y.pages.length then
      y.pages.foldl (fun z p => z.2.askHolder i z.1 x [p] false) (rest, s)
    else ({ r with budgetHit := r.budgetHit || y.short }, s)
  | some (k, none) =>
    if k = 2 then
      (y.pages.filter fun p => p.1 == p.2).foldl (fun z p => match r.results.find? fun c => c.page == p.1 with
        | some c => z.2.askHome i z.1 x c
        | none => z) (dead, s)
    else if y.resent then (dead, s)
    else s.askHolder i rest x y.pages true
  | none => (r, s)

/-- An answer that is not taken yet: one that leaves pages out of a request for several, or a decline. -/
def RecallAsk.due (y : RecallAsk) : Bool :=
  !y.failed && match y.answer with
    | some (_, some p) => decide (p.pagesSelected < y.pages.length ∧ 1 < y.pages.length)
    | some (_, none) => true
    | none => false

/-- Goes on with phase 2: answers are taken, and it ends once none is awaited. Each page is asked for at most six times, so the
rounds end. -/
def State.settleRecall (id : Nat) : Nat → State → State
  | 0, s => s
  | k + 1, s =>
    match s.recallOf id with
    | none => s
    | some (i, r) =>
      match r.phase2 with
      | none => s
      | some x =>
        if r.stage ≠ .attend then s
        else match r.asks.filter RecallAsk.due with
          | [] =>
            let r := { r with budgetHit := r.budgetHit || r.asks.any fun y => y.short }
            if r.queries = [] ∧ (r.asks.all fun y => y.answer.isSome || y.failed) = true then s.finishAttended i r x else s
          | l =>
            let z := l.foldl (fun z y => z.2.takeAsk i z.1 x y) (r, s)
            State.settleRecall id k (z.2.setRecall id z.1)

def State.recallAttended (id : Nat) (s : State) : State := s.settleRecall id 8

/-- Goes on with every recall in phase 2, after pages of this node have come. -/
def State.settleRecalls (s : State) : State :=
  s.cmds.list.foldl (fun s i => match i.wait with | .recall _ => s.recallAttended i.id | _ => s) s

/-- The end of phase 1: the reply, or phase 2, with one request to each holder of recalled pages (R189). -/
def State.recallPassed (id : Nat) (s : State) : State :=
  match s.recallOf id with
  | none => s
  | some (i, r) =>
    match r.phase2 with
    | none => s.complete i r.status none 0 (r.bytes [])
    | some x =>
      let r := { r with stage := .attend, budgetLeft := x.tokenBudget }
      let pages := r.results.map (·.page)
      let nodes := (pages.map handleNode).eraseDups
      let y := nodes.foldl (fun (z : RecallRun × State) n =>
        z.2.askHolder i z.1 x ((pages.filter fun h => handleNode h == n).map fun h => (h, h)) false) (r, s)
      (y.2.setRecall id y.1).recallAttended id

/-! ## Pattern checks (R185, R203) -/

/-- What the home node of a block answers: 0 fails, 1 passes, 2 the slot is invalid. -/
def State.patternAnswer (s : State) (seq : Handle) (block : Nat) (f : Filter) : Nat :=
  match (s.patSlot? f.slot).bind (·.current), s.seq? seq with
  | none, _ => 2
  | some _, none => 0
  | some v, some q => b2n ((filterBlock v f q.token block (maskOf fun _ => true)).1 != 0)

/-- The filter as a PATTERN_CHECK names it: SLOT and SELECT only. -/
def checkFilter (slot : Nat) (select : Word32) : Filter := ⟨slot, 1, select⟩

/-- Checks candidates in order, with no more out than may still be needed (log 29). -/
def State.checkNext (i : Inflight) (f : Filter) : Nat → RecallRun → State → RecallRun × State
  | 0, r, s => (r, s)
  | k + 1, r, s =>
    match r.todo with
    | [] => (r, s)
    | c :: l =>
      if r.kk ≤ r.passed.length + r.checking.length then (r, s)
      else
        let s := s.countPtn i.ptn 2 6
        let r := { r with todo := l }
        match s.homeOf c.seq with
        | none => State.checkNext i f k { r with dropped := r.dropped + 1 } (s.countPtn i.ptn 2 7)
        | some n =>
          if n = s.self then
            if s.patternAnswer c.seq c.block f = 1 then State.checkNext i f k { r with passed := r.passed ++ [c] } s
            else State.checkNext i f k { r with dropped := r.dropped + 1 } (s.countPtn i.ptn 2 7)
          else
            let x := s.postSeq n i.reqId (.patternCheck c.seq c.block f.slot f.select)
            State.checkNext i f k { r with checking := r.checking ++ [(BitVec.ofNat 32 x.1, c)] } x.2

/-- Goes on with the checks; phase 1 ends when none is left to wait for. -/
def State.recallCheck (id : Nat) (s : State) : State :=
  match s.recallOf id with
  | none => s
  | some (i, r) =>
    match r.filter with
    | none => s.recallPassed id
    | some f =>
      let x := s.checkNext i f r.todo.length r
      let s := x.2.setRecall id x.1
      if x.1.checking = [] ∧ (x.1.todo = [] ∨ x.1.kk ≤ x.1.passed.length) then s.recallPassed id else s

/-- A pattern check has its answer, or none in time. -/
def State.checkAnswered (i : Inflight) (r : RecallRun) (reqSeq : Word32) (answer : Nat) (s : State) : State :=
  match r.checking.find? fun x => x.1 == reqSeq with
  | none => s
  | some x =>
    let r := { r with checking := delAll x r.checking }
    if answer = 1 then (s.setRecall i.id { r with passed := r.passed ++ [x.2] }).recallCheck i.id
    else ((s.countPtn i.ptn 2 7).setRecall i.id { r with dropped := r.dropped + 1 }).recallCheck i.id

/-! ## Merging (R185) -/

/-- One candidate for each (SEQ, LAYER, BLOCK, MODEL), the first in order. -/
def dedupCands : List Cand → List Cand → List Cand
  | _, [] => []
  | seen, c :: l =>
    if seen.any fun d => d.seq == c.seq && d.layer == c.layer && d.block == c.block && d.model == c.model then dedupCands seen l
    else c :: dedupCands (c :: seen) l

/-- Merges the candidates once no index node is waited for. -/
def State.recallMerge (id : Nat) (s : State) : State :=
  match s.recallOf id with
  | none => s
  | some (_, r) =>
    if r.stage ≠ .gather ∨ r.waiting ≠ [] then s
    else
      let l := dedupCands [] (sortBy candBefore (r.got.flatMap (·.cands)))
      let r := if r.filter.isSome then { r with stage := .check, todo := l } else { r with stage := .check, passed := l.take r.kk }
      (s.setRecall id r).recallCheck id

/-- An index node's answer; a late one is discarded. -/
def State.gotScan (i : Inflight) (r : RecallRun) (n : NodeId) (reqSeq : Word32) (answer : Option (Byte × List ListResult)) (s : State) :
    State :=
  if r.stage ≠ .gather ∨ ¬ r.waiting.contains (n, reqSeq) then s
  else
    let r := { r with waiting := delAll (n, reqSeq) r.waiting }
    let r := match answer with
      | some (fl, ls) => { r with got := r.got ++ ls, flags := r.flags ||| (fl &&& 6) }
      | none => { r with missing := r.missing + 1 }
    (s.setRecall i.id r).recallMerge i.id

/-! ## The holding node (R173, R179, R183, R184) -/

def State.modelOf (s : State) (ns model : Nat) : Option Model :=
  (s.ns? ns).bind fun x => (x.current.toList ++ x.retained.toList).find? fun m => m.num == model

/-- INDEX_REBUILDING and INDEX_DEGRADED of this node: a rebuild after a restart has not finished; a block of the segments named was
skipped, by this request's own passes or since, or lacks entries (R179, R249). -/
def State.scanFlags (s : State) (q : ScanReq) (skipped : Bool) : Byte :=
  let mine := s.rcl.segments.filter fun g => g.name.ns == q.ns && g.name.model == q.model && q.lists.contains g.name.list && !g.removed
  BitVec.ofNat 8 (2 * b2n (s.rcl.segments.any (·.rebuilding)) + 4 * b2n (skipped || mine.any (·.degraded)))

/-- Returns a query's results: to its coordinating node, or here. -/
def State.scanAnswer (node : NodeId) (reqId : Word64) (reqSeq : Word32) (q : ScanReq) (ls : List ListResult) (skipped : Bool) (s : State) :
    State :=
  if node = s.self then
    match s.recallBy reqId fun r => r.stage == .gather && r.waiting.contains (node, reqSeq) with
    | some (i, r) => s.gotScan i r node reqSeq (some (s.scanFlags q skipped, ls))
    | none => s
  else s.postFor node reqId (.scanResult reqSeq (s.scanFlags q skipped) ls)

/-- Adds one list's result to its query; the last one sends the answer. -/
def State.listDone (x : ScanQuery) (l : ListResult) (s : State) (skipped : Bool := false) : State :=
  let mine := fun (j : ScanJob) => j.node == x.node && j.reqId == x.reqId && j.reqSeq == x.reqSeq
  match s.rcl.jobs.find? mine with
  | none => s
  | some j =>
    let j := { j with listsLeft := delAll l.list j.listsLeft, results := j.results ++ [l], degraded := j.degraded || skipped }
    if j.listsLeft = [] then
      ({ s with rcl := { s.rcl with jobs := s.rcl.jobs.filter fun y => !mine y } }).scanAnswer x.node x.reqId x.reqSeq x.q j.results j.degraded
    else { s with rcl := { s.rcl with jobs := updWhere mine (fun _ => j) s.rcl.jobs } }

/-- The pages that a snapshot's entries name (R62). -/
def snapshotPages (l : List (List IdxEntry)) : List Handle := (l.flatten.map (·.page)).eraseDups

/-- Closes a segment's window: a pass starts with a snapshot of its blocks, and pins the pages that they name. -/
def State.startPass (n : SegName) (s : State) : State :=
  match s.segment? n with
  | none => s
  | some g =>
    if g.window = [] then s
    else
      let s := (s.countPtn g.ptn 2 1).countPtn g.ptn 2 2 g.window.length
      let snap := g.blocks ++ [g.opened]
      let s := (g.flushed.filterMap (·.frame)).foldl (fun s f => s.queueWork .scan (frameKey f) (s.pageDie (frameKey f))) s
      (s.pin (snapshotPages snap)).updSegment n fun g => { g with window := [], passes := g.passes ++ [(g.window, snap)] }

/-- Queries that close a window when they have joined. -/
def windowMax : Nat := 64
def State.batchUs (s : State) : Nat := s.rf .flsRecall 0 8

/-- A query joins the window of a list, which may close it (R183); a list without a segment is done. -/
def State.joinList (x : ScanQuery) (s : State) (list : Nat) : State :=
  let n : SegName := ⟨x.q.ns, x.q.model, list⟩
  match s.segment? n with
  | none => s.listDone x ⟨list, false, 0, 0, []⟩
  | some g =>
    let s := s.updSegment n fun g => { g with window := g.window ++ [x] }
    if windowMax ≤ g.window.length + 1 ∨ x.q.noBatch ∨ s.batchUs = 0 then s.startPass n else s

/-- A list-scan request at an index node: its lists are joined; none named is answered at once. -/
def State.startScan (x : ScanQuery) (s : State) : State :=
  let j : ScanJob := ⟨x.node, x.reqId, x.reqSeq, x.q.lists, [], false⟩
  if x.q.lists = [] then s.scanAnswer x.node x.reqId x.reqSeq x.q [] false
  else x.q.lists.foldl (fun s l => s.joinList x l) { s with rcl := { s.rcl with jobs := s.rcl.jobs ++ [j] } }

/-- The installed model matches a request's number and codebook digest (R173). -/
def State.scanMatches (s : State) (q : ScanReq) : Bool :=
  match s.modelOf q.ns q.model with | some m => m.cDigest == q.cdigest | none => false

def State.gotScanReq (h : MsgHdr) (q : ScanReq) (s : State) : State :=
  if s.scanMatches q then s.startScan ⟨h.src, h.reqId, h.seq, q⟩
  else (s.countPtn (((s.ns? q.ns).map (·.ptn)).getD noPtn) 2 8).postFor h.src h.reqId (.scanDecline h.seq)

/-- Frees the frames of replaced blocks once no pass reads them (R178). -/
def State.freeReplaced (n : SegName) (s : State) : State :=
  match s.segment? n with
  | some g =>
    if g.passes ≠ [] then s
    else g.dropped.foldl (fun s f => s.freeFlash f 1) (s.updSegment n fun g => { g with dropped := [] })
  | none => s

/-- The oldest pass of a segment ends; `bad` names the flushed blocks that failed their CRC (R179, R184). -/
def State.passDone (n : SegName) (bad : List Nat) (s : State) : State :=
  match s.segment? n with
  | none => s
  | some g =>
    match g.passes with
    | [] => s
    | p :: rest =>
      let bad := bad.filter fun k => decide (k + 1 < p.2.length)
      let entries := ((enumFrom 0 p.2).filter fun b => !bad.contains b.1).flatMap (·.2)
      let s := (s.countPtn g.ptn 2 5 bad.length).updSegment n fun g =>
        { g with passes := rest, degraded := g.degraded || !bad.isEmpty }
      /- A model that a scan is bound to is not removed (R169). -/
      let m := (s.modelOf n.ns n.model).getD ⟨n.model, 0, 0, [], [], [], []⟩
      let s := p.1.foldl (fun s x =>
        let l := s.scanList m x.q n.list entries
        ((s.countPtn g.ptn 2 3 l.scanned).countPtn g.ptn 2 4 l.stale).listDone x l (!bad.isEmpty)) s
      let read := if rest = [] then g.flushed.filterMap (·.frame) ++ g.dropped else []
      let s := read.foldl (fun s f => s.doneWork .scan (frameKey f)) s
      (s.unpin (snapshotPages p.2)).freeReplaced n

/-! ## Index upkeep (R178, R179) -/

/-- A segment gets a new chain: `keep` are blocks that stay, `l` the entries behind them. -/
def State.newChain (n : SegName) (keep : List IdxBlock) (l : List IdxEntry) (s : State) : State :=
  let full := l.take (l.length / indexBlock * indexBlock)
  let gone := fun (g : Segment) => (g.flushed.filter fun b => !keep.contains b).filterMap (·.frame)
  let s := s.updSegment n fun g => { g with flushed := keep, dropped := g.dropped ++ gone g, opened := l.drop full.length }
  ((chunks indexBlock full).foldl (fun s b => s.appendBlock n b) s).freeReplaced n

/-- More than 25 % of a segment's entries are dead. -/
def State.mostlyDead (s : State) (g : Segment) : Bool :=
  let all := g.blocks.flatten ++ g.opened
  decide (all.length < 4 * (all.filter fun e => !s.entryLive e.page).length)

/-- INDEX_COMPACTION: the entries of a removed model go; a segment with enough dead entries is rewritten without them, and one left
with nothing goes (R178). -/
def State.compact (n : SegName) (s : State) : State :=
  let old := s.rcl.segments.filter fun g => g.removed && g.name == n
  let s := { s with rcl := { s.rcl with segments := s.rcl.segments.filter fun g => !(g.removed && g.name == n) } }
  let s := (old.flatMap fun g => g.flushed.filterMap (·.frame) ++ g.dropped).foldl (fun s f => s.freeFlash f 1) s
  match s.segment? n with
  | none => s
  | some g =>
    if ¬ s.mostlyDead g then s
    else
      let s := s.newChain n [] ((g.blocks.flatten ++ g.opened).filter fun e => s.entryLive e.page)
      { s with rcl := { s.rcl with segments := s.rcl.segments.filter fun x =>
          !(x.name == n && !x.removed && x.flushed == [] && x.opened == [] && x.window == [] && x.passes == [] && x.dropped == []) } }

/-- The entries that the pages of this node's own sequences give a segment, those placed elsewhere too (R67). -/
def State.pageEntries (s : State) (n : SegName) : List IdxEntry :=
  let mine := fun (x : Option (Nat × IdxEntry)) => x.filter fun y => y.1 == n.list && y.2.model == n.model && nsOf y.2.seq == n.ns
  let homed := fun (h : Handle) => (s.referrers h).any fun x => s.isHome x.1.handle
  (s.store.pages.filterMap fun p => if p.refs != 0 && homed p.handle then (mine p.index).map (·.2) else none) ++
  s.store.remoteRefs.filterMap fun p => (mine p.index).map (·.2)

/-- INDEX_REBUILD: after a restart the open block, from the pages sealed after the last flushed block; a segment with a block that
failed its CRC, or that lacks entries, wholly (R179, R249). In `READ_ONLY` with the control area full it waits. -/
def State.rebuildIndex (n : SegName) (s : State) : State :=
  match s.segment? n with
  | none => s
  | some g =>
    if ¬ (g.rebuilding || g.degraded) ∨ (s.flash.state = .readOnly ∧ keptMax ≤ s.keptBlocks) then s
    else
      let keep := if g.degraded then [] else g.flushed
      let have' := (keep.flatMap (·.entries)).map (·.page)
      let l := (s.pageEntries n).filter fun e => !have'.contains e.page
      (s.newChain n keep l).updSegment n fun g => { g with rebuilding := false, degraded := false }

/-! ## Admission (R169, R180, R189) -/

/-- The model that a recall binds to. -/
def State.recallModel (s : State) (x : Ns) (b : List Byte) : Except Status Model :=
  if bit (field b 2 1) 2 then
    match s.modelOf x.num (field b 3 1) with
    | some m => .ok m
    | none =>
      if s.rcl.segments.any fun g => g.name.ns == x.num && g.name.model == field b 3 1 then .error .busyRetry else .error .badParam
  else match x.current with
    | some m => .ok m
    | none => .error .badParam

def recallFilter (b : List Byte) : Option Filter := if bit (field b 2 1) 1 then some (filterAt b 30 32 36) else none

/-- The ranges of R180 that no model is needed for. -/
def recallOk (b : List Byte) : Bool :=
  let fl := field b 2 1
  let dl := field b 28 2
  decide (fl < 8) && decide (1 ≤ field b 4 2 ∧ field b 4 2 ≤ 1024) &&
  (field b 20 4 == 0 || decide (field b 16 4 ≤ field b 20 4)) && (field b 24 4 == 0 || decide (1024 ≤ field b 24 4)) &&
  (dl == 0 || decide (50 ≤ dl ∧ dl ≤ 10000)) && zeros (slice b 33 3) && zeros (slice b 72 8) &&
  (match recallFilter b with
    | some f => f.ok && f.exclude == 1
    | none => zeros (slice b 30 3) && zeros (slice b 36 4)) &&
  (words32 (slice b 80 1024)).all f32Finite

def nprobeOf (b : List Byte) (nlist : Nat) : Option Nat :=
  let n := field b 6 2
  if n = 0 then some (min 32 nlist) else if n ≤ min nlist 4096 then some n else none

/-- The phase-2 fields (R317). -/
def recallAttendOf (b : List Byte) : Option RecallAttend :=
  let d := b.drop 1104
  let alpha : Word32 := BitVec.ofNat 32 (field d 0 4)
  let tau : Word32 := BitVec.ofNat 32 (field d 4 4)
  let tb := field d 8 4
  match LayerGroup.parse (slice d 16 16) with
  | none => none
  | some g =>
    let query := queryOf g.qHeads g.ck (d.drop 32)
    if g.window = none ∧ g.layers = 1 ∧ inF32 alpha (pow2 (-16)) 1 ∧ (tau = 0 ∨ inF32 tau (pow2 (-40)) 1) ∧
        (tb = 0 ∨ (32 ≤ tb ∧ tb ≤ 2 ^ 28 ∧ tb % 32 = 0)) ∧ field d 12 2 < 2 ∧ field d 14 2 = 0 ∧
        d.length = 32 + 2 * g.qHeads * g.ck ∧ queryOk query then
      some ⟨alpha, if tau = 0 then f32Of .rn (pow2 (-10)) else tau, tb, bit (field d 12 2) 0, g, query⟩
    else none

/-- The shape of the payload: R316, or R316 with R317 behind it. -/
def recallShape (second : Bool) (b : List Byte) : Bool :=
  if second then (recallAttendOf b).isSome && decide (1104 ≤ b.length) else b.length == 1104

def recallSeven (second : Bool) (c : Cmd) (s : State) : Option Status :=
  let b := c.data
  let n := field b 0 2
  if b.length < 1104 ∨ ¬ recallShape second b then some .badParam
  else match s.nsCheck c.ptn n with
    | some st => some st
    | none => match s.ns? n with
      | none => some .unknownSeq
      | some x =>
        if ¬ x.recallOn then some .unknownSeq
        else if ¬ recallOk b then some .badParam
        else match s.recallModel x b with
          | .error st => some st
          | .ok m =>
            if (nprobeOf b m.coarse.length).isNone then some .badParam
            else match recallFilter b with
              | none => none
              | some f => match s.bindFilter c.ptn f with | .error st => some st | .ok _ => none

def recallMax (second : Bool) (c : Cmd) (_ : State) : Nat :=
  32 + 32 * field c.data 4 2 +
  (if second then (match recallAttendOf c.data with | some x => partialLen x.query.length x.group.cv x.compact | none => 0) else 0)

/-- The request that a recall sends to every index node (R181). -/
def scanOf (b : List Byte) (m : Model) (nprobe : Nat) : ScanReq :=
  let q := words32 (slice b 80 1024)
  let k := field b 4 2
  let layers : BitVec 256 := BitVec.ofNat 256 (field b 40 32)
  ⟨field b 0 2, m.num, m.cDigest, nearest m q nprobe, q, if (recallFilter b).isSome then min (4 * k) 4096 else k,
   BitVec.ofNat 32 (field b 8 4), BitVec.ofNat 32 (field b 12 4), BitVec.ofNat 32 (field b 16 4), BitVec.ofNat 32 (field b 20 4),
   if layers = 0 then maskOf fun _ => true else layers, field b 24 4, bit (field b 2 1) 0,
   if field b 28 2 = 0 then 2000 else field b 28 2⟩

def recallRun (second : Bool) (c : Cmd) (s : State) : Res :=
  let b := c.data
  match s.ns? (field b 0 2) with
  | none => .no .unknownSeq
  | some x => match s.recallModel x b with
    | .error st => .no st
    | .ok m => match nprobeOf b m.coarse.length with
      | none => .no .badParam
      | some np =>
        let q := scanOf b m np
        let id := s.cmds.nextId
        let mine : Word32 := BitVec.ofNat 32 id
        let nodes := (if x.selfPlaced then x.nodes else x.index).dedup
        let send := fun (y : List (NodeId × Word32) × State) (n : NodeId) =>
          if n = s.self then (y.1 ++ [(n, mine)], y.2)
          else
            let k := y.2.postSeq n c.pkt.reqId (.scanReq q)
            (y.1 ++ [(n, BitVec.ofNat 32 k.1)], k.2)
        let y := nodes.foldl send ([], s.countPtn c.ptn 2 0)
        let r : RecallRun := ⟨q, recallFilter b, field b 4 2, np, .gather, y.1, 0, [], 0, false, [], [], [], 0,
          if second then recallAttendOf b else none, [], [], false, 0⟩
        let s' := y.2.hold c (.recall r) []
        .held (if nodes.contains s.self then s'.startScan ⟨s.self, c.pkt.reqId, mine, q⟩ else s'.recallMerge id)

def recallDef (second : Bool) : OpDef :=
  ⟨fun b => .recallNs (field b 0 2), noSix, recallSeven second, recallMax second, recallRun second, emptyDup⟩

/-! ## Events on the coordinating node -/

/-- The deadline: index nodes that have not answered are missing (R186). -/
def State.recallDeadline (id : Nat) (s : State) : State :=
  match s.recallOf id with
  | none => s
  | some (_, r) =>
    match r.stage with
    | .gather =>
      (s.setRecall id { r with deadline := true, missing := r.missing + r.waiting.length, waiting := [] }).recallMerge id
    | .check => s.setRecall id { r with deadline := true }
    | .attend => s

def RecallRun.openReq (r : RecallRun) (reqSeq : Word32) (ok : NodeId → Bool) : Option RecallAsk :=
  r.asks.find? fun y => y.reqSeq == reqSeq && ok y.node && y.answer.isNone && !y.failed

/-- A request of phase 2 is answered, or has failed. -/
def State.recallAnswered (i : Inflight) (r : RecallRun) (y : RecallAsk) (a : Nat × Option PartialSet) (s : State) : State :=
  (s.setRecall i.id { r with asks := updWhere (· == y) (fun z => { z with answer := some a }) r.asks }).recallAttended i.id

/-- The answer to a HANDLE_QUERY, or none in time. -/
def State.queryAnswered (i : Inflight) (r : RecallRun) (reqSeq : Word32) (h : Handle) (code : List Byte) (s : State) : State :=
  match r.queries.find? (fun x => x.1 == reqSeq), r.phase2 with
  | some q, some x =>
    let z := s.askMoved i { r with queries := delAll q r.queries } x q.2 h code
    (z.2.setRecall i.id z.1).recallAttended i.id
  | _, _ => s

/-- A partial for an attend or for a recall. -/
def State.anyPartial (h : MsgHdr) (reqSeq : Word32) (status : Nat) (p : PartialSet) (lost : List LostRange) (s : State) : State :=
  match s.recallBy h.reqId fun r => (r.openReq reqSeq (· == h.src)).isSome with
  | some (i, r) => match r.openReq reqSeq (· == h.src) with
    | some y => s.recallAnswered i r y (status, some p)
    | none => s
  | none => s.gotPartial h.src h.reqId reqSeq status p lost

/-! ## Commands -/

def runRecall (p : Packet) (s : State) : State := s.arriveAll .recall (recallDef false) p
def runRecallAttend (p : Packet) (s : State) : State := s.arriveAll .recallAttend (recallDef true) p

def execPartialReply (h : MsgHdr) (reqSeq : Word32) (status : Nat) (p : PartialSet) (lost : List LostRange) (s : State) :
    Host.Outcome State Fault Refusal := .next (s.unordered h fun s => s.anyPartial h reqSeq status p lost)
def execIndexCompaction (seg : SegName) (s : State) : Host.Outcome State Fault Refusal := .next (s.compact seg)
def execIndexRebuild (seg : SegName) (s : State) : Host.Outcome State Fault Refusal := .next (s.rebuildIndex seg)
def execRecallBatchStart (seg : SegName) (s : State) : Host.Outcome State Fault Refusal := .next (s.startPass seg)
def execScanPassComplete (seg : SegName) (bad : List Nat) (s : State) : Host.Outcome State Fault Refusal := .next (s.passDone seg bad)
def execRecallDeadlineExpiry (id : Nat) (s : State) : Host.Outcome State Fault Refusal := .next (s.recallDeadline id)
def execScanReq (h : MsgHdr) (b : ScanReq) (s : State) : Host.Outcome State Fault Refusal :=
  .next (s.serve h fun s => s.gotScanReq h b)

/-- What an index node answered to this node's request. -/
def State.scanCame (h : MsgHdr) (reqSeq : Word32) (answer : Option (Byte × List ListResult)) (s : State) : State :=
  match s.recallBy h.reqId fun r => r.stage == .gather && r.waiting.contains (h.src, reqSeq) with
  | some (i, r) => s.gotScan i r h.src reqSeq answer
  | none => s

def execScanResult (h : MsgHdr) (reqSeq : Word32) (flags : Byte) (lists : List ListResult) (s : State) :
    Host.Outcome State Fault Refusal := .next (s.unordered h fun s => s.scanCame h reqSeq (some (flags, lists)))
def execScanDecline (h : MsgHdr) (reqSeq : Word32) (s : State) : Host.Outcome State Fault Refusal :=
  .next (s.unordered h fun s => s.scanCame h reqSeq none)

def execPatternCheck (h : MsgHdr) (seq : Handle) (block slot : Nat) (select : Word32) (s : State) :
    Host.Outcome State Fault Refusal :=
  .next (s.serve h fun s =>
    s.postFor h.src h.reqId (.patternResult h.seq (s.patternAnswer seq block (checkFilter slot select))))

/-- A pattern check of a recall, from the node it was sent to. -/
def State.checkCame (h : MsgHdr) (reqSeq : Word32) (answer : Nat) (s : State) : State :=
  let from' := fun (r : RecallRun) => r.checking.any fun x => x.1 == reqSeq && s.homeOf x.2.seq == some h.src
  match s.recallBy h.reqId from' with
  | some (i, r) => s.checkAnswered i r reqSeq answer
  | none => s

def execPatternResult (h : MsgHdr) (reqSeq : Word32) (answer : Nat) (s : State) : Host.Outcome State Fault Refusal :=
  .next (s.unordered h fun s => s.checkCame h reqSeq answer)

def State.checkLate (id : Nat) (reqSeq : Word32) (s : State) : State :=
  match s.recallOf id with | some (i, r) => s.checkAnswered i r reqSeq 0 | none => s

def execPatternCheckTimeout (id : Nat) (reqSeq : Word32) (s : State) : Host.Outcome State Fault Refusal :=
  .next (s.checkLate id reqSeq)

/-- The home node's answer to a HANDLE_QUERY. -/
def State.gotHandleQuery (h : MsgHdr) (seq : Handle) (layer block : Nat) (s : State) : State :=
  let x := if s.isHome seq then s.handleOf seq layer block else (0, zeroBytes 32)
  s.postFor h.src h.reqId (.handleReply h.seq x.1 x.2)

def execHandleQuery (h : MsgHdr) (seq : Handle) (layer block : Nat) (s : State) : Host.Outcome State Fault Refusal :=
  .next (s.serve h fun s => s.gotHandleQuery h seq layer block)

def State.handleCame (h : MsgHdr) (reqSeq : Word32) (page : Handle) (code : List Byte) (s : State) : State :=
  match s.recallBy h.reqId fun r => r.queries.any fun x => x.1 == reqSeq && s.homeOf x.2.seq == some h.src with
  | some (i, r) => s.queryAnswered i r reqSeq page code
  | none => s

def execHandleReply (h : MsgHdr) (reqSeq : Word32) (page : Handle) (code : List Byte) (s : State) :
    Host.Outcome State Fault Refusal := .next (s.unordered h fun s => s.handleCame h reqSeq page code)

end Sys2Proof.Machine
end

