-- ==== Sys2Proof/Machine/Engines.lean ====
section
/-! DEFINITION. Engine work: seals (01_execution_model.md R20, R24; 03_page_encoding.md R107), the commit of engine steps
(15_resilience.md R437), remote requests that fail (R27), engine, control-core and automata faults and partition fences
(R438 to R441), and the hard criteria (R456). -/

namespace Sys2Proof.Machine

/-! ## Hard criteria (R456) -/

/-- A stack that holds a usable copy of the control area. -/
def State.holdsControl (s : State) (n : Nat) : Bool :=
  match (s.stack n).state with | .service | .draining | .selfRefresh => true | _ => false

/-- A stack that counts for R456. -/
def State.countsStack (s : State) (n : Nat) : Bool := s.rf (.memStkCtl n) 0 1 == 1 && (s.stack n).state != .fenced

/-- The criteria that the node meets, in order. -/
def State.hardCriteria (s : State) : List Nat :=
  [(1, !s.holdsControl s.hbm.controlA && !s.holdsControl s.hbm.controlB),
   (2, decide ((s.eng.engines.filter fun e => !e.fenced).length < 32)),
   (3, decide (((List.range 8).filter s.countsStack).length < 4)),
   (4, decide (24 - s.eng.coresFenced.length < 6)),
   (5, s.trust.idxLost)].filterMap fun x => if x.2 then some x.1 else none

/-- The node becomes leaving (R456, R458). `code` is the record's. -/
def State.leave (code : Nat) (s : State) : State :=
  let s := { s with map := { s.map with role := 2, leaveRaised := true } }
  s.raise .fabHealth 18 ⟨11, code, 2, 0xFF, 0, []⟩

/-- A node in service that meets a hard criterion leaves. -/
def State.leaveCheck (s : State) : State :=
  match s.hardCriteria with
  | k :: _ => if s.pow.phase = .service ∧ ¬ s.map.leaveRaised then s.leave k else s
  | [] => s

/-! ## Seals (R83, R107, R174) -/

/-- SEAL_START: an idle engine takes a queued seal of a sequence of this home. -/
def State.startSeal (e : Nat) (n : PageName) (s : State) : State :=
  match s.sealPage n, s.eng.engines[e]? with
  | some p, some y =>
    match p.sealing with
    | .queued _ => if y.idle ∧ s.sealMay p then s.beginSeal e p else s
    | _ => s
  | _, _ => s

/-- A fork that waited for seals goes on once every page below its position is sealed (R55). -/
def State.forksReady (s : State) : State :=
  s.cmds.list.foldl (fun s i => match i.wait with
    | .forkSeals f => match s.seq? f.parent with
      | some q => if s.unsealedBelow q f.f = [] then s.retryCmd i else s
      | none => s
    | _ => s) s

/-- The seal's entry in the recall index, in the same step (R177). -/
def State.indexSeal (q : Seq) (h : Handle) (i : Image) (n : PageName) (ptn : Nat) (model : Option (Nat × Nat)) (s : State) : State :=
  match model with
  | none => s.countPtn ptn 1 14
  | some (m, l) =>
    let e : IdxEntry := ⟨h, q.handle, n.block, n.layer, m, i.inherit.isSome, BitVec.ofNat 32 s.epoch, q.tag, i.summary.getD []⟩
    (s.updPage h fun p => { p with index := some (l, e) }).putIndex ptn l e

/-- A sequence with positions that have been persisted (R52). -/
def hasPersisted (q : Seq) : Bool := q.layers.any fun x => x.persisted != 0

/-- What a sealed page's sequences do with it: the tandem of a `PRIVATE` one seals its own copy, the members of a `SHARED`
one's replica set get theirs (R25, R37). -/
def State.spread (h : Handle) (refs : List (Seq × Nat × Nat)) (s : State) : State :=
  match s.page? h with
  | none => s
  | some y => refs.foldl (fun s (q, l, b) =>
      if ¬ s.isHome q.handle then s
      else if q.shared then s.replicate q l y
      else s.mirrorMsg q.handle 0 (.stepSeal ⟨q.handle, l, b⟩ y.sealSummary.1 y.sealSummary.2)) s

/-- Counts a step of a partition on an engine: `k` is 1 for a commit, 2 for a replay; steps of a confidential partition stay
out (R508, R509). -/
def State.countStep (ptn e k : Nat) (s : State) : State :=
  if ((s.ptn? ptn).map (·.confidential)).getD false then s else s.count 9 nodeScope (4 * e + k)

/-- The commit of a seal: in one replacement every sequence of the node that names the tail frame names the sealed page,
which takes its references; the index entry, the mirrored steps or the replicas' copies (R20, R25, R49, R52, R107). The page
carries the code of the model that is current now (R169). -/
def State.commitSeal (p : Page) (e : Nat) (into : Handle) (s : State) : State :=
  let n := p.name
  match s.seq? n.seq, s.page? into with
  | some q, some _ =>
    let refs := s.referrers p.handle
    let x := s.sealFull q p
    let s := ((s.endSeal p).repoint refs p.handle into).updPage into fun y => { Page.unpinned 1 y with img := x.1 }
    let s := ((s.indexSeal q into x.1 n p.ptn x.2).countPtn p.ptn 1 12).countStep p.ptn e 1
    let s := s.spread into refs
    let s := if refs.any fun x => hasPersisted x.1 then s.startFlash into else s
    s.forksReady.dispatch
  | _, _ => s.cancelSeal p

/-! ## Engine faults (R437 to R440) -/

def EngCause.code : Sys2Proof.EngCause → Nat
  | .sram => 1 | .residue => 2 | .slotCrc => 3 | .bank => 4 | .watchdog => 5

/-- West die: AE00 to AE31, AE64, AE65 (R13). -/
def onWest (e : Nat) : Bool := decide (e < 32) || e == 64 || e == 65

/-- The replacement of R439. -/
def State.spareFor (s : State) (e : Nat) : Option Nat :=
  let free := [64, 65, 66, 67].filter fun n => match s.eng.engines[n]? with | some y => !y.inUse && !y.fenced | none => false
  match free.find? fun n => onWest n == onWest e with
  | some n => some n
  | none => free.head?

/-- The REQ_ID of the command that a step belongs to, 0 for a seal. -/
def State.stepReq (s : State) (x : Step) : Word64 :=
  match x with
  | .attend id | .grad id => ((s.inflight? id).map (·.reqId)).getD 0
  | .seal _ => 0

def unitDetail (unit repl cause : Nat) (req : Word64) : List Byte :=
  leBytes 1 unit ++ leBytes 1 repl ++ leBytes 1 cause ++ zeroBytes 5 ++ leBytes 8 req.toNat

def State.setHeld (l : List HeldStep) (s : State) : State := { s with eng := { s.eng with held := l } }

/-- Fences a partition (R440). -/
def State.fencePtn (ptn unit : Nat) (det : List Byte) (s : State) : State :=
  match s.ptn? ptn with
  | none => s
  | some p =>
    if p.fenced then s
    else
      let r : Rec := ⟨6, 4, 2, ptn, unit, det⟩
      ((s.updPtn ptn fun p => { p with fenced := true }).raise .engRsts 3 r).raise (.ptnSts ptn) 0 r

/-- Ends what a step that failed on its third engine belonged to: its command with `INTERNAL`; a seal stays queued (R440). -/
def State.endStep (x : Step) (s : State) : State :=
  let s := s.setHeld (s.eng.held.filter fun h => h.step != x)
  match x with
  | .attend id | .grad id => match s.inflight? id with
    | some i => s.complete i .internal none 0 []
    | none => s
  | .seal n => match s.sealPage n with
    | some p => s.requeueSeal p
    | none => s

/-- A step has faulted: it is held for its replacement; the second fault fences its partition, the third ends it. -/
def State.stepFaulted (ptn : Nat) (x : Step) (repl unit : Nat) (det : List Byte) (s : State) : State :=
  let n := ((s.eng.held.find? fun h => h.step == x).map (·.faults)).getD 0 + 1
  if 3 ≤ n then s.endStep x
  else
    let s := s.setHeld ((s.eng.held.filter fun h => h.step != x) ++ [⟨ptn, x, n, repl⟩])
    let s := match x with
      | .seal m => match s.sealPage m with
        | some p => s.requeueSeal p
        | none => s
      | _ => s
    if n = 2 then s.fencePtn ptn unit det else s

/-- A held step is running on an engine. -/
def State.onEngine (s : State) (x : Step) : Bool := s.eng.engines.any fun e => match e.step with | some (_, y) => y == x | none => false

/-- Runs a held step again on an engine. -/
def State.replayOn (e : Nat) (h : HeldStep) (s : State) : State :=
  let s := s.countStep h.ptn e 2
  match h.step with
  | .seal n => match s.sealPage n with
    | some p => s.beginSeal e p
    | none => s
  | x => s.updEngine e fun y => { y with step := some (h.ptn, x), gated := false }

/-- Gives held steps for which no spare was left to idle engines (R439). -/
def State.runHeld (s : State) : State :=
  s.eng.held.foldl (fun s h =>
    let isSeal : Bool := match h.step with | .seal _ => true | _ => false
    if h.on = anyEngine ∧ ¬ isSeal ∧ ¬ s.onEngine h.step ∧ ¬ s.ptnFenced h.ptn then
      match s.freeEngine with
      | some e => s.replayOn e h
      | none => s
    else s) s

/-- Gates every engine in use that has no step (R478). -/
def State.gateIdle (s : State) : State :=
  { s with eng := { s.eng with engines := s.eng.engines.map fun e => if e.step.isNone && !e.fenced then { e with gated := true } else e } }

/-- Gives engines what can run: held steps, then steps that are ready. While REQ is 1, an engine left without a step is gated at once (R478). -/
def State.schedule (s : State) : State :=
  let s := s.runHeld.dispatch
  if s.pow.state = .ride ∧ s.rf .pwrCtl 0 2 = 1 then s.gateIdle else s

/-- An engine fault (R438, R439). -/
def State.engineFault (e cause : Nat) (s : State) : State :=
  match s.eng.engines[e]? with
  | none => s
  | some y =>
    if y.fenced then s
    else if ¬ y.inUse then
      /- A spare that has replaced no engine is fenced, and nothing is to be replaced (R15). -/
      (s.updEngine e fun y => { y with fenced := true }).raise .engRsts 0 ⟨6, 1, 2, 0xFF, e, unitDetail e anyEngine cause 0⟩ |>.leaveCheck
    else
      let req := match y.step with | some x => s.stepReq x.2 | none => 0
      let ptn := match y.step with | some x => x.1 | none => 0xFF
      let spare := s.spareFor e
      let repl := spare.getD anyEngine
      let det := unitDetail e repl cause req
      let s := (s.updEngine e fun y => { y with fenced := true, step := none, replacing := none }).count 9 nodeScope (4 * e + 3)
      let s := s.raise .engRsts 0 ⟨6, 1, 2, ptn, e, det⟩
      let s := match spare with
        | some k => (s.updEngine k fun y => { y with inUse := true, gated := false, replacing := some e }).raise .engRsts 1 ⟨6, 2, 1, ptn, k, det⟩
        | none => s.raise .engRsts 2 ⟨6, 3, 2, ptn, e, det⟩
      let s := s.setHeld (updWhere (fun h => h.on == e && !s.onEngine h.step) (fun h => { h with on := repl }) s.eng.held)
      let s := match y.step with
        | some x => s.stepFaulted x.1 x.2 repl e det
        | none => s
      s.leaveCheck.schedule

/-- The replacement is loaded: it runs the interrupted step again (R438). -/
def State.spareReady (e : Nat) (s : State) : State :=
  match s.eng.engines[e]? with
  | none => s
  | some y =>
    if y.replacing = none then s
    else
      let s := s.updEngine e fun y => { y with replacing := none }
      let mine := fun (h : HeldStep) => h.on == e && !s.onEngine h.step && (h.faults == 2 || match h.step with | .seal _ => false | _ => true)
      match s.eng.held.find? mine with
      | some h => (s.replayOn e h).schedule
      | none => s.schedule

/-- The fence's work: keys and slot images are loaded again, and each held step runs on a third engine (R440). -/
def State.fenceWork (ptn : Nat) (s : State) : State :=
  (s.eng.held.filter fun h => h.ptn == ptn && h.faults == 2).foldl (fun s h =>
    if s.onEngine h.step then s
    else
      let e := match s.eng.engines[h.on]? with
        | some y => if y.fenced ∨ y.step.isSome then s.freeEngine else some h.on
        | none => s.freeEngine
      match e with
      | some e => (s.updEngine e fun y => { y with replacing := none }).replayOn e h
      | none => s) s

def State.partitionFence (ptn : Nat) (s : State) : State := (s.fencePtn ptn 0 []).fenceWork ptn

/-! ## Steps commit (R437) -/

/-- Commits the step of an engine. A seal's step commits with the seal. -/
def State.commitStep (e : Nat) (s : State) : State :=
  match (s.eng.engines[e]?).bind (·.step) with
  | none => s
  | some (ptn, x) =>
    let done := fun (s : State) =>
      let s := (s.updEngine e fun y => { y with step := none }).countStep ptn e 1
      s.setHeld (s.eng.held.filter fun h => h.step != x)
    match x with
    | .seal _ => s
    | .attend id =>
      match s.inflight? id with
      | some i => match i.wait.inner with
        | .attend r => (s |> done).commitAttend i r |>.schedule
        | _ => (done s).schedule
      | none => (done s).schedule
    | .grad id =>
      match s.inflight? id with
      | some i => match i.wait.inner with
        | .grad r => (s |> done).commitGrad i r |>.schedule
        | _ => (done s).schedule
      | none => (done s).schedule

/-- A read-back has failed: the new frames are freed and the engine runs the seal again from the tail frame (R107). -/
def State.sealAgain (e : Nat) (p : Page) (s : State) : State :=
  let s := (s.updEngine e fun y => { y with step := none }).requeueSeal p
  (s.beginSeal e p).updPage p.handle fun y => match y.sealing with
    | .running e k _ => { y with sealing := .running e k 1 }
    | _ => y

/-- SEAL_COMMIT: the image has been read back. A mismatch runs the seal again; the second on one engine fences it (R107). A seal
of a sequence with persisted positions waits while the delta buffer is at its limit (R241). -/
def State.sealRead (n : PageName) (ok : Bool) (s : State) : State :=
  match s.sealPage n with
  | none => s
  | some p =>
    match p.sealing with
    | .running e into k =>
      if ¬ ok then
        if k = 0 then s.sealAgain e p else s.engineFault e 2
      else if s.deltaFull ∧ ((s.referrers p.handle).any fun x => hasPersisted x.1) = true then
        { s with flash := { s.flash with stalled := addNew n s.flash.stalled } }
      else (s.commitSeal p e into).schedule
    | _ => s

/-- The fence lifts once the held steps have run, or they fail a third time and it stays (R440). -/
def State.fenceLift (ptn : Nat) (ok : Bool) (s : State) : State :=
  let mine := (enumFrom 0 s.eng.engines).filterMap fun x => match x.2.step with
    | some (q, y) => if q = ptn ∧ s.eng.held.any (fun h => h.step == y && h.faults == 2) then some (x.1, y) else none
    | none => none
  if ok then
    let s := mine.foldl (fun s x => match x.2 with | .seal n => s.sealRead n true | _ => s.commitStep x.1) s
    (s.updPtn ptn fun p => { p with fenced := false }).schedule
  else mine.foldl (fun s x => s.engineFault x.1 5) s

/-! ## Control cores and automata engines (R441) -/

def State.coreFault (core cause : Nat) (s : State) : State :=
  if s.eng.coresFenced.contains core then s
  else
    let s := { s with eng := { s.eng with coresFenced := s.eng.coresFenced ++ [core] } }
    (s.raise .engRsts 4 ⟨6, 5, 2, 0xFF, core, unitDetail core 0xFF cause 0⟩).leaveCheck

/-- A version with banks in an automata engine. -/
def PatVer.inEngine (pa : Nat) (v : PatVer) : Bool :=
  (List.range v.nbanks).any fun k => engineOfBank (v.firstBank + k) == pa

/-- An automata engine fault: the first is answered by a reload and a replay (R208), the next fences the engine and leaves the
slots of its versions invalid, their staged images kept. -/
def State.automataFault (pa : Nat) (s : State) : State :=
  if s.eng.pasFenced.contains pa then s
  else if ¬ s.eng.pasFaulted.contains pa then { s with eng := { s.eng with pasFaulted := s.eng.pasFaulted ++ [pa] } }
  else
    let hit := fun (p : PatSlot) => match p.current with | some v => v.inEngine pa | none => false
    let drop := fun (p : PatSlot) => { p with old := p.old ++ p.current.toList, current := none }
    let s := { s with eng := { s.eng with pasFenced := s.eng.pasFenced ++ [pa] }
                      slots := { s.slots with pats := updWhere hit drop s.slots.pats } }
    s.raise .engRsts 5 ⟨6, 6, 2, 0xFF, pa, unitDetail pa 0xFF 4 0⟩

/-! ## Remote requests that fail (R27, R379) -/

/-- The request of a command that a SEQ names has not been answered. -/
def State.fanoutLate (id : Nat) (reqSeq : Word32) (s : State) : State :=
  match s.inflight? id with
  | none => match s.fetchBySeq none reqSeq with
    | some f => s.fetchFailed f
    | none => s
  | some i => match i.wait.inner with
    | .attend _ => s.attendFanout id reqSeq
    | .grad r => match r.remotes.find? fun x => x.reqSeq == reqSeq with
      | some x => s.gradFailed i r x 0
      | none => s
    | .recall r => match r.openReq reqSeq fun _ => true with
      | some y => (s.countFailed y.node).recallAnswered i r y (0, none)
      | none => s.queryAnswered i r reqSeq 0 []
    | _ => match s.fetchBySeq none reqSeq with
      | some f => s.fetchFailed f
      | none => s

/-- A holder or a source declines. -/
def State.declined (h : MsgHdr) (reqSeq : Word32) (reason : Nat) (s : State) : State :=
  let failed := fun (s : State) => if reason = 4 then s.countFailed h.src else s
  match s.remoteOf h.reqId h.src reqSeq with
  | some (i, r, x) => (failed s).remoteFailed i r x
  | none => match s.gradOf h.src reqSeq with
    | some (i, r, x) => s.gradFailed i r x reason
    | none => match s.recallBy h.reqId fun r => (r.openReq reqSeq (· == h.src)).isSome with
      | some (i, r) => match r.openReq reqSeq (· == h.src) with
        | some y => (failed s).recallAnswered i r y (reason, none)
        | none => s
      | none => match s.fetchBySeq (some h.src) reqSeq with
        | some f => s.fetchFailed f
        | none => s

/-! ## Persisted pages (R52) -/

/-- A sealed page has been written to flash: the journal entries of its block retire, and the lengths that depend on it
advance. -/
def State.pageWritten (h : Handle) (s : State) : State :=
  (s.referrers h).foldl (fun s x => (s.retireJournal x.1.handle x.2.1 x.2.2).notePersisted x.1.handle x.2.1) s

def State.persistedWritten (h : Handle) (s : State) : State :=
  match s.page? h with
  | none => s
  | some p =>
    if p.job ≠ .toFlash then s
    else match s.writePage p with
      | none => s.enterReadOnly
      | some t => ((t.updPage h Page.endJob).pageWritten h).progress

/-! ## Commands -/

def execSealStart (engine : Fin 68) (page : PageName) (s : State) : Host.Outcome State Fault Refusal :=
  .next (s.startSeal engine page)
/-- R24: a queued seal takes the priority of attends. -/
def execSealPriorityRaise (page : PageName) (s : State) : Host.Outcome State Fault Refusal :=
  .next (match s.sealPage page with
    | some p => if p.sealing = .queued false then (s.raiseSeal p.handle).countPtn p.ptn 1 13 else s
    | none => s)
def execSealCommit (page : PageName) (ok : Bool) (s : State) : Host.Outcome State Fault Refusal := .next (s.sealRead page ok)
def execPersistedPageWritten (page : Handle) (s : State) : Host.Outcome State Fault Refusal := .next (s.persistedWritten page)
def execEngineStepCommit (engine : Fin 68) (s : State) : Host.Outcome State Fault Refusal := .next (s.commitStep engine)
def execFanoutTimeout (id : Nat) (reqSeq : Word32) (s : State) : Host.Outcome State Fault Refusal := .next (s.fanoutLate id reqSeq)
def execPartialDecline (h : MsgHdr) (reqSeq : Word32) (reason : Nat) (s : State) : Host.Outcome State Fault Refusal :=
  .next (s.unordered h fun s => s.declined h reqSeq reason)
def execEngineFault (engine : Fin 68) (cause : EngCause) (s : State) : Host.Outcome State Fault Refusal :=
  .next (s.engineFault engine (EngCause.code cause))
/-- R437: only a step that runs can make no progress. -/
def execEngineWatchdogExpiry (engine : Fin 68) (s : State) : Host.Outcome State Fault Refusal :=
  .next (if ((s.eng.engines[engine.val]?).bind (·.step)).isSome then s.engineFault engine 5 else s)
def execSpareEngineReady (engine : Fin 68) (s : State) : Host.Outcome State Fault Refusal := .next (s.spareReady engine)
def execPartitionFence (ptn : Fin 32) (s : State) : Host.Outcome State Fault Refusal := .next (s.partitionFence ptn)
def execPartitionFenceLift (ptn : Fin 32) (ok : Bool) (s : State) : Host.Outcome State Fault Refusal := .next (s.fenceLift ptn ok)
def execControlCoreFault (core : Fin 24) (cause : Nat) (s : State) : Host.Outcome State Fault Refusal :=
  .next (s.coreFault core cause)
def execAutomataEngineFault (pa : Fin 8) (s : State) : Host.Outcome State Fault Refusal := .next (s.automataFault pa)

/-- A fault in the key slots 0 to 31 of a crypto unit fences the partition whose slot it is; its storage key is loaded again
(R440). -/
def execKeySlotFault (ptn : Fin 32) (_ : Die) (s : State) : Host.Outcome State Fault Refusal := .next (s.fencePtn ptn 0 [])

end Sys2Proof.Machine
end

