-- ==== Sys2Proof/Machine/Hosts.lean ====
section
/-! DEFINITION. Contexts, command queues, context windows and trigger chains as commands make and end them
(11_command_reference.md R297 to R299, R321, R322; 12_host_ports.md R337, R338, R341 to R344). -/

namespace Sys2Proof.Machine

/-! ## Queue bodies (R297) -/

/-- A 16-byte GID as it travels, most significant byte first (DEDUCED, log 30). -/
def gidOf (b : List Byte) : BitVec 128 := BitVec.ofNat 128 (leNat b.reverse)
def gidBytes (g : BitVec 128) : List Byte := (leBytes 16 g.toNat).reverse

/-- The ranges of a queue body for a window of `2 ^ winLog2` bytes and a partition's QUEUE_MAX. -/
def queueBodyOk (b : List Byte) (winLog2 queueMax : Nat) : Bool :=
  let inR := fun (n lo hi : Nat) => decide (lo ≤ n ∧ n ≤ hi)
  inR (field b 0 1) 0 3 && inR (field b 1 1) 0 1 && inR (field b 2 2) 16 4096 && inR (field b 4 1) 16 30 &&
  inR (field b 5 1) 8 12 && decide (field b 6 2 < queueMax) &&
  field b 20 4 % 8 == 0 && decide (field b 20 4 + 8 ≤ 2 ^ winLog2) &&
  (if field b 1 1 = 1 then field b 24 8 % 8 == 0 else field b 24 8 == 0) &&
  decide (field b 48 4 < 2 ^ 24) && decide (field b 52 4 < 2 ^ 24) && zeros (slice b 56 8)

/-- The lowest number from `n` on that no queue pair has, within `fuel` steps. -/
def State.lowestQpn (s : State) : Nat → Nat → Nat
  | 0, n => n
  | k + 1, n => if (s.queue? n).isSome then s.lowestQpn k (n + 1) else n

/-- The queue pair number of a new queue: the node's choice where it is free and in range (log 15). -/
def State.newQpn (s : State) : Nat :=
  let c := Config.qpnPick s.freeCtr
  if 2 ≤ c ∧ c < 2 ^ 24 ∧ (s.queue? c).isNone then c else s.lowestQpn (s.host.queues.length + 1) 2

/-- A rate in units of 100 Mbit/s at which a port runs (R332). -/
def State.lineRate (s : State) (port : Nat) : Nat := modeRate (s.port port).mode

/-- A new queue as its body gives it; its rate is the port's (R351). -/
def State.newQueue (s : State) (b : List Byte) (ctx ptn : Nat) : Queue where
  qpn := s.newQpn
  num := field b 6 2
  ctx := ctx
  ptn := ptn
  port := field b 0 1
  poll := field b 1 1 == 1
  qdepth := field b 2 2
  ringLog2 := field b 4 1
  mtuLog2 := field b 5 1
  ringAddr := BitVec.ofNat 64 (field b 8 8)
  ringRkey := BitVec.ofNat 32 (field b 16 4)
  headOff := field b 20 4
  tailAddr := BitVec.ofNat 64 (field b 24 8)
  remoteGid := gidOf (slice b 32 16)
  remoteQpn := field b 48 4
  remotePsn := field b 52 4
  localPsn := Config.psnPick s.freeCtr % 2 ^ 24
  err := false
  backlog := []
  written := 0
  consumed := 0
  waiting := []
  posted := []
  rate := s.lineRate (field b 0 1)
  srtt := none
  minDelay := none
  cnpSeen := false
  cnpAt := none
  wheel := 0
  retries := 0
  rnrRetries := 0
  egress := []

/-- The queue reply (R297). -/
def State.queueReply (s : State) (q : Queue) : List Byte :=
  leBytes 2 q.num ++ zeroBytes 2 ++ leBytes 4 q.qpn ++ leBytes 4 q.localPsn ++ zeroBytes 4 ++ gidBytes (s.portGid q.port)

def State.ptnQueues (s : State) (ptn : Nat) : List Queue := s.host.queues.filter fun q => q.ptn == ptn

/-- The limits on queues: 65,536 in the node, 64 in a context (R261), QUEUE_MAX in a partition. -/
def State.queueRoom (s : State) (ctx ptn : Nat) : Bool :=
  decide (s.host.queues.length < 65536) && decide ((s.host.queues.filter fun q => q.ctx == ctx).length < 64) &&
  decide ((s.ptnQueues ptn).length < ((s.ptn? ptn).map (·.queueMax)).getD 0)

def State.addQueue (q : Queue) (s : State) : State :=
  { s.drawn with host := { s.host with queues := s.host.queues ++ [q] } }

/-! ## Windows (R321, R338) -/

def Ctx.rkey (c : Ctx) : Word32 := BitVec.ofNat 32 (c.num * 2 ^ 20 + c.rkeySerial)

/-- The window reply. -/
def Ctx.windowReply (c : Ctx) : List Byte :=
  leBytes 4 c.rkey.toNat ++ zeroBytes 4 ++ leBytes 8 c.base.toNat ++ leBytes 8 (winSize c)

/-- The serial after `n`: 20 bits, skipping 0 (R338). -/
def nextSerial (n : Nat) : Nat := if (n + 1) % 2 ^ 20 = 0 then 1 else (n + 1) % 2 ^ 20

/-- Issues a key for a context number. -/
def State.issueKey (ctx : Nat) (s : State) : Nat × State :=
  let n := nextSerial ((assoc ctx s.host.keySerials).getD 0)
  (n, { s with host := { s.host with keySerials := assocSet ctx n s.host.keySerials } })

/-- A die with a free window key slot, of the 4,048 that each has (R405); the west one first (log 16). -/
def State.windowDie (s : State) : Option Die :=
  let used := fun d => (s.host.ctxs.filter fun c => c.winDie == d).length
  if used .west < 4048 then some .west else if used .east < 4048 then some .east else none

/-! ## `CTX_CREATE` (R298) -/

def ctxQueueBody (b : List Byte) : List Byte := b.drop 16

/-- The queue number exists in the partition. -/
def State.queueTaken (s : State) (ptn num : Nat) : Bool := s.host.queues.any fun q => q.ptn == ptn && q.num == num

def ctxCreateSeven (c : Cmd) (s : State) : Option Status :=
  let b := c.data
  if b.length ≠ 80 ∨ ¬ zeros (slice b 5 11) then some .badParam
  else
    let ptn := field b 2 1
    match s.ptn? ptn with
    | none => some .badParam
    | some p =>
      let n := field b 0 2
      if ¬ (p.ctxFirst ≤ n ∧ n < p.ctxFirst + p.ctxCount) ∨ 7 < field b 3 1 ∨ field b 4 1 < 20 ∨ 34 < field b 4 1 then some .badParam
      else if ¬ queueBodyOk (ctxQueueBody b) (field b 4 1) p.queueMax then some .badParam
      else if (s.ctx? n).isSome ∨ s.queueTaken ptn (field (ctxQueueBody b) 6 2) then some .conflict
      else none

def ctxCreateRun (c : Cmd) (s : State) : Res :=
  let b := c.data
  let n := field b 0 2
  let ptn := field b 2 1
  let wl := field b 4 1
  match s.windowDie, s.queueRoom n ptn with
  | some die, true =>
    match s.quotaRoom ptn (windowFrames wl) with
    | none => .no .noSpace
    | some s =>
      let (serial, s) := s.issueKey n
      let base : Word64 := BitVec.ofNat 64 (Config.windowBase s.freeCtr * 2 ^ wl)
      let x : Ctx := ⟨n, ptn, field b 3 1, wl, base, serial, [], List.replicate 4 none, s.trust.nextKey, die, none⟩
      let q := s.newQueue (ctxQueueBody b) n ptn
      let s := { s with host := { s.host with ctxs := s.host.ctxs ++ [x] }, trust := { s.trust with nextKey := s.trust.nextKey + 1 } }
      let s := (s.clearCtxCounters n).addQueue q
      .ok (s.queueReply q ++ x.windowReply) s
  | _, _ => .no .noSpace

/-- A duplicate of a creation describes the queue and the window as they stand (R291). -/
def ctxCreateDup (c : Cmd) (s : State) : Res :=
  let b := c.data
  match s.ctxQueue? (field b 0 2) (field (ctxQueueBody b) 6 2), s.ctx? (field b 0 2) with
  | some q, some x => .done .okDuplicate (s.queueReply q ++ x.windowReply) s
  | _, _ => .done .okDuplicate [] s

def ctxCreateDef : OpDef := ⟨fun _ => .nothing, noSix, ctxCreateSeven, fun _ _ => 56, ctxCreateRun, ctxCreateDup⟩

/-! ## `QUEUE_CREATE`, `QUEUE_DESTROY` and `CTX_DESTROY` (R299) -/

/-- The context and queue that a command came on. -/
def Cmd.ctx (c : Cmd) : Nat := ((c.pkt.ctxOf).map (·.1)).getD 0xFFFF
def Cmd.queue (c : Cmd) : Nat := ((c.pkt.ctxOf).map (·.2)).getD 0xFFFF

def queueCreateSeven (c : Cmd) (s : State) : Option Status :=
  match s.ctx? c.ctx with
  | none => some .badParam
  | some x =>
    if c.data.length ≠ 64 ∨ ¬ queueBodyOk c.data x.winLog2 (((s.ptn? c.ptn).map (·.queueMax)).getD 0) then some .badParam
    else if s.queueTaken c.ptn (field c.data 6 2) then some .conflict
    else none

def queueCreateRun (c : Cmd) (s : State) : Res :=
  if ¬ s.queueRoom c.ctx c.ptn then .no .noSpace
  else
    let q := s.newQueue c.data c.ctx c.ptn
    .ok (s.queueReply q) (s.addQueue q)

def queueCreateDup (c : Cmd) (s : State) : Res :=
  match s.ctxQueue? c.ctx (field c.data 6 2) with
  | some q => .done .okDuplicate (s.queueReply q) s
  | none => .done .okDuplicate [] s

def queueCreateDef : OpDef := ⟨fun _ => .nothing, noSix, queueCreateSeven, fun _ _ => 32, queueCreateRun, queueCreateDup⟩

/-- A command in flight forgets its queue: it completes, and its reply is discarded (R287). -/
def forgetQueue (q : Queue) (i : Inflight) : Inflight :=
  if i.pkt.src = .host q.ctx q.num then { i with pkt := { i.pkt with src := .host q.ctx (goneQueue q.qpn q.port) } } else i

/-- A chain that is firing when its queue pair fails or goes reaches its end: STATE 2, with TRIG_FAIL (R344, R355). -/
def State.failFiring (q : Queue) : List Chain → State → State
  | [], s => s
  | c :: l, s =>
    State.failFiring q l
      (if c.queue = q.qpn ∧ c.state = .firing then
        (s.updChain c.ptn c.num fun x => { x with state := .fired, reply := none }).raise (.hptPortSts q.port) 5
          ⟨4, 9, 1, q.ptn, 64 + q.port, zeroBytes 4 ++ leBytes 4 q.qpn⟩
      else s)

/-- The replies that waited for ring space are discarded, with their chains (R287, R344). -/
def State.dropWaiting (q : Queue) : List Reply → State → State
  | [], s => s
  | r :: l, s => State.dropWaiting q l (s.chainLost q.qpn q.port r.reqId)

/-- A queue goes: what it waited to write is discarded. -/
def State.removeQueue (q : Queue) (s : State) : State :=
  let s := (s.dropWaiting q q.waiting).failFiring q s.host.chains
  { s with host := { s.host with queues := s.host.queues.filter fun x => !(x.qpn == q.qpn) }
           cmds := { s.cmds with list := s.cmds.list.map (forgetQueue q) } }

def queueDestroySeven (c : Cmd) (_ : State) : Option Status :=
  if c.data.length ≠ 8 ∨ ¬ zeros (slice c.data 2 6) ∨ field c.data 0 2 = c.queue then some .badParam else none

/-- R299, R529: a queue that does not exist leaves the state that a first run would. -/
def queueDestroyRun (c : Cmd) (s : State) : Res :=
  match s.ctxQueue? c.ctx (field c.data 0 2) with
  | none => .ok [] s
  | some q => .ok [] (s.removeQueue q)

def queueDestroyDef : OpDef := ⟨fun _ => .nothing, noSix, queueDestroySeven, noReply, queueDestroyRun, emptyDup⟩

def ctxDestroySeven (c : Cmd) (s : State) : Option Status :=
  if c.data.length ≠ 8 ∨ ¬ zeros (slice c.data 2 6) then some .badParam
  else match s.ctx? (field c.data 0 2) with
    | some x => if x.revoking = some none then some .badParam else none
    | none => some .badParam

/-- Every `WINDOW_REKEY` of a context that waits replies with the window reply. -/
def State.endRekeys (n : Nat) : List Inflight → State → State
  | [], s => s
  | i :: l, s =>
    State.endRekeys n l
      (if i.wait = .rekey n then s.complete i .ok none 0 (((s.ctx? n).map Ctx.windowReply).getD []) else s)

/-- A context's queues, chains and key slots go at once; its window goes when the revocation completes (R299, R341). -/
def State.destroyCtx (n : Nat) (s : State) : State :=
  let s := s.endRekeys n s.cmds.list
  let s := (s.host.queues.filter fun q => q.ctx == n).foldl (fun s q => s.removeQueue q) s
  { s with host := { s.host with
      chains := s.host.chains.filter fun c => !(c.ctx == n)
      ctxs := updWhere (fun c => c.num == n) (fun c => { c with keys := List.replicate 4 none, revoking := some none }) s.host.ctxs } }

def ctxDestroyDef : OpDef :=
  ⟨fun _ => .nothing, noSix, ctxDestroySeven, noReply, fun c s => .ok [] (s.destroyCtx (field c.data 0 2)), emptyDup⟩

/-! ## `WINDOW_REKEY` and `WINDOW_DESCRIBE` (R321, R341) -/

def rekeySeven (c : Cmd) (s : State) : Option Status :=
  if c.data.length ≠ 8 ∨ ¬ zeros c.data ∨ (s.ctx? c.ctx).isNone then some .badParam else none

/-- The revocation point: the old key stops, the reply waits for the operations admitted under it. -/
def rekeyRun (c : Cmd) (s : State) : Res :=
  match s.ctx? c.ctx with
  | none => .no .badParam
  | some x =>
    let (n, s) := s.issueKey x.num
    .wait (.rekey x.num) [] (s.updCtx x.num fun y => { y with rkeySerial := n, revoking := some (some s.cmds.nextId) })

def State.windowOf (c : Cmd) (st : Status) (s : State) : Res :=
  match s.ctx? c.ctx with
  | none => .done st [] s
  | some x => .done st x.windowReply s

def rekeyDef : OpDef := ⟨fun _ => .nothing, noSix, rekeySeven, fun _ _ => 24, rekeyRun, fun c s => s.windowOf c .okDuplicate⟩

def describeWindowSeven (c : Cmd) (s : State) : Option Status :=
  if c.data ≠ [] ∨ (s.ctx? c.ctx).isNone then some .badParam else none

def windowDescribeDef : OpDef :=
  ⟨fun _ => .nothing, noSix, describeWindowSeven, fun _ _ => 24, fun c s => s.windowOf c .ok, emptyDup⟩

/-- REVOCATION_COMPLETE (R341): the rekey replies, or the window is freed. -/
def State.revoked (n : Nat) (s : State) : State :=
  match (s.ctx? n).bind (·.revoking) with
  | none => s
  | some none => { s with host := { s.host with ctxs := s.host.ctxs.filter fun c => !(c.num == n) } }
  | some (some _) => (s.updCtx n fun c => { c with revoking := none }).endRekeys n s.cmds.list

/-! ## Trigger chains (R322, R342) -/

/-- A work request of 32 bytes, where its fields hold what R322 says. -/
def parseWr (b : List Byte) : Option Wr :=
  let w : Wr := ⟨field b 0 1, field b 1 1, BitVec.ofNat 32 (field b 4 4), BitVec.ofNat 64 (field b 8 8), field b 16 4, field b 20 4,
    BitVec.ofNat 64 (field b 24 8)⟩
  let ok : Bool :=
    field b 2 2 == 0 &&
    (if w.kind = 1 then decide (w.src ≤ 1) && w.operand == 0
     else if w.kind = 2 then decide (w.src ≤ 1) && decide (w.operand.toNat < 2 ^ 32)
     else if w.kind = 3 then w.src == 0 && w.length == 0 && w.addr.toNat % 8 == 0
     else false)
  if ok then some w else none

def State.chain? (s : State) (ptn num : Nat) : Option Chain := s.host.chains.find? fun c => c.ptn == ptn && c.num == num

def State.trigMax (s : State) (ptn : Nat) : Nat := ((s.ptn? ptn).map (·.trigMax)).getD 0

/-- A chain that is armed or firing. -/
def Chain.armed (c : Chain) : Bool := c.state != .fired

/-- The chain number is within the partition's TRIG_MAX and no other context's (R322, R395; log 30). -/
def State.chainNamed (s : State) (c : Cmd) (num : Nat) : Option Status :=
  if s.trigMax c.ptn ≤ num then some .badParam
  else match s.chain? c.ptn num with
    | some x => if x.ctx = c.ctx then none else some .denied
    | none => none

def trigWrs (b : List Byte) : Option (List Wr) := (chunks 32 (b.drop 16)).mapM parseWr

def trigPostSeven (c : Cmd) (s : State) : Option Status :=
  let b := c.data
  let n := field b 4 1
  if n < 1 ∨ 16 < n ∨ b.length ≠ 16 + 32 * n ∨ ¬ zeros (slice b 5 3) ∨ (trigWrs b).isNone then some .badParam
  else if s.trigMax c.ptn ≤ field b 0 2 then some .badParam
  else match s.ctxQueue? c.ctx (field b 2 2) with
    | none => some .badParam
    | some q =>
      let armed : Bool := match s.chain? c.ptn (field b 0 2) with | some x => x.armed | none => false
      if armed ∨ s.host.chains.any (fun x => x.queue == q.qpn && x.reqMatch == BitVec.ofNat 64 (field b 8 8) && x.armed)
      then some .conflict
      else (s.chainNamed c (field b 0 2))

def trigPostRun (c : Cmd) (s : State) : Res :=
  let b := c.data
  match s.ctxQueue? c.ctx (field b 2 2), trigWrs b with
  | some q, some wrs =>
    let s := s.dropChain c.ptn (field b 0 2)
    if 65536 ≤ s.host.chains.length then .no .noSpace
    else
      let x : Chain := ⟨c.ptn, field b 0 2, c.ctx, q.qpn, BitVec.ofNat 64 (field b 8 8), wrs, .armed, none⟩
      .ok [] { s with host := { s.host with chains := s.host.chains ++ [x] } }
  | _, _ => .no .badParam

def trigPostDef : OpDef := ⟨fun _ => .nothing, noSix, trigPostSeven, noReply, trigPostRun, emptyDup⟩

def trigNameSeven (c : Cmd) (s : State) : Option Status :=
  if c.data.length ≠ 8 ∨ ¬ zeros (slice c.data 2 6) then some .badParam else s.chainNamed c (field c.data 0 2)

/-- R322, R342: an armed chain is cancelled; one that fires completes; a fired one becomes free. -/
def trigCancelRun (c : Cmd) (s : State) : Res :=
  let num := field c.data 0 2
  let answer := fun (n : Nat) => leBytes 1 n ++ zeroBytes 7
  match s.chain? c.ptn num with
  | none => .ok (answer 2) s
  | some x =>
    match x.state with
    | .armed => .ok (answer 0) (s.dropChain c.ptn num)
    | .firing => .ok (answer 1) s
    | .fired => .ok (answer 1) (s.dropChain c.ptn num)

def trigCancelDef : OpDef := ⟨fun _ => .nothing, noSix, trigNameSeven, fun _ _ => 8, trigCancelRun, emptyDup⟩

def trigDescribeRun (c : Cmd) (s : State) : Res :=
  match s.chain? c.ptn (field c.data 0 2) with
  | none => .ok (zeroBytes 16) s
  | some x => .ok (leBytes 1 (if x.armed then 1 else 2) ++ leBytes 1 x.wrs.length ++ zeroBytes 6 ++ leBytes 8 x.reqMatch.toNat) s

def trigDescribeDef : OpDef := ⟨fun _ => .nothing, noSix, trigNameSeven, fun _ _ => 16, trigDescribeRun, emptyDup⟩

/-! ## The commands -/

def runCtxCreate (p : Packet) (s : State) : State := s.arriveAll .ctxCreate ctxCreateDef p
def runCtxDestroy (p : Packet) (s : State) : State := s.arriveAll .ctxDestroy ctxDestroyDef p
def runQueueCreate (p : Packet) (s : State) : State := s.arriveAll .queueCreate queueCreateDef p
def runQueueDestroy (p : Packet) (s : State) : State := s.arriveAll .queueDestroy queueDestroyDef p
def runWindowRekey (p : Packet) (s : State) : State := s.arriveAll .windowRekey rekeyDef p
def runWindowDescribe (p : Packet) (s : State) : State := s.arriveAll .windowDescribe windowDescribeDef p
def runTrigPost (p : Packet) (s : State) : State := s.arriveAll .trigPost trigPostDef p
def runTrigCancel (p : Packet) (s : State) : State := s.arriveAll .trigCancel trigCancelDef p
def runTrigDescribe (p : Packet) (s : State) : State := s.arriveAll .trigDescribe trigDescribeDef p

def execRevocationComplete (ctx : Nat) (s : State) : Host.Outcome State Fault Refusal := .next (s.revoked ctx)

end Sys2Proof.Machine
end

