-- ==== Sys2Proof/Machine/Transport.lean ====
section
/-! DEFINITION. The host ports' transport: RDMA operations on context windows, acknowledgements and retries, rate control,
and what a port starts next (12_host_ports.md R335 to R351, R355). -/

namespace Sys2Proof.Machine

/-! ## Errors of a queue pair (R286, R337, R344) -/

/-- A queue pair enters the error state (R337): what it had to send or take goes, its firing chain fails. -/
def State.queueError (qpn : Nat) (s : State) : State :=
  match s.queue? qpn with
  | none => s
  | some q =>
    if q.err then s
    else
      let s := s.updQueue qpn fun x => { x with err := true, egress := [], posted := [], backlog := [], waiting := [] }
      let s := (s.dropWaiting q q.waiting).failFiring q s.host.chains
      (s.count 5 nodeScope (hostTel q.port 12)).raise (.hptPortSts q.port) 3 ⟨4, 8, 1, q.ptn, 64 + q.port, zeroBytes 4 ++ leBytes 4 qpn⟩

/-- The queue pair can receive: it is not in error, and its port is up. -/
def State.receives (s : State) (qpn : Nat) : Option Queue :=
  match s.queue? qpn with
  | none => none
  | some q => if q.err ∨ (s.port q.port).state ≠ 2 then none else some q

def State.countFrame (q : Queue) (s : State) : State := s.count 5 nodeScope (hostTel q.port 1)

/-- A SEND shorter than 32 B or longer than 65,536 B (R262, R265). -/
def State.sendLength (qpn len : Nat) (s : State) : State :=
  match s.receives qpn with
  | none => s
  | some q => if len < 32 ∨ 65536 < len then (s.countFrame q).queueError qpn else s

/-- A SEND that finds no posted buffer (R262, R337). -/
def State.sendUnbuffered (qpn : Nat) (s : State) : State :=
  match s.receives qpn with
  | none => s
  | some q => (s.countFrame q).emit (.rnrNak qpn)

/-! ## Window operations (R338 to R340) -/

/-- The context whose window an operation on a queue may address (R338): the key is the context's, every byte lies in the
window; the offset in the window. -/
def State.windowAt (s : State) (q : Queue) (a : RdmaAddr) (len : Nat) : Option (Ctx × Nat) :=
  match s.ctx? q.ctx with
  | none => none
  | some c =>
    if a.rkey = c.rkey ∧ c.base.toNat ≤ a.addr.toNat ∧ a.addr.toNat + len ≤ c.base.toNat + winSize c then
      some (c, a.addr.toNat - c.base.toNat)
    else none

/-- A refused window operation (R338): the NAK, the error state, the count. -/
def State.refuseWindow (q : Queue) (s : State) : State :=
  ((s.emit (.accessNak q.qpn)).queueError q.qpn).count 7 nodeScope (4 * q.ctx + 2)

/-- The queues of a context whose head word a WRITE touched report the count that it now holds (R272). -/
def State.noteHeads (ctx off len : Nat) (w : Mem) (s : State) : State :=
  let touched := fun (q : Queue) => q.ctx == ctx && decide (off < q.headOff + 4) && decide (q.headOff < off + len)
  (s.host.queues.filter touched).foldl (fun s q => s.ringSpace q.qpn (leNat (Mem.readList w q.headOff 4))) s

def State.rdmaWrite (qpn : Nat) (a : RdmaAddr) (data : List Byte) (s : State) : State :=
  match s.receives qpn with
  | none => s
  | some q =>
    let s := s.countFrame q
    match s.windowAt q a data.length with
    | none => s.refuseWindow q
    | some (c, off) =>
      let w := Mem.writeList c.window off data
      ((s.updCtx c.num fun x => { x with window := w }).noteHeads c.num off data.length w).emit (.writeAck qpn)

def State.rdmaRead (qpn : Nat) (a : RdmaAddr) (len : Nat) (s : State) : State :=
  match s.receives qpn with
  | none => s
  | some q =>
    let s := s.countFrame q
    match s.windowAt q a len with
    | none => s.refuseWindow q
    | some (c, off) => (s.post qpn .response len false).emit (.readResponse qpn (Mem.readList c.window off len))

/-- An atomic operation replaces an aligned word by `f` of it and returns what it held; a word that is not aligned draws
an invalid-request NAK (R336, R340; log 30). -/
def State.atomic (qpn : Nat) (a : RdmaAddr) (f : Nat → Nat) (s : State) : State :=
  match s.receives qpn with
  | none => s
  | some q =>
    let s := s.countFrame q
    if a.addr.toNat % 8 ≠ 0 then s.emit (.invalidNak qpn)
    else match s.windowAt q a 8 with
      | none => s.refuseWindow q
      | some (c, off) =>
        let old := leNat (Mem.readList c.window off 8)
        let w := Mem.writeList c.window off (leBytes 8 (f old))
        let s := (s.updCtx c.num fun x => { x with window := w }).noteHeads c.num off 8 w
        (s.post qpn .response 8 false).emit (.atomicResponse qpn (BitVec.ofNat 64 old))

/-- An RDMA WRITE with immediate is not accepted (R336). -/
def State.writeImm (qpn : Nat) (s : State) : State :=
  match s.receives qpn with
  | none => s
  | some q => (s.countFrame q).emit (.invalidNak qpn)

/-! ## Acknowledgements and retries (R271, R337, R343, R350) -/

/-- What follows the acknowledgement of a posted message: the tail word of a record in POLL mode, then its chain. -/
def State.afterAck (qpn : Nat) (p : Posted) (s : State) : State :=
  match p.kind with
  | .record (some n) ch =>
    let s := (s.post qpn .tailWord 8 false).emit (.tailWord qpn n)
    match s.queue? qpn, ch with
    | some q, some num =>
      match s.chain? q.ptn num with
      | some c => match c.reply with
        | some r => s.postChain q c r
        | none => s
      | none => s
    | _, _ => s
  | _ => s

def ccOn (s : State) : Bool := s.rf .hptCc2 16 1 == 1

/-- The smoothed delay after a sample (R351). -/
def smooth (old : Option Rat) (sample : Nat) : Rat :=
  match old with
  | none => sample
  | some x => x + ((sample : Rat) - x) / 8

/-- An acknowledgement of the first `upTo` posted messages with a delay sample. -/
def State.acked (qpn upTo delay : Nat) (s : State) : State :=
  match s.queue? qpn with
  | none => s
  | some q =>
    if q.err then s
    else
      let done := q.posted.take upTo
      let s := s.updQueue qpn fun x =>
        { x with posted := x.posted.drop upTo, retries := 0, rnrRetries := 0, srtt := some (smooth x.srtt delay),
                 minDelay := some (match x.minDelay with | some d => min d delay | none => delay) }
      (done.foldl (fun s p => s.afterAck qpn p) s).flush qpn

/-- Every posted message goes again from the first (go-back-N, R337). -/
def State.goBack (qpn : Nat) (s : State) : State :=
  match s.queue? qpn with
  | none => s
  | some q =>
    ((s.updQueue qpn fun x => { x with egress := x.posted.flatMap (·.frames) }).count 5 nodeScope (hostTel q.port 11)).emit
      (.retransmit qpn)

def State.rmin (s : State) : Nat := s.rf .hptCc1 16 12

/-- ACK_TIMEOUT: a retransmission at half the rate, or the error state once RETRY_CNT is spent (R337, R351). -/
def State.ackTimedOut (qpn : Nat) (s : State) : State :=
  match s.queue? qpn with
  | none => s
  | some q =>
    if q.err ∨ q.posted = [] then s
    else if s.rf .hptRc 5 3 ≤ q.retries then s.queueError qpn
    else
      let rate := if ccOn s then max (s.rmin : Rat) (q.rate / 2) else q.rate
      (s.updQueue qpn fun x => { x with retries := x.retries + 1, rate := rate }).goBack qpn

/-- The host's receiver-not-ready NAK (R337): retried up to RNR_RETRY, 7 without limit. -/
def State.gotRnr (qpn : Nat) (s : State) : State :=
  match s.queue? qpn with
  | none => s
  | some q =>
    let limit := s.rf .hptRc 8 3
    if q.err ∨ q.posted = [] then s
    else if limit ≠ 7 ∧ limit ≤ q.rnrRetries then s.queueError qpn
    else (s.updQueue qpn fun x => { x with rnrRetries := x.rnrRetries + 1 }).goBack qpn

/-- A chain's last work request has been acknowledged, or one drew a NAK, which takes the queue pair to the error state
with the chain at STATE 2 (R344). -/
def State.chainDone (ptn num : Nat) (nak : Bool) (s : State) : State :=
  match s.chain? ptn num with
  | none => s
  | some c =>
    if c.state ≠ .firing ∨ c.reply.isSome then s
    else if nak then
      if (s.queue? c.queue).isSome then s.queueError c.queue else s.updChain ptn num fun x => { x with state := .fired }
    else s.updChain ptn num fun x => { x with state := .fired }

/-! ## Rate control (R351, R352) -/

def State.gotCnp (qpn : Nat) (s : State) : State :=
  match s.receives qpn with
  | none => s
  | some q => (s.updQueue qpn fun x => { x with cnpSeen := true }).count 5 nodeScope (hostTel q.port 10)

/-- At most one notification per queue pair every 50 µs (R352). -/
def State.gotCe (qpn : Nat) (s : State) : State :=
  match s.receives qpn with
  | none => s
  | some q =>
    let s := s.countFrame q
    let due : Bool := match q.cnpAt with | none => true | some t => decide (t + 50000 ≤ s.pow.tsc.toNat)
    if s.rf .hptCc2 17 1 = 1 ∧ due then
      ((s.updQueue qpn fun x => { x with cnpAt := some s.pow.tsc.toNat }).count 5 nodeScope (hostTel q.port 9)).emit (.cnp qpn)
    else s

/-- The rate after an update period (R351). -/
def State.newRate (s : State) (q : Queue) : Rat :=
  let d := q.minDelay.getD 0
  let t := s.rf .hptCc0 0 12 * 100
  let line : Rat := s.lineRate q.port
  if ¬ ccOn s then line
  else
    let r :=
      if t < d then
        q.rate * max (1 - (s.rf .hptCc1 0 8 : Rat) / 256) (1 - (s.rf .hptCc0 20 8 : Rat) / 256 * (((d - t : Nat) : Rat) / (d : Rat)))
      else if q.cnpSeen then q.rate * (1 - (s.rf .hptCc1 8 8 : Rat) / 256)
      else q.rate + (s.rf .hptCc0 12 8 : Rat)
    min line (max (s.rmin : Rat) r)

def State.ccPeriod (qpn : Nat) (s : State) : State :=
  match s.queue? qpn with
  | none => s
  | some q => s.updQueue qpn fun x => { x with rate := s.newRate q, minDelay := none, cnpSeen := false }

def State.idleReset (qpn : Nat) (s : State) : State :=
  match s.queue? qpn with
  | none => s
  | some q => s.updQueue qpn fun x => { x with rate := s.lineRate q.port }

/-! ## Egress (R345 to R349) -/

/-- The last boundary of the timing wheel's slots (R347). -/
def State.slotNs (s : State) : Nat := 2 ^ s.rf .hptWheel 0 4
def State.slotFloor (s : State) : Nat := s.pow.tsc.toNat / s.slotNs * s.slotNs

def State.shpRate (s : State) (n c : Nat) : Nat := s.rf (.hptShp n c) 0 16
/-- BURST in the units of `Port.tokens`. -/
def State.shpBurst (s : State) (n c : Nat) : Nat := s.rf (.hptShp n c) 16 14 * 1024 * 80

/-- Tokens accrue up to the last slot boundary (R346, R347). -/
def State.accrue (n : Nat) (s : State) : State :=
  let p := s.port n
  let t := s.slotFloor
  if t ≤ p.tokensAt then s
  else
    let tk := (enumFrom 0 p.tokens).map fun x => min (s.shpBurst n x.1) (x.2 + s.shpRate n x.1 * (t - p.tokensAt))
    s.updPort n fun x => { x with tokens := tk, tokensAt := t }

/-- Sets a class's tokens as a change of RATE or BURST, or EN, does (R346). -/
def State.resetTokens (n c : Nat) (s : State) : State :=
  let v := if s.rf (.hptShp n c) 30 1 = 1 then s.shpBurst n c else 0
  s.updPort n fun x => { x with tokens := updAt c (fun _ => v) x.tokens }

/-- The guard band in ns, rounded up (R348). -/
def guardNs (mode : Nat) : Nat := if mode ≤ 1 then 44 else if mode ≤ 3 then 88 else 175

def State.hostEnt (s : State) (n : Nat) : Nat := max 1 (s.rf (.hptPortGctl n) 4 5)

/-- The gate of class `c` is open now and for the guard band (R348). -/
def State.gateOpen (s : State) (n c : Nat) : Bool :=
  let p := s.port n
  if s.rf (.hptPortGctl n) 0 1 = 0 ∨ ¬ p.gateRunning then true
  else gateStays (fun k => bit (s.rf (.hptPortGent n k) 24 8) c) (fun k => s.rf (.hptPortGent n k) 0 24) (s.hostEnt n)
    (s.hostEnt n + 1) p.gateEntry (s.pow.tsc.toNat - p.gateAt) (guardNs p.mode)

def State.clsPcp (s : State) (c : Nat) : Nat := s.rf (.hptCls c) 14 3

/-- The class of a queue pair: its context's (R298, R335). -/
def State.classOf (s : State) (q : Queue) : Nat := ((s.ctx? q.ctx).map (·.tclass)).getD 0

/-- Bytes sent and not acknowledged. -/
def Queue.unacked (q : Queue) : Nat := sumNat (q.posted.flatMap (·.frames)) - sumNat q.egress

/-- The queue pair may start its first frame (R345, R346, R348, R349, R351). -/
def State.eligible (s : State) (n c : Nat) (q : Queue) : Bool :=
  match q.egress with
  | [] => false
  | f :: _ =>
    q.port == n && s.classOf q == c && !q.err && decide (q.wheel ≤ s.pow.tsc.toNat) &&
    (!ccOn s || decide (((q.unacked + f : Nat) : Rat) ≤ max 8704 (2 * q.rate / 80 * ((s.rf .hptCc0 0 12 * 100 : Nat) : Rat)))) &&
    (s.shpRate n c == 0 || decide (f * 80 ≤ (s.port n).tokens.getD c 0)) && s.gateOpen n c &&
    !((s.port n).paused.contains (s.clsPcp c))

/-- The eligible queue pair of a class whose turn it is (R345). -/
def State.turn (s : State) (n c : Nat) : Option Queue :=
  let l := sortBy (fun (a b : Queue) => decide (a.qpn < b.qpn)) (s.host.queues.filter (s.eligible n c))
  let last := (s.port n).lastQp.getD c 0
  match l.find? fun q => decide (last < q.qpn) with
  | some q => some q
  | none => l.head?

/-- Deficit round robin over classes 0 to 5 (R345); `d` and `k` are the deficits and the class served last. -/
def State.hostDrr (s : State) (n : Nat) : Nat → List Nat → Nat → Option (Queue × Nat × List Nat)
  | 0, _, _ => none
  | f + 1, d, k =>
    let next := (k + 1) % 6
    let credit := fun (d : List Nat) => updAt next (· + s.rf (.hptCls next) 0 8 * 1024) d
    match s.turn n k with
    | none => let d := updAt k (fun _ => 0) d; s.hostDrr n f (credit d) next
    | some q =>
      let len := q.egress.headD 0
      if len ≤ d.getD k 0 then some (q, k, updAt k (· - len) d) else s.hostDrr n f (credit d) next

/-- The deficits of a port: a class without an eligible frame has none (R345). -/
def State.deficits (s : State) (n : Nat) : List Nat :=
  (enumFrom 0 (s.port n).deficits).map fun x => if (s.turn n x.1).isSome then x.2 else 0

/-- The frame that a port starts: its queue pair, its class, and the port's deficits (R345). A frame of 4,352 B needs at
most five rounds of the smallest quantum. -/
def State.chooseFrame (s : State) (n : Nat) : Option (Queue × Nat × List Nat) :=
  let p := s.port n
  match s.turn n 7 with
  | some q => some (q, 7, s.deficits n)
  | none =>
    match s.turn n 6 with
    | some q => some (q, 6, s.deficits n)
    | none => s.hostDrr n 37 (s.deficits n) p.lastClass

/-- The next slot boundary at or after an exact time. -/
def State.wheelAt (s : State) (t : Rat) : Nat := (t / (s.slotNs : Rat)).ceil.toNat * s.slotNs

/-- FRAME_DEPARTURE: the port starts the frame whose turn it is. In `PARK` and in the freewheel it carries idles (R468,
R477). -/
def State.departFrame (n : Nat) (s : State) : State :=
  let s := s.accrue n
  if (s.port n).state ≠ 2 ∨ s.pow.state ≠ .ride then s
  else match s.chooseFrame n with
    | none => s
    | some (q, c, d) =>
      let len := q.egress.headD 0
      let rate : Rat := if ccOn s then q.rate else s.lineRate n
      let wheel := s.wheelAt ((s.pow.tsc.toNat : Rat) + (len * 80 : Nat) / rate)
      let s := s.updQueue q.qpn fun x => { x with egress := x.egress.drop 1, wheel := wheel }
      let s := s.updPort n fun p =>
        { p with deficits := d, lastClass := if c < 6 then c else p.lastClass, lastQp := updAt c (fun _ => q.qpn) p.lastQp,
                 tokens := if s.shpRate n c = 0 then p.tokens else updAt c (· - len * 80) p.tokens }
      ((s.count 5 nodeScope (hostTel n 0)).count 5 nodeScope (hostTel n 2) len).emit (.frame n q.qpn len)

/-- The gate cycle's next entry (R348). -/
def State.hostGateNext (n : Nat) (s : State) : State :=
  if ¬ (s.port n).gateRunning then s
  else s.updPort n fun p => { p with gateEntry := (p.gateEntry + 1) % s.hostEnt n, gateAt := s.pow.tsc.toNat }

/-- A PFC frame for a selected priority pauses it, or resumes it with no quanta (R349). -/
def State.gotPfc (n p quanta : Nat) (s : State) : State :=
  if ¬ bit (s.rf (.hptPortCtl n) 8 8) p ∨ (s.port n).state ≠ 2 then s
  else
    (s.updPort n fun x => { x with paused := if quanta = 0 then delAll p x.paused else addNew p x.paused }).count 5 nodeScope
      (hostTel n 8)

def State.pfcOver (n p : Nat) (s : State) : State := s.updPort n fun x => { x with paused := delAll p x.paused }

/-- The link of an enabled port comes up or goes down (R355). -/
def State.hostLink (n : Nat) (up : Bool) (s : State) : State :=
  let st := if up then 2 else 3
  let p := s.port n
  if p.state = 0 ∨ p.state = st then s
  else (s.updPort n fun x => { x with state := st }).raise (.hptPortSts n) 0 ⟨4, 7, if up then 0 else 1, 0xFF, 64 + n, []⟩

/-! ## The commands -/

def execSendLengthError (queue len : Nat) (s : State) : Host.Outcome State Fault Refusal := .next (s.sendLength queue len)
def execSendNoBuffer (queue : Nat) (s : State) : Host.Outcome State Fault Refusal := .next (s.sendUnbuffered queue)
def execWindowRdmaRead (queue : Nat) (a : RdmaAddr) (len : Nat) (s : State) : Host.Outcome State Fault Refusal :=
  .next (s.rdmaRead queue a len)
def execRdmaWriteImmReceived (queue : Nat) (s : State) : Host.Outcome State Fault Refusal := .next (s.writeImm queue)
def execAckTimeout (queue : Nat) (s : State) : Host.Outcome State Fault Refusal := .next (s.ackTimedOut queue)
def execRnrNakReceived (queue : Nat) (s : State) : Host.Outcome State Fault Refusal := .next (s.gotRnr queue)
def execTriggerWrComplete (ptn : Fin 32) (chain : Nat) (nak : Bool) (s : State) : Host.Outcome State Fault Refusal :=
  .next (s.chainDone ptn chain nak)
def execCnpReceived (queue : Nat) (s : State) : Host.Outcome State Fault Refusal := .next (s.gotCnp queue)
def execCePacketReceived (queue : Nat) (s : State) : Host.Outcome State Fault Refusal := .next (s.gotCe queue)
def execCcUpdatePeriod (queue : Nat) (s : State) : Host.Outcome State Fault Refusal := .next (s.ccPeriod queue)
def execQpIdleReset (queue : Nat) (s : State) : Host.Outcome State Fault Refusal := .next (s.idleReset queue)
def execFrameDeparture (port : Fin 4) (s : State) : Host.Outcome State Fault Refusal := .next (s.departFrame port)
def execGateEntryExpiry (port : Fin 4) (s : State) : Host.Outcome State Fault Refusal := .next (s.hostGateNext port)
def execPfcFrameReceived (port : Fin 4) (prio : Fin 8) (quanta : Nat) (s : State) : Host.Outcome State Fault Refusal :=
  .next (s.gotPfc port prio quanta)
def execPfcPauseExpiry (port : Fin 4) (prio : Fin 8) (s : State) : Host.Outcome State Fault Refusal := .next (s.pfcOver port prio)

end Sys2Proof.Machine
end

