-- ==== Sys2Proof/Machine/Waits.lean ====
section
/-! DEFINITION. How commands that wait go on or end by their timeouts (02_sequences_and_pages.md R45, R47, R52;
10_ndox_protocol.md R277, R280, R281; 15_resilience.md R448). -/

namespace Sys2Proof.Machine

/-- Ends a command that was held before its admission, or the batch entry that was (R268, R277, R448). -/
def State.refuseHeld (i : Inflight) (st : Status) (hint : Option NodeId) (retry : Nat) (s : State) : State :=
  match i.wait with
  | .batchEntry _ _ _ => s.complete i st hint retry []
  | _ => (s.dropInflight i.id).refuse i.op i.pkt i.ptn st hint retry

/-- APPEND_GAP_FILLED (R45). -/
def State.gapFilled (id : Nat) (s : State) : State :=
  match s.inflight? id with
  | none => s
  | some i =>
    match i.wait with
    | .gap a =>
      match s.seq? a.seq with
      | some q => if s.fit a q = .gap then s else (s.resettle i (s.runAppend i.cmd a)).progress
      | none => s
    | _ => s

/-- APPEND_GAP_EXPIRY: `NOT_YET` for the lowest layer that waits (R45, R284). -/
def State.gapExpired (id : Nat) (s : State) : State :=
  match s.inflight? id with
  | none => s
  | some i =>
    match i.wait with
    | .gap a =>
      match s.seq? a.seq with
      | some q =>
        let l := (a.layers.find? fun l => decide ((q.layer l).length < a.pos)).getD 0
        s.complete i .notYet none 0 (notYetBytes q l)
      | none => s
    | _ => s

/-- JOURNAL_SPACE_FREED (R52): the append goes on as it now fits. -/
def State.journalFreed (id : Nat) (s : State) : State :=
  match s.inflight? id with
  | none => s
  | some i =>
    match i.wait with
    | .journal a => (s.resettle i (s.runAppend i.cmd a)).progress
    | _ => s

/-- JOURNAL_WAIT_EXPIRY (R52): no room has come, or the writes that the acknowledgement waits for have not ended in time (log
49). -/
def State.journalExpired (id : Nat) (s : State) : State :=
  match s.inflight? id with
  | none => s
  | some i =>
    match i.wait with
    | .journal _ => s.complete i .noSpace none 0 []
    | .level a _ =>
      match s.seq? a.seq with
      | some q =>
        let late := a.layers.find? fun l => decide ((q.layer l).persisted < a.pos + a.count)
        match s.levelOf a, late with
        | 3, some l => (s.complete i .notYet none 0 (notYetBytes q l)).progress
        | _, _ => s
      | none => s
    | _ => s

/-- A command of the partition with that REQ_ID still runs, or a duplicate of it waits. -/
def State.inUse (s : State) (ptn : Nat) (reqId : Word64) : Bool := s.cmds.list.any fun i => i.ptn == ptn && i.reqId == reqId

/-- RECORD_EXPIRY (R280): the records of a command whose reply has been written go, and what other homes' retries of it would have found
(R149). -/
def State.recordExpired (ptn : Nat) (reqId : Word64) (s : State) : State :=
  if s.inUse ptn reqId ∨ s.host.queues.any (fun q => q.ptn == ptn && q.waiting.any fun r => r.reqId == reqId) then s
  else { s with store := { s.store with
      cmdRecs := s.store.cmdRecs.filter fun r => !(r.ptn == ptn && r.reqId == reqId)
      appendRecs := s.store.appendRecs.filter fun r => !(r.ptn == ptn && r.reqId == reqId)
      gradSeen := s.store.gradSeen.filter fun g => !(g.ptn == ptn && g.reqId == reqId) } }

/-- EPOCH_HOLD_EXPIRY (R277, R530). -/
def State.epochExpired (id : Nat) (s : State) : State :=
  match s.inflight? id with
  | none => s
  | some i => if i.wait.inner = .epoch then s.refuseHeld i .busyRetry none (max (s.rf .hptNdox 16 12) 1) else s

/-- TRANSFER_HOLD_EXPIRY (R448, R530). -/
def State.transferExpired (id : Nat) (s : State) : State :=
  match s.inflight? id with
  | none => s
  | some i =>
    match i.wait.inner with
    | .transfer _ => s.refuseHeld i .busyRetry none (s.rf .fabDrain 8 16)
    | _ => s

def execAppendGapFilled (id : Nat) (s : State) : Host.Outcome State Fault Refusal := .next (s.gapFilled id)
def execAppendGapExpiry (id : Nat) (s : State) : Host.Outcome State Fault Refusal := .next (s.gapExpired id)
def execJournalSpaceFreed (id : Nat) (s : State) : Host.Outcome State Fault Refusal := .next (s.journalFreed id)
def execJournalWaitExpiry (id : Nat) (s : State) : Host.Outcome State Fault Refusal := .next (s.journalExpired id)
def execRecordExpiry (ptn : Fin 32) (reqId : Word64) (s : State) : Host.Outcome State Fault Refusal := .next (s.recordExpired ptn reqId)
def execEpochHoldExpiry (id : Nat) (s : State) : Host.Outcome State Fault Refusal := .next (s.epochExpired id)
def execTransferHoldExpiry (id : Nat) (s : State) : Host.Outcome State Fault Refusal := .next (s.transferExpired id)

end Sys2Proof.Machine
end

