-- ==== Sys2Proof/Machine/Ptns.lean ====
section
/-! DEFINITION. Partitions and payload keys (11_command_reference.md R325, R326, R329; 14_partitions_and_trust.md R391 to
R394, R396, R401 to R403, R409). -/

namespace Sys2Proof.Machine

/-! ## Partition bodies (R325) -/

/-- The fields of a partition body. -/
structure PtnBody where
  num : Nat
  keyMode : Nat
  confidential : Bool
  priv : Nat
  hbm : Nat
  flash : Nat
  engine : Nat
  first : Nat
  count : Nat
  queueMax : Nat
  trigMax : Nat
  deriving DecidableEq, Repr

def parsePtn (b : List Byte) : Option PtnBody :=
  let x : PtnBody := ⟨field b 0 1, field b 1 1, bit (field b 2 1) 0, field b 4 4, field b 8 4, field b 12 4, field b 16 2, field b 18 2,
    field b 20 2, field b 24 4, field b 28 4⟩
  if b.length = 32 ∧ x.num < 32 ∧ x.keyMode ≤ 1 ∧ field b 2 1 < 2 ∧ field b 3 1 = 0 ∧ x.priv < 2 ^ 14 ∧ 1 ≤ x.engine ∧
      x.engine ≤ 1000 ∧ 1 ≤ x.count ∧ x.count ≤ 4096 ∧ x.first + x.count ≤ 4096 ∧ field b 22 2 = 0 ∧ 1 ≤ x.queueMax ∧
      x.queueMax ≤ 65536 ∧ x.trigMax ≤ 65536 then some x else none

/-- The body of a partition. -/
def Ptn.body (n : Nat) (p : Ptn) : List Byte :=
  leBytes 1 n ++ leBytes 1 p.keyMode ++ leBytes 1 (b2n p.confidential) ++ leBytes 1 0 ++ leBytes 4 p.priv.toNat ++
  leBytes 4 p.hbmQuota ++ leBytes 4 p.flashQuota ++ leBytes 2 p.enginePm ++ leBytes 2 p.ctxFirst ++ leBytes 2 p.ctxCount ++
  leBytes 2 0 ++ leBytes 4 p.queueMax ++ leBytes 4 p.trigMax

/-- The partitions other than `n`. -/
def State.otherPtns (s : State) (n : Nat) : List Ptn := ((enumFrom 0 s.ptns).filter fun x => x.1 != n).filterMap (·.2)

/-- The context range meets no other partition's. -/
def State.rangeFree (s : State) (x : PtnBody) : Bool :=
  (s.otherPtns x.num).all fun p => decide (x.first + x.count ≤ p.ctxFirst) || decide (p.ctxFirst + p.ctxCount ≤ x.first)

/-- The sums of R325 over all partitions, and the four that may hold PLACEMENT. -/
def State.ptnRoom (s : State) (x : PtnBody) : Bool :=
  let l := s.otherPtns x.num
  decide (x.engine + sumNat (l.map (·.enginePm)) ≤ 1000) && decide (x.hbm + sumNat (l.map (·.hbmQuota)) ≤ s.quotaFrames) &&
  decide (x.flash + sumNat (l.map (·.flashQuota)) ≤ exportedFrames s.diesPerCh) &&
  (!bit x.priv 8 || decide ((l.filter fun p => bit p.priv.toNat 8).length < 4))

/-- The security state has changed: it is written to the anchor blocks where flash is writable (R398). -/
def State.securityChanged (s : State) : State :=
  if s.flash.state = .service ∧ s.writeEnabled then s.writeAnchors else s

/-- The first confidential partition latches JTAG_LOCK; the TAP is off from then on (R409). -/
def State.latchJtag (s : State) : State :=
  if s.trust.jtagLock then s
  else (({ s with trust := { s.trust with jtagLock := true } }).setRf .secCtl 0 1 0).note ⟨9, 5, 0, 0xFF, 0, []⟩

def ptnCreateSeven (c : Cmd) (s : State) : Option Status :=
  match parsePtn c.data with
  | none => some .badParam
  | some x => if (s.ptn? x.num).isSome then some .conflict else if s.rangeFree x then none else some .badParam

def ptnCreateRun (c : Cmd) (s : State) : Res :=
  match parsePtn c.data with
  | none => .no .badParam
  | some x =>
    if ¬ s.ptnRoom x then .no .noSpace
    else
      let s := if x.confidential then s.latchJtag else s
      let p : Ptn := ⟨x.keyMode, x.confidential, BitVec.ofNat 32 x.priv, x.hbm, x.flash, x.engine, x.first, x.count, x.queueMax,
        x.trigMax, false, false, s.trust.nextKey⟩
      let s := { s with ptns := updAt x.num (fun _ => some p) s.ptns, ptnGen := updAt x.num (· + 1) s.ptnGen,
                        trust := { s.trust with nextKey := s.trust.nextKey + 1 } }
      .ok [] (s.clearPtnCounters x.num).securityChanged

def ptnCreateDef : OpDef := ⟨fun _ => .nothing, noSix, ptnCreateSeven, noReply, ptnCreateRun, emptyDup⟩

/-! ## `PTN_MODIFY` (R325, R391) -/

def ptnModifySeven (c : Cmd) (s : State) : Option Status :=
  match parsePtn c.data with
  | none => some .badParam
  | some x =>
    match s.ptn? x.num with
    | none => some .badParam
    | some p =>
      if x.keyMode ≠ p.keyMode ∨ x.confidential ≠ p.confidential ∨ ¬ s.rangeFree x then some .badParam
      else if s.host.ctxs.any fun k => k.ptn == x.num && !(decide (x.first ≤ k.num) && decide (k.num < x.first + x.count)) then
        some .conflict
      else if ¬ bit x.priv 8 ∧ s.store.nss.any fun n => n.ptn == x.num && n.selfPlaced then some .conflict
      else none

def ptnModifyRun (c : Cmd) (s : State) : Res :=
  match parsePtn c.data with
  | none => .no .badParam
  | some x =>
    if ¬ s.ptnRoom x then .no .noSpace
    else .ok [] (s.updPtn x.num fun p => { p with
      priv := BitVec.ofNat 32 x.priv, hbmQuota := x.hbm, flashQuota := x.flash, enginePm := x.engine, ctxFirst := x.first,
      ctxCount := x.count, queueMax := x.queueMax, trigMax := x.trigMax })

def ptnModifyDef : OpDef := ⟨fun _ => .nothing, noSix, ptnModifySeven, noReply, ptnModifyRun, emptyDup⟩

/-! ## `PTN_RESET` (R326, R393, R394) -/

/-- PTN and seven reserved bytes, and the partition exists (R529). -/
def ptnNamed (c : Cmd) (s : State) : Option Status :=
  if c.data.length ≠ 8 ∨ ¬ zeros (slice c.data 1 7) ∨ (s.ptn? (field c.data 0 1)).isNone then some .badParam else none

/-- Commands that wait for positions, a gap, an epoch or a transfer end at once with the status of their timeout (R394,
R479, R530). -/
def State.cutWait (i : Inflight) (s : State) : State :=
  match i.wait.inner with
  | .epoch | .transfer _ => s.refuseHeld i .busyRetry none 0
  | .gap _ => s.gapExpired i.id
  | .positions _ | .gradWait _ => s.waitExpired i.id
  | _ => s

def State.cutWaits (p : Inflight → Bool) : List Inflight → State → State
  | [], s => s
  | i :: l, s => State.cutWaits p l (if p i ∧ (s.inflight? i.id).isSome then s.cutWait i else s)

def ptnResetRun (c : Cmd) (s : State) : Res :=
  let n := field c.data 0 1
  let s := s.updPtn n fun p => { p with resetting := true }
  .wait (.ptnReset n) [] (s.cutWaits (fun i => i.ptn == n) s.cmds.list)

def genReply (s : State) (n : Nat) : List Byte := leBytes 4 (s.ptnGen.getD n 0)

def ptnResetDef : OpDef :=
  ⟨fun _ => .nothing, noSix, ptnNamed, fun _ _ => 4, ptnResetRun, fun c s => .done .okDuplicate (genReply s (field c.data 0 1)) s⟩

/-- The program and pattern slots of a partition become empty; bound versions stay until released (R164, R205, R394). -/
def State.unloadSlots (n : Nat) (s : State) : State :=
  let s := (s.slots.progs.filter fun p => p.owner == n).foldl
    (fun s p => s.setProg { p with current := none, old := p.old ++ p.current.toList }) s
  (s.slots.pats.filter fun p => p.owner == n).foldl
    (fun s p => s.setPat { PatSlot.empty p.num with old := p.old ++ p.current.toList }) s

/-- Every `PTN_RESET` of a partition that waits replies. -/
def State.endResets (n : Nat) : List Inflight → State → State
  | [], s => s
  | i :: l, s => State.endResets n l (if i.wait = .ptnReset n then s.complete i .ok none 0 (genReply s n) else s)

/-- PTN_RESET_COMPLETE: once every admitted command of the partition has finished, its key slots are emptied, its slots
unloaded, its fence lifted, and the reset replies (R393, R394, R440). -/
def State.resetDone (n : Nat) (s : State) : State :=
  match s.ptn? n with
  | none => s
  | some p =>
    if ¬ p.resetting ∨ s.cmds.list.any (fun i => i.ptn == n && i.wait != .ptnReset n) then s
    else
      let s := { s with host := { s.host with
        ctxs := updWhere (fun c => c.ptn == n) (fun c => { c with keys := List.replicate 4 none }) s.host.ctxs } }
      let s := { s.unloadSlots n with ptnGen := updAt n (· + 1) s.ptnGen }
      let s := (s.updPtn n fun p => { p with resetting := false, fenced := false }).raise (.ptnSts n) 1 (Rec.event n)
      (s.endResets n s.cmds.list).securityChanged

/-! ## `PTN_DESTROY` and `PTN_DESCRIBE` (R326, R529) -/

def ptnDestroySeven (c : Cmd) (s : State) : Option Status :=
  match ptnNamed c s with
  | some st => some st
  | none =>
    let n := field c.data 0 1
    if s.host.ctxs.any (fun k => k.ptn == n) ∨ s.store.nss.any (fun x => x.ptn == n) then some .conflict else none

/-- The partition goes with its storage key and, as nothing may belong to no partition, its program and pattern slots
(R392, R396; log 32). -/
def ptnDestroyRun (c : Cmd) (s : State) : Res :=
  let n := field c.data 0 1
  .ok [] ({ s.unloadSlots n with ptns := updAt n (fun _ => none) s.ptns }).securityChanged

def ptnDestroyDef : OpDef := ⟨fun _ => .nothing, noSix, ptnDestroySeven, noReply, ptnDestroyRun, emptyDup⟩

/-- The own partition with DATA, or any with NODE_ADMIN (R294). -/
def State.mayDescribe (s : State) (c : Cmd) (n : Nat) : Bool :=
  let priv := s.srcPriv c.pkt.src
  match c.pkt.src with
  | .i3c => true
  | _ => bit priv privNodeAdmin || (decide (n = c.ptn) && bit priv privData)

def ptnDescribeSeven (c : Cmd) (s : State) : Option Status :=
  if c.data.length ≠ 8 ∨ ¬ zeros (slice c.data 1 7) ∨ 32 ≤ field c.data 0 1 then some .badParam
  else if s.mayDescribe c (field c.data 0 1) then none else some .denied

def ptnDescribeRun (c : Cmd) (s : State) : Res :=
  let n := field c.data 0 1
  match s.ptn? n with
  | none => .ok (leBytes 1 n ++ zeroBytes 63) s
  | some p =>
    .ok (p.body n ++ leBytes 4 (s.hbmUsed n) ++ leBytes 4 (s.flashUsed n) ++
      leBytes 2 (s.host.ctxs.filter fun k => k.ptn == n).length ++ leBytes 2 (s.ptnQueues n).length ++
      leBytes 1 (ptnStateCode (some p)) ++ zeroBytes 3 ++ genReply s n ++ zeroBytes 12) s

def ptnDescribeDef : OpDef := ⟨fun _ => .nothing, noSix, ptnDescribeSeven, fun _ _ => 64, ptnDescribeRun, emptyDup⟩

/-! ## Payload keys (R329, R401, R402) -/

def labelSlot : List Byte := ascii [0x50, 0x54, 0x53, 0x4C, 0x4F, 0x54, 0x30, 0x31]

/-- The key W of R402. -/
def State.slotKey (s : State) (mode ctx slot ptn : Nat) (kem : List Byte) : List Byte :=
  let ss := fitBytes 32 (if mode = 0 then Config.bindOpen kem else Config.kemOpen s.trust.sessionKey kem)
  shake256 32 (ss ++ labelSlot ++ leBytes 2 s.self.toNat ++ leBytes 2 ctx ++ leBytes 1 slot ++ leBytes 4 (s.ptnGen.getD ptn 0))

/-- The payload key that a wrapped key gives. -/
def State.unwrapKey (s : State) (mode ctx slot ptn : Nat) (b : List Byte) : Option Nat :=
  let w := s.slotKey mode ctx slot ptn (slice b 4 1568)
  match Config.gcmOpen (leNat w) (zeroBytes 12) (b.take 1572) (slice b 1572 48) with
  | none => none
  | some t =>
    let t := fitBytes 32 t
    if mode = 0 then some (leNat t) else if zeros t then some (leNat w) else none

/-- A slot that holds a key. A revoked one holds none (DEDUCED from R403, log 32). -/
def Ctx.holdsKey (c : Ctx) (k : Nat) : Bool := match c.slot k with | some x => !x.revoked | none => false

def keyInstallSeven (c : Cmd) (s : State) : Option Status :=
  let b := c.data
  match s.ctx? c.ctx, s.ptn? c.ptn with
  | some x, some p =>
    let slot := field b 0 1
    if b.length ≠ 1628 ∨ 3 < slot ∨ ¬ zeros (slice b 1 7) ∨ ¬ zeros (slice b 9 3) ∨ field b 8 1 ≠ p.keyMode then some .badParam
    else if x.holdsKey slot then some .conflict
    else if (s.unwrapKey p.keyMode x.num slot c.ptn (b.drop 8)).isNone then some .denied
    else none
  | _, _ => some .badParam

def setKey (n slot : Nat) (k : Option KeySlot) (s : State) : State :=
  s.updCtx n fun c => { c with keys := updAt slot (fun _ => k) c.keys }

def keyInstallRun (c : Cmd) (s : State) : Res :=
  let slot := field c.data 0 1
  match (s.ptn? c.ptn).bind fun p => s.unwrapKey p.keyMode c.ctx slot c.ptn (c.data.drop 8) with
  | none => .no .denied
  | some k => .ok [] (setKey c.ctx slot (some ⟨k, false, 0⟩) s)

def keyInstallDef : OpDef := ⟨fun _ => .nothing, noSix, keyInstallSeven, noReply, keyInstallRun, emptyDup⟩

/-- R268, R329: the slot names a key, revoked or not (R4). -/
def keyRevokeSeven (c : Cmd) (s : State) : Option Status :=
  let b := c.data
  if b.length ≠ 8 ∨ 3 < field b 0 1 ∨ ¬ zeros (slice b 1 7) ∨ ((s.ctx? c.ctx).bind (·.slot (field b 0 1))).isNone then some .badParam
  else none

def keyRevokeRun (c : Cmd) (s : State) : Res :=
  let slot := field c.data 0 1
  .ok [] (s.updCtx c.ctx fun x => { x with keys := updAt slot (fun k => k.map fun y => { y with revoked := true }) x.keys })

def keyRevokeDef : OpDef := ⟨fun _ => .nothing, noSix, keyRevokeSeven, noReply, keyRevokeRun, emptyDup⟩

/-! ## The commands -/

def runPtnCreate (p : Packet) (s : State) : State := s.arriveAll .ptnCreate ptnCreateDef p
def runPtnModify (p : Packet) (s : State) : State := s.arriveAll .ptnModify ptnModifyDef p
def runPtnReset (p : Packet) (s : State) : State := s.arriveAll .ptnReset ptnResetDef p
def runPtnDestroy (p : Packet) (s : State) : State := s.arriveAll .ptnDestroy ptnDestroyDef p
def runPtnDescribe (p : Packet) (s : State) : State := s.arriveAll .ptnDescribe ptnDescribeDef p
def runKeyInstall (p : Packet) (s : State) : State := s.arriveAll .keyInstall keyInstallDef p
def runKeyRevoke (p : Packet) (s : State) : State := s.arriveAll .keyRevoke keyRevokeDef p


end Sys2Proof.Machine
end

