-- ==== Sys2Proof/Machine/Attest.lean ====
section
/-! DEFINITION. Attestation and the identity key's index (11_command_reference.md R328; 14_partitions_and_trust.md R411, R412,
R414, R424 to R428). -/

namespace Sys2Proof.Machine

/-! ## Deterministic CBOR (R427) -/

/-- `w` bytes of a number, most significant first. -/
def beBytes (w n : Nat) : List Byte := (leBytes w n).reverse

/-- The head of an item of a major type with its argument in the shortest form. -/
def cborHead (major n : Nat) : List Byte :=
  let m := 32 * major
  if n < 24 then leBytes 1 (m + n)
  else if n < 2 ^ 8 then leBytes 1 (m + 24) ++ beBytes 1 n
  else if n < 2 ^ 16 then leBytes 1 (m + 25) ++ beBytes 2 n
  else if n < 2 ^ 32 then leBytes 1 (m + 26) ++ beBytes 4 n
  else leBytes 1 (m + 27) ++ beBytes 8 n

def cUint (n : Nat) : List Byte := cborHead 0 n
def cBytes (b : List Byte) : List Byte := cborHead 2 b.length ++ b
def cArr (l : List (List Byte)) : List Byte := cborHead 4 l.length ++ l.flatten
/-- A map from small keys, given in rising order. -/
def cMap (l : List (Nat × List Byte)) : List Byte := cborHead 5 l.length ++ l.flatMap fun x => cUint x.1 ++ x.2
def cBool (b : Bool) : List Byte := [if b then 0xF5 else 0xF4]

def cDigest (d : Digest) : List Byte := cBytes (digestBytes d)

/-! ## The report (R424 to R426) -/

/-- The digest of the `NS_CREATE` payload with MAX_SEQ as zero. -/
def Ns.scanConfig (x : Ns) : Digest := digest (x.createPayload.take 8 ++ zeroBytes 4 ++ x.createPayload.drop 12)

def Ns.models (x : Ns) : List Model :=
  sortBy (fun (a b : Model) => decide (a.num < b.num)) (x.current.toList ++ x.retained.toList)

/-- The namespaces of a partition by number. -/
def State.ptnNss (s : State) (n : Nat) : List Ns :=
  sortBy (fun (a b : Ns) => decide (a.num < b.num)) (s.store.nss.filter fun x => x.ptn == n)

/-- Keys 7 to 11 of a partition map. -/
def State.ptnDigests (s : State) (n : Nat) : List (Nat × List Byte) :=
  let progs := sortBy (fun (a b : ProgSlot) => decide (a.num < b.num)) (s.slots.progs.filter fun p => p.owner == n)
  let pats := sortBy (fun (a b : PatSlot) => decide (a.num < b.num)) (s.slots.pats.filter fun p => p.owner == n)
  let nss := s.ptnNss n
  let models := fun (f : Model → Digest) => nss.flatMap fun x => x.models.map fun m => cArr [cUint x.num, cUint m.num, cDigest (f m)]
  [(7, cArr (progs.filterMap fun p => p.current.map fun v => cArr [cUint p.num, cDigest v.digest])),
   (8, cArr (pats.filterMap fun p => p.current.map fun v => cArr [cUint p.num, cDigest v.digest])),
   (9, cArr ((nss.filter (·.recallOn)).map fun x => cArr [cUint x.num, cDigest x.scanConfig])),
   (10, cArr (models (·.wDigest))), (11, cArr (models (·.cDigest)))]

/-- A partition map; `own` when a context of the partition asks (R426). -/
def State.ptnMap (s : State) (own : Bool) (n : Nat) : List Byte :=
  let head := [(1, cUint n), (2, cUint (ptnStateCode (s.ptn? n))), (3, cUint (s.ptnGen.getD n 0))]
  match s.ptn? n with
  | none => cMap head
  | some p =>
    let six := head ++ [(4, cUint p.keyMode), (5, cBool p.confidential), (6, cUint p.priv.toNat)]
    cMap (if p.resetting ∨ (p.confidential ∧ ¬ own) then six else six ++ s.ptnDigests n)

/-- The attestation report (R424). -/
def State.report (s : State) (nonce : List Byte) (mask : Nat) (own : Bool) : List Byte :=
  let t := s.trust
  let jtag : Bool := bit (s.readReg .secCtl).toNat 0
  cMap ([(1, cUint 1), (2, cBytes nonce)] ++ (if s.nodeValid then [(3, cUint s.self.toNat)] else []) ++
    [(4, cUint 0xB0), (5, cBytes (fitBytes 32 Config.identity)), (6, cDigest t.romDigest), (7, cDigest t.fwDigest),
     (8, cUint t.svnRun.toNat), (9, cUint t.svnMin.toNat), (10, cDigest t.cfgDigest), (11, cBool s.pow.cfgDefaulted),
     (12, cUint s.fingerprint.toNat), (13, cUint s.pow.incarn.toNat), (14, cUint t.fw.state)] ++
    (if t.fw.state = 2 then [(15, cDigest t.fw.staged)] else []) ++
    [(16, cMap [(1, cBool jtag), (2, cBool t.jtagLock), (3, cBool (s.rf .secCtl 1 1 == 1))]), (17, cBool s.confPresent),
     (18, cBytes (fitBytes 1568 (Config.kemKey t.sessionKey))),
     (19, cArr (((List.range 32).filter (bit mask)).map (s.ptnMap own))), (20, cUint s.pow.tsc.toNat)])

/-- Bytes of an attestation signature (R410). -/
def attSigLen : Nat := 4963

def prefixAtt : List Byte := ascii [0x50, 0x54, 0x41, 0x54, 0x54, 0x53, 0x54, 0x31]

def isHostSrc (p : Packet) : Bool := p.ctxOf.isSome

def attestSeven (c : Cmd) (_ : State) : Option Status :=
  let mask := field c.data 32 4
  if c.data.length ≠ 40 ∨ ¬ zeros (slice c.data 36 4) then some .badParam
  else if isHostSrc c.pkt ∧ (List.range 32).any (fun n => bit mask n && n != c.ptn) then some .denied
  else none

def State.attestReport (s : State) (c : Cmd) : List Byte := s.report (c.data.take 32) (field c.data 32 4) (isHostSrc c.pkt)

def attestMax (c : Cmd) (s : State) : Nat := roundUp 8 (8 + (s.attestReport c).length) + attSigLen

/-- R328, R427, R428. -/
def attestRun (c : Cmd) (s : State) : Res :=
  if s.trust.fw.state = 3 then .refuse .busyRetry none (s.expectedWait 2000)
  else if ¬ s.trust.attReady then .refuse .busyRetry none (s.expectedWait 65535)
  else
    let s := s.attRoll
    let r := s.attestReport c
    let sig := fitBytes attSigLen (Config.sign s.trust.attSerial (prefixAtt ++ r))
    .ok (padTo 8 (leBytes 4 r.length ++ leBytes 4 attSigLen ++ r) ++ sig) s.attUsed

def attestDef : OpDef := ⟨fun _ => .nothing, noSix, attestSeven, attestMax, attestRun, emptyDup⟩

/-! ## `CERT_READ` (R328, R414) -/

def certReadSeven (c : Cmd) (_ : State) : Option Status :=
  if c.data.length ≠ 8 ∨ 1 < field c.data 0 1 ∨ ¬ zeros (slice c.data 1 7) then some .badParam else none

def State.certBytes (s : State) (which : Nat) : List Byte := Config.certMap which (if which = 0 then 0 else s.trust.attSerial)

/-- A certificate that no key has yet is awaited (DESIGN CHOICE, log 32: `BUSY_RETRY`). -/
def certReadRun (c : Cmd) (s : State) : Res :=
  let which := field c.data 0 1
  if which = 1 ∧ s.trust.attSerial = 0 then .refuse .busyRetry none (s.expectedWait 65535)
  else
    let m := s.certBytes which
    .ok (leBytes 4 m.length ++ zeroBytes 4 ++ m) s

def certReadDef : OpDef :=
  ⟨fun _ => .nothing, noSix, certReadSeven, fun c s => 8 + (s.certBytes (field c.data 0 1)).length, certReadRun, emptyDup⟩

/-! ## The identity key's index and the attestation keys (R411, R412) -/

/-- The newer of two reservation records, and whether it is RES_A's. -/
def newerRes (a b : Option Reservation) : Option (Reservation × Bool) :=
  match a, b with
  | some x, some y => if y.count ≤ x.count then some (x, true) else some (y, false)
  | some x, none => some (x, true)
  | none, some y => some (y, false)
  | none, none => none

/-- The reservation did not read back within 3 writes: the signature goes, and identity signing is disabled. What the sector that was
written holds then is open (R411; log 43). -/
def State.reservationLost (onA : Bool) (n : Reservation) (k : Nat) (s : State) : State :=
  let left : Option Reservation := if Config.sectorLeft k = 1 then none else some n
  let boot : Boot :=
    if Config.sectorLeft k = 0 then s.boot else if onA then { s.boot with resB := left } else { s.boot with resA := left }
  ({ s with boot := boot, trust := { s.trust with idxOk := false, idxLost := true } }).raise .secSts 10 ⟨9, 2, 2, 0xFF, 0, []⟩

/-- Releases one identity signature: the next 1,024 indices are reserved durably before the first of them leaves (R411).
False where identity signing is disabled. -/
def State.identitySign (s : State) : Bool × State :=
  if s.trust.idxLost ∨ ¬ s.trust.idxOk then (false, s)
  else
    let used := fun (s : State) => { s with trust := { s.trust with idxNext := s.trust.idxNext + 1 } }
    if s.trust.idxNext ≠ s.trust.idxLimit then (true, used s)
    else match newerRes s.boot.resA s.boot.resB with
      | none => (false, s)
      | some (r, onA) =>
        let n : Reservation := ⟨s.trust.idxLimit + 1024, r.count + 1⟩
        let boot := if onA then { s.boot with resB := some n } else { s.boot with resA := some n }
        if ¬ Config.reservationHolds s.freeCtr then (false, s.drawn.reservationLost onA n s.freeCtr)
        else (true, used { s with boot := boot, trust := { s.trust with idxLimit := s.trust.idxLimit + 1024 } })

/-- ATT_KEY_READY: the first key of the boot, or a successor once 2^18 indices remain (R412). A successor certified after
its predecessor was used up takes over at once. -/
def State.attKeyReady (s : State) : State :=
  if s.pow.phase ≠ .service ∧ s.pow.phase ≠ .applying then s
  else
    let first := s.trust.attSerial = 0
    if ¬ first ∧ (2 ^ 18 < s.trust.attLeft ∨ s.trust.attSuccessor) then s
    else
      let x := s.identitySign
      if ¬ x.1 then x.2
      else
        let s := x.2
        let s := if first then
            { s with trust := { s.trust with attSerial := 1, attLeft := attKeySize, attReady := true } }
          else if s.trust.attLeft = 0 then ({ s with trust := { s.trust with attSuccessor := true } }).attRoll
          else { s with trust := { s.trust with attSuccessor := true } }
        (s.fab.peers.filter fun p => !p.keyed && !p.waiting.isEmpty).foldl (fun s p => s.needKey p.node) s

def runAttest (p : Packet) (s : State) : State := s.arriveAll .attest attestDef p
def runCertRead (p : Packet) (s : State) : State := s.arriveAll .certRead certReadDef p

def execAttKeyReady (s : State) : Host.Outcome State Fault Refusal := .next s.attKeyReady
def execAttKeyRoll (s : State) : Host.Outcome State Fault Refusal := .next s.attRoll

end Sys2Proof.Machine
end

