-- ==== Sys2Proof/Machine/Sessions.lean ====
section
/-! DEFINITION. Handshakes between nodes and with management stations, and management sessions (12_host_ports.md R353, R354;
14_partitions_and_trust.md R406, R407, R419 to R423). -/

namespace Sys2Proof.Machine

/-! ## Receiving a handshake message -/

/-- A HANDSHAKE message is in the clear (R373): an older incarnation or a SEQ seen within 1 ms discards it (R375,
R376). -/
def State.screenHs (h : MsgHdr) (s : State) : Bool × State :=
  let s := s.gathered h false
  let p := s.peer h.src
  let now := s.pow.tsc.toNat
  let old := p.seen.filter fun y => decide (now ≤ y.2 + seenNs)
  if ¬ s.listens then (false, s)
  else if h.incarn.toNat < p.incarn.toNat ∨ (h.incarn = p.incarn ∧ old.any fun y => y.1 == h.seq.toNat) then
    (false, s.count 6 nodeScope (fabTel h.link 14))
  else
    let keep := if h.incarn = p.incarn then old else []
    (true, (s.updPeer h.src fun p => { p with seen := (h.seq.toNat, now) :: keep }).count 6 nodeScope (fabTel h.link 12))

/-- Sends a handshake message of the node's own: it takes the next unordered SEQ and waits for no key. -/
def State.sendHs (n : NodeId) (m : Msg) (s : State) : State :=
  let q := (s.peer n).txUnord + 1
  (s.updPeer n fun p => { p with txUnord := q }).transmit n ⟨q, 0, s.epoch, m⟩

/-- A failed check ends the handshake with ABORT (R421): HS_FAIL, a record naming the peer, 100 ms without a new one. -/
def State.hsFailed (h : MsgHdr) (id : Word32) (reason : Nat) (s : State) : State :=
  let s := (s.sendHs h.src (.hsAbort id reason)).updPeer h.src fun p => { p with hs := none, backoff := true }
  s.raise .secSts 8 ⟨5, 3, 1, 0xFF, h.link, leBytes 2 h.src.toNat ++ leBytes 2 reason ++ leBytes 4 h.epoch.toNat⟩

/-- The certificates by which a body is judged: its own, or those held from the same incarnation (R419). -/
def State.hsCerts (s : State) (h : MsgHdr) (b : HsBody) : Option (List Byte) :=
  if b.certsPresent then some b.certs
  else
    let p := s.peer h.src
    if p.incarn = h.incarn then p.certs else none

/-- The checks 1 to 4 of R421: the certificates, or the REASON of the first that fails. -/
def State.hsCheck (s : State) (h : MsgHdr) (b : HsBody) (signed : List Byte) : Except Nat (List Byte) :=
  match s.hsCerts h b with
  | none => .error 1
  | some c =>
    if ¬ Config.certsOk c ∨ Config.certsIncarn c ≠ h.incarn.toNat then .error 1
    else if ¬ Config.sigOk c (prefixFab ++ signed) b.sig then .error 2
    else if b.svn.toNat < s.kept .secFabSvn then .error 3
    else .ok c

/-- The digest of a received message's header and body up to SIG (R420). -/
def hsDigest (s : State) (h : MsgHdr) (step : Nat) (b : HsBody) : List Byte :=
  shake256 32 (hsHeader h.src s.self h.epoch.toNat h.incarn.toNat h.seq.toNat ++ b.front step)

/-- The peer's incarnation as the certificates prove it: a higher one drops what was held of the older (R376). -/
def State.hsIncarn (h : MsgHdr) (s : State) : State :=
  if (s.peer h.src).incarn.toNat < h.incarn.toNat then
    let seen := (s.peer h.src).seen
    (s.newIncarn h.src h.incarn).updPeer h.src fun p => { p with seen := seen, keyed := false, certs := none }
  else s

/-- A newer epoch in the header is fetched (R386). -/
def State.hsEpoch (h : MsgHdr) (s : State) : State :=
  if s.epoch < h.epoch.toNat then s.postMsg h.src (.mapFetch h.epoch) else s

/-! ## The steps (R420 to R422) -/

/-- HELLO at the responder. -/
def State.gotHello (h : MsgHdr) (b : HsBody) (s : State) : State :=
  let x := s.screenHs h
  if ¬ x.1 then x.2
  else
    let s := x.2
    let p := s.peer h.src
    let mine : Bool := match p.hs with | some y => y.initiator && y.running | none => false
    let again : Option Hs := match p.hs with | some y => if !y.initiator && y.hsId == b.hsId then some y else none | none => none
    if mine ∧ s.self.toNat < h.src.toNat then s.sendHs h.src (.hsAbort b.hsId 5)
    else match again with
      | some y => s.transmit h.src ⟨y.seq, 0, y.epoch, y.sent⟩
      | none =>
        if ¬ s.trust.attReady then s
        else
          let hI := hsDigest s h 1 b
          match s.hsCheck h b hI with
          | .error r => s.hsFailed h b.hsId r
          | .ok certs =>
            let s := (s.hsIncarn h).attRoll
            let p := s.peer h.src
            let draw := s.freeCtr
            let seq := p.txUnord + 1
            let ss := Config.kemShared draw b.kem
            let rb := s.hsBody b.hsId (Config.kemCipher draw b.kem) p.certs.isNone
            let hR := shake256 32 (hsHeader s.self h.src s.epoch s.pow.incarn.toNat seq ++ rb.front 2)
            let rb := { rb with sig := Config.sign s.trust.attSerial (prefixFab ++ hI ++ hR) }
            let s := s.drawn.attUsed.updPeer h.src fun p => { p with
              txUnord := seq, incarn := h.incarn
              hs := some ⟨b.hsId, false, seq, s.epoch, .hsReply rb, draw, hI, hR, confirmation (fitBytes 32 ss) hI hR, certs⟩ }
            s.transmit h.src ⟨seq, 0, s.epoch, .hsReply rb⟩

/-- A new key with a peer is in use; the previous one is accepted for 1 ms (R407). -/
def State.keySet (n : NodeId) (certs : List Byte) (s : State) : State :=
  s.updPeer n fun p => { p with oldKey := p.keyed, keyed := true, keySerial := p.keySerial + 1, certs := some certs }

/-- REPLY at the initiator: a FINISH, the new key, and the hold of R422. A repeated REPLY draws the same FINISH. -/
def State.gotReply (h : MsgHdr) (b : HsBody) (s : State) : State :=
  let x := s.screenHs h
  if ¬ x.1 then x.2
  else
    let s := x.2
    match (s.peer h.src).hs with
    | none => s
    | some y =>
      if ¬ y.initiator ∨ y.hsId ≠ b.hsId then s
      else if ¬ y.running then
        if (s.peer h.src).incarn = h.incarn then s.transmit h.src ⟨y.seq, 0, y.epoch, y.sent⟩
        else ((s.hsIncarn h).updPeer h.src fun p => { p with hs := none }).needKey h.src
      else
        let hR := hsDigest s h 2 b
        match s.hsCheck h b (y.hI ++ hR) with
        | .error r => s.hsFailed h b.hsId r
        | .ok certs =>
          let conf := confirmation (fitBytes 32 (Config.kemOpen y.draw b.kem)) y.hI hR
          let s := s.hsIncarn h
          let seq := (s.peer h.src).txUnord + 1
          let fb : HsBody := { s.hsBody b.hsId [] false with certs := [], sig := conf }
          let s := (s.drawn.keySet h.src certs).updPeer h.src fun p => { p with
            txUnord := seq, incarn := h.incarn, holdUntilFirst := true
            hs := some { y with seq := seq, epoch := s.epoch, sent := .hsFinish fb, hR := hR, conf := conf, certs := certs } }
          (s.transmit h.src ⟨seq, 0, s.epoch, .hsFinish fb⟩).hsEpoch h

/-- FINISH at the responder (R420, R421 check 5). -/
def State.gotFinish (h : MsgHdr) (b : HsBody) (s : State) : State :=
  let x := s.screenHs h
  if ¬ x.1 then x.2
  else
    let s := x.2
    match (s.peer h.src).hs with
    | none => s
    | some y =>
      if y.initiator ∨ y.hsId ≠ b.hsId then s
      /- The initiator's incarnation has changed during the handshake: it is abandoned (R422; log 31). -/
      else if (s.peer h.src).incarn ≠ h.incarn then
        let s := (s.hsIncarn h).updPeer h.src fun p => { p with hs := none }
        if (s.peer h.src).waiting.isEmpty then s else s.needKey h.src
      else if b.sig ≠ y.conf then s.hsFailed h b.hsId 4
      else (((s.keySet h.src y.certs).updPeer h.src fun p => { p with hs := none }).releaseWaiting h.src).hsEpoch h

/-- A received ABORT ends the handshake it names (R421). -/
def State.gotAbort (h : MsgHdr) (id : Word32) (s : State) : State :=
  let x := s.screenHs h
  if ¬ x.1 then x.2
  else x.2.updPeer h.src fun p => match p.hs with
    | some y => if y.hsId = id ∧ y.running then { p with hs := none } else p
    | none => p

/-- An unanswered HELLO or REPLY goes again with the same header and body (R422, R406). -/
def State.hsRetry (n : NodeId) (s : State) : State :=
  match (s.peer? n).bind (·.hs) with
  | some y => if y.running then s.transmit n ⟨y.seq, 0, y.epoch, y.sent⟩ else s
  | none => s

def State.backoffOver (n : NodeId) (s : State) : State :=
  if (s.peer? n).isNone then s
  else
    let s := s.updPeer n fun p => { p with backoff := false }
    if (s.peer n).waiting.isEmpty ∨ (s.peer n).keyed then s else s.needKey n

def State.holdOver (n : NodeId) (s : State) : State :=
  if (s.peer n).holdUntilFirst then (s.updPeer n fun p => { p with holdUntilFirst := false }).releaseWaiting n else s

/-- REKEY_DUE (R407). -/
def State.rekeyDue (n : NodeId) (s : State) : State := if (s.peer n).keyed ∧ s.listens then s.needKey n else s

def State.oldKeyGone (n : NodeId) (s : State) : State :=
  if (s.peer? n).isSome then s.updPeer n fun p => { p with oldKey := false } else s

/-! ## Management sessions (R354, R423) -/

/-- The number by which commands in flight know a session that has closed; no session has it. -/
def goneSession : Nat := 65535

/-- A session closes: its commands complete, their replies are discarded (R354). -/
def State.closeSession (n : Nat) (s : State) : State :=
  if (s.session? n).isNone then s
  else
    let forget := fun (i : Inflight) => if i.pkt.src = .mgmt n then { i with pkt := { i.pkt with src := .mgmt goneSession } } else i
    ({ s with host := { s.host with sessions := s.host.sessions.filter fun x => !(x.num == n) }
              cmds := { s.cmds with list := s.cmds.list.map forget } }).emit (.sessionClosed n)

/-- MGMT_CONNECT: the lowest free session number of four, or a reset (R354). -/
def State.connect (s : State) : State :=
  if ¬ s.host.mportUp then s
  else match (List.range 4).find? fun n => (s.session? n).isNone with
    | none => s.emit .tcpReset
    | some n =>
      ({ s with host := { s.host with sessions := s.host.sessions ++ [(⟨n, false, 0, 0, 0, []⟩ : Session)] } }).emit (.sessionOpened n)

/-- A management key digest of SEC_MKEY; none where it is all zero. -/
def State.mkey (s : State) (k : Nat) : Option Digest :=
  let v := sumNat ((List.range 8).map fun w => s.kept (.secMkey k w) * 2 ^ (32 * w))
  if v = 0 then none else some (BitVec.ofNat 256 v)

def State.stationKnown (s : State) (key : List Byte) : Bool := (List.range 8).any fun k => s.mkey k == some (digest key)

/-- MGMT_HELLO (R420, R423): ABORT and close, or REPLY; the session is then established (log 33: the station's FINISH
is no command). -/
def State.mgmtHello (n : Nat) (b : HsBody) (s : State) : State :=
  match s.session? n with
  | none => s
  | some x =>
    if x.isOpen then s.closeSession n
    else if ¬ s.stationKnown b.certs then (s.emit (.sessionHs n (.hsAbort b.hsId 6))).closeSession n
    else
      let hI := shake256 32 (b.front 1)
      if ¬ Config.stationSigOk b.certs (prefixMgt ++ hI) b.sig then (s.emit (.sessionHs n (.hsAbort b.hsId 2))).closeSession n
      else if ¬ s.trust.attReady then s
      else
        let s := s.attRoll
        let rb := s.hsBody b.hsId (Config.kemCipher s.freeCtr b.kem) true
        let hR := shake256 32 (rb.front 2)
        let rb := { rb with sig := Config.sign s.trust.attSerial (prefixMgt ++ hI ++ hR) }
        (s.drawn.attUsed.updSession n fun y => { y with isOpen := true }).emit (.sessionHs n (.hsReply rb))

/-- SESSION_REKEY_CLOSE: no command outstanding (R423). -/
def State.sessionRekey (n : Nat) (s : State) : State :=
  match s.session? n with
  | some x => if x.outstanding = 0 then s.closeSession n else s
  | none => s

/-! ## The commands -/

def execHandshakeHello (h : MsgHdr) (b : HsBody) (s : State) : Host.Outcome State Fault Refusal := .next (s.gotHello h b)
def execHandshakeReply (h : MsgHdr) (b : HsBody) (s : State) : Host.Outcome State Fault Refusal := .next (s.gotReply h b)
def execHandshakeFinish (h : MsgHdr) (b : HsBody) (s : State) : Host.Outcome State Fault Refusal := .next (s.gotFinish h b)
def execHandshakeAbort (h : MsgHdr) (hsId : Word32) (_ : Nat) (s : State) : Host.Outcome State Fault Refusal :=
  .next (s.gotAbort h hsId)
def execHandshakeRetry (peer : NodeId) (s : State) : Host.Outcome State Fault Refusal := .next (s.hsRetry peer)
def execHandshakeBackoffExpiry (peer : NodeId) (s : State) : Host.Outcome State Fault Refusal := .next (s.backoffOver peer)
def execInitiatorHoldExpiry (peer : NodeId) (s : State) : Host.Outcome State Fault Refusal := .next (s.holdOver peer)
def execRekeyDue (peer : NodeId) (s : State) : Host.Outcome State Fault Refusal := .next (s.rekeyDue peer)
def execOldKeyErase (peer : NodeId) (s : State) : Host.Outcome State Fault Refusal := .next (s.oldKeyGone peer)
def execMgmtConnect (s : State) : Host.Outcome State Fault Refusal := .next s.connect
def execMgmtHello (session : Nat) (b : HsBody) (s : State) : Host.Outcome State Fault Refusal := .next (s.mgmtHello session b)
def execSessionIdleTimeout (session : Nat) (s : State) : Host.Outcome State Fault Refusal := .next (s.closeSession session)
def execSessionRekeyClose (session : Nat) (s : State) : Host.Outcome State Fault Refusal := .next (s.sessionRekey session)
def execMgmtDisconnect (session : Nat) (s : State) : Host.Outcome State Fault Refusal := .next (s.closeSession session)

end Sys2Proof.Machine
end

