-- ==== Sys2Proof/Machine/Links.lean ====
section
/-! DEFINITION. The fabric links: training, link frames, replay, lanes and sparing (13_chainline_fabric.md R357 to R370,
R389). -/

namespace Sys2Proof.Machine

def linkDetail (lane dir cause plane : Nat) : List Byte := leBytes 1 lane ++ leBytes 1 dir ++ leBytes 1 cause ++ leBytes 1 plane

/-- Raises a status bit of a link with a record of class 4. -/
def State.linkRaise (n bit' code sev : Nat) (det : List Byte) (s : State) : State :=
  s.raise (.fabLinkSts n) bit' ⟨4, code, sev, 0xFF, n, det⟩

def State.linkOn (s : State) (n : Nat) : Bool := s.rf (.fabLinkCtl n) 0 1 == 1

/-! ## Training (R358, R359) -/

/-- A link begins to train: lanes back on their own wavelengths, no frame kept. -/
def State.startTraining (n : Nat) (s : State) : State :=
  (s.updLink n fun _ => { Link.reset with state := .training }).emit (.linkTrain n)

/-- The link enters `UP`; `spare` says whether its spare lanes are locked. -/
def State.linkUp (n : Nat) (t : TrainInfo) (spare : Bool) (s : State) : State :=
  let s := s.updLink n fun _ =>
    { Link.reset with state := .up, plane := t.plane % 64, credits := t.credits, rx := ⟨none, [], spare⟩, tx := ⟨none, [], spare⟩ }
  if spare then s else s.linkRaise n 3 5 1 (linkDetail 2 0 1 (t.plane % 64))

/-- TRAIN_FRAME: a partner other than a switch port is not supported. -/
def State.gotTrain (n : Nat) (t : TrainInfo) (s : State) : State :=
  if (s.link n).state ≠ .training ∨ ¬ t.isSwitch then s
  else if t.lanesLocked ∧ t.spareLocked then s.linkUp n t true
  else s.updLink n fun l => { l with trained := some t }

/-- SPARE_LOCK_TIMEOUT: `UP` without sparing once both sides have trained and the active lanes are locked. -/
def State.spareTimeout (n : Nat) (s : State) : State :=
  match (s.link n).state, (s.link n).trained with
  | .training, some t => if t.lanesLocked then s.linkUp n t false else s
  | _, _ => s

/-! ## Frames (R361 to R364) -/

/-- The link that a message or frame takes (R370). -/
def State.linkFor (s : State) (dst : NodeId) (ordered : Bool) (seq : Nat) : Option Nat :=
  let live := s.liveLinks
  let h := if ordered then Config.streamHash s.self.toNat dst.toNat else Config.messageHash dst.toNat seq
  live[h % live.length]?

/-- Sends again every frame that the replay buffer keeps, oldest first, with the acknowledgement and credits of now. -/
def State.replayAll (n : Nat) (s : State) : State :=
  let l := s.link n
  if ¬ l.state.live ∨ l.replay = [] then s
  else
    let s := l.replay.foldl (fun s x =>
      let f := (s.link n).stamp x.2
      (s.updLink n fun l => { l.paid with replay := updWhere (fun y => y.1 == x.1) (fun y => (y.1, f)) l.replay }).emit (.linkFrame n f)) s
    (s.count 6 nodeScope (fabTel n 8)).raise (.fabLinkSts n) 4 (Rec.event 0xFF n)

/-- LSEQ arithmetic modulo 2^16: how far `b` lies after `a`. -/
def lseqDist (a b : Nat) : Nat := (b + 65536 - a % 65536) % 65536

/-- The replay buffer keeps what an acknowledgement of `ack` does not cover. -/
def keepAfter (ack : Nat) (l : List (Nat × LinkFrame)) : List (Nat × LinkFrame) :=
  match l.find? fun x => x.1 == ack with
  | none => l
  | some _ => (l.dropWhile fun x => x.1 != ack).drop 1

/-- The NAK that a receiver sends once after a discarded frame or a gap (R362). -/
def State.sendNak (n : Nat) (s : State) : State :=
  let l := s.link n
  if l.nakSent then s
  else ((s.updLink n fun l => { l with nakSent := true }).count 6 nodeScope (fabTel n 9)).emit (.linkNak n ((l.lseqRx + 1) % 65536))

/-- Gathers a body by its offset (R371). -/
def gather (f : LinkFrame) (l : List Frag) : List Frag :=
  let ord := f.kind == 2
  let same := fun (x : Frag) => x.src == f.src && x.ordered == ord && x.seq == f.msgSeq
  let l := if l.any same then l else l ++ [⟨f.src, ord, f.msgSeq, []⟩]
  updWhere same (fun x => { x with parts := assocSet f.fragOff.toNat f.body x.parts }) l

/-- A frame that passed its checks: its acknowledgement and credits, and a data frame in LSEQ order. -/
def State.goodFrame (n : Nat) (f : LinkFrame) (s : State) : State :=
  let s := s.updLink n fun l =>
    { l with replay := keepAfter f.ack.toNat l.replay, credits := updAt f.creditVc (· + f.credits) l.credits }
  let l := s.link n
  let s :=
    if f.kind ≠ 1 ∧ f.kind ≠ 2 then s
    else
      let d := lseqDist l.lseqRx f.lseq.toNat
      if d = 1 then
        let s := (s.updLink n fun l =>
          { l with lseqRx := f.lseq.toNat, nakSent := false, ackOwed := true, owed := updAt f.vc (· + f.cost) l.owed }).count 6
            nodeScope (fabTel n 7)
        if f.dst = s.self then { s with fab := { s.fab with reassembly := gather f s.fab.reassembly } } else s
      else if d < 32768 ∧ d ≠ 0 then s.sendNak n
      else s.updLink n fun l => { l with ackOwed := true }
  s.pumpAll n

/-- DATA_FRAME (R361, R362): a frame whose CRC fails or that lies in an uncorrectable code word is discarded. -/
def State.gotFrame (n : Nat) (f : LinkFrame) (s : State) : State :=
  if ¬ (s.link n).state.live then s
  else if ¬ f.fecOk ∨ f.crc ≠ f.check then s.sendNak n
  else s.goodFrame n f

/-- LINK_NAK: retransmission from the LSEQ named, which is the next that the partner expects. -/
def State.gotNak (n ack : Nat) (s : State) : State :=
  if ¬ (s.link n).state.live then s
  else ((s.updLink n fun l => { l with replay := keepAfter ((ack + 65535) % 65536) l.replay }).replayAll n).pumpAll n

/-- IDLE_ACK_TIMER: an idle frame with the acknowledgement and credits owed. -/
def State.idleAck (n : Nat) (s : State) : State :=
  let l := s.link n
  if ¬ l.state.live ∨ ¬ (l.ackOwed ∨ l.owed.any (· != 0)) then s
  else
    let c := l.creditField
    (s.updLink n fun l => l.paid).emit (.linkIdle n l.lseqRx c.1 c.2)

/-! ## Lanes (R366 to R369) -/

/-- How a link stands with the lanes that it has. -/
def Link.judge (l : Link) : LinkState :=
  if 2 ≤ l.rx.lost.length ∨ 2 ≤ l.tx.lost.length then .down
  else if l.rx.lost ≠ [] ∨ l.tx.lost ≠ [] then .degraded
  else if l.rx.spareFor.isSome ∨ l.tx.spareFor.isSome then .spared
  else .up

/-- Moves the frames that wait or are not acknowledged to the links in service (R368). -/
def State.moveFrames (n : Nat) (s : State) : State :=
  let l := s.link n
  let frames := l.replay.map (·.2) ++ l.queue
  let s := { s.updLink n fun l => { l with replay := [], queue := [] } with
    fab := { (s.updLink n fun l => { l with replay := [], queue := [] }).fab with
      peers := s.fab.peers.map fun p => if p.ordLink = some n then { p with ordLink := s.linkFor p.node true 0 } else p } }
  let put := fun (s : State) (f : LinkFrame) =>
    let stay : Option Nat := if f.kind = 2 then (s.fab.peers.find? fun p => p.node == f.dst).bind (·.ordLink) else none
    match (match stay with | some k => some k | none => s.linkFor f.dst (f.kind == 2) f.msgSeq.toNat) with
    | some k => s.updLink k fun l => { l with queue := l.queue ++ [f] }
    | none => s
  let s := frames.foldl put s
  s.liveLinks.foldl (fun s k => s.pumpAll k) s

/-- A link goes `DOWN`: its unacknowledged frames go back to the message layer and out on other links (R368). -/
def State.linkDown (n : Nat) (det : List Byte) (s : State) : State :=
  ((s.updLink n fun l => { l with state := .down }).moveFrames n).linkRaise n 2 4 2 det

/-- The link's state after a change of its lanes, with the status bit of a change for the worse. -/
def State.rejudge (n : Nat) (det : List Byte) (s : State) : State :=
  let l := s.link n
  let st := l.judge
  if st = .down then s.linkDown n det
  else
    let s := s.updLink n fun l => { l with state := st }
    if st = l.state then s
    else if st = .spared then (s.linkRaise n 0 2 1 det).count 6 nodeScope (fabTel n 10)
    else if st = .degraded then s.linkRaise n 1 3 1 det
    else s

/-- A lane's direction takes the spare where it is free and locked, and sparing is on; else the lane is lost (R367,
R368). -/
def Lanes.lose (auto : Bool) (lane : Nat) (x : Lanes) : Lanes :=
  if x.spareFor = some lane then ⟨none, addNew lane x.lost, false⟩
  else if auto ∧ x.spareLocked ∧ x.spareFor.isNone ∧ x.lost = [] then { x with spareFor := some lane }
  else { x with lost := addNew lane x.lost }

def State.autoSpare (s : State) : Bool := s.rf .fabSpare 13 1 == 1

/-- The transmitter moves a lane at its next frame boundary and marks it (R367 step 2). -/
def State.moveLane (n lane cause : Nat) (s : State) : State :=
  let auto := s.autoSpare
  let s := (s.updLink n fun l => { l with tx := l.tx.lose auto lane }).emit (.laneMark n lane)
  s.rejudge n (linkDetail lane 1 cause (s.link n).plane)

/-- LANE_FAULT (R366 to R368). On the receive side a free spare is asked for and taken at the partner's marker; otherwise
the lane is lost at once. -/
def State.laneFault (n : Nat) (rx : Bool) (lane cause : Nat) (s : State) : State :=
  let l := s.link n
  let side := if rx then l.rx else l.tx
  if ¬ l.state.live ∨ side.lost.contains lane then s
  else
    let det := linkDetail lane (if rx then 0 else 1) cause l.plane
    let s := s.note ⟨4, 1, 1, 0xFF, n, det⟩
    if ¬ rx then s.moveLane n lane cause
    else
      let s := s.emit (.spareReq n lane)
      let after := l.rx.lose s.autoSpare lane
      if after.spareFor = some lane then s
      else (s.updLink n fun l => { l with rx := after }).rejudge n det

/-- LANE_MARK: from here the receiver takes the spare, or the remaining lane, and asks for what it lacks (R367). A marker
for a lane that runs on the spare takes it back (R369). -/
def State.gotMark (n lane : Nat) (s : State) : State :=
  let l := s.link n
  if ¬ l.state.live then s
  else
    let s :=
      if l.rx.lost.contains lane then s
      else if l.rx.spareFor = some lane then s.updLink n fun l => { l with rx := { l.rx with spareFor := none } }
      else if l.rx.spareLocked ∧ l.rx.spareFor.isNone ∧ s.autoSpare then
        s.updLink n fun l => { l with rx := { l.rx with spareFor := some lane } }
      else s
    (s.rejudge n (linkDetail lane 0 0 l.plane)).sendNak n

/-- SPARE_REQ from the partner's receiver (R367 step 2). -/
def State.gotSpareReq (n lane : Nat) (s : State) : State :=
  let l := s.link n
  if ¬ l.state.live ∨ l.tx.lost.contains lane then s else s.moveLane n lane 0

/-- LINK_LANES_RETURN: a link that is `DOWN` trains again while EN is set (R368). -/
def State.lanesReturn (n : Nat) (s : State) : State :=
  if (s.link n).state = .down ∧ s.linkOn n ∧ s.nodeValid then s.startTraining n else s

/-- The next entry of the bulk gate cycle (R365). -/
def State.bulkNext (s : State) : State :=
  if ¬ s.fab.gateRunning then s
  else
    let s := { s with fab := { s.fab with gateEntry := (s.fab.gateEntry + 1) % s.gateEnt, gateAt := s.pow.tsc.toNat } }
    s.liveLinks.foldl (fun s k => s.pumpAll k) s

/-! ## Reassembly (R372, R375) -/

def State.dropFrags (p : Frag → Bool) (s : State) : State :=
  { s with fab := { s.fab with reassembly := s.fab.reassembly.filter fun x => !p x } }

/-- A message whose frames are incomplete after 1 ms. -/
def State.reassemblyOver (n : NodeId) (seq : Word32) (s : State) : State := s.dropFrags fun x => x.src == n && x.seq == seq

/-- An unordered segmented message of at most 512 segments from FIRST_SEQ on. -/
def State.segmentsOver (n : NodeId) (first : Word32) (s : State) : State :=
  s.dropFrags fun x => x.src == n && !x.ordered && decide (first.toNat ≤ x.seq.toNat) && decide (x.seq.toNat < first.toNat + 512)

/-! ## The commands -/

def execDataFrame (link : Fin 48) (f : LinkFrame) (s : State) : Host.Outcome State Fault Refusal := .next (s.gotFrame link f)
def execLinkNak (link : Fin 48) (ack : Word16) (s : State) : Host.Outcome State Fault Refusal := .next (s.gotNak link ack.toNat)
def execLinkReplayTimeout (link : Fin 48) (s : State) : Host.Outcome State Fault Refusal := .next (s.replayAll link)
def execIdleAckTimer (link : Fin 48) (s : State) : Host.Outcome State Fault Refusal := .next (s.idleAck link)
def execLaneFault (link : Fin 48) (dir : Dir) (lane : Fin 2) (cause : Nat) (s : State) : Host.Outcome State Fault Refusal :=
  .next (s.laneFault link (dir == .rx) lane cause)
def execSpareReq (link : Fin 48) (lane : Fin 2) (s : State) : Host.Outcome State Fault Refusal := .next (s.gotSpareReq link lane)
def execLaneMark (link : Fin 48) (lane : Fin 2) (s : State) : Host.Outcome State Fault Refusal := .next (s.gotMark link lane)
def execLinkLanesReturn (link : Fin 48) (s : State) : Host.Outcome State Fault Refusal := .next (s.lanesReturn link)
def execBulkGateEntryExpiry (s : State) : Host.Outcome State Fault Refusal := .next s.bulkNext
def execMessageReassemblyTimeout (peer : NodeId) (seq : Word32) (s : State) : Host.Outcome State Fault Refusal :=
  .next (s.reassemblyOver peer seq)
def execSegmentReassemblyTimeout (peer : NodeId) (firstSeq : Word32) (s : State) : Host.Outcome State Fault Refusal :=
  .next (s.segmentsOver peer firstSeq)

end Sys2Proof.Machine
end

