-- ==== Sys2Proof/Machine/Maps.lean ====
section
/-! DEFINITION. The composition map (11_command_reference.md R323, R324), the roles that it gives (15_resilience.md R446 to R450,
R454), heartbeats and suspects (13_chainline_fabric.md R383 to R387), health and expulsion (R455 to R459), and the fingerprint
(17_configuration_space.md R505, R506). -/

namespace Sys2Proof.Machine

/-! ## Map bodies (R323) -/

def MapBody.home (m : Sys2Proof.MapBody) (k : Nat) : NodeId := (m.roles k).1
def MapBody.tandem (m : Sys2Proof.MapBody) (k : Nat) : NodeId := (m.roles k).2

def shardWord (p : NodeId × NodeId) : Nat := p.1.toNat + 2 ^ 12 * p.2.toNat

/-- The body's bytes; the reserved fields of a body that is held are zero. -/
def MapBody.bytes (m : Sys2Proof.MapBody) : List Byte :=
  leBytes 4 m.epoch.toNat ++ leBytes 2 m.nodes.length ++ zeroBytes 10 ++
  ((List.range 65536).flatMap fun k => leBytes 4 (shardWord (m.roles k))) ++
  m.nodes.flatMap fun x => leBytes 2 x.1.toNat ++ leBytes 2 x.2.1 ++ leBytes 1 x.2.2 ++ zeroBytes 3

def wordRoles (w : Nat) : NodeId × NodeId := (BitVec.ofNat 12 w, BitVec.ofNat 12 (w / 2 ^ 12))

def parseMap (b : List Byte) : Option MapBody :=
  let n := field b 4 2
  if b.length ≠ 262160 + 8 * n ∨ n = 0 ∨ 4096 < n then none
  else
    let words := leWords 4 (slice b 16 262144)
    let d := wordRoles (words.headD 0)
    let table := chunks 8 (b.drop 262160)
    some ⟨BitVec.ofNat 32 (field b 0 4), d, (enumFrom 0 words).filterMap fun x => if wordRoles x.2 = d then none else some (x.1, wordRoles x.2),
      table.map fun e => (BitVec.ofNat 12 (field e 0 2), field e 2 2, field e 4 1),
      zeros (slice b 6 10) && words.all (fun w => decide (w < 2 ^ 24)) && table.all fun e => decide (field e 0 2 < 4096) && zeros (e.drop 5)⟩

/-- The pairs of home and tandem that the shards have. -/
def MapBody.pairs (m : Sys2Proof.MapBody) : List (NodeId × NodeId) :=
  (if m.shards.length < 65536 then [m.dflt] else []) ++ m.shards.map (·.2)

/-- The other nodes that share a shard with a node. -/
def MapBody.partners (m : Sys2Proof.MapBody) (n : NodeId) : List NodeId :=
  ((MapBody.pairs m).filterMap fun p => if p.1 = n then some p.2 else if p.2 = n then some p.1 else none).dedup.filter (· != n)

/-- The checks of R323. -/
def MapBody.ok (m : Sys2Proof.MapBody) : Bool :=
  let ids := m.nodes.map (·.1)
  decide (1 ≤ m.epoch.toNat) && m.reservedOk && decide (1 ≤ m.nodes.length ∧ m.nodes.length ≤ 4096) && decide (ids.dedup.length = ids.length) &&
  m.nodes.all (fun x => decide (x.2.2 ≤ 2)) &&
  (MapBody.pairs m).all (fun p => p.1 != p.2 && ids.contains p.1 && ids.contains p.2 && MapBody.domain m p.1 != MapBody.domain m p.2) &&
  ids.all fun n => decide ((MapBody.partners m n).length ≤ 1024)

/-- Two bodies are identical. -/
def MapBody.same (a b : Sys2Proof.MapBody) : Bool :=
  a.epoch == b.epoch && a.nodes == b.nodes && (List.range 65536).all fun k => a.roles k == b.roles k

/-- The shards in which a node is home or tandem. -/
def MapBody.shardsOf (m : Sys2Proof.MapBody) (n : NodeId) : List Nat :=
  let keys := if m.dflt.1 = n ∨ m.dflt.2 = n then List.range 65536 else m.shards.map (·.1)
  keys.filter fun k => MapBody.home m k == n || MapBody.tandem m k == n

inductive Role where
  | none | home | tandem
  deriving DecidableEq, Repr

/-- The role that a map gives a node for a shard. -/
def MapBody.roleOf (m : Sys2Proof.MapBody) (n : NodeId) (k : Nat) : Role :=
  if (MapBody.stateOf m n).getD 0 ≠ 0 then .none
  else if MapBody.home m k = n then .home
  else if MapBody.tandem m k = n then .tandem
  else .none

/-- A map counts a node as lost (DEDUCED, log 34). -/
def MapBody.lost (m : Sys2Proof.MapBody) (n : NodeId) : Bool := match MapBody.stateOf m n with | some 2 | none => true | _ => false

/-- The node that sends a shard to a new home (R448): none where the shard's home was home or tandem before. -/
def transferSource (old new : Sys2Proof.MapBody) (k : Nat) : Option NodeId :=
  let h := MapBody.home old k
  let t := MapBody.tandem old k
  if MapBody.home new k = h ∨ MapBody.home new k = t then none
  else if ¬ MapBody.lost new h then some h
  else if ¬ MapBody.lost new t then some t
  else none

/-! ## The fingerprint (R387, R505, R506) -/

def State.mapDigest (s : State) : Word64 := match s.map.map with | some m => digest64 (MapBody.bytes m) | none => 0

def configMagic : List Byte := ascii [0x50, 0x54, 0x43, 0x46, 0x47, 0x30, 0x30, 0x31]

/-- The canonical effective configuration. -/
def State.configBytes (s : State) : List Byte :=
  configMagic ++
  ((Reg.all.filter fun r => r.fpMask != 0).flatMap fun r => leBytes 4 r.offset ++ leBytes 4 (s.kept r &&& r.fpMask)) ++
  digestBytes s.trust.fwDigest ++ leBytes 4 s.trust.svnRun.toNat ++
  ((enumFrom 0 s.ptns).flatMap fun x => match x.2 with | some p => p.body x.1 | none => []) ++
  leBytes 4 s.epoch ++ leBytes 8 s.mapDigest.toNat

/-- Computes the fingerprint again; a change of value writes a record (R506). -/
def State.refingerprint (s : State) : State :=
  let f := digest64 s.configBytes
  if f = s.fingerprint then s
  else ({ s with fingerprint := f }).note ⟨10, 3, 0, 0xFF, 0, zeroBytes 16 ++ leBytes 8 f.toNat⟩

/-! ## Heartbeats (R383 to R385) -/

def sortNodes (l : List NodeId) : List NodeId := sortBy (fun (a b : NodeId) => decide (a.toNat < b.toNat)) l.dedup

/-- The watch set: shard partners, node sets of self-placed namespaces, replica sets (R383). -/
def State.watchSet (s : State) : List NodeId :=
  let one := match s.map.map with | some m => MapBody.partners m s.self | none => []
  let two := (s.store.nss.filter fun x => x.selfPlaced && x.nodes.contains s.self).flatMap (·.nodes)
  let three := (s.store.seqs.filter fun q => q.shared && s.isHome q.handle).flatMap (·.replicas)
  (((sortNodes one ++ sortNodes two ++ sortNodes three).filter fun n => n != s.self).reverse.dedup.reverse).take 1024

def State.heartbeat (s : State) (n : NodeId) (watched : Bool) : Heartbeat :=
  ⟨s.fingerprint, s.mapDigest, s.pow.tsc, s.map.score, s.map.role, s.pow.cfgDefaulted, s.pow.freewheel.isSome, watched,
   BitVec.ofNat 32 ((s.peer n).hbTx + 1)⟩

def State.sendHeartbeat (n : NodeId) (watched : Bool) (s : State) : State :=
  let m := Msg.heartbeat (s.heartbeat n watched)
  (s.updPeer n fun p => { p with hbTx := p.hbTx + 1, watching := watched }).postMsg n m

/-- A node that has left the watch set is told at once. -/
def State.tellLeavers (s : State) : State :=
  let w := s.watchSet
  (s.fab.peers.filter fun p => p.watching && !w.contains p.node).foldl (fun s p => s.sendHeartbeat p.node false) s

/-- Heartbeats leave while the firmware serves, in the freewheel too (R384). -/
def State.beats (s : State) : Bool := s.pow.phase == .service && s.pow.state != .park

def State.fastHeartbeats (s : State) : State :=
  if ¬ s.beats then s else s.watchSet.foldl (fun s n => s.sendHeartbeat n true) s.tellLeavers

def State.slowHeartbeats (s : State) : State :=
  match s.map.map with
  | none => s
  | some m =>
    if ¬ s.beats then s
    else
      let w := s.watchSet
      ((m.nodes.map (·.1)).filter fun n => n != s.self && !w.contains n).foldl (fun s n => s.sendHeartbeat n false) s

def peerDetail (n : NodeId) (reason epoch hb : Nat) : List Byte :=
  leBytes 2 n.toNat ++ leBytes 2 reason ++ leBytes 4 epoch ++ leBytes 4 hb

/-- HEALTH values of the last second, and the newest before it. -/
def State.keepHealth (s : State) (v : Nat) (l : List (Nat × Nat)) : List (Nat × Nat) :=
  let now := s.pow.tsc.toNat
  let recent := fun (x : Nat × Nat) => decide (now < x.2 + secondNs)
  (v, now) :: (l.filter recent ++ (l.filter fun x => !recent x).take 1)

def State.fpHold (s : State) : Nat := s.rf .fabHb 22 4

/-- A heartbeat comes (R384 to R387). -/
def State.gotHeartbeat (h : MsgHdr) (b : Heartbeat) (s : State) : State :=
  let s := s.updPeer h.src fun p => { p with
    hbRx := b.hbSeq.toNat, watched := b.watched, suspect := false, warned := b.warning, healths := s.keepHealth b.health p.healths }
  if h.epoch.toNat ≠ s.epoch ∨ b.mapDigest ≠ s.mapDigest then s
  else if b.fingerprint = s.fingerprint then s.updPeer h.src fun p => { p with fpDiff := 0 }
  else
    let s := s.updPeer h.src fun p => { p with fpDiff := p.fpDiff + 1 }
    if (s.peer h.src).fpDiff = s.fpHold then
      s.raise .fabSts 1 ⟨5, 2, 0, 0xFF, 0,
        peerDetail h.src 0 s.epoch 0 ++ zeroBytes 4 ++ leBytes 8 s.fingerprint.toNat ++ leBytes 8 b.fingerprint.toNat⟩
    else s

def State.inMap (s : State) (n : NodeId) : Bool := match s.map.map with | some m => (MapBody.stateOf m n).isSome | none => false

/-- MISS intervals without a heartbeat (R385, R445): raised once until the next heartbeat (DEDUCED, log 34). -/
def State.peerSuspect (n : NodeId) (s : State) : State :=
  if ¬ s.inMap n ∨ n = s.self ∨ (s.peer n).suspect ∨ ¬ s.beats then s
  else
    (s.updPeer n fun p => { p with suspect := true }).raise .fabSts 0 ⟨5, 1, 1, 0xFF, 0, peerDetail n 0 s.epoch (s.peer n).hbRx⟩

/-! ## Health and expulsion (R455 to R458) -/

def State.penalties (s : State) : List Nat :=
  let links := (List.range 48).map s.link
  let count := fun (p : LinkState → Bool) => (links.filter fun l => p l.state).length
  let down := ((List.range 48).filter fun n => s.linkOn n && ((s.link n).state == .down || (s.link n).state == .fenced)).length
  let inUse := s.eng.engines.filter fun e => e.inUse && !e.fenced
  let now := s.pow.tsc.toNat
  [15 * (64 - inUse.length), 5 * ((s.eng.engines.drop 64).filter fun e => e.inUse && !e.fenced).length,
   80 * (s.hbm.stk.filter fun k => k.state == .fenced).length, 20 * (s.flash.chans.filter fun c => c.state == .fenced).length,
   if s.flash.state = .readOnly then 150 else 0, 10 * down, 2 * count (· == .spared), 5 * count (· == .degraded),
   40 * ((List.range 4).filter fun n => s.rf (.hptPortCtl n) 0 1 == 1 && (s.port n).state != 2).length,
   10 * min 20 (s.map.ueTimes.filter fun t => decide (now ≤ t + 60000000000)).length,
   if s.flash.chans.any (·.tempWarn) then 50 else 0, 20 * s.eng.coresFenced.length]

def State.healthScore (s : State) : Nat := 1000 - sumNat s.penalties

def State.keepThr (s : State) : Nat := s.rf .fabExpel 16 10

/-- Every heartbeat of a peer has carried a low HEALTH for 1 s. -/
def State.lowFor (s : State) (p : Peer) : Bool :=
  p.healths.all (fun x => decide (x.1 < s.keepThr)) && p.healths.any fun x => decide (x.2 + secondNs ≤ s.pow.tsc.toNat)

def State.lastSecond (s : State) (l : List Nat) : List Nat := l.filter fun t => decide (s.pow.tsc.toNat < t + secondNs)

/-- Half of at least 64 partial requests within 1 s have failed. -/
def State.failing (s : State) (p : Peer) : Bool :=
  decide (64 ≤ (s.lastSecond p.reqSent).length ∧ (s.lastSecond p.reqSent).length ≤ 2 * (s.lastSecond p.reqFailed).length)

/-- EXPULSION_REQUEST_SEND (R457). -/
def State.askExpulsion (n : NodeId) (s : State) : State :=
  let p := s.peer n
  let now := s.pow.tsc.toNat
  let early : Bool := match p.expelAt with | some t => decide (now < t + 10 * secondNs) | none => false
  if ¬ (s.lowFor p ∨ s.failing p) ∨ early ∨ n = s.self ∨ ¬ s.listens then s
  else
    let reason := if s.lowFor p then 1 else 2
    let recent := (p.healths.filter fun x => decide (now < x.2 + secondNs)).map (·.1)
    let seen := (minNat? recent).getD 0
    let failed := (s.lastSecond p.reqFailed).length
    let tokens := s.rf .fabExpel 0 8
    let s := s.updPeer n fun p => { p with expelAt := some now }
    if 0 < tokens then
      let spent := s.map.tokensSpent + 1
      let s := { (s.setRf .fabExpel 0 8 (tokens - 1)) with map := { s.map with tokensSpent := spent } }
      s.postMsg n (.expel n 1 reason spent seen failed)
    else s.postMsg n (.expel n 2 reason 0 seen failed)

/-- EXPEL (R458). -/
def State.gotExpel (h : MsgHdr) (target : NodeId) (kind reason : Nat) (token : Word32) (s : State) : State :=
  let det := peerDetail h.src reason s.epoch 0
  if target = s.self ∧ kind = 1 ∧ (s.peer h.src).tokenSeen < token.toNat then
    let s := (s.updPeer h.src fun p => { p with tokenSeen := token.toNat }).raise .fabHealth 16 ⟨5, 4, 2, 0xFF, 0, det⟩
    if s.map.leaveRaised then s else s.leave 6
  else if target = s.self ∧ kind = 2 then
    if s.map.score < s.keepThr ∧ s.map.role = 0 then
      ({ s with map := { s.map with role := 1, keepEpoch := BitVec.ofNat 32 s.epoch } }).raise .fabHealth 17 ⟨5, 5, 1, 0xFF, 0, det⟩
    else s.note ⟨5, 5, 0, 0xFF, 0, det⟩
  else (s.note ⟨5, 6, 0, 0xFF, 0, det⟩).count 6 nodeScope (fabTel h.link 14)

/-! ## Settling restored sequences (R454) -/

def Seq.lengths (q : Seq) : List Nat := q.layers.map (·.length)

/-- What a node with the longer layers sends of them: their tails, their sealed pages from the other's length on, the token
IDs. -/
def State.sendAbove (n : NodeId) (q : Seq) (lengths : List Nat) (s : State) : State :=
  let longer := (List.range q.layers.length).filter fun l => decide (lengths.getD l 0 < (q.layer l).length)
  if longer = [] then s
  else
    let s := q.tokens.foldl (fun s b => s.postMsg n (.pageCopy 5 q.handle 0xFFFF (.tokens b.idx b.ids (b.crc.getD 0)))) s
    longer.foldl (fun s l =>
      let s := (q.layer l).entries.foldl (fun s e =>
        match s.page? e.page with
        | some p => if p.sealed? ∧ lengths.getD l 0 < 256 * (e.block + 1) then s.sendCopy n 5 q.handle l p else s
        | none => s) s
      s.sendTail n q l) s

/-- Tells the other role holder the restored lengths. -/
def State.sendLengths (q : Seq) (s : State) : State :=
  let dst := if s.isHome q.handle then s.tandemOf q.handle else s.homeOf q.handle
  match dst with
  | some n => if n = s.self then s else s.postMsg n (.stepLengths q.handle (!q.state.unsettled) q.lengths)
  | none => s

/-- A home settles on the lengths that it has: what was longer before the restart is lost; the tandem takes it all from
here. -/
def State.settled (h : Handle) (s : State) : State :=
  match s.seq? h with
  | none => s
  | some q =>
    let s := s.updSeq h fun q => { q with state := .live, before := [] }
    let s := s.takeSeq h
    (List.range q.layers.length).foldl (fun s l =>
      let len := (q.layer l).length
      let was := q.before.getD l 0
      if was ≤ len then s
      else
        let s := ((s.updLayer h l fun x => { x with loss := some ⟨len, was⟩ }).delta [.loss h l]).mirrorMsg h 0 (.stepLoss h l len was)
        s.raise .fabHealth 19 ⟨7, 1, 2, s.seqPtn h, 0, leBytes 8 h.toNat ++ leBytes 4 l ++ leBytes 4 len ++ leBytes 4 (was - len)⟩) s

/-- A home that has reached the lengths it waits for settles. -/
def State.settleCheck (h : Handle) (s : State) : State :=
  match s.seq? h with
  | some q => match q.state with
    | .settling (some want) =>
      if s.isHome h ∧ (List.range q.layers.length).all (fun l => decide (want.getD l 0 ≤ (q.layer l).length)) = true then s.settled h
      else s
    | _ => s
  | none => s

/-- MIRROR_STEP kind 10. -/
def State.gotLengths (h : MsgHdr) (seq : Handle) (survived : Bool) (lengths : List Nat) (s : State) : State :=
  s.step' h seq fun s =>
    match s.seq? seq with
    | none =>
      if s.isHome seq then s.postMsg h.src (.stepDelete seq)
      else s.postMsg h.src (.stepLengths seq s.pow.hbmSurvived [])
    | some q =>
      if s.isHome seq then
        match q.state with
        | .settling _ =>
          let grow := fun (i n : Nat) => max n (lengths.getD i 0)
          let s := s.updSeq seq fun q => { q with state := .settling (some lengths), before := (enumFrom 0 q.before).map fun x => grow x.1 x.2 }
          s.settleCheck seq
        | _ => if s.tandemOf seq = some h.src ∧ ¬ survived then s.resyncSeq h.src 5 q else s
      else if s.homeOf seq = some h.src ∧ ¬ survived then
        let s := if q.state.unsettled then s else s.sendLengths q
        s.sendAbove h.src q lengths
      else s

/-- Tells the other role holders of all restored sequences; a node without a role then gives its copy up (R446). -/
def State.settleAll (s : State) : State :=
  (s.store.seqs.filter fun q => q.state.unsettled).foldl (fun s q =>
    let s := s.sendLengths q
    if s.isHome q.handle ∨ s.isTandem q.handle ∨ s.map.map.isNone then s
    else { s with map := { s.map with leaving := addNew q.handle s.map.leaving } }) s

/-! ## Roles on an install (R446 to R449) -/

/-- A command in flight is a write to the sequence that has not completed. -/
def Inflight.writes (h : Handle) (i : Inflight) : Bool :=
  match i.wait with
  | .gap a | .journal a | .level a _ => a.seq == h
  | .mirror _ _ x => x == h
  | .forkSeals f | .forkAccept f _ => f.parent == h
  | .recovery _ => seqAt0 i.payload == h
  | _ => false

/-- Writes that the node can no longer complete as home end with `STALE_EPOCH` (R287, R450). -/
def State.endWrites (h : Handle) (s : State) : State :=
  (s.cmds.list.filter (Inflight.writes h)).foldl (fun s i => s.complete i .staleEpoch (s.homeOf h) 0 []) s

/-- A former home keeps, as tandem, what was mirrored (R446). -/
def State.cutToMirrored (h : Handle) (s : State) : State :=
  match s.seq? h with
  | none => s
  | some q => (List.range q.layers.length).foldl (fun s l => (s.truncLayer false h l (q.layer l).mirrored).getD s) s

/-- The substitute for a lost member of a replica set (R449), in the cyclic order of NODE_TABLE (DEDUCED, log 34). -/
def MapBody.substitute (m old : Sys2Proof.MapBody) (gone : NodeId) (members : List NodeId) : Option NodeId :=
  let base := if (MapBody.stateOf m gone).isSome then m.nodes else old.nodes
  let ids := base.map (·.1)
  let after := (ids.dropWhile (· != gone)).drop 1 ++ ids.takeWhile (· != gone)
  let free := after.filter fun n => MapBody.stateOf m n == some 0 && !members.contains n
  let used := (members.filter (· != gone)).map (MapBody.domain m)
  match free.find? fun n => !used.contains (MapBody.domain m n) with
  | some n => some n
  | none => free.head?

/-- The home restores the replica set of a sequence. -/
def State.restoreReplicas (old new : Sys2Proof.MapBody) (h : Handle) (s : State) : State :=
  match s.seq? h with
  | none => s
  | some q =>
    if ¬ q.shared then s
    else (q.replicas.filter (MapBody.lost new)).foldl (fun s gone =>
      match s.seq? h with
      | none => s
      | some q =>
        match MapBody.substitute new old gone q.replicas with
        | none => s
        | some n =>
          let s := s.updSeq h fun q => { q with replicas := q.replicas.map fun x => if x = gone then n else x }
          (List.range q.layers.length).foldl (fun s l => (q.layer l).entries.foldl (fun s e =>
            match s.page? e.page with
            | some p => if p.sealed? ∧ n ≠ s.self then s.sendCopy n 2 h l p else s
            | none => s) s) s) s

def State.keepLeaving (h : Handle) (s : State) : State := { s with map := { s.map with leaving := addNew h s.map.leaving } }

/-- What a new map means for one sequence that the node holds. -/
def State.reassign (old new : Sys2Proof.MapBody) (h : Handle) (s : State) : State :=
  let k := shardOf h
  let before := MapBody.roleOf old s.self k
  let after := MapBody.roleOf new s.self k
  let live : Bool := match s.seq? h with | some q => q.state == .live | none => false
  let left := s.map.leaving.contains h
  let s := if before = .home ∧ after ≠ .home then s.endWrites h else s
  let s := if before = .home ∧ after = .tandem then s.cutToMirrored h else s
  let s := match transferSource old new k, s.seq? h with
    | some n, some q => if n = s.self ∧ live then s.resyncSeq (MapBody.home new k) 4 q else s
    | _, _ => s
  match before, after with
  | .home, .home =>
    let s := if ¬ live then s
      else if MapBody.tandem old k ≠ MapBody.tandem new k then s.takeSeq h
      else if s.map.refused.contains h then
        match s.seq? h with | some q => s.resyncSeq (MapBody.tandem new k) 5 q | none => s
      else s
    s.restoreReplicas old new h
  | .tandem, .home => (if live then s.takeSeq h else s).restoreReplicas old new h
  | .none, .home =>
    if left then s.removeSeq false h else if live then (s.takeSeq h).restoreReplicas old new h else s
  | .none, .tandem => if left then s.removeSeq false h else s
  | .home, .none | .tandem, .none => s.keepLeaving h
  | _, _ => s

/-- The transfers that a node waits for after an install (R448). -/
def State.awaited (s : State) (old new : Sys2Proof.MapBody) : List Transfer :=
  let n := s.self
  let kept := s.map.transfersIn.filter fun t => MapBody.roleOf new n t.shard == Role.home
  let early := fun k => s.map.doneEarly.any fun x => x.1 == k && x.2 == new.epoch.toNat
  let fresh := (MapBody.shardsOf new n).filter fun k =>
    MapBody.roleOf new n k == Role.home && (transferSource old new k).isSome && transferSource old new k != some n && !early k
  kept ++ (fresh.filter fun k => !kept.any fun t => t.shard == k).map fun k => ⟨k, 0⟩

/-- The end of each transfer that this node sends. -/
def State.sendDones (old new : Sys2Proof.MapBody) (s : State) : State :=
  ((MapBody.shardsOf old s.self).filter fun k => transferSource old new k == some s.self).foldl (fun s k =>
    let n := (s.store.seqs.filter fun q => shardOf q.handle == k && q.state == .live).length
    s.postMsg (MapBody.home new k) (.stepTransferDone k n)) s

/-- A node leaves degraded keep (R458). -/
def State.leaveKeep (m : Sys2Proof.MapBody) (s : State) : State :=
  if s.map.role = 1 ∧ s.map.keepEpoch.toNat < m.epoch.toNat ∧ MapBody.stateOf m s.self = some 0 ∧ s.keepThr ≤ s.map.score then
    { s with map := { s.map with role := 0 } }
  else s

/-- A command that waits for a lost node to take the end of a sequence that is gone here ends. -/
def State.stepsFreed (m : Sys2Proof.MapBody) (s : State) : State :=
  s.cmds.list.foldl (fun s i => match i.wait with
    | .mirror n _ h => if MapBody.lost m n ∧ (s.seq? h).isNone then s.complete i .ok none 0 [] else s
    | _ => s) s

/-- Installs a map of a newer epoch. -/
def State.installMap (m : Sys2Proof.MapBody) (s : State) : State :=
  let old := s.map.map
  let s := { s with map := { s.map with map := some m, prev := old } }
  let s := s.raise .fabSts 2 ⟨5, 8, 0, 0xFF, 0, peerDetail s.self 0 m.epoch.toNat 0⟩
  let s : State := match old with
    | none => s.settleAll
    | some o =>
      let s : State := { s with map := { s.map with transfersIn := s.awaited o m } }
      let held := s.store.seqs.map fun q => q.handle
      ((held.foldl (fun (s : State) h => s.reassign o m h) s).sendDones o m).settleAll
  let s := { s with map := { s.map with
    refused := [], doneEarly := s.map.doneEarly.filter fun x => decide (m.epoch.toNat < x.2)
    leaving := s.map.leaving.filter fun h => (s.seq? h).isSome && MapBody.roleOf m s.self (shardOf h) == Role.none } }
  (((s.stepsFreed m).leaveKeep m).tellLeavers).refingerprint

/-- A transfer out of a shard that its new home has not acknowledged whole. -/
def State.sending (s : State) (k : Nat) : Bool :=
  s.fab.peers.any fun p => p.unacked.any fun x => match x.msg with | .stepTransferDone j _ => j == k | _ => false

/-- Once the drain window is over and the transfer acknowledged, the copies go (R446). -/
def State.dropLeaving (s : State) : State :=
  if s.map.prev.isSome then s
  else
    let gone := s.map.leaving.filter fun h => !s.sending (shardOf h)
    let s := gone.foldl (fun s h => s.removeSeq false h) s
    { s with map := { s.map with leaving := s.map.leaving.filter fun h => !gone.contains h } }

/-- DRAIN_WINDOW_EXPIRY. -/
def State.drainOver (s : State) : State := ({ s with map := { s.map with prev := none } }).dropLeaving

def State.gotMap (m : MapBody) (s : State) : State :=
  if s.epoch < m.epoch.toNat ∧ MapBody.ok m then s.installMap m else s

def State.gotMapFetch (h : MsgHdr) (s : State) : State :=
  match s.map.map with
  | some m => s.postFor h.src h.reqId (.mapBody m)
  | none => s

/-! ## `MAP_PUSH` and `MAP_DESCRIBE` -/

def mapPushSeven (c : Cmd) (_ : State) : Option Status :=
  match parseMap c.data with
  | some m => if m.epoch = c.pkt.epoch ∧ MapBody.ok m then none else some .badParam
  | none => some .badParam

def State.pushReply (s : State) : Res := .ok (leBytes 4 s.epoch ++ zeroBytes 4 ++ leBytes 8 s.fingerprint.toNat) s

def mapPushRun (c : Cmd) (s : State) : Res :=
  match parseMap c.data, s.map.map with
  | none, _ => .no .badParam
  | some m, none => (s.installMap m).pushReply
  | some m, some held =>
    if held.epoch.toNat < m.epoch.toNat then (s.installMap m).pushReply
    else if m.epoch.toNat < held.epoch.toNat then .no .staleEpoch
    else if MapBody.same m held then s.pushReply
    else .no .conflict

def mapPushDef : OpDef := ⟨fun _ => .nothing, noSix, mapPushSeven, fun _ _ => 16, mapPushRun, emptyDup⟩

def mapCount (c : Cmd) : Nat := let n := field c.data 2 2; if n = 0 then 65536 else n

/-- A range that runs past the last shard is refused (DESIGN CHOICE, log 34). -/
def mapDescribeSeven (c : Cmd) (_ : State) : Option Status :=
  if c.data.length = 8 ∧ zeros (c.data.drop 4) ∧ field c.data 0 2 + mapCount c ≤ 65536 then none else some .badParam

def mapDescribeRun (c : Cmd) (s : State) : Res :=
  let words := (List.range (mapCount c)).flatMap fun i => leBytes 4 (match s.map.map with
    | some m => shardWord (m.roles (field c.data 0 2 + i))
    | none => 0)
  .ok (leBytes 4 s.epoch ++ zeroBytes 4 ++ words) s

def mapDescribeDef : OpDef := ⟨fun _ => .nothing, noSix, mapDescribeSeven, fun c _ => 8 + 4 * mapCount c, mapDescribeRun, emptyDup⟩

/-! ## The commands -/

def runMapPush (p : Packet) (s : State) : State := (s.arriveAll .mapPush mapPushDef p).schedule
def runMapDescribe (p : Packet) (s : State) : State := s.arriveAll .mapDescribe mapDescribeDef p

def execMapFetch (h : MsgHdr) (_ : Word32) (s : State) : Host.Outcome State Fault Refusal :=
  .next (s.unordered h fun s => s.gotMapFetch h)
def execHeartbeat (h : MsgHdr) (b : Heartbeat) (s : State) : Host.Outcome State Fault Refusal :=
  .next (s.unordered h (fun s => s.gotHeartbeat h b) true)
def execHeartbeatFastSend (s : State) : Host.Outcome State Fault Refusal := .next s.fastHeartbeats
def execHeartbeatSlowSend (s : State) : Host.Outcome State Fault Refusal := .next s.slowHeartbeats
def execPeerSuspect (peer : NodeId) (s : State) : Host.Outcome State Fault Refusal := .next (s.peerSuspect peer)
def execHealthScoreRecompute (s : State) : Host.Outcome State Fault Refusal :=
  .next { s with map := { s.map with score := s.healthScore } }
def execExpulsionRequestSend (target : NodeId) (s : State) : Host.Outcome State Fault Refusal := .next (s.askExpulsion target)
def execExpel (h : MsgHdr) (target : NodeId) (kind reason : Nat) (token : Word32) (_ _ : Nat) (s : State) :
    Host.Outcome State Fault Refusal := .next (s.unordered h fun s => s.gotExpel h target kind reason token)
def execDrainWindowExpiry (s : State) : Host.Outcome State Fault Refusal := .next s.drainOver
/-- The transfers that wait for their last acknowledgement end with it (R374, R448). -/
def execE2eAck (h : MsgHdr) (seq : Word32) (s : State) : Host.Outcome State Fault Refusal :=
  .next (s.unordered h fun s => (s.gotE2eAck h.src seq.toNat).dropLeaving)
def execFingerprintRecompute (s : State) : Host.Outcome State Fault Refusal := .next s.refingerprint

end Sys2Proof.Machine
end

