-- ==== Sys2Proof/Machine/Hbm.lean ====
section
/-! DEFINITION. The HBM stacks, their near-bank units and the migration of pages (08_hbm_and_near_bank.md R211 to R230;
02_sequences_and_pages.md R43; 09_flash_tier.md R254, R255). -/

namespace Sys2Proof.Machine

def memDetail (pch marker row : Nat) (page : Handle) : List Byte :=
  leBytes 1 pch ++ leBytes 1 0 ++ leBytes 1 marker ++ leBytes 1 0 ++ leBytes 4 row ++ leBytes 8 page.toNat

/-- Raises a status bit of a stack with a record of class 2. -/
def State.memRaise (n bit' code sev : Nat) (det : List Byte) (s : State) : State :=
  s.raise (.memStkSts n) bit' ⟨2, code, sev, 0xFF, n, det⟩

/-- Counter of a stack (R508). -/
def memTel (n k : Nat) : Nat := 8 * n + k

/-! ## Fixed roles (R209, R228) -/

/-- An ordinary stack that can take a role: of the same die and in service; the table's choice first. -/
def State.roleStack (s : State) (n : Nat) (first : Nat) : Nat :=
  let die := if n < 4 then [0, 1, 2] else [5, 6, 7]
  ((first :: die).find? fun k => k != n && s.serving k).getD n

/-- A stack's journal half and control copy move. -/
def State.moveRoles (n : Nat) (s : State) : State :=
  let j := s.roleStack n (if n = 0 then 1 else if n = 7 then 6 else n)
  let c := s.roleStack n (if n = 1 then 2 else if n = 6 then 5 else n)
  let h := s.hbm
  { s with hbm := { h with
      journalWest := if h.journalWest = n then j else h.journalWest
      journalEast := if h.journalEast = n then j else h.journalEast
      controlA := if h.controlA = n then c else h.controlA
      controlB := if h.controlB = n then c else h.controlB } }

/-! ## Moving pages -/

def State.stackPages (s : State) (n : Nat) : List Page :=
  s.store.pages.filter fun p => match p.hbm with | some l => l.stack == n | none => false

/-- The pages of a stack that can move: released ones and unfinished images keep their place (R63, R230). -/
def State.movable (s : State) (n : Nat) : List Page := (s.stackPages n).filter fun p => p.refs != 0

/-- Pages or gradient planes still hold frames of a stack. -/
def State.stackHeld (s : State) (n : Nat) : Bool :=
  (s.store.pages.any fun p => p.places.any fun l => l.stack == n) || s.store.grads.any fun g => g.stack == n

/-- Moves a page out of its stack: to another stack, else to flash (R229). Its old place stays while a read pins it (R43). -/
def State.movePage (p : Page) (s : State) : Option State :=
  match s.chooseStack p.name.block p.name.layer (shardOf p.name.seq) p.frames with
  | some st => some (s.updPage p.handle (Page.moveTo (some ⟨st, none, 0⟩)))
  | none =>
    if ¬ p.sealed? ∨ p.img.ring then none
    else (if p.flash then some s else s.writePage p).map fun t => t.updPage p.handle (Page.moveTo none)

def State.moveAll : List Page → State → Option State
  | [], s => some s
  | p :: l, s => match s.movePage p with
    | some t => State.moveAll l t
    | none => none

/-- Moves the gradient planes of a stack that other stacks can take (R214, R229). -/
def State.moveGrads (n : Nat) (s : State) : State :=
  s.store.grads.foldl (fun s g =>
    if g.stack ≠ n then s
    else match s.chooseStack g.block g.layer (shardOf g.seq) (gradFrames g) with
      | some k => { s with store := { s.store with grads := updWhere (· == g) (fun x => { x with stack := k }) s.store.grads } }
      | none => s) s

/-- Everything that can move has left a stack; none while a page cannot go. -/
def State.moveOut (n : Nat) (s : State) : Option State := (s.moveAll (s.movable n)).map (State.moveGrads n)

/-! ## Near-bank sequences end (R224, R225) -/

/-- The attend of a wait without a page among its needs; noted as scored near-bank where it was. -/
def nbWait (h : Handle) (good : Bool) : Wait → Wait
  | .attend r =>
    if r.needs.contains h then .attend { r with needs := delAll h r.needs, nearBank := if good then addNew h r.nearBank else r.nearBank }
    else .attend r
  | .batchEntry p k w => .batchEntry p k (nbWait h good w)
  | w => w

/-- The same of a partial request that this node answers. -/
def HeldPart.nbDone (h : Handle) (good : Bool) (x : HeldPart) : HeldPart :=
  if x.needs.contains h then { x with needs := delAll h x.needs, nearBank := if good then addNew h x.nearBank else x.nearBank } else x

/-- A sequence has ended; the read that it served goes on with its scores, or scores the page on the normal path. A page that is
being recovered is waited for. -/
def State.nbEnd (x : NbSeq) (good : Bool) (s : State) : State :=
  let ptn := match s.page? x.page with | some p => p.ptn | none => noPtn
  let s := s.countPtn ptn 1 (if good then 8 else 9)
  if (match s.page? x.page with | some p => p.recovering | none => true) then s
  else
    let cmds := { s.cmds with
      list := updWhere (fun (i : Inflight) => i.id == x.cmd) (fun i => { i with wait := nbWait x.page good i.wait }) s.cmds.list
      parts := updWhere (fun (y : HeldPart) => y.id == x.cmd) (HeldPart.nbDone x.page good) s.cmds.parts }
    (({ s with cmds := cmds } : State).serveParts.settleRecalls).dispatch

/-- Sequences of a stack are abandoned: their pages are scored on the normal path (R225, R230). -/
def State.abandonNb (n : Nat) (f : NbSeq → Bool) (s : State) : State :=
  let l := (s.stack n).running.filter f
  let s := s.updStack n fun k => { k with running := k.running.filter fun x => !f x }
  l.foldl (fun s x => s.nbEnd x false) s

/-! ## A stack's pages are lost (R227, R228) -/

/-- Reads of a page wait for its flash copy (R228). -/
def State.readAgain (h : Handle) (s : State) : State :=
  let was := s.wantsPage h
  let s := s.readsWait h
  if s.wantsPage h ∧ was = false then (s.queueWork .attend h (s.pageDie h)).emit (.flashRead h) else s

/-- A seal that has lost its tail's frames or its new ones goes back to the queue. -/
def State.recallSeal (p : Page) (s : State) : State :=
  ((s.endSeal p).dropImage p).updPage p.handle fun x => { x with sealing := .queued true }

/-- The running seals whose tail or whose unfinished image lies in a stack. -/
def State.sealsIn (s : State) (n : Nat) : List Page :=
  let inStack := fun (p : Page) => match p.hbm with | some l => l.stack == n | none => false
  s.store.pages.filter fun p => match p.sealing with
    | .running _ k _ => inStack p || (match s.page? k with | some y => inStack y | none => false)
    | _ => false

/-- A page loses its HBM copy: its flash copy serves, copied into another stack where one has room; else it is recovered from the
sources in order (R228, R442). -/
def State.losePlace (p : Page) (s : State) : State :=
  let s := s.updPage p.handle fun x => { x.endJob with hbm := none, openRec := [] }
  if p.refs = 0 ∧ p.pins = 0 then s
  else if p.flash then
    match s.chooseStack p.name.block p.name.layer (shardOf p.name.seq) p.frames with
    | some st => (s.updPage p.handle fun x => { x with hbm := some ⟨st, none, 0⟩ }).pageReady p.handle
    | none => s.readAgain p.handle
  else if p.recovering then s
  else ((s.updPage p.handle fun x => { x with recovering := true }).readsWait p.handle).nextSource p.handle p.name p.img.tail []

/-- A stack that has entered `FENCED` (R228): its sequences abandoned, its roles moved, seals that wrote there queued again, its
pages recovered. Gradient planes there, of which no copy exists, are gone (DESIGN CHOICE, log 35). -/
def State.dropStack (n : Nat) (s : State) : State :=
  let s := (s.abandonNb n fun _ => true).moveRoles n
  let s := (s.sealsIn n).foldl (fun s p => s.recallSeal p) s
  let pages := s.store.pages.map fun p => { p with leaving := p.leaving.filter fun l => l.stack != n }
  let s : State := { s with store := { s.store with pages := pages, grads := s.store.grads.filter fun g => g.stack != n } }
  (s.stackPages n).foldl (fun s p => s.losePlace p) s

/-- The next queued drain begins. -/
def State.nextDrain (s : State) : State :=
  if s.hbm.stk.any fun k => k.state == .draining then s
  else match (List.range 8).find? fun n => (s.stack n).drainQueued && s.serving n with
    | some n => s.updStack n fun k => { k with state := .draining, drainQueued := false }
    | none => s

/-- A stack enters `FENCED` at once (R219, R227, R228). -/
def State.fenceStack (n : Nat) (s : State) : State :=
  let st := (s.stack n).state
  if st = .fenced ∨ st = .off then s
  else
    let s := s.updStack n fun k => { k with state := .fenced, drainQueued := false }
    (((s.note ⟨2, 8, 2, 0xFF, n, []⟩).dropStack n).nextDrain.leaveCheck).schedule

/-! ## Enable, drain, fence (R211, R228, R229) -/

/-- EN goes from 0 to 1 on a stack that is `OFF`. -/
def State.stackOn (n : Nat) (s : State) : State :=
  let gib := if n = 3 ∨ n = 4 then s.rf (.memStkCtl n) 8 8 else 0
  s.updStack n fun k => { k with
    state := .training, openGib := gib, rowErrs := [], ueTimes := [], running := [], unitsFenced := [], drainQueued := false, rowsDue := [] }

/-- EN goes to 0 on a fenced stack. -/
def State.stackOff (n : Nat) (s : State) : State := s.updStack n fun k => { k with state := .off }

/-- STACK_INIT_DONE. The whole protected region has been written, which clears its markers, and those of rows that were scratch
rows (R211, R222). -/
def State.stackInit (n : Nat) (ok : Bool) (s : State) : State :=
  if (s.stack n).state ≠ .training then s
  else if ok then s.updStack n fun k => { k with state := .service, scratchMarked := [], rowsMarked := [] }
  else ((s.updStack n fun k => { k with state := .fenced }).memRaise n 4 5 2 (memDetail 0 0 0 0)).leaveCheck

def State.draining (s : State) : Bool := s.hbm.stk.any fun k => k.state == .draining

/-- The other stacks and flash can take the stack's pages. -/
def State.drainFits (s : State) (n : Nat) : Bool :=
  let t := s.updStack n fun k => { k with state := .draining }
  match t.moveOut n with
  | some t => t.store.grads.all fun g => g.stack != n
  | none => false

/-- FENCE goes to 1: the drain begins, or waits for the one that runs. -/
def State.startDrain (n : Nat) (s : State) : State :=
  match (s.stack n).state with
  | .service => if s.draining then s.updStack n fun k => { k with drainQueued := true }
    else s.updStack n fun k => { k with state := .draining }
  | .training => s.fenceStack n
  | .selfRefresh => s.updStack n fun k => { k with drainQueued := true }
  | _ => s

/-- A refused drain (R229). -/
def State.drainRefused (n : Nat) (s : State) : State := s.memRaise n 6 9 0 (memDetail 0 0 0 0)

/-- STACK_DRAIN_COMPLETE: the pages and roles have moved. While pages cannot move, or reads and seals still hold frames of the
stack, the drain goes on (R63, R230; log 52). -/
def State.drainDone (n : Nat) (s : State) : State :=
  if (s.stack n).state ≠ .draining then s
  else match s.moveOut n with
    | none => s
    | some s =>
      if s.stackHeld n then s else
      let s := ((s.updStack n fun k => { k with state := .fenced }).abandonNb n fun _ => true).moveRoles n
      ((s.note ⟨2, 8, 0, 0xFF, n, []⟩).leaveCheck).nextDrain

/-! ## Uncorrectable words, scrub, rows (R217 to R219, R230) -/

/-- An uncorrectable code word; the sixteenth within 1 s fences the stack. -/
def State.stackUe (n row : Nat) (page : Handle) (s : State) : State :=
  let s := s.updStack n fun k => { k with ueTimes := s.withNow k.ueTimes }
  (s.count 3 nodeScope (memTel n 1)).memRaise n 1 2 1 (memDetail 0 0 row page)

def State.ueFence (n : Nat) (s : State) : State := if 16 ≤ (s.stack n).ueTimes.length then s.fenceStack n else s

/-- A row that no page lies in is repaired where its bank has a spare row, or its frames retire (log 35). -/
def State.repairRow (n row : Nat) (s : State) : State :=
  let all := Config.spareRows n
  let used := (s.stack n).sparesUsed
  if used < all ∧ Config.bankSpare n row used = true then
    let s := ((s.updStack n fun k => { k with sparesUsed := used + 1 }).count 3 nodeScope (memTel n 2)).note ⟨2, 6, 1, 0xFF, n, memDetail 0 0 row 0⟩
    if 4 * (all - (used + 1)) < all ∧ all ≤ 4 * (all - used) then s.memRaise n 5 6 1 (memDetail 0 0 row 0) else s
  else
    let f := Config.rowFrames n row
    ((s.updStack n fun k => { k with retired := k.retired + f }).count 3 nodeScope (memTel n 3) f).note ⟨2, 7, 2, 0xFF, n, memDetail 0 0 row 0⟩

/-- A page has left a row: it has been moved or recovered, and no read pins its old frames. -/
def State.outOfRow (s : State) (n : Nat) (h : Handle) : Bool :=
  match s.page? h with
  | some p => p.refs != 0 && !p.recovering && p.leaving.all fun l => l.stack != n
  | none => true

/-- Goes on with a row that is due: pages move, and once the last of them has left it, the row is repaired (R217, R230). -/
def State.settleRow (n : Nat) (s : State) (d : RowDue) : State :=
  let step := fun (acc : State × RowDue) (h : Handle) => match acc.1.page? h with
    | none => acc
    | some p =>
      if p.refs = 0 ∨ p.recovering then (acc.1, { acc.2 with moved := addNew h acc.2.moved })
      else match acc.1.movePage p with
        | some t => (t, { acc.2 with moved := addNew h acc.2.moved })
        | none => (acc.1, { acc.2 with stay := acc.2.stay ++ [h] })
  let x := d.stay.foldl step (s, { d with stay := [] })
  let s := x.1.updStack n fun k => { k with rowsDue := updWhere (fun y => y.row == d.row) (fun _ => x.2) k.rowsDue }
  if x.2.stay = [] ∧ (x.2.moved.all fun h => s.outOfRow n h) = true then
    (s.updStack n fun k => { k with rowsDue := k.rowsDue.filter fun y => y.row != d.row }).repairRow n d.row
  else s

/-- The rows that are due in a stack. -/
def State.settleRows (n : Nat) (s : State) : State := (s.stack n).rowsDue.foldl (State.settleRow n) s

/-- The pages with frames in a row of a stack. -/
def State.rowPages (s : State) (n row : Nat) : List Handle :=
  ((s.stackPages n).filter fun p => Config.rowHolds s.freeCtr n row p.handle).map (·.handle)

/-- Row sparing (R217): the pages with frames in the row move first. -/
def State.spareRow (n row : Nat) (s : State) : State :=
  let d : RowDue := ⟨row, s.rowPages n row, []⟩
  let s := s.drawn.updStack n fun k => { k with
    rowErrs := k.rowErrs.filter fun x => x.1 != row, rowsDue := (k.rowsDue.filter fun y => y.row != row) ++ [d] }
  s.settleRow n d

/-- `NEAR_BANK_TAINT` (R227): the pages with frames in the row are uncorrectable, and the stack is fenced. -/
def State.taint (n pch row : Nat) (page : Handle) (s : State) : State :=
  let hit := s.rowPages n row
  let s := s.drawn.updStack n fun k => { k with taints := k.taints + 1, rowsMarked := addNew row k.rowsMarked }
  let s := (s.count 3 nodeScope (memTel n 4)).memRaise n 2 3 2 (memDetail pch 1 row page)
  (hit.foldl (fun s _ => s.noteUe) s).fenceStack n

/-- A corrected error; the row's errors within WINDOW_H count. -/
def State.rowError (n row : Nat) (s : State) : State :=
  let now := s.pow.tsc.toNat
  let window := s.rf .memScrub 16 8 * 3600 * secondNs
  let s := s.updStack n fun k => { k with rowErrs := ((row, now) :: k.rowErrs).filter fun x => decide (now < x.2 + window) }
  let s := s.count 3 nodeScope (memTel n 0)
  if s.rf .memScrub 8 8 ≤ ((s.stack n).rowErrs.filter fun x => x.1 == row).length then
    (s.memRaise n 0 1 1 (memDetail 0 0 row 0)).spareRow n row
  else s

/-- The row that a scrub outcome finds an error in. -/
def ScrubOutcome.row : ScrubOutcome → Option Nat
  | .corrected row | .uncorrectable row _ | .uncorrectableTokens row _ _ | .rowFailing row => some row
  | _ => none

/-- What a scrub found. A word of the control area is rewritten from its other copy, one of a journal half from the tail pages or the
tandem: what they hold stands (R218). -/
def State.scrubbed (n : Nat) (o : ScrubOutcome) (s : State) : State :=
  match o with
  | .clean => s
  | .corrected row => s.rowError n row
  | .uncorrectable row page =>
    let s := s.stackUe n row (page.getD 0)
    let s := match page with | some h => s.uncorrectable h false | none => s
    (s.spareRow n row).ueFence n
  | .uncorrectableTokens row seq block => (((s.stackUe n row 0).tokensUncorrectable seq block).spareRow n row).ueFence n
  | .rowFailing row => (s.updStack n fun k => { k with eccReports := k.eccReports + 1 }).spareRow n row
  | .openMismatch h => ((s.count 3 nodeScope (memTel n 5)).memRaise n 3 4 1 (memDetail 0 0 0 h)).uncorrectable h false
  | .tainted pch row => s.taint n pch row 0
  | .parityRetried k => s.count 3 nodeScope (memTel n 7) k.val
  | .parityExhausted => ((s.count 3 nodeScope (memTel n 7) 4).memRaise n 4 5 2 (memDetail 0 0 0 0)).fenceStack n
  | .retrainFailed => (s.memRaise n 4 5 2 (memDetail 0 0 0 0)).fenceStack n
  | .passDone => (s.updStack n fun k => { k with scrubPasses := k.scrubPasses + 1 }).count 3 nodeScope (memTel n 6)

/-- HBM_PATROL_SCRUB: what the scrub or another read of the stack finds. An error in a row whose marker is set is a taint (R227);
rows that are due go on. -/
def State.scrub (n : Nat) (o : ScrubOutcome) (s : State) : State :=
  match (s.stack n).state with
  | .service | .draining =>
    match (ScrubOutcome.row o).filter fun k => (s.stack n).rowsMarked.contains k with
    | some row => s.taint n 0 row 0
    | none => (s.settleRows n).scrubbed n o
  | _ => s

/-- STACK_TEMP_READ (R210). -/
def State.stackTemp (n : Nat) (t : Int) (s : State) : State :=
  if (s.stack n).state = .off then s else s.updStack n fun k => { k with temp := t }

/-! ## Near-bank sequences (R224 to R227) -/

/-- NEAR_BANK_SEQUENCE_DONE: of the sequences of a page the one that began first. The unit has written its scratch rows, whose
markers are set. A unit fault fences the unit, and every sequence that runs there is abandoned. -/
def State.nbDone (n : Nat) (h : Handle) (o : NbOutcome) (s : State) : State :=
  match (s.stack n).running.find? fun x => x.page == h && !x.suspended with
  | none => s
  | some x =>
    let s := s.updStack n fun k => { k with running := k.running.erase x, scratchMarked := addNew x.pch k.scratchMarked }
    let det := memDetail x.pch 0 0 h
    match o with
    | .pass => s.nbEnd x true
    | .scoreCrc => ((s.count 3 nodeScope (memTel n 5)).memRaise n 3 4 1 det).nbEnd x false
    | .rangeFail => (((s.count 3 nodeScope (memTel n 5)).memRaise n 3 4 1 det).uncorrectable h false).nbEnd x false
    | .unitFault => ((s.updStack n fun k => { k with unitsFenced := addNew x.pch k.unitsFenced }).nbEnd x false).abandonNb n fun y => y.pch == x.pch
    | .taint row => (s.nbEnd x false).taint n x.pch row h

/-- A refresh falls due in a pseudo-channel, or is over (R226). -/
def State.nbSuspend (n pch : Nat) (on : Bool) (s : State) : State :=
  s.updStack n fun k => { k with running := updWhere (fun x => x.pch == pch) (fun x => { x with suspended := on }) k.running }

/-! ## Open regions (R221, R223) -/

/-- How many commands have selected a page within the last `ns` (R221, R255). -/
def State.selections (s : State) (p : Page) (ns : Nat) : Nat :=
  ((p.recentSel.filter fun t => decide (s.pow.tsc.toNat < t.1 + ns)).map (·.2)).eraseDups.length

def nbWindow : Nat := 100000000
def State.nbPromote (s : State) : Nat := s.rf .memNb 0 8
def State.nbDemote (s : State) : Nat := s.rf .memNb 8 8

def State.confidentialPage (s : State) (p : Page) : Bool := match s.ptn? p.ptn with | some q => q.confidential | none => false

/-- A page that may lie in an open region. -/
def State.openable (s : State) (p : Page) : Bool :=
  p.sealed? && p.img.layout == .split && !p.img.ring && p.img.inherit.isNone && !s.confidentialPage p && p.job == .none && !p.recovering &&
  p.refs != 0 && (match p.hbm with | some l => l.pch.isNone && s.serving l.stack | none => false)

/-- The runs of frames that are taken in a pseudo-channel: the first frame and the length. Old places that reads still pin and places
that copies are on their way to are among them (R220, R230). -/
def State.pchRuns (s : State) (n pch : Nat) : List (Nat × Nat) :=
  s.store.pages.flatMap fun p =>
    ((p.places.filter fun l => l.stack == n && l.pch == some pch).map fun l => (l.first, p.frames)) ++
    match p.job with | .toOpen n' k f => if n' = n ∧ k = pch then [(f, p.frames)] else [] | _ => []

/-- The first of the free runs of `frames` frames in a pseudo-channel of an open region. -/
def State.openRun (s : State) (n pch frames : Nat) : Option Nat :=
  let l := s.pchRuns n pch
  (sortBy (fun a b => decide (a < b)) (0 :: l.map fun r => r.1 + r.2)).find? fun f =>
    decide (f + frames ≤ s.openFrames n / 64) && l.all fun r => decide (r.1 + r.2 ≤ f ∨ f + frames ≤ r.1)

/-- The pages that lie in a pseudo-channel. -/
def State.pchPages (s : State) (n pch : Nat) : List Page :=
  s.store.pages.filter fun p => match p.hbm with | some l => l.stack == n && l.pch == some pch | none => false

def State.computeStacks (s : State) : List Nat := [3, 4].filter fun n => s.serving n && s.rf (.memStkCtl n) 2 1 == 1 && (s.stack n).openGib != 0

/-- The pseudo-channel with the fewest pages, the lowest of equals (log 35). -/
def State.openPlace (s : State) : Option (Nat × Nat) :=
  let all := s.computeStacks.flatMap fun n => (List.range 64).map fun k => ((n, k), (s.pchRuns n k).length)
  match all with
  | [] => none
  | x :: l => some (l.foldl (fun best y => if y.2 < best.2 then y else best) x).1

/-- OPEN_REGION_PROMOTION: the copy begins; where the pseudo-channel has no room its coldest page is moved out first. -/
def State.openPromote (h : Handle) (s : State) : State :=
  match s.page? h, s.openPlace with
  | some p, some (n, k) =>
    if ¬ s.openable p ∨ s.selections p nbWindow < s.nbPromote then s
    else match s.openRun n k p.frames with
      | some f => s.updPage h (Page.startJob (.toOpen n k f))
      | none =>
        match sortBy (fun (a b : Page) => decide (a.lastSel < b.lastSel)) ((s.pchPages n k).filter fun x => x.job == .none) with
        | x :: _ => s.updPage x.handle (Page.startJob .fromOpen)
        | [] => s
  | _, _ => s

/-- OPEN_REGION_DEMOTION. -/
def State.openDemote (h : Handle) (s : State) : State :=
  match s.page? h with
  | some p =>
    let inOpen : Bool := match p.hbm with | some l => l.pch.isSome | none => false
    if inOpen ∧ p.job = .none ∧ ¬ p.recovering ∧ s.selections p nbWindow ≤ s.nbDemote then s.updPage h (Page.startJob .fromOpen)
    else s
  | none => s

/-- The open-page record: four CRC-64 values per key source plane (R223). -/
def openRecord (g : LayerGroup) (i : Image) : List Word64 :=
  let o := offsetsOf g i.tail i.inherit.isSome
  let b := i.bytes g
  (enumFrom 0 g.planes).flatMap fun x =>
    if x.2.1 ≠ 0 then []
    else
      let pre := g.cpre x.1
      let c := x.2.2.2
      [crc64 (slice b (o.scale + 8 * pre) (8 * c)), crc64 (slice b (o.scale + 8 * g.ctot + 4 * pre) (4 * c)),
       crc64 (slice b (o.base + 128 * pre) (128 * c)), crc64 (slice b (o.res + 128 * pre) (128 * c))]

/-! ## Demotion, promotion and the end of a copy (R43, R254, R255) -/

/-- Takes pages out of HBM until the target is met: at once where flash holds them, else by a copy. -/
def State.demoteWhile (pct : Nat) : List Page → Nat → State → State
  | [], _, s => s
  | p :: l, coming, s =>
    if s.pageFrames * pct ≤ (s.freeFrames + coming) * 100 then s
    else if p.flash then State.demoteWhile pct l coming (s.leaveHbm p.handle)
    else if s.flashWritable then
      State.demoteWhile pct l (coming + p.frames) (s.updPage p.handle (Page.startJob .toFlash))
    else State.demoteWhile pct l coming s

/-- DEMOTION. -/
def State.demotion (s : State) : State :=
  let now := s.pow.tsc.toNat
  let age := s.rf .flsMig 0 16 * secondNs
  let old := s.coldest fun p => decide (p.lastSel + age ≤ now)
  let s := if s.belowPct s.targetPct then s.demoteWhile s.targetPct old 0 else s
  let s := if s.belowPct s.lowPct then s.demoteWhile s.lowPct (s.coldest fun _ => true) 0 else s
  (List.range 32).foldl (fun s n =>
    if (s.ptn? n).isNone ∨ s.hbmUsed n < s.hbmQuota n then s
    else match s.coldest fun p => p.ptn == n with
      | p :: _ => if p.flash then s.leaveHbm p.handle
        else if s.flashWritable then s.updPage p.handle (Page.startJob .toFlash) else s
      | [] => s) s

/-- PROMOTION. -/
def State.promotion (h : Handle) (s : State) : State :=
  match s.page? h with
  | some p =>
    let reads := s.rf .flsPromo 0 8
    let win := s.rf .flsPromo 8 16 * 1000000
    if p.sealed? ∧ p.flash ∧ p.hbm.isNone ∧ p.refs ≠ 0 ∧ p.job = .none ∧ ¬ p.recovering ∧ reads ≠ 0 ∧ reads ≤ s.selections p win ∧
        ¬ s.belowPct s.targetPct then s.updPage h (Page.startJob .toHbm)
    else s
  | none => s

/-- MIGRATION_COPY_COMPLETE: a copy that verifies replaces the entry, and the old place goes with the last read that pins it
(R43, R254); one that does not is made again. A commit that changes the map waits for the delta buffer (R241). -/
def State.copyDone (h : Handle) (ok : Bool) (s : State) : State :=
  match s.page? h with
  | none => s
  | some p =>
    let done := fun (s : State) => s.updPage h Page.endJob
    if ¬ ok ∨ p.recovering then s
    else match p.job with
      | .toFlash =>
        match s.writePage p with
        | some t => (((done t).leaveHbm h).pageWritten h).progress
        | none => if s.deltaFull then s else (done s).enterReadOnly
      | .toHbm =>
        /- A drafting read of the page in flight: the copy is taken from its line once that lands (R259). -/
        if s.flash.drafting.contains h then s
        else if s.hbmQuota p.ptn < s.hbmUsed p.ptn + p.frames then done s
        else match s.chooseStack p.name.block p.name.layer (shardOf p.name.seq) p.frames with
          | some st => ((done s).updPage h (Page.moveTo (some ⟨st, none, 0⟩))).evict h
          | none => done s
      | .toOpen n k f =>
        if s.serving n then
          let g := s.groupFor p.name.seq p.name.layer p.img
          ((done s).updPage h (Page.moveTo (some ⟨n, some k, f⟩))).updPage h fun x => { x with openRec := openRecord g p.img }
        else done s
      | .fromOpen =>
        match s.chooseStack p.name.block p.name.layer (shardOf p.name.seq) p.frames with
        | some st => (done s).updPage h (Page.moveTo (some ⟨st, none, 0⟩))
        | none => if p.flash then (done s).leaveHbm h else done s
      | _ => s

/-! ## The commands -/

def execStackDrainComplete (stack : Fin 8) (s : State) : Host.Outcome State Fault Refusal := .next (s.drainDone stack)
def execHbmPatrolScrub (stack : Fin 8) (o : ScrubOutcome) (s : State) : Host.Outcome State Fault Refusal := .next (s.scrub stack o)
def execStackTempRead (stack : Fin 8) (temp : Int) (s : State) : Host.Outcome State Fault Refusal := .next (s.stackTemp stack temp)
def execNearBankSequenceDone (stack : Fin 8) (page : Handle) (o : NbOutcome) (s : State) : Host.Outcome State Fault Refusal :=
  .next (s.nbDone stack page o)
def execNearBankRefreshSuspend (stack : Fin 8) (pch : Fin 64) (s : State) : Host.Outcome State Fault Refusal :=
  .next (s.nbSuspend stack pch true)
def execNearBankResume (stack : Fin 8) (pch : Fin 64) (s : State) : Host.Outcome State Fault Refusal :=
  .next (s.nbSuspend stack pch false)
def execDemotion (s : State) : Host.Outcome State Fault Refusal := .next s.demotion
def execPromotion (page : Handle) (s : State) : Host.Outcome State Fault Refusal := .next (s.promotion page)
def execMigrationCopyComplete (page : Handle) (ok : Bool) (s : State) : Host.Outcome State Fault Refusal := .next (s.copyDone page ok)
def execOpenRegionPromotion (page : Handle) (s : State) : Host.Outcome State Fault Refusal := .next (s.openPromote page)
def execOpenRegionDemotion (page : Handle) (s : State) : Host.Outcome State Fault Refusal := .next (s.openDemote page)

end Sys2Proof.Machine
end

