-- ==== Sys2Proof/Machine/Flash.lean ====
section
/-! DEFINITION. The flash media: reclamation, wear, retirement, patrol, temperature, the flash map's records, channels and
the health log (09_flash_tier.md R232 to R260; 03_page_encoding.md R106; 02_sequences_and_pages.md R63). -/

namespace Sys2Proof.Machine

/-! ## Records and counts -/

/-- A flash location (R236). -/
def locCode (d : DieId) (b slot : Nat) : Nat := d.chan.val + 32 * d.die.val + 512 * b + 2 ^ 21 * slot

def flsDetail (loc : Nat) (temp : Int) (frame wseq : Nat) : List Byte :=
  leBytes 4 loc ++ [BitVec.ofInt 8 temp] ++ zeroBytes 3 ++ leBytes 8 frame ++ leBytes 8 wseq

/-- Raises a status bit of the tier with a record of class 3. -/
def State.flsRaise (bit' code sev chan : Nat) (det : List Byte) (s : State) : State :=
  s.raise .flsSts bit' ⟨3, code, sev, 0xFF, chan, det⟩

def flsTel (chan k : Nat) : Nat := 8 * chan + k

def State.updHealth (f : Health → Health) (s : State) : State := { s with flash := { s.flash with health := f s.flash.health } }

/-- Programs and erases of the node's own may run on a channel (R251, R260). -/
def State.mediaWrites (s : State) (chan : Nat) : Bool := s.tierUp && s.programs && (s.chan chan).writes

/-- The tier writes its own records: it holds its map, WR_EN is set, and no freewheel runs (R259, R260). -/
def State.tierWrites (s : State) : Bool := s.tierUp && s.programs

/-! ## Retirement (R246, R248) -/

/-- A worn-out die's open blocks take no more frames (R248). -/
def State.closeOpen (d : DieId) (s : State) : State :=
  let open' := fun (b : FBlock) => b.die == d && b.use == .opened && !b.single
  { s with flash := { s.flash with blocks := updWhere open' (fun b => { b with use := .full }) s.flash.blocks } }

/-- A block retires; the spare pool replaces it, then the reserve; a die with neither is worn out. -/
def State.retireBlock (d : DieId) (b : Nat) (s : State) : State :=
  match s.fdie? d with
  | none => s
  | some x =>
    let chan := d.chan.val
    let det := flsDetail (locCode d b 0) 0 0 0
    let s := s.updBlock d b fun k => { k with use := .retired }
    let s := s.updHealth fun h => { h with retiredBlocks := h.retiredBlocks + 1 }
    let s := s.note ⟨3, 4, 1, 0xFF, chan, det⟩
    if x.spare ≠ 0 then
      let s := s.updDie d fun y => { y with retired := y.retired + 1, spare := y.spare - 1, free := y.free + 1 }
      if 4 * (x.spare - 1) < x.spareStart ∧ x.spareStart ≤ 4 * x.spare then s.flsRaise 3 4 1 chan det else s
    else if 64 < x.reserve then s.updDie d fun y => { y with retired := y.retired + 1, reserve := y.reserve - 1 }
    else
      let s := (s.updDie d fun y => { y with retired := y.retired + 1, worn := true }).closeOpen d
      if x.worn then s else s.flsRaise 4 5 2 chan det

def State.setCopying (l : List (DieId × Nat × Nat)) (s : State) : State := { s with flash := { s.flash with copying := l } }

/-- The copy of a frame that the map names again is valid, and no other copy in the block is. -/
def reviveLast (f slot : Nat) (l : List Frame) : List Frame :=
  (enumFrom 0 l).map fun x => if x.2.num = f then { x.2 with valid := x.1 == slot } else x.2

/-- The slot at which a block last took a frame. -/
def FBlock.slotOf (b : FBlock) (f : Nat) : Nat := (enumFrom 0 b.frames).foldl (fun o x => if x.2.num = f then x.1 else o) 0

/-- The page that a frame belongs to. -/
def State.pageOfFrame (s : State) (f : Nat) : Option Page :=
  s.store.pages.find? fun p => s.isOwn p.handle && p.flash && decide (handleFrame p.handle ≤ f ∧ f < handleFrame p.handle + p.frames)

/-- The map entry of a frame of a failed target points back to its source, and the frame is copied again (R246). On a channel that
has been fenced since, the source cannot be read: the page is recovered (R259). -/
def State.pointBack (t : FBlock) (f : Nat) (s : State) : State :=
  match s.mapEntry? f, t.sources.findSome? fun x => (s.fblock? x.1 x.2).filter fun b => b.frames.any fun y => y.num == f with
  | some e, some src =>
    if e.die = t.die ∧ e.block = t.num then
      let slot := src.slotOf f
      let s := s.setMap { e with die := src.die, block := src.num, slot := slot }
      let s := s.updBlock src.die src.num fun b => { b with frames := reviveLast f slot b.frames }
      if (s.chan src.die.chan.val).state = .fenced then match s.pageOfFrame f with
        | some p => s.uncorrectable p.handle true
        | none => s
      else (s.queueWork .write (frameKey f) src.die).setCopying (addNew (src.die, f, src.num) s.flash.copying)
    else s
  | _, _ => s

/-- A target block fails before it closes. -/
def State.failTarget (t : FBlock) (s : State) : State :=
  let s := s.retireBlock t.die t.num
  t.frames.foldl (fun s x => if x.valid then s.pointBack t x.num else s) s

/-! ## Reclamation (R245, R246) -/

/-- Blocks of a die that may be reclaimed, the victim of R245 first. -/
def State.victims (s : State) (d : DieId) : List FBlock :=
  let valid := fun (b : FBlock) => (b.frames.filter (·.valid)).length
  sortBy (fun a b =>
      decide (valid a < valid b) ||
      (decide (valid a = valid b) && (decide (a.erases < b.erases) || (decide (a.erases = b.erases) && decide (a.num < b.num)))))
    (s.flash.blocks.filter fun b => b.die == d && b.use == .full && !b.single)

/-- The valid frames of a block start to be copied. -/
def State.reclaimBlock (b : FBlock) (s : State) : State :=
  let nums := (b.frames.filter (·.valid)).map (·.num)
  let s := s.updBlock b.die b.num fun x => { x with use := .reclaiming }
  let s := nums.foldl (fun s f => s.queueWork .write (frameKey f) b.die) s
  s.setCopying (s.flash.copying ++ nums.map fun f => (b.die, f, b.num))

/-- A full block is refreshed where it can be (R250). -/
def State.refresh (d : DieId) (b : Nat) (s : State) : State :=
  match s.fblock? d b with
  | some x => if x.use = .full ∧ ¬ x.single ∧ s.mediaWrites d.chan.val then s.reclaimBlock x else s
  | none => s

/-- RECLAMATION_START: below GC_LOW, and until GC_HIGH, the die's next victim; of a worn-out die every block (R245, R248). -/
def State.reclaimStart (d : DieId) (s : State) : State :=
  match s.fdie? d with
  | none => s
  | some x =>
    let low := s.rf .flsGc 0 8
    let high := s.rf .flsGc 8 8
    let on := x.worn || decide (x.free < low) || (x.gc && decide (x.free < high))
    let s := s.updDie d fun y => { y with gc := on }
    match s.victims d with
    | v :: _ => if on ∧ s.mediaWrites d.chan.val then s.reclaimBlock v else s
    | [] => s

/-- The open reclamation block of a channel: one that has already received frames of the source, else another, else a new
one. -/
def State.targetFor (src : DieId × Nat) (s : State) : Option (FBlock × State) :=
  let chan := src.1.chan.val
  let opened := s.flash.blocks.find? fun b =>
    b.die.chan == src.1.chan && b.use == .opened && b.sources.contains src && decide (b.frames.length < blockFrames) &&
      (match s.fdie? b.die with | some d => s.dieTakes d .reclamation | none => false)
  match opened <|> s.openBlock chan .reclamation with
  | some b => some (b, s)
  | none =>
    match s.dieToOpen chan .reclamation with
    | none => none
    | some d =>
      match s.pickBlock d with
      | none => none
      | some b => let s := s.openNew d b .reclamation (some src)
                  (s.fblock? d.die b).map fun x => (x, s)

/-- A discarded copy still takes its slot. -/
def State.discardCopy (t : FBlock) (frame : Nat) (s : State) : State := s.program t.die t.num (s.nextTag .page frame 0 0 false)

/-- What kind of frame the map names under a number. -/
def State.kindOf (s : State) (frame : Nat) : FrameKind := if s.indexFrames.contains frame then .index else .page

/-- RECLAIM_COPY_COMPLETE: a copy that checks replaces the entry where it still names the source; one that does not retires the
target. Without WR_EN, with the target's program suspended or with the delta buffer at its limit it waits (R241, R258, R260). -/
def State.reclaimCopied (d : DieId) (frame : Nat) (ok : Bool) (s : State) : State :=
  match s.flash.copying.find? fun x => x.1 == d && x.2.1 == frame with
  | none => s
  | some c =>
    if ¬ s.mediaWrites d.chan.val ∨ s.deltaFull then s
    else
      let drop : State → State := fun s => (s.doneWork .write (frameKey frame)).setCopying (s.flash.copying.filter fun x => !(x == c))
      match s.targetFor (d, c.2.2) with
      | none => s.enterReadOnly
      | some (t, u) =>
        if u.dieSuspended t.die then s
        else
          let s := (u.updBlock t.die t.num fun b => { b with sources := addNew (d, c.2.2) b.sources }).count 4 nodeScope (flsTel d.chan.val 6)
          if ¬ ok then match s.fblock? t.die t.num with | some t => s.failTarget t | none => s
          else match s.mapEntry? frame with
            | some e =>
              if e.die = d ∧ e.block = c.2.2 then (drop s).programFrame (s.kindOf frame) t.die t.num frame e.gen.toNat e.index
              else (drop s).discardCopy t frame
            | none => (drop s).discardCopy t frame

/-- BLOCK_CLOSE_CHECK. -/
def State.closeCheck (d : DieId) (b : Nat) (ok : Bool) (s : State) : State :=
  match s.fblock? d b with
  | none => s
  | some t =>
    if t.use ≠ .full ∨ t.closed ∨ t.sources = [] ∨ t.single then s
    else if ok then s.updBlock d b fun x => { x with closed := true }
    else s.failTarget t

/-- A read in flight may still use a location in the block. -/
def State.readsHold (s : State) (b : FBlock) : Bool :=
  let inBlock := fun (p : Page) => b.frames.any fun x => decide (handleFrame p.handle ≤ x.num ∧ x.num < handleFrame p.handle + p.frames)
  s.store.pages.any fun p => inBlock p && (s.flash.drafting.contains p.handle || p.job == .toHbm || s.wantsPage p.handle)

/-- The conditions of R246 for the erase of a source block. -/
def State.eraseOk (s : State) (b : FBlock) : Bool :=
  b.use == .reclaiming && s.mediaWrites b.die.chan.val && !s.dieSuspended b.die && (b.frames.all fun x => !x.valid) &&
  (s.flash.copying.all fun c => !(c.1 == b.die && c.2.2 == b.num)) &&
  (s.flash.blocks.all fun t => !t.sources.contains (b.die, b.num) || t.use == .retired || (t.use != .opened && t.closed)) && !s.readsHold b

/-- No block keeps an erased block as a source. -/
def State.dropSource (d : DieId) (b : Nat) (s : State) : State :=
  { s with flash := { s.flash with blocks := s.flash.blocks.map fun t => if t.use = .opened then t else { t with sources := delAll (d, b) t.sources } } }

/-- Erase cycles at which a block retires: 1.2 × the rated endurance (R233, R247). -/
def enduranceEnd : Nat := 3600

/-- BLOCK_ERASE. -/
def State.eraseBlock (d : DieId) (b : Nat) (s : State) : State :=
  match s.fblock? d b with
  | none => s
  | some x =>
    if ¬ s.eraseOk x then s
    else
      let s := s.dropSource d b
      if enduranceEnd ≤ x.erases then s.retireBlock d b
      else
        let s := s.updDie d fun y => { y with free := y.free + 1, erases := assocSet b (x.erases + 1) y.erases }
        let s := { s with flash := { s.flash with blocks := s.flash.blocks.filter fun k => !(k.die == d && k.num == b) } }
        s.count 4 nodeScope (flsTel d.chan.val 2)

/-- PROGRAM_FAILURE: the open block retires. A target's frames are copied again from their sources; a migration or index block's last
frame is written elsewhere, the others are moved. -/
def State.programFailure (d : DieId) (b : Nat) (s : State) : State :=
  match s.fblock? d b with
  | none => s
  | some t =>
    if t.use ≠ .opened ∨ t.single then s
    else
      let chan := d.chan.val
      let s := s.updHealth fun h => { h with programFails := h.programFails + 1 }
      let s := s.updChan chan fun c => { c with progFails := c.progFails + 1 }
      let last := (t.frames.getLast?.map (·.num)).getD 0
      let s := s.flsRaise 1 2 1 chan (flsDetail (locCode d b (t.frames.length - 1)) 0 last s.flash.wseq)
      if t.sources ≠ [] then s.failTarget t
      else
        let s := s.retireBlock d b
        let s := match s.mapEntry? last with
          | some e =>
            if e.die = d ∧ e.block = b then
              (s.placeFrame (s.kindOf last) t.stream none chan last e.gen.toNat e.index).getD s.enterReadOnly
            else s
          | none => s
        match s.fblock? d b with
        | some t => s.setCopying (s.flash.copying ++ (t.frames.filter (·.valid)).map fun x => (d, x.num, b))
        | none => s

/-- ERASE_FAILURE. -/
def State.eraseFailure (d : DieId) (b : Nat) (s : State) : State :=
  match s.fblock? d b with
  | none => s
  | some x =>
    if ¬ s.eraseOk x then s
    else
      let chan := d.chan.val
      let s := s.updHealth fun h => { h with eraseFails := h.eraseFails + 1 }
      let s := s.updChan chan fun c => { c with eraseFails := c.eraseFails + 1 }
      ((s.flsRaise 2 3 1 chan (flsDetail (locCode d b 0) 0 0 s.flash.wseq)).dropSource d b).retireBlock d b

/-- WEAR_LEVEL_MOVE: the least worn full block moves to the most worn free block (R247). -/
def State.wearMove (d : DieId) (s : State) : State :=
  match s.fdie? d with
  | none => s
  | some x =>
    let free := s.freeBlocks x
    let used := s.flash.blocks.filter fun b => b.die == d && b.use != .retired && !b.single
    let all := used.map (·.erases) ++ free.map x.eraseCount
    let hi := all.foldl max 0
    let lo := all.foldl min hi
    let full := sortBy (fun (a b : FBlock) => decide (a.erases < b.erases) || (decide (a.erases = b.erases) && decide (a.num < b.num)))
      (used.filter fun b => b.use == .full)
    match full, free with
    | v :: _, f :: l =>
      if hi - lo ≤ s.rf .flsGc 16 16 ∨ ¬ s.mediaWrites d.chan.val ∨ x.worn then s
      else
        let top := l.foldl (fun best y => if x.eraseCount best < x.eraseCount y then y else best) f
        (s.openNew x top .reclamation (some (d, v.num))).reclaimBlock v
    | _, _ => s

/-! ## Reads (R22, R238, R250, R257) -/

/-- Counts an uncorrectable plane page. -/
def State.flashUe (chan loc frame : Nat) (s : State) : State :=
  let s := s.updHealth fun h => { h with readsUncorrectable := h.readsUncorrectable + 1 }
  let s := s.updChan chan fun c => { c with ue := c.ue + 1 }
  (s.count 4 nodeScope (flsTel chan 4)).flsRaise 0 1 1 chan (flsDetail loc 0 frame 0)

/-- Counts a plane page with corrected bits, and one that needed retry or soft decoding. -/
def State.flashCorrected (chan : Nat) (retried : Bool) (s : State) : State :=
  let s := s.updHealth fun h => { h with readsCorrected := h.readsCorrected + 1, readsRetried := h.readsRetried + b2n retried }
  let s := s.updChan chan fun c => { c with corrected := c.corrected + 1 }
  if retried then s.count 4 nodeScope (flsTel chan 3) else s

/-- Plane pages of frame `i` that hold bytes 0 to `n` − 1 of an image (R239). -/
def planesOf (n i : Nat) : Nat := min 4 ((n - 65536 * i + 16383) / 16384)

/-- A read of one of a block's frames: the 200,000th since its erase has it refreshed (R250). -/
def State.blockRead (d : DieId) (b : Nat) (s : State) : State :=
  let s := s.updBlock d b fun k => { k with reads := k.reads + 1 }
  match s.fblock? d b with
  | some x => if 200000 ≤ x.reads then s.refresh d b else s
  | none => s

/-- The frames of a page are read, their leaves first (R240): counted, and their blocks' reads too. -/
def State.noteRead (p : Page) (s : State) : State :=
  let n := s.readBytes p
  (List.range p.frames).foldl (fun s i =>
    let s := s.touchLeaf ((handleFrame p.handle + i) / 512)
    match s.mapEntry? (handleFrame p.handle + i) with
    | some e =>
      if planesOf n i = 0 then s
      else (s.blockRead e.die e.block).count 4 nodeScope (flsTel e.die.chan.val 0) (planesOf n i)
    | none => s) s

/-- A uncorrectable read of a page's flash copy; a frame without another copy is lost (R238, R252). -/
def State.readFailed (p : Page) (s : State) : State :=
  let e := s.mapEntry? (handleFrame p.handle)
  let chan := s.pageChan p.handle
  let s := s.flashUe chan ((e.map fun e => locCode e.die e.block e.slot).getD 0) (handleFrame p.handle)
  let s := if p.hbm.isNone ∧ p.copies = [] then s.updHealth fun h => { h with framesLost := h.framesLost + 1 } else s
  s.uncorrectable p.handle true

/-- The residual groups of a page that attends wait for are in its line, and no longer waited for (R23). -/
def State.groupsCome (h : Handle) (s : State) : State :=
  let of := fun (i : Inflight) => match i.wait.inner with
    | .attend r => (r.residual.filter fun b => b.1 == h).map (·.2)
    | _ => []
  let got := s.cmds.list.flatMap of
  let clear := fun (r : AttendRun) => { r with residual := r.residual.filter fun b => b.1 != h }
  { s with
    staging := updWhere (fun (l : Line) => l.page == h) (fun l => { l with residual := (l.residual ++ got).eraseDups }) s.staging
    cmds := { s.cmds with list := s.cmds.list.map fun i => { i with wait := State.pageReady.mapRead clear id i.wait } } }

/-- A page has come into the staging cache: what waited for it goes on. -/
def State.pageLanded (h : Handle) (s : State) : State := (((s.groupsCome h).pageReady h).serveParts.serveGrads).settleRecalls

/-- The block of a page's first frame is refreshed: its read needed retry or soft decoding (R250, log 36). -/
def State.refreshPage (h : Handle) (s : State) : State :=
  match s.mapEntry? (handleFrame h) with
  | some e => s.refresh e.die e.block
  | none => s

/-- A read of a page's flash copy is under way: for a read of the node's own, for drafting, for a promotion, or for the copies of
reclamation (R238). -/
def State.flashBusy (s : State) (p : Page) : Bool :=
  s.wantsPage p.handle || s.flash.drafting.contains p.handle || p.job == .toHbm ||
  s.flash.copying.any fun c => decide (handleFrame p.handle ≤ c.2.1 ∧ c.2.1 < handleFrame p.handle + p.frames)

/-- FLASH_READ_COMPLETE: the page serves the reads that wait for it from the staging cache, or it is uncorrectable, whatever it was
read for. -/
def State.flashReadDone (h : Handle) (o : ReadOutcome) (s : State) : State :=
  let s := s.doneWork .attend h
  match s.page? h with
  | none => s
  | some p =>
    if ¬ p.flash ∨ p.recovering ∨ ¬ s.tierUp ∨ ¬ s.flashBusy p then s
    else
      let wanted := s.wantsPage h
      let chan := s.pageChan h
      let s := s.noteRead p
      match o with
      | .uncorrectable =>
        let s := s.doneWork .draft h
        ({ s with flash := { s.flash with drafting := delAll h s.flash.drafting } } : State).readFailed p
      | _ =>
        let s := match o with
          | .corrected => s.flashCorrected chan false
          | .retried => (s.flashCorrected chan true).refreshPage h
          | _ => s
        if wanted then (s.stage p false).pageLanded h else s

/-- DRAFTING_READ_COMPLETE: the line lands, and serves what waits for the page; then the next drafting read goes. A page released
meanwhile brings no line unless a read waits for it (R28, R259). -/
def State.draftDone (h : Handle) (s : State) : State :=
  if ¬ s.flash.drafting.contains h then s
  else
    let s := ({ s with flash := { s.flash with drafting := delAll h s.flash.drafting } } : State).doneWork .draft h
    let s := match s.page? h with
      | some p =>
        if ¬ p.flash ∨ p.recovering ∨ ¬ s.tierUp ∨ (p.refs = 0 ∧ s.wantsPage h = false) then s
        else ((s.noteRead p).stage p true).pageLanded h
      | none => s
    s.issueDrafts s.flash.draftQueue.length

/-- STAGING_LINE_EXPIRY: a drafted line that nothing running uses is evicted. -/
def State.lineExpiry (h : Handle) (s : State) : State :=
  let inUse := s.wantsPage h || s.cmds.list.any fun i => match i.wait.inner with | .attend r => r.selected.contains h | _ => false
  if inUse then s else { s with staging := s.staging.filter fun l => !(l.page == h && l.drafted) }

/-- FLASH_PATROL_READ: a block that needs it is refreshed (R250). Patrol comes last on its channel (R258). Progress counts the reads of
the pass (log 36). -/
def State.patrolRead (d : DieId) (b frame : Nat) (o : ReadOutcome) (pct : Nat) (s : State) : State :=
  match s.fblock? d b with
  | none => s
  | some x =>
    if x.use = .reclaiming ∨ ¬ s.tierUp ∨ ((s.chan d.chan.val).queue.any fun w => decide (w.cls.rank ≤ 2)) = true then s
    else
      let chan := d.chan.val
      let s := (s.blockRead d b).count 4 nodeScope (flsTel chan 7)
      let total := sumNat (s.flash.blocks.map fun k => k.frames.length)
      let s := s.updHealth fun h =>
        if total ≤ h.patrolProgress + 1 then { h with patrolPasses := h.patrolPasses + 1, patrolProgress := 0 }
        else { h with patrolProgress := h.patrolProgress + 1 }
      let s := match o with
        | .clean => if pct = 0 then s else s.flashCorrected chan false
        | .corrected => s.flashCorrected chan false
        | .retried => s.flashCorrected chan true
        | .uncorrectable =>
          match s.mapEntry? frame, s.pageOfFrame frame with
          | some e, some p =>
            if e.die = d ∧ e.block = b then
              let s := s.flashUe chan (locCode d b e.slot) frame
              let s := if p.hbm.isNone ∧ p.copies = [] then s.updHealth fun h => { h with framesLost := h.framesLost + 1 } else s
              s.uncorrectable p.handle true
            else s
          | _, _ => s.flashUe chan (locCode d b 0) frame
      if o = .retried ∨ s.rf .flsPatrol 16 8 < pct then s.refresh d b else s

/-! ## Temperature (R232, R251, R252) -/

def maxInt (l : List Int) : Int := match l with | [] => 0 | x :: l => l.foldl max x
def minInt (l : List Int) : Int := match l with | [] => 0 | x :: l => l.foldl min x

/-- FLASH_TEMP_READ. -/
def State.flashTemp (chan : Nat) (temps : List Int) (s : State) : State :=
  let c := s.chan chan
  if c.state = .off ∨ temps = [] then s
  else
    let hot := maxInt temps
    let cold := minInt temps
    let warn := decide (70 ≤ hot)
    let crit := if c.tempCrit then decide (80 < hot) else decide (85 ≤ hot)
    /- The channel trains again when a die has moved by 10 °C since its last training (R232). -/
    let moved := (enumFrom 0 temps).any fun t => decide (10 ≤ (t.2 - c.trainedAt.getD t.1 t.2).natAbs)
    let s := s.updChan chan fun c => { c with
      temp := hot, tempMax := max c.tempMax hot, tempWarn := warn, tempCrit := crit, trainedAt := if moved then temps else c.trainedAt }
    let s := s.updHealth fun h => { h with hour := match h.hour with
      | some (a, b) => some (max a hot, min b cold)
      | none => some (hot, cold) }
    let event := fun (s : State) => s.updHealth fun h => { h with tempEvents := h.tempEvents + 1 }
    let det := flsDetail (chan % 32) hot 0 0
    let s := if warn ∧ ¬ c.tempWarn then (event s).flsRaise 6 7 1 chan det else s
    if crit ∧ ¬ c.tempCrit then (event s).flsRaise 7 8 1 chan det else s

/-! ## The flash map's records (R241, R242) -/

/-- The leaf that a delta record changes. -/
def DeltaEntry.leaf (x : DeltaEntry) : Option Nat := match x.name with | .frame n => some (n / 512) | _ => none

/-- Records of leaves that a later record of the directory locates on flash are retired (R241). -/
def retireLeaves : List DeltaEntry → List DeltaEntry
  | [] => []
  | x :: l =>
    let done : Bool := match x.leaf with | some n => l.any fun y => y.name == .leaf n | none => false
    if done then retireLeaves l else x :: retireLeaves l

/-- Frames that hold some delta records. -/
def deltaFrames (n : Nat) : Nat := (n + 4095) / 4096

/-- DELTA_FLUSH. -/
def State.deltaFlush (s : State) : State :=
  if s.tierWrites ∧ s.flash.unwritten ≠ [] then
    let s := (List.range (deltaFrames s.flash.unwritten.length)).foldl (fun s _ => (s.sysNext .delta).2) s
    let f := s.flash
    { s with flash := { f with
      logged := some (f.unwritten.foldl Persist.apply (f.logged.getD ⟨[], [], [], [], []⟩))
      unwritten := [], unretired := retireLeaves (f.unretired ++ f.unwritten) } }
  else s

/-- Commits that waited for the delta buffer go on. -/
def State.resumeStalled (s : State) : State :=
  if s.deltaFull then s
  else
    let names := s.flash.stalled
    let s := { s with flash := { s.flash with stalled := [] } }
    names.foldl (fun s n => s.sealRead n true) s

/-- LEAF_WRITEBACK: a dirty leaf goes to the map blocks; its new place is a change of the directory, and with that record on flash the
leaf's records retire. -/
def State.leafWritten (leaf : Nat) (s : State) : State :=
  let dirty := (s.flash.unretired ++ s.flash.unwritten).any fun x => x.leaf == some leaf
  if s.tierWrites ∧ dirty then
    match s.sysNext .leaves with
    | (some l, s) => ({ s with flash := { s.flash with dir := assocSet leaf l s.flash.dir } } : State).delta [.leaf leaf]
    | (none, s) => s
  else s

def checkpointEvery : Nat := 1048576

/-- DIRECTORY_CHECKPOINT: what no dirty leaf holds retires, and both anchors name the checkpoint. -/
def State.dirCheckpoint (s : State) : State :=
  if s.tierWrites ∧ checkpointEvery ≤ s.flash.deltaTotal then
    let s := (s.sysNext .leaves).2
    let f := s.flash
    let kept := (retireLeaves (f.unretired ++ f.unwritten.filter fun x => x.leaf.isNone)).filter fun x => x.leaf.isSome
    ({ s with flash := { f with checkpoint := some f.wseq, deltaTotal := 0, unretired := kept } } : State).writeAnchors
  else s

/-! ## Freewheel sets (R243, R244, R473) -/

def SetState.flush? : SetState → Option Flush
  | .armed => none
  | .holds f => some f

/-- A flush's contents are held elsewhere: its delta records are in the delta log (R473). Its journal entries are in the journal or on
flash since the resume, or since they were restored. -/
def State.flushSafe (s : State) (f : Flush) : Bool := f.records.all fun x => !s.flash.unwritten.contains x

/-- FLUSH_CONSUMED: the older flush held becomes the consumed mark of both anchors, and its set is erased and armed. -/
def State.flushConsumed (s : State) : State :=
  let done := fun (f : Flush) (s : State) =>
    let s := ({ s with flash := { s.flash with consumed := max s.flash.consumed f.wseq } } : State).writeAnchors
    (s.flash.dies.map (·.die)).foldl (fun s d => s.count 4 nodeScope (flsTel d.chan.val 2)) s
  let a := fun (s : State) => { s with flash := { s.flash with setA := .armed } }
  let b := fun (s : State) => { s with flash := { s.flash with setB := .armed } }
  let may := fun (f : Flush) => s.tierWrites && s.flushSafe f
  match s.flash.setA.flush?, s.flash.setB.flush? with
  | some x, some y => if x.wseq < y.wseq then (if may x then a (done x s) else s) else if may y then b (done y s) else s
  | some x, none => if may x then a (done x s) else s
  | none, some y => if may y then b (done y s) else s
  | none, none => s

/-! ## Channels (R232, R233, R246, R260, R491) -/

/-- EN goes to 1: the channel trains. -/
def State.chanOn (n : Nat) (s : State) : State :=
  match (s.chan n).state with
  | .off => s.updChan n fun c => { c with state := .training }
  | _ => s

/-- EN goes to 0 on a fenced channel. -/
def State.chanOff (n : Nat) (s : State) : State :=
  if (s.chan n).state = .fenced then s.updChan n fun c => { c with state := .off } else s

/-- Pages with a frame on a channel. -/
def State.pagesOn (s : State) (n : Nat) : List Page :=
  s.store.pages.filter fun p => p.flash && s.isOwn p.handle && (List.range p.frames).any fun i =>
    match s.mapEntry? (handleFrame p.handle + i) with | some e => e.die.chan.val == n | none => false

/-- The pages of a fenced channel are recovered (R259); index blocks on it are gone, and their segments are rebuilt (R179). -/
def State.loseChannel (n : Nat) (s : State) : State :=
  let here := fun (b : IdxBlock) => match b.frame.bind s.mapEntry? with | some e => e.die.chan.val == n | none => false
  let lost := s.rcl.segments.flatMap fun g => (g.flushed.filter here).filterMap (·.frame)
  let segs := s.rcl.segments.map fun g => if g.flushed.any here then { g with degraded := true, flushed := g.flushed.filter fun b => !here b } else g
  let pages := s.pagesOn n
  let s := lost.foldl (fun s f => s.freeFlash f 1) ({ s with rcl := { s.rcl with segments := segs } } : State)
  pages.foldl (fun s p => s.uncorrectable p.handle true) s

/-- Training is over: the dies found, and the first that does not conform. -/
def State.chanTrained (n dies : Nat) (bad : Option Nat) (s : State) : State :=
  if (s.chan n).state ≠ .training then s
  else
    let s := s.updChan n fun c => { c with dies := dies }
    if bad.isNone ∧ dies = s.diesPerCh then
      let ids := (List.range dies).map fun k => (⟨Fin.ofNat 32 n, Fin.ofNat 16 k⟩ : DieId)
      let new := (ids.filter fun d => (s.fdie? d).isNone).map FDie.fresh
      let s := { s with flash := { s.flash with dies := s.flash.dies ++ new } }
      s.updChan n fun c => { c with state := .service, trainedAt := List.replicate dies c.temp }
    else
      let die : DieId := ⟨Fin.ofNat 32 n, Fin.ofNat 16 (bad.getD (min dies 15))⟩
      let s := (s.updChan n fun c => { c with state := .fenced }).note ⟨3, 6, 2, 0xFF, n, flsDetail (locCode die 0 0) 0 0 0⟩
      (if s.tierUp then s.loseChannel n else s).leaveCheck

/-- Valid frames of a channel, and places for frames on the other channels. -/
def State.chanValid (s : State) (n : Nat) : Nat :=
  sumNat ((s.flash.blocks.filter fun b => b.die.chan.val == n).map fun b => (b.frames.filter (·.valid)).length)

def State.placesElsewhere (s : State) (n : Nat) : Nat :=
  let ok := fun (d : DieId) => d.chan.val != n && (s.chan d.chan.val).writes
  sumNat (s.flash.dies.map fun d => if ok d.die && !d.worn then d.free * blockFrames else 0) +
  sumNat (s.flash.blocks.map fun b => if ok b.die && b.use == .opened && b.stream == .reclamation && !b.single then blockFrames - b.frames.length
    else 0)

/-- The other channels can take the channel's frames. -/
def State.chanFits (s : State) (n : Nat) : Bool :=
  s.chanValid n == 0 || (s.tierWrites && decide (s.chanValid n ≤ s.placesElsewhere n))

/-- A refused drain. -/
def State.chanRefused (n : Nat) (s : State) : State := s.flsRaise 10 12 0 n (flsDetail (n % 32) 0 0 0)

/-- FENCE goes to 1: the drain begins, or waits for the one that runs. -/
def State.chanDrain (n : Nat) (s : State) : State :=
  match (s.chan n).state with
  | .service =>
    if s.flash.chans.any (fun c => c.state == .draining) then { s with flash := { s.flash with chanDrains := addNew n s.flash.chanDrains } }
    else s.updChan n fun c => { c with state := .draining }
  | .training => s.updChan n fun c => { c with state := .fenced }
  | _ => s

/-- Moves one frame of a channel to another by the steps of R245; its source stays one of the target's until the target has passed its
close check (R246). -/
def State.moveFrame (d : DieId) (b frame : Nat) (s : State) : Option State :=
  match s.mapEntry? frame with
  | some e =>
    if e.die = d ∧ e.block = b then
      (s.placeFrame (s.kindOf frame) .reclamation (some (d, b)) ((d.chan.val + 1) % 32) frame e.gen.toNat e.index).map fun t =>
        t.count 4 nodeScope (flsTel d.chan.val 6)
    else some s
  | none => some s

def State.moveValid : List (DieId × Nat × Nat) → State → Option State
  | [], s => some s
  | x :: l, s => match s.moveFrame x.1 x.2.1 x.2.2 with
    | some t => State.moveValid l t
    | none => none

/-- CHANNEL_DRAIN_COMPLETE: every valid frame has moved. While they cannot, the drain goes on. -/
def State.chanDrained (n : Nat) (s : State) : State :=
  if (s.chan n).state ≠ .draining then s
  else
    let frames := (s.flash.blocks.filter fun b => b.die.chan.val == n).flatMap fun b =>
      (b.frames.filter (·.valid)).map fun x => (b.die, b.num, x.num)
    match s.moveValid frames with
    | none => s
    | some s =>
      let s := s.updChan n fun c => { c with state := .fenced }
      let s := { s with flash := { s.flash with copying := s.flash.copying.filter fun c => c.1.chan.val != n } }
      let s := match s.flash.chanDrains with
        | m :: l => ({ s with flash := { s.flash with chanDrains := l } } : State).chanDrain m
        | [] => s
      s.leaveCheck

/-! ## The tier comes into service (R242, R244, R454) -/

/-- The newest flush that has not been consumed. -/
def State.replayable (s : State) : Option Flush :=
  match (s.flash.setA.flush?.toList ++ s.flash.setB.flush?.toList).filter fun f => decide (s.flash.consumed < f.wseq) with
  | [] => none
  | f :: l => some (l.foldl (fun x y => if x.wseq < y.wseq then y else x) f)

/-- Restored tail frames take places in HBM. -/
def State.placeTails (s : State) : State :=
  (s.store.pages.filter fun p => p.hbm.isNone && !p.flash && p.refs != 0 && s.isOwn p.handle && !p.recovering).foldl (fun s p =>
    match s.chooseStack p.name.block p.name.layer (shardOf p.name.seq) p.frames with
    | some st => s.updPage p.handle fun x => { x with hbm := some ⟨st, none, 0⟩ }
    | none => s) s

/-- The map is loaded: the flush is replayed, what fenced channels held is recovered, restored sequences are settled. What has been
replayed or made since is in the delta log from then on (log 36). -/
def State.tierServes (s : State) : State :=
  let s := { s with flash := { s.flash with state := .service } }
  let s := match s.replayable with
    | some f => s.flsRaise 9 10 0 0 (flsDetail 0 0 0 f.wseq)
    | none => s
  let s := (List.range 32).foldl (fun s n => if (s.chan n).state = .fenced then s.loseChannel n else s) s
  let s := s.placeTails.settleAll.flushKept
  { s with pow := { s.pow with hbmSurvived := true }
           flash := { s.flash with logged := some s.records, unwritten := [], unretired := [] } }

/-- The map that the frame tags give: of each frame number the copy with the highest WSEQ (R242). -/
def State.taggedMap (s : State) : List MapEntry :=
  let all := (s.flash.blocks.filter fun b => !b.single && b.use != .retired).flatMap fun b =>
    (enumFrom 0 b.frames).map fun x => ((⟨x.2.num, b.die, b.num, x.1, x.2.gen, x.2.index⟩ : MapEntry), x.2.wseq)
  let newest := all.filter fun x => all.all fun y => y.1.frame != x.1.frame || decide (y.2 ≤ x.2)
  sortBy (fun a b => decide (a.frame < b.frame)) (newest.map (·.1))

/-- MAP_REBUILD_COMPLETE: the rebuilt map stands. A number whose page or index block is gone has no entry. -/
def State.mapRebuilt (s : State) : State :=
  if s.flash.state ≠ .rebuild then s
  else
    let s := s.loadMap (s.taggedMap.filter fun e => (s.pageOfFrame e.frame).isSome || s.indexFrames.contains e.frame)
    s.tierServes.flsRaise 8 9 1 0 []

/-! ## READ_ONLY (R249) and page reclaim (R63) -/

/-- The tier leaves `READ_ONLY` once the writable dies have free space of 1 % of their exported frames. -/
def State.leaveReadOnly (s : State) : State :=
  if s.flash.state ≠ .readOnly then s
  else
    let dies := s.flash.dies.filter fun d => !d.worn && (s.chan d.die.chan.val).writes
    let cap := 3604480 * dies.length
    let valid := sumNat (s.flash.blocks.map fun b =>
      if !b.single && dies.any (fun d => d.die == b.die) then (b.frames.filter (·.valid)).length else 0)
    if dies ≠ [] ∧ cap ≤ (cap - valid) * 100 then
      ((({ s with flash := { s.flash with state := .service } } : State).flsRaise 5 11 0 0 []).flushKept)
    else s

/-- PAGE_RECLAIM. -/
def State.pageReclaim (h : Handle) (s : State) : State := (s.reclaim h).leaveReadOnly

/-! ## The health log (R252) -/

/-- HEALTH_LOG_HOURLY. -/
def State.healthHour (s : State) : State :=
  if s.pow.state = .off then s
  else
    let hours := s.pow.hours + 1
    let chans := s.flash.chans.filter fun c => c.state != .off
    let h := s.flash.health
    let t := h.hour.getD (maxInt (chans.map (·.temp)), minInt (chans.map (·.temp)))
    let e := (hours % 65536, t)
    let hist := if h.histNext < h.history.length then updAt h.histNext (fun _ => e) h.history else h.history ++ [e]
    let write := s.tierWrites
    let s := { s with
      pow := { s.pow with hours := hours }
      flash := { s.flash with health := { h with
        history := hist, histNext := (h.histNext + 1) % 256, hour := none, writes := h.writes + if write then 1 else 0 } } }
    if write then (s.sysNext .health).2 else s

/-- Mean, rounded down. -/
def meanNat (l : List Nat) : Nat := if l = [] then 0 else sumNat l / l.length

/-- Erase counts of the four-bit blocks of a die that are counted: all 4,080, most of them 0. -/
def FDie.eraseSum (d : FDie) : Nat := sumNat (d.erases.map (·.2))
def FDie.eraseMax (d : FDie) : Nat := d.erases.foldl (fun m x => max m x.2) 0
def dieBlocks : Nat := 4080

/-- Wear over the rated endurance of 3,000, per mille (R233). -/
def wearPm (sum blocks : Nat) : Nat := if blocks = 0 then 0 else min 65535 (sum * 1000 / (3000 * blocks))

def State.chanRecord (s : State) (n : Nat) : List Byte :=
  let c := s.chan n
  let dies := s.flash.dies.filter fun d => d.die.chan.val == n
  let total := fun (f : FDie → Nat) => sumNat (dies.map f)
  let h := leBytes 1 n ++ leBytes 1 (ChanState.code c.state) ++ leBytes 1 c.dies ++ leBytes 1 (dies.filter (·.worn)).length ++
    leBytes 4 (total (·.spare)) ++ leBytes 4 (total (·.retired)) ++
    leBytes 4 (if dies = [] then 0 else total FDie.eraseSum / (dieBlocks * dies.length)) ++
    leBytes 4 ((dies.map FDie.eraseMax).foldl max 0) ++ leBytes 4 (total (·.free)) ++
    leBytes 8 c.corrected ++ leBytes 4 c.ue ++ leBytes 4 c.progFails ++ leBytes 4 c.eraseFails ++
    [BitVec.ofInt 8 c.temp, BitVec.ofInt 8 c.tempMax]
  fitBytes 64 h

/-- The 3,200 bytes of the health log. -/
def State.healthLog (s : State) : List Byte :=
  let h := s.flash.health
  let dies := s.flash.dies
  let n := dies.length
  let inService := (dies.filter fun d => (s.chan d.die.chan.val).state == .service || (s.chan d.die.chan.val).state == .draining).length
  let programmed := sumNat (s.flash.blocks.map fun k => k.frames.length)
  let head := leBytes 4 0x464C4831 ++ leBytes 1 1 ++ leBytes 1 (TierState.code s.flash.state) ++ leBytes 2 inService ++
    leBytes 4 s.pow.hours ++
    leBytes 2 (if n = 0 then 0 else sumNat (dies.map (·.spare)) * 1000 / max 1 (sumNat (dies.map (·.spareStart)))) ++
    leBytes 2 (wearPm (sumNat (dies.map FDie.eraseSum)) (dieBlocks * n)) ++
    leBytes 2 ((dies.map fun d => wearPm d.eraseSum dieBlocks).foldl max 0) ++
    leBytes 2 (dies.filter (·.worn)).length ++ leBytes 4 h.retiredBlocks ++
    leBytes 8 h.framesNew ++ leBytes 8 h.framesTotal ++ leBytes 8 h.readsCorrected ++ leBytes 8 h.readsRetried ++
    leBytes 4 h.readsUncorrectable ++ leBytes 4 h.programFails ++ leBytes 4 h.eraseFails ++ leBytes 4 h.framesLost ++
    leBytes 4 h.patrolPasses ++ leBytes 4 (if programmed = 0 then 0 else h.patrolProgress * 1000 / programmed) ++
    leBytes 4 h.tempEvents ++ leBytes 2 h.histNext
  let ring := h.history.flatMap fun e => leBytes 2 e.1 ++ [BitVec.ofInt 8 e.2.1, BitVec.ofInt 8 e.2.2]
  fitBytes 128 head ++ (List.range 32).flatMap s.chanRecord ++ fitBytes 1024 ring

/-! ## The commands -/

def execReclamationStart (die : DieId) (s : State) : Host.Outcome State Fault Refusal := .next (s.reclaimStart die)
def execReclaimCopyComplete (die : DieId) (frame : Nat) (ok : Bool) (s : State) : Host.Outcome State Fault Refusal :=
  .next (s.reclaimCopied die frame ok)
def execBlockCloseCheck (die : DieId) (block : Nat) (ok : Bool) (s : State) : Host.Outcome State Fault Refusal :=
  .next (s.closeCheck die block ok)
def execBlockErase (die : DieId) (block : Nat) (s : State) : Host.Outcome State Fault Refusal := .next (s.eraseBlock die block)
def execProgramFailure (die : DieId) (block : Nat) (s : State) : Host.Outcome State Fault Refusal := .next (s.programFailure die block)
def execEraseFailure (die : DieId) (block : Nat) (s : State) : Host.Outcome State Fault Refusal := .next (s.eraseFailure die block)
def execWearLevelMove (die : DieId) (s : State) : Host.Outcome State Fault Refusal := .next (s.wearMove die)
def execFlashPatrolRead (die : DieId) (block frame : Nat) (o : ReadOutcome) (correctedPct : Nat) (s : State) :
    Host.Outcome State Fault Refusal := .next (s.patrolRead die block frame o correctedPct)
def execFlashTempRead (chan : Fin 32) (temps : List Int) (s : State) : Host.Outcome State Fault Refusal := .next (s.flashTemp chan temps)
def execDeltaFlush (s : State) : Host.Outcome State Fault Refusal := .next s.deltaFlush
def execDeltaBufferSpace (s : State) : Host.Outcome State Fault Refusal := .next s.resumeStalled
def execLeafWriteback (leaf : Nat) (s : State) : Host.Outcome State Fault Refusal := .next (s.leafWritten leaf)
def execDirectoryCheckpoint (s : State) : Host.Outcome State Fault Refusal := .next s.dirCheckpoint
def execFlushConsumed (s : State) : Host.Outcome State Fault Refusal := .next s.flushConsumed
def execDraftingReadComplete (page : Handle) (s : State) : Host.Outcome State Fault Refusal := .next (s.draftDone page)
def execFlashReadComplete (page : Handle) (o : ReadOutcome) (s : State) : Host.Outcome State Fault Refusal :=
  .next (s.flashReadDone page o)
def execStagingLineExpiry (page : Handle) (s : State) : Host.Outcome State Fault Refusal := .next (s.lineExpiry page)
def execPageReclaim (page : Handle) (s : State) : Host.Outcome State Fault Refusal := .next (s.pageReclaim page)
def execChannelDrainComplete (chan : Fin 32) (s : State) : Host.Outcome State Fault Refusal := .next (s.chanDrained chan)
def execHealthLogHourly (s : State) : Host.Outcome State Fault Refusal := .next s.healthHour

end Sys2Proof.Machine
end

