-- ==== Sys2Proof/Machine/Units.lean ====
section
/-! DEFINITION. Power states, the freewheel, droop, supply and temperature (16_power_clocks_reset.md R462 to R479, R492;
18_package_and_electrical.md R524), and what a register write does to links, host ports and gates
(12_host_ports.md R333, R346, R348, R353; 13_chainline_fabric.md R358, R365, R369). -/

namespace Sys2Proof.Machine

def powDetail (rail last duration : Nat) : List Byte := leBytes 1 rail ++ leBytes 1 last ++ zeroBytes 2 ++ leBytes 4 duration

/-- Raises a bit of `PWR_STS` with a record of class 8. -/
def State.powRaise (bit' code sev : Nat) (det : List Byte) (s : State) : State := s.raise .pwrSts bit' ⟨8, code, sev, 0xFF, 0, det⟩

def State.setPow (f : Power → Power) (s : State) : State := { s with pow := f s.pow }

def State.reqField (s : State) : Nat := s.rf .pwrCtl 0 2

/-! ## Links (R358, R369, R491) -/

/-- A link's lasers go dark: its frames go to the other links, and nothing of it is kept. -/
def State.linkDark (st : LinkState) (n : Nat) (s : State) : State :=
  let s := if (s.link n).state.live then (s.updLink n fun l => { l with state := st }).moveFrames n else s
  s.updLink n fun _ => { Link.reset with state := st }

/-- EN goes to 1; no link trains while NODE_VALID is clear. -/
def State.linkEnabled (n : Nat) (s : State) : State :=
  if s.nodeValid ∧ (s.link n).state = .off ∧ s.pow.state = .ride then s.startTraining n else s

def State.linkDisabled (n : Nat) (s : State) : State := if (s.link n).state = .off then s else s.linkDark .off n

/-- FENCE goes to 1: the streams move to other links. -/
def State.linkFenced (n : Nat) (s : State) : State := if (s.link n).state = .off then s else s.linkDark .fenced n

/-- RESTORE: spared lanes go back, where the original lane has locked: the node's own transmitter at once, with a marker; the
partner's at its marker. -/
def State.linkRestored (n : Nat) (locked : Bool) (s : State) : State :=
  let l := s.link n
  if ¬ locked ∨ ¬ l.state.live ∨ (l.tx.spareFor.isNone ∧ l.rx.spareFor.isNone) then s
  else
    let s := match l.tx.spareFor with
      | some k => (s.updLink n fun l => { l with tx := { l.tx with spareFor := none } }).emit (.laneMark n k)
      | none => s
    let s := match l.rx.spareFor with
      | some k => s.emit (.spareReq n k)
      | none => s
    (s.rejudge n (linkDetail ((l.tx.spareFor.orElse fun _ => l.rx.spareFor).getD 0) 0 0 l.plane)).note
      ⟨4, 6, 0, 0xFF, n, linkDetail ((l.tx.spareFor.orElse fun _ => l.rx.spareFor).getD 0) 0 0 l.plane⟩

/-- Every enabled link that is dark trains. -/
def State.lightLinks (s : State) : State :=
  (List.range 48).foldl (fun s n => if s.linkOn n then s.linkEnabled n else s) s

/-- Every laser goes dark (R477, R524). -/
def State.darkenLinks (s : State) : State :=
  let off := fun (l : Link) => match l.state with | .off | .fenced => l | _ => { Link.reset with state := .off }
  { s with fab := { s.fab with links := s.fab.links.map off, peers := s.fab.peers.map fun p => { p with ordLink := none } } }

/-! ## Host ports and gates (R333, R346, R348, R353, R365) -/

/-- EN goes to 1: the port trains in the MODE of now, its tokens reset. -/
def State.portEnabled (n : Nat) (s : State) : State :=
  let s := s.updPort n fun p => { p with
    state := 1, mode := s.rf (.hptPortCtl n) 2 3, autoNeg := s.rf (.hptPortCtl n) 1 1 == 1, tokensAt := s.pow.tsc.toNat }
  (List.range 8).foldl (fun s c => s.resetTokens n c) s

/-- EN goes to 0: the port stops at once, and its queue pairs stand as on a link that is down. -/
def State.portDisabled (n : Nat) (s : State) : State :=
  if (s.port n).state = 0 then s
  else (s.updPort n fun p => { p with state := 0, paused := [], xoffs := [] }).raise (.hptPortSts n) 0 ⟨4, 7, 1, 0xFF, 64 + n, []⟩

def State.hostGate (n : Nat) (on : Bool) (s : State) : State :=
  s.updPort n fun p => { p with gateRunning := on, gateEntry := 0, gateAt := s.pow.tsc.toNat }

def State.fabricGate (on : Bool) (s : State) : State :=
  let s := { s with fab := { s.fab with gateRunning := on, gateEntry := 0, gateAt := s.pow.tsc.toNat } }
  s.liveLinks.foldl (fun s k => s.pumpAll k) s

/-- MPORT's EN: its sessions close when it goes to 0. -/
def State.mportSet (on : Bool) (s : State) : State :=
  let s := { s with host := { s.host with mportUp := on } }
  if on then s else (s.host.sessions.map (·.num)).foldl (fun s n => s.closeSession n) s

/-! ## COAST, PARK and RIDE (R477 to R479) -/

/-- HBM in self-refresh, staging cache off, lasers dark, PARKED high. -/
def State.enterPark (s : State) : State :=
  let s := s.darkenLinks
  let stk := s.hbm.stk.map fun k => if k.state = .service then { k with state := .selfRefresh, running := [] } else k
  let s := { s with hbm := { s.hbm with stk := stk }, staging := [], flash := { s.flash with drafting := [], draftQueue := [] } }
  (s.setPow fun p => { p with state := .park, parked := true, parkPending := false }).emit (.pin "PARKED" true)

def State.wakeStacks (s : State) : State :=
  ({ s with hbm := { s.hbm with stk := s.hbm.stk.map fun k => if k.state = .selfRefresh then { k with state := .service } else k } } :
    State).nextDrain

/-- Back in `RIDE`: HBM out of self-refresh, links lit. -/
def State.leavePark (s : State) : State :=
  let s := (s.setPow fun p => { p with state := .ride, parked := false }).emit (.pin "PARKED" false)
  s.wakeStacks.lightLinks

/-- The newest map gives the node a role. -/
def State.holdsRole (s : State) : Bool :=
  match s.map.map with
  | some m => s.mayHold && !(MapBody.shardsOf m s.self).isEmpty
  | none => false

def State.parkDenied (s : State) : State := (s.setPow fun p => { p with parkPending := false }).powRaise 6 7 0 (powDetail 0 0 0)

/-- REQ goes to 2: admission stops, and what waits for others ends with its timeout's status. -/
def State.parkRequest (s : State) : State :=
  if s.pow.state ≠ .ride ∨ s.pow.phase ≠ .service ∨ s.pow.freewheel.isSome ∨ s.pow.parkPending then s
  else if s.holdsRole then s.parkDenied
  else
    let s := s.setPow fun p => { p with parkPending := true }
    s.cutWaits (fun _ => true) s.cmds.list

/-- PARK_ENTRY_COMPLETE: every admitted command, queued seal and near-bank sequence has ended; flash work stops. A role that came
meanwhile denies the entry (R492). -/
def State.parkEntry (s : State) : State :=
  if ¬ s.pow.parkPending then s
  else if s.holdsRole then s.parkDenied
  else if s.cmds.list ≠ [] ∨ s.store.pages.any (fun p => p.sealing != .idle) ∨ s.hbm.stk.any (fun k => !k.running.isEmpty) then s
  else s.enterPark

/-- REQ goes to 0 or 1 outside a freewheel: the node rides, or coasts with every idle engine gated. -/
def State.rideRequest (coast : Bool) (s : State) : State :=
  if s.pow.freewheel.isSome ∨ s.pow.phase ≠ .service then s
  else
    let s := s.setPow fun p => { p with parkPending := false }
    let s := if s.pow.state = .park then s.leavePark else s
    if coast then s.gateIdle
    else { s with eng := { s.eng with engines := s.eng.engines.map fun e => if e.inUse then { e with gated := false } else e } }

/-- AUTO_COAST_IDLE. -/
def State.autoCoast (e : Nat) (s : State) : State :=
  if s.rf .pwrCtl 2 1 = 0 ∨ s.pow.state ≠ .ride then s
  else s.updEngine e fun y => if y.step.isNone && !y.fenced then { y with gated := true } else y

/-! ## The freewheel (R466 to R468, R470, R524) -/

/-- Steps 1 and 2: commands are abandoned without a reply, uncommitted steps discarded, copies abandoned. -/
def State.abandonWork (s : State) : State :=
  let seal' := fun (x : SealState) => match x with | .idle => SealState.idle | .queued r => .queued r | .running _ _ _ => .queued true
  let images := s.store.pages.filterMap fun p => match p.sealing with | .running _ k _ => some k | _ => none
  let pages := (s.store.pages.filter fun p => !images.contains p.handle).map fun p =>
    { p.unpinned p.pins with pins := 0, leaving := [], sealing := seal' p.sealing, job := .none }
  let blocks := s.flash.blocks.map fun b => if b.use = .reclaiming then { b with use := .full } else b
  let calm := fun (k : Stack) => { k with running := [] }
  { s with
    cmds := { s.cmds with list := [], parts := [], grads := [] }
    host := { s.host with sessions := s.host.sessions.map fun x => { x with outstanding := 0 } }
    store := { s.store with pages := pages }
    eng := { s.eng with engines := s.eng.engines.map fun e => { e with step := none }, held := [] }
    rcl := ⟨s.rcl.segments.map fun g => { g with window := [], passes := [] }, []⟩
    hbm := { s.hbm with stk := s.hbm.stk.map calm }
    trust := { s.trust with fw := { s.trust.fw with waiter := none } }
    fab := { s.fab with peers := s.fab.peers.map fun p => { p with hs := none } }
    flash := { s.flash with
      copying := [], stalled := [], blocks := blocks, drafting := [], draftQueue := []
      chans := s.flash.chans.map fun c => { c with queue := [], suspended := [] } } }

/-- The phases in which the flash hardware can run a freewheel. -/
def Phase.runs : Phase → Bool
  | .service | .applying | .fwRestart => true
  | _ => false

/-- A freewheel starts; a second cause during one is ignored (R492). -/
def State.startFreewheel (c : FwCause) (s : State) : State :=
  if s.pow.state = .freewheel ∨ (s.pow.freewheel.isSome ∧ ¬ s.pow.resuming) ∨ ¬ Phase.runs s.pow.phase ∨ s.pow.state = .off then s
  else
    let s := if s.pow.state = .park then s.wakeStacks else s
    let s := s.abandonWork.setPow fun p => { p with
      state := .freewheel, freewheel := some c, resuming := false, parkPending := false, parked := false }
    (s.powRaise 0 1 1 (powDetail 0 0 0)).count 8 nodeScope 3

/-- Nothing keeps the node from resuming: the warning, the rails, the readings. -/
def State.mayResume (s : State) : Bool := !s.pow.pwrWarn && s.pow.railsOut.isEmpty && !s.pow.thermalHold

/-- PWR_WARN_ASSERT. -/
def State.warnAssert (s : State) : State := (s.setPow fun p => { p with pwrWarn := true }).startFreewheel .warn

/-- SUPPLY_FAULT. -/
def State.supplyFault (rail : Nat) (s : State) : State :=
  if s.pow.state = .off ∨ s.pow.railsOut.contains rail then s
  else
    let s := s.setPow fun p => { p with railsOut := p.railsOut ++ [rail] }
    (s.powRaise 5 6 1 (powDetail rail 0 0)).startFreewheel .supply

/-! ## Droop (R465) -/

def State.updDie' (d : Die) (f : DieClk → DieClk) (s : State) : State :=
  s.setPow fun p => match d with | .west => { p with west := f p.west } | .east => { p with east := f p.east }
def State.dieClk (s : State) (d : Die) : DieClk := match d with | .west => s.pow.west | .east => s.pow.east

/-- The rail's place in R462: VDDW and VDDE. -/
def railOf (d : Die) : Nat := match d with | .west => 2 | .east => 3

def State.droop (d : Die) (s : State) : State :=
  if (s.dieClk d).div3 then s
  else ((s.updDie' d fun c => { c with div3 := true }).count 8 nodeScope 1).powRaise 3 4 0 (powDetail (railOf d) 0 0)

def State.droopRecover (d : Die) (s : State) : State := s.updDie' d fun c => { c with div3 := false }

def State.droopLong (d : Die) (s : State) : State :=
  if ¬ (s.dieClk d).div3 then s
  else ((s.updDie' d fun _ => ⟨false, true⟩).count 8 nodeScope 2).powRaise 4 5 0 (powDetail (railOf d) 0 1000)

def State.droopLongEnd (d : Die) (s : State) : State := s.updDie' d fun c => { c with halfIssue := false }

/-! ## PLLs (R476) -/

/-- The fabric links that a PLL clocks. -/
def Pll.links : Sys2Proof.Pll → List Nat
  | .host _ => []
  | .fabric n => [n.val]
  | .optical e => (List.range 48).filter fun n => opticalOf n == e.val

def State.pllLoss (p : Pll) (s : State) : State :=
  if s.pow.pllsLost.contains p then s
  else
    let s := s.setPow fun x => { x with pllsLost := x.pllsLost ++ [p] }
    let s := (Pll.links p).foldl (fun s n =>
      match (s.link n).state with
      | .training => s.updLink n fun l => { l with state := .down }
      | _ => if (s.link n).state.live then s.linkDown n (linkDetail 0 0 0 (s.link n).plane) else s) s
    let s := match p with
      | .host n => if (s.port n).state = 0 then s else s.hostLink n false
      | _ => s
    s.powRaise 7 8 1 (powDetail 0 0 0)

/-- A PLL relocks, and the links that it clocks train again. -/
def State.pllRelock (p : Pll) (s : State) : State :=
  if ¬ s.pow.pllsLost.contains p then s
  else
    let s := s.setPow fun x => { x with pllsLost := delAll p x.pllsLost }
    let still := s.pow.pllsLost.flatMap Pll.links
    let s := ((Pll.links p).filter fun n => !still.contains n).foldl (fun s n => s.lanesReturn n) s
    match p with
    | .host n => if (s.port n).state = 3 then s.updPort n fun x => { x with state := 1 } else s
    | _ => s

/-! ## Temperature (R524) -/

/-- Limiting starts, or goes on until every reading is 5 °C below its threshold. -/
def State.limiting (t : Temps) (s : State) : State :=
  let on := if s.pow.limited then decide (95 < t.junction ∨ 85 < t.stack) else decide (100 ≤ t.junction ∨ 90 ≤ t.stack)
  let s := if on ∧ ¬ s.pow.limited then s.count 8 nodeScope 0 else s
  s.setPow fun p => { p with limited := on }

/-- A thermal freewheel: WARN is set. -/
def State.thermalCheck (t : Temps) (s : State) : State :=
  let s := s.limiting t
  if 115 ≤ t.junction ∨ 95 ≤ t.stack ∨ 85 ≤ t.optical then
    (s.setPow fun p => { p with thermalHold := true }).startFreewheel .thermal
  else s

/-! ## The commands -/

def execPwrWarnAssert (s : State) : Host.Outcome State Fault Refusal := .next s.warnAssert
def execSupplyFault (rail : Fin 13) (s : State) : Host.Outcome State Fault Refusal := .next (s.supplyFault rail)
def execDroop (die : Die) (s : State) : Host.Outcome State Fault Refusal := .next (s.droop die)
def execDroopRecover (die : Die) (s : State) : Host.Outcome State Fault Refusal := .next (s.droopRecover die)
def execDroopLong (die : Die) (s : State) : Host.Outcome State Fault Refusal := .next (s.droopLong die)
def execDroopLongEnd (die : Die) (s : State) : Host.Outcome State Fault Refusal := .next (s.droopLongEnd die)
def execSerdesPllLoss (pll : Pll) (s : State) : Host.Outcome State Fault Refusal := .next (s.pllLoss pll)
def execSerdesPllRelock (pll : Pll) (s : State) : Host.Outcome State Fault Refusal := .next (s.pllRelock pll)
def execParkEntryComplete (s : State) : Host.Outcome State Fault Refusal := .next s.parkEntry
def execAutoCoastIdle (engine : Fin 68) (s : State) : Host.Outcome State Fault Refusal := .next (s.autoCoast engine)

end Sys2Proof.Machine
end

