-- ==== Sys2Proof/Machine/RegWrite.lean ====
section
/-! DEFINITION. Register writes (00_scope.md R11, R12; 17_configuration_space.md R494 to R496, R503, R528; the range rules
R231, R260, R356, R390, R432, R493 of the blocks) and what they do to the units. -/

namespace Sys2Proof.Machine

/-- How a write ends (R330, R528): it changed the register or acted; it set nothing; the node ignored or refused it. -/
inductive WriteEnd where
  | applied | nothing | ignored
  deriving DecidableEq, Repr

/-- What the rules make of a write: nothing set; ignored; a lock violation; the kept bits afterwards. -/
inductive Verdict where
  | nothing | ignored | locked | ok (kept : Nat)
  deriving DecidableEq, Repr

/-- The RW and RWL fields that a write sets (R528). -/
def setFields (r : Reg) (old v : Nat) : List Fld := r.fields.filter fun f => f.settable && bits v f.lo f.w != bits old f.lo f.w

/-- The first `n` gate entries all last. -/
def gateTimes (s : State) (ent : Nat → Reg) (n : Nat) : Bool := (List.range n).all fun k => s.rf (ent k) 0 24 != 0

/-- A gate-control write: NENT is fixed while the cycle runs, and the cycle starts only on entries that last (R356, R390). -/
def gateCtlOk (s : State) (ent : Nat → Reg) (old new : Nat) : Bool :=
  (bits old 0 1 == 0 || bits new 4 5 == bits old 4 5) && (bits old 0 1 == 1 || bits new 0 1 == 0 || gateTimes s ent (bits new 4 5))

/-- EN or FENCE of a unit: EN goes to 1 only with FENCE clear. -/
def enFenceOk (old new : Nat) : Bool := bits old 0 1 == 1 || bits new 0 1 == 0 || bits new 1 1 == 0

/-- The rules of a block beyond the range of each field. They judge the fields that the write sets (R528). -/
def State.blockOk (s : State) (r : Reg) (old new : Nat) : Bool :=
  match r with
  | .glbLock => bits new 0 1 == 1
  | .hptShp n c => bits new 0 16 == bits old 0 16 || decide (bits new 0 16 ≤ modeRate (s.rf (.hptPortCtl n) 2 3)) || decide (8 ≤ c)
  | .hptPortGctl n => gateCtlOk s (.hptPortGent n) old new
  | .hptPortGent n _ => s.rf (.hptPortGctl n) 0 1 == 0
  | .fabGctl => gateCtlOk s .fabGent old new
  | .fabGent _ => s.rf .fabGctl 0 1 == 0
  | .fabNode => bits old 12 1 == 0
  | .fabLinkCtl _ => enFenceOk old new
  | .memStkCtl n =>
    let st := (s.stack n).state
    if bits old 0 1 = 0 ∧ bits new 0 1 = 1 then st == .off && bits new 1 1 == 0
    else if bits old 0 1 = 1 ∧ bits new 0 1 = 0 then st == .fenced
    else true
  | .memNb => bits new 8 8 == bits old 8 8 || decide (bits new 8 8 < bits new 0 8)
  | .flsCtl =>
    (bits new 8 5 == bits old 8 5 || [4, 8, 16].contains (bits new 8 5)) &&
    (bits old 0 1 == 1 || bits new 0 1 == 0 || (List.range 32).all fun n => s.rf (.flsChCtl n) 0 1 == 1)
  | .flsGc => bits new 0 16 == bits old 0 16 || decide (bits new 0 8 < bits new 8 8)
  | .flsMig => bits new 16 16 == bits old 16 16 || decide (bits new 24 8 < bits new 16 8)
  | .flsChCtl _ => enFenceOk old new
  | .secCtl => bits new 0 1 == bits old 0 1 || !(s.trust.jtagLock || s.confPresent)
  | _ => true

/-- Judges the fields that a write sets. -/
def State.judge (s : State) (r : Reg) (v : Nat) : Verdict :=
  let old := s.kept r
  let set := setFields r old v
  if set = [] then .nothing
  else if s.locked ∧ set.any (fun f => f.acc == .rwl) then .locked
  else if set.any (fun f => decide (bits v f.lo f.w < f.mn ∨ f.mx < bits v f.lo f.w)) then .ignored
  else
    let new := set.foldl (fun o f => setBits o f.lo f.w (bits v f.lo f.w)) old
    if s.blockOk r old new then .ok new else .ignored

/-! ## NODE_VALID (R390, R398) -/

/-- A write that sets NODE_VALID with an ID other than the recorded one. -/
def State.otherId (s : State) (new : Nat) : Bool :=
  bits new 12 1 == 1 && match s.trust.nodeId with | some n => n.toNat != bits new 0 12 | none => false

/-- NODE_VALID is set: the first time the ID is recorded; enabled links train. -/
def State.nodeValidated (s : State) : State :=
  let s := if s.trust.nodeId.isSome then s
    else { s with trust := { s.trust with nodeId := some (BitVec.ofNat 12 (s.rf .fabNode 0 12)) } }.securityChanged
  s.lightLinks

/-! ## Resets by a keyed write (R481, R482) -/

/-- PKG_RST: the freewheel first, then the reset. -/
def State.orderlyReset (s : State) : State := (s.setPow fun p => { p with resetAfter := true }).startFreewheel .pkgRst

/-- Commands that run without a control core (R16). -/
def Op.fast (o : Op) : Bool := o == .append || o == .appendBulk || o == .attend || o == .attendBatch

/-- What a new incarnation does to the node's own streams: unacknowledged messages are numbered anew and wait for the next
key (R376, R407). -/
def Peer.restarted (p : Peer) : Peer :=
  let again := (enumFrom 1 p.unacked).map fun x => { x.2 with seq := x.1 }
  { p with txOrd := again.length, txUnord := 0, unacked := again, waiting := [], keyed := false, oldKey := false,
           holdUntilFirst := false, hs := none, backoff := false }

/-- A firmware restart begins: fast-path commands complete, the control cores' work is lost; keys of the trust core are made
anew (R376, R482, R483). -/
def State.fwRestart (cause : Nat) (s : State) : State :=
  if s.pow.phase ≠ .service then s
  else
    let t := s.trust
    let s := s.setPow fun p => { p with
      phase := .fwRestart, lastCause := cause, fwRestarts := min 255 (p.fwRestarts + 1), incarn := p.incarn + 1, parkPending := false }
    let slow := s.cmds.list.filter fun i => !Op.fast i.op
    let s := slow.foldl (fun s i => (s.unpin i.pins).dropInflight i.id) s
    { s with
      trust := { t with sessionKey := t.nextKey, nextKey := t.nextKey + 1, attReady := false, attSerial := 0, attLeft := 0, attSuccessor := false,
                        fw := { t.fw with state := if t.fw.state = 0 then 0 else 1, groupsDone := 0, waiter := none } }
      fab := { s.fab with peers := s.fab.peers.map Peer.restarted, reassembly := [] } }

/-! ## What a write does -/

def went (old new lo : Nat) : Bool := bits old lo 1 == 0 && bits new lo 1 == 1
def fell (old new lo : Nat) : Bool := bits old lo 1 == 1 && bits new lo 1 == 0

/-- The effects of a write whose kept bits went from `old` to `new`. -/
def State.effects (r : Reg) (old new : Nat) (s : State) : State :=
  match r with
  | .glbEvtMask => s.ibiCheck
  | .pwrCtl =>
    if bits old 0 2 = bits new 0 2 then s
    else if bits new 0 2 = 2 then s.parkRequest else s.rideRequest (bits new 0 2 == 1)
  | .hptPortCtl n =>
    let s := s.updPort n fun p => { p with paused := p.paused.filter fun k => bit new (8 + k), xoffs := p.xoffs.filter fun k => bit new (8 + k) }
    if went old new 0 then s.portEnabled n else if fell old new 0 then s.portDisabled n else s
  | .hptShp n c => if bits old 0 30 = bits new 0 30 then s else s.resetTokens n c
  | .hptPortGctl n => if went old new 0 then s.hostGate n true else if fell old new 0 then s.hostGate n false else s
  | .hptMportCtl => if went old new 0 then s.mportSet true else if fell old new 0 then s.mportSet false else s
  | .fabNode => if went old new 12 then s.nodeValidated else s
  | .fabGctl => if went old new 0 then s.fabricGate true else if fell old new 0 then s.fabricGate false else s
  | .fabLinkCtl n =>
    let s := if went old new 1 then s.linkFenced n else s
    if went old new 0 then s.linkEnabled n else if fell old new 0 then s.linkDisabled n else s
  | .memStkCtl n =>
    let s := if went old new 1 then s.startDrain n
      else if fell old new 1 then s.updStack n fun k => { k with drainQueued := false } else s
    if went old new 0 then s.stackOn n else if fell old new 0 then s.stackOff n else s
  | .flsCtl =>
    let s := if went old new 0 ∧ s.flash.state = .off then { s with flash := { s.flash with state := .init } } else s
    if went old new 1 then s.flushKept else s
  | .flsChCtl n =>
    let s := if went old new 1 then s.chanDrain n
      else if fell old new 1 then { s with flash := { s.flash with chanDrains := delAll n s.flash.chanDrains } } else s
    if went old new 0 then s.chanOn n else if fell old new 0 then s.chanOff n else s
  | .flsDraft => s.issueDrafts s.flash.draftQueue.length
  | .telCtl =>
    if went old new 0 then { s with tel := { s.tel with snapshot := some s.tel.counters } }
    else if fell old new 0 then { s with tel := { s.tel with snapshot := none } } else s
  | _ => s

/-- A drain that a write would start and that nothing can take (R229, R260). -/
def State.drainRefusedBy (s : State) (r : Reg) (old new : Nat) : Option State :=
  match r with
  | .memStkCtl n => if went old new 1 ∧ (s.stack n).state = .service ∧ ¬ s.drainFits n then some (s.drainRefused n) else none
  | .flsChCtl n => if went old new 1 ∧ (s.chan n).state = .service ∧ ¬ s.chanFits n then some (s.chanRefused n) else none
  | _ => none

def Path.code : Sys2Proof.Path → Nat
  | .host => 0 | .mport => 1 | .i3c => 2 | .image => 3

/-- Writes the RW and RWL fields of a register. -/
def State.writeFields (path : Path) (r : Reg) (v : Nat) (s : State) : WriteEnd × State :=
  match s.judge r v with
  | .nothing => (.nothing, s)
  | .ignored => (.ignored, s)
  | .locked =>
    (.ignored, s.raise .glbSts 2 ⟨1, 1, 0, 0xFF, 0, leBytes 4 v ++ leBytes 1 (Path.code path)⟩)
  | .ok new =>
    let old := s.kept r
    if r = .fabNode ∧ s.otherId new then (.ignored, s.note ⟨10, 4, 0, 0xFF, 0, []⟩)
    else match s.drainRefusedBy r old new with
      | some t => (.ignored, t)
      | none =>
        let s := match r with | .hptShp n _ => s.accrue n | _ => s
        (.applied, (s.keep r new).effects r old new)

/-- Clears the RW1C bits written as 1. -/
def State.clearBits (r : Reg) (v : Nat) (s : State) : WriteEnd × State :=
  let hit := v &&& s.kept r &&& r.mask fun f => f.acc == .rw1c
  if hit = 0 then (.nothing, s) else (.applied, (s.keep r (s.kept r - hit)).ibiCheck)

/-- The WO fields: PWR_RST, SEC_SVN_COMMIT, RESTORE and CLEAR. `locked` says whether the original lanes of the link have
locked. -/
def State.writeOnly (r : Reg) (v : Nat) (locked : Bool) (s : State) : WriteEnd × State :=
  match r with
  | .pwrRst =>
    if bits v 16 16 ≠ 0xA5C3 then (.ignored, s)
    else if bit v 0 then (.applied, s.orderlyReset)
    else if bit v 1 then (.applied, s.fwRestart 4)
    else (.nothing, s)
  | .secSvnCommit =>
    let t := s.trust
    if v = t.svnRun.toNat ∧ t.svnMin.toNat < v ∧ t.svnAdvances < 64 then
      (.applied, { s with trust := { t with svnMin := BitVec.ofNat 32 v, svnAdvances := t.svnAdvances + 1 } }.securityChanged)
    else (.ignored, s.note ⟨9, 4, 0, 0xFF, 0, []⟩)
  | .fabLinkCtl n => if bit v 2 then (.applied, s.linkRestored n locked) else (.nothing, s)
  | .telCtl => 
    if bit v 1 then (.applied, { s with tel := ⟨[], s.tel.snapshot.map fun _ => []⟩ }) else (.nothing, s)
  | _ => (.nothing, s)

/-- A register with nothing to write. -/
def Reg.readOnly (r : Reg) : Bool := r.fields.all fun f => f.acc == .ro

/-- One register write (R11, R495, R528). A write that the rules ignore does nothing at all. A write to a register with nothing to write
is ignored under R11 and so refused; changed RO bits beside writable ones count for nothing (DESIGN CHOICE, log 65). -/
def State.writeReg (path : Path) (o v : Nat) (s : State) (locked : Bool := false) : WriteEnd × State :=
  match Reg.at? o with
  | none => (.ignored, s)
  | some r =>
    if r.readOnly then (.ignored, s)
    else
      let a := s.writeFields path r v
      if a.1 = .ignored then a
      else
        let b := a.2.clearBits r v
        let c := b.2.writeOnly r v locked
        if c.1 = .ignored then c
        else (if a.1 = .applied ∨ b.1 = .applied ∨ c.1 = .applied then .applied else .nothing, c.2)

/-- A register write that reaches the node on a path: its firmware serves, or applies the image. -/
def State.regArrives (path : Path) (o v : Nat) (s : State) (locked : Bool := false) : State :=
  if s.pow.phase = .service ∨ (path = .image ∧ s.pow.phase = .applying) then (s.writeReg path o v locked).2 else s

/-- A write that gives one field a value and leaves the register's other fields as they are. -/
def State.writeField (path : Path) (r : Reg) (lo w v : Nat) (s : State) (locked : Bool := false) : State :=
  s.regArrives path r.offset (setBits (s.kept r &&& r.mask Fld.settable) lo w v) locked

/-! ## The commands that write one field -/

def execStackEnable (path : Path) (stack : Fin 8) (s : State) : Host.Outcome State Fault Refusal :=
  .next (s.writeField path (.memStkCtl stack) 0 1 1)
def execStackDisable (path : Path) (stack : Fin 8) (s : State) : Host.Outcome State Fault Refusal :=
  .next (s.writeField path (.memStkCtl stack) 0 1 0)
def execStackFence (path : Path) (stack : Fin 8) (s : State) : Host.Outcome State Fault Refusal :=
  .next (s.writeField path (.memStkCtl stack) 1 1 1)
/-- NB_EN stands in the compute stacks' registers alone (R143). -/
def execNbEnWrite (path : Path) (stack : Fin 8) (on : Bool) (s : State) : Host.Outcome State Fault Refusal :=
  .next (s.writeField path (.memStkCtl stack) 2 1 (b2n on))
def execFlashWriteEnable (path : Path) (s : State) : Host.Outcome State Fault Refusal := .next (s.writeField path .flsCtl 1 1 1)
def execChannelFence (path : Path) (chan : Fin 32) (s : State) : Host.Outcome State Fault Refusal :=
  .next (s.writeField path (.flsChCtl chan) 1 1 1)
def execHostPortEnable (path : Path) (port : Fin 4) (on : Bool) (s : State) : Host.Outcome State Fault Refusal :=
  .next (s.writeField path (.hptPortCtl port) 0 1 (b2n on))
def execMportEnable (path : Path) (on : Bool) (s : State) : Host.Outcome State Fault Refusal :=
  .next (s.writeField path .hptMportCtl 0 1 (b2n on))
def execHostGateEnable (path : Path) (port : Fin 4) (on : Bool) (s : State) : Host.Outcome State Fault Refusal :=
  .next (s.writeField path (.hptPortGctl port) 0 1 (b2n on))
def execShaperWrite (path : Path) (port : Fin 4) (cls : Fin 8) (value : Word32) (s : State) : Host.Outcome State Fault Refusal :=
  .next (s.regArrives path (Reg.hptShp port cls).offset value.toNat)
def execLinkEnable (path : Path) (link : Fin 48) (on : Bool) (s : State) : Host.Outcome State Fault Refusal :=
  .next (s.writeField path (.fabLinkCtl link) 0 1 (b2n on))
def execLinkFence (path : Path) (link : Fin 48) (s : State) : Host.Outcome State Fault Refusal :=
  .next (s.writeField path (.fabLinkCtl link) 1 1 1)
def execLinkRestore (path : Path) (link : Fin 48) (locked : Bool) (s : State) : Host.Outcome State Fault Refusal :=
  .next (s.writeField path (.fabLinkCtl link) 2 1 1 locked)
def execFabricGateEnable (path : Path) (on : Bool) (s : State) : Host.Outcome State Fault Refusal :=
  .next (s.writeField path .fabGctl 0 1 (b2n on))
def execNodeValidSet (path : Path) (node : NodeId) (s : State) : Host.Outcome State Fault Refusal :=
  .next (s.regArrives path Reg.fabNode.offset (node.toNat + 2 ^ 12))
def execGlbLockSet (path : Path) (s : State) : Host.Outcome State Fault Refusal := .next (s.writeField path .glbLock 0 1 1)
def execSecSvnCommit (path : Path) (svn : Word32) (s : State) : Host.Outcome State Fault Refusal :=
  .next (s.regArrives path Reg.secSvnCommit.offset svn.toNat)
def execTelFreeze (path : Path) (on : Bool) (s : State) : Host.Outcome State Fault Refusal :=
  .next (s.writeField path .telCtl 0 1 (b2n on))
def execTelClear (path : Path) (s : State) : Host.Outcome State Fault Refusal := .next (s.writeField path .telCtl 1 1 1)
def execPkgRst (path : Path) (s : State) : Host.Outcome State Fault Refusal := .next (s.regArrives path Reg.pwrRst.offset 0xA5C30001)
def execFwRestart (path : Path) (s : State) : Host.Outcome State Fault Refusal := .next (s.regArrives path Reg.pwrRst.offset 0xA5C30002)
def execSupervisorWatchdog (s : State) : Host.Outcome State Fault Refusal := .next (s.fwRestart 5)
def execParkRequest (path : Path) (s : State) : Host.Outcome State Fault Refusal := .next (s.writeField path .pwrCtl 0 2 2)

end Sys2Proof.Machine
end

