-- ==== Sys2Proof/Machine/Restore.lean ====
section
/-! DEFINITION. What a reset or a loss of power leaves of the state (16_power_clocks_reset.md R483) and what flash restores
(09_flash_tier.md R242 to R244; 14_partitions_and_trust.md R397; 15_resilience.md R454; 16_power_clocks_reset.md R471). -/

namespace Sys2Proof.Machine

/-! ## Flushes -/

/-- Frames of the security state, and of a journal half (R243). -/
def securityPart : Nat := min 64 Config.securityFrames
def halfFrames : Nat := 2048

/-- The frames of a flush of the unretired delta records, the security state, both journal halves, the health log and the
commit (R243). -/
def flushLength (records : Nat) : Nat := deltaFrames records + securityPart + 2 * halfFrames + 1 + 2

/-- The delta records that a flush holds. -/
def State.flushRecords (s : State) : List DeltaEntry := s.flash.unretired ++ s.flash.unwritten

/-- Where frame `k` of a flush goes: channel, die and slot of the die's FW block (R243). -/
def flushPlace (dies k : Nat) : DieId × Nat :=
  (⟨Fin.ofNat 32 k, Fin.ofNat 16 (k / 32 % max 1 dies)⟩, k / (32 * max 1 dies))

/-- Flash takes a freewheel's flush: the tier holds its map, writing is on, and a set is armed (R243, R492). -/
def State.flushes? (s : State) : Bool :=
  s.tierUp && s.writeEnabled && ((s.flash.setA.flush?).isNone || (s.flash.setB.flush?).isNone)

/-- The flush of the running freewheel goes into the armed set; one that a reset stopped lacks its commit frame. Its frames have KIND 4
and take write sequence numbers as others do; commit frames go to die 0 of FCH00 and of FCH16. -/
def State.putFlush (committed : Bool) (s : State) : State :=
  let recs := s.flushRecords
  let all := flushLength recs.length
  let n := if committed then all else min (all - 2) (Config.flushPart s.freeCtr)
  let s := if committed then s else s.drawn
  let wseq := s.flash.wseq + n
  let h := s.flash.health
  let s := { s with flash := { s.flash with wseq := wseq, health := { h with framesTotal := h.framesTotal + n, framesNew := h.framesNew + n } } }
  let onChan := fun (c : Nat) => ((List.range (n - if committed then 2 else 0)).filter fun k => (flushPlace s.diesPerCh k).1.chan.val == c).length +
    if committed ∧ (c = 0 ∨ c = 16) then 1 else 0
  let s := (List.range 32).foldl (fun s c => s.count 4 nodeScope (flsTel c 1) (onChan c)) s
  let f : Flush := ⟨committed, wseq, n, recs, s.store.journal⟩
  if s.flash.setA.flush?.isNone then { s with flash := { s.flash with setA := .holds f } }
  else { s with flash := { s.flash with setB := .holds f } }

/-- A reset stops a running freewheel (R481, R492). -/
def State.stopFlush (s : State) : State := if s.pow.state = .freewheel ∧ s.flushes? then s.putFlush false else s

/-- Frame `k` of a flush was programmed and passes its checks (R244). -/
def Flush.reads (f : Flush) (k : Nat) : Bool := decide (k < f.frames) && Config.flushFrame f.wseq k

/-- The delta records in frames that read back. -/
def Flush.usedRecords (f : Flush) : List DeltaEntry := ((enumFrom 0 f.records).filter fun x => f.reads (x.1 / 4096)).map (·.2)

/-- The entries of a journal half whose frames all read back; its bytes begin at byte `at'` of frame `first`. -/
def Flush.usedHalf (f : Flush) (first : Nat) : Nat → List JEntry → List JEntry
  | _, [] => []
  | at', e :: l =>
    let ok := (List.range ((at' + e.bytes - 1) / 65536 - at' / 65536 + 1)).all fun k => f.reads (first + at' / 65536 + k)
    let rest := f.usedHalf first (at' + e.bytes) l
    if ok then e :: rest else rest

/-- The journal entries in frames that read back: STK0's half, then STK7's. -/
def Flush.usedJournal (f : Flush) : List JEntry :=
  let first := deltaFrames f.records.length + securityPart
  f.usedHalf first 0 (f.journal.filter fun e => e.half == 0) ++ f.usedHalf (first + halfFrames) 0 (f.journal.filter fun e => e.half == 1)

/-- The flushes that are replayed, newest first: the newest one; where it lacks its commit frame, those before it too (R244). -/
def State.replayed (s : State) : List Flush :=
  let held := (s.flash.setA.flush?.toList ++ s.flash.setB.flush?.toList).filter fun f => decide (s.flash.consumed < f.wseq)
  match sortBy (fun (a b : Flush) => decide (b.wseq < a.wseq)) held with
  | [] => []
  | f :: l => if f.committed then [f] else f :: l

def jFind (j : List JEntry) (h : Handle) (l pos : Nat) : Option JEntry := j.find? fun e => e.seq == h && e.layer == l && e.pos == pos

/-! ## Restored lengths (R454) -/

/-- A block's page survives: sealed and on flash here, or on another node (log 37). -/
def State.blockKept (s : State) (e : Entry) : Bool :=
  if s.isOwn e.page then (match s.page? e.page with | some p => p.sealed? && p.flash | none => false) else true

/-- The restored length of a layer, from `p` on. -/
def State.restoredFrom (s : State) (j : List JEntry) (q : Seq) (l : Nat) : Nat → Nat → Nat
  | 0, p => p
  | k + 1, p =>
    let len := (q.layer l).length
    if len ≤ p then p
    else if ((q.layer l).entry? (p / 256)).any s.blockKept then s.restoredFrom j q l k (min len ((p / 256 + 1) * 256))
    else if (jFind j q.handle l p).isSome then s.restoredFrom j q l k (p + 1)
    else p

def State.restoredLength (s : State) (j : List JEntry) (q : Seq) (l : Nat) : Nat := s.restoredFrom j q l (q.layer l).length 0

/-! ## Rebuilding -/

/-- A page that flash does not hold becomes a tail frame of the rows that the journal holds, with the markers and bounds of those that
were requantised (R60, R89). -/
def State.rebuildTail (j : List JEntry) (q : Seq) (l len : Nat) (e : Entry) (s : State) : State :=
  let held := ((List.range 256).map (· + 256 * e.block)).filterMap fun p => if p < len then jFind j q.handle l p else none
  let marks := maskOf fun t => held.any fun x => x.pos % 256 == t && x.inherit.isSome
  let img := { (emptyTail (q.group l) q.handle l e.block).addRows (held.map (·.row)) with
    inherit := (held.findSome? (·.inherit)).map fun h => { h with marks := marks } }
  s.updPage e.page fun p => { p with name := ⟨q.handle, l, e.block⟩, img := img, frames := img.frames (q.group l), flash := false, index := none }

/-- Cuts a layer to its restored length and rebuilds what lay in HBM alone. -/
def State.restoreLayer (j : List JEntry) (h : Handle) (len l : Nat) (s : State) : State :=
  let s := s.dropEntries false h l fun e => decide (len ≤ 256 * e.block)
  match s.seq? h with
  | none => s
  | some q =>
    let s := ((q.layer l).entries.filter fun e => !s.blockKept e).foldl (fun s e => s.rebuildTail j q l len e) s
    s.updLayer h l fun x => { x with length := len, mirrored := min len x.mirrored, persisted := min len x.persisted, selection := [] }

/-- Restores a sequence; it then waits to be settled. -/
def State.restoreSeq (j : List JEntry) (q : Seq) (lens : List Nat) (s : State) : State :=
  let s := (enumFrom 0 lens).foldl (fun s x => s.restoreLayer j q.handle x.2 x.1) s
  let st : SeqState := match q.state with | .pendingChild r => .pendingChild r | _ => .settling none
  s.updSeq q.handle fun x => { x with
    tokens := cutTokens (listMax lens) x.tokens, state := st, resident := false,
    before := (enumFrom 0 q.layers).map fun y => max y.2.length (q.before.getD y.1 0) }

/-- The record of an append is restored where restored journal entries hold all its positions, below the restored lengths
(R471). -/
def State.recordKept (s : State) (j : List JEntry) (r : AppendRec) : Bool :=
  match s.seq? r.seq with
  | none => false
  | some q => r.layers.all fun l => decide (r.first + r.count ≤ (q.layer l).length) &&
      (List.range r.count).all fun k => (jFind j r.seq l (r.first + k)).isSome

/-- The journal entries that go on being needed: of restored positions whose page is on no flash. -/
def State.entryKept (s : State) (e : JEntry) : Bool :=
  match s.seq? e.seq with
  | none => false
  | some q => decide (e.pos < (q.layer e.layer).length) && !((q.layer e.layer).entry? (e.pos / 256)).any s.blockKept

/-- A page without its HBM copy, and with nothing under way. A full tail frame waits for its seal. -/
def Page.cooled (p : Page) : Page :=
  { p with
    pins := 0, hbm := none, leaving := [], sealing := if p.img.tail ∧ p.img.fill = 256 then .queued false else .idle, job := .none
    recovering := false, awaiting := [], recentSel := [], lastSel := 0, openRec := [] }

/-- Old entries of one position give way to newer ones. -/
def firstOfEach : List JEntry → List JEntry → List JEntry
  | _, [] => []
  | seen, e :: l =>
    if (jFind seen e.seq e.layer e.pos).isSome then firstOfEach seen l else e :: firstOfEach (e :: seen) l

/-- A page that flash holds in full: an entry for each of its frames. -/
def State.onFlash (s : State) (p : Page) : Bool :=
  p.sealed? && s.isOwn p.handle && (List.range p.frames).all fun i => match s.mapEntry? (handleFrame p.handle + i) with
    | some e => e.gen.toNat == handleGen p.handle && e.index == i
    | none => false

/-- What the checkpoint, the delta log and the flushes give back takes the place of what the node held (R242, R244). A tier that was
never in service gives nothing. -/
def State.loadFlash (s : State) : State :=
  match s.flash.logged with
  | none => { s with store := { Store.reset with gens := s.store.gens } }
  | some base =>
    let p := (s.replayed.reverse.flatMap Flush.usedRecords).foldl Persist.apply base
    let s := s.loadMap p.map
    let pages := p.pages.map fun x => { x with flash := s.onFlash x }
    { s with store := { Store.reset with
        gens := s.store.gens, nss := p.nss, seqs := p.seqs, pages := pages, remoteRefs := p.remoteRefs } }

/-- The partition of a sequence keeps its key on the chip: nothing stored under it can be read after a reset (R397). -/
def State.keyOnChip (s : State) (h : Handle) : Bool := match s.ptn? (s.seqPtn h) with | some p => p.keyMode == 1 | none => false

/-- Sequences and pages at their restored lengths (R454, R471). -/
def State.restoreStore (s : State) : State :=
  let j := firstOfEach [] ((s.replayed.flatMap Flush.usedJournal).filter fun e => !s.keyOnChip e.seq)
  let lens := s.store.seqs.map fun q => (q, (List.range q.layers.length).map fun l => s.restoredLength j q l)
  let s := lens.foldl (fun s x => s.restoreSeq j x.1 x.2) s
  let kept := fun (p : Page) => s.isOwn p.handle && (p.flash || !(s.referrers p.handle).isEmpty)
  let recs := ((j.filterMap (·.record)).filter (s.recordKept j)).eraseDups
  let s : State := { s with store := { s.store with
      pages := (s.store.pages.filter kept).map Page.cooled
      journal := j.filter s.entryKept
      appendRecs := recs } }
  let f := s.flash
  { s with flash := { f with logged := f.logged.map fun _ => s.records, unwritten := [], unretired := [] } }

/-! ## What each reset keeps (R483) -/

/-- An `ONCHIP` partition gets a new storage key; what was stored under the old one is gone (R397). -/
def State.rekeyOnchip (n : Nat) (s : State) : State :=
  match s.ptn? n with
  | none => s
  | some p =>
    if p.keyMode ≠ 1 then s
    else
      let mine := s.store.pages.filter fun x => x.ptn == n && x.flash && s.isOwn x.handle
      let s := mine.foldl (fun s x => (s.freeFlash (handleFrame x.handle) x.frames).updPage x.handle fun y => { y with flash := false }) s
      let bare := fun (x : Ns) => if x.ptn = n then { x with current := none, retained := none } else x
      let s := { s with
        store := { s.store with nss := s.store.nss.map bare }
        rcl := { s.rcl with segments := s.rcl.segments.filter fun g => g.ptn != n }
        trust := { s.trust with nextKey := s.trust.nextKey + 1 } }
      s.updPtn n fun p => { p with keySerial := s.trust.nextKey - 1 }

/-- A stack after a reset: its row repairs and retired frames stay, its taint count until power goes (log 35). -/
def Stack.cooled (cold : Bool) (k : Stack) : Stack :=
  { Stack.reset with sparesUsed := k.sparesUsed, retired := k.retired, taints := if cold then 0 else k.taints }

def Chan.cooled (cold : Bool) (c : Chan) : Chan :=
  { c with state := .off, dies := 0, tempWarn := false, tempCrit := false, tempMax := if cold then c.temp else c.tempMax, queue := [], suspended := [] }

/-- A segment's open block, and what the control area kept of it, lay in HBM: it is rebuilt. Windows and passes are gone. -/
def State.cooledSegment (s : State) (g : Segment) : Segment :=
  let there := fun (b : IdxBlock) => match b.frame with | some f => (s.mapEntry? f).isSome | none => false
  { g with
    flushed := g.flushed.filter there, opened := [], window := [], passes := [], rebuilding := true, dropped := []
    degraded := g.degraded || g.flushed.any fun b => !there b }

/-- The tier off, with nothing in flight; its contents stay. -/
def Flash.cooled (cold : Bool) (f : Flash) : Flash :=
  { f with
    state := .off, chans := f.chans.map (Chan.cooled cold), copying := [], drafting := [], draftQueue := [], stalled := [], chanDrains := []
    dies := f.dies.map fun d => { d with gc := false }
    leaves := []
    blocks := f.blocks.map fun b => if b.use = .reclaiming then { b with use := .full } else b }

/-- The trust core before a boot: the reservation and measurements come with the boot. -/
def Trust.cooled (conf : Bool) (t : Trust) : Trust :=
  { t with
    jtagLock := t.jtagLock && conf, idxOk := false, idxLost := false, attReady := false, attSerial := 0, attLeft := 0
    attSuccessor := false, sessionKey := t.nextKey, nextKey := t.nextKey + 1
    fw := { t.fw with state := if t.fw.state = 0 then 0 else 1, groupsDone := 0, waiter := none } }

/-- An immediate reset of the package, or the loss of its rails: what stays, and what flash will restore. -/
def State.wipe (cold : Bool) (s : State) : State :=
  let s := (List.range 32).foldl (fun s n => s.rekeyOnchip n) s.stopFlush.loadFlash
  let s := s.restoreStore
  let s := if s.pow.parked then s.emit (.pin "PARKED" false) else s
  let p := s.pow
  let calm := fun (x : Option Ptn) => x.map fun y => { y with fenced := false, resetting := false }
  { s with
    pow := { Power.reset with
      resetN := p.resetN, pwrWarn := p.pwrWarn, thermtrip := p.thermtrip, railsOut := p.railsOut, incarn := p.incarn + 1,
      lastCause := p.lastCause, hours := p.hours }
    regs := [], log := if cold then ⟨[], 0⟩ else s.log, tel := ⟨[], none⟩, i3c := ⟨0, 0, false, []⟩, fingerprint := 0
    ptns := s.ptns.map calm, host := HostSide.reset, trust := s.trust.cooled s.confPresent
    hbm := { Hbm.reset with stk := s.hbm.stk.map (Stack.cooled cold) }
    flash := s.flash.cooled cold, staging := [], eng := Engines.reset, slots := ⟨[], [], s.slots.nextVer⟩
    rcl := ⟨s.rcl.segments.map s.cooledSegment, []⟩
    cmds := ⟨[], s.cmds.nextId, [], [], ⟨0, 0, [], []⟩⟩
    map := { MapState.reset with map := s.map.map, tokensSpent := if cold then 0 else s.map.tokensSpent }
    fab := ⟨[], List.replicate 48 Link.reset, [], 0, 0, false⟩ }

end Sys2Proof.Machine
end

