-- ==== Sys2Proof/Machine/Boot.lean ====
section
/-! DEFINITION. Boot, configuration image, resets, the end of a freewheel and the resume (16_power_clocks_reset.md R463 to
R492; 14_partitions_and_trust.md R411, R415 to R417; 18_package_and_electrical.md R524, R525). -/

namespace Sys2Proof.Machine

/-! ## Firmware images (R415, R416, R485) -/

def State.slot (s : State) (k : Nat) : FwSlot := if k = 0 then s.boot.slotA else s.boot.slotB

/-- The largest BODY_LEN, and the length of SIG. -/
def imageBodyMax : Nat := 67105916
def imageSigLen : Nat := 2820

/-- The digest and SVN of an image that is valid. -/
def imageOk (svnMin : Nat) (read : Nat → Nat → List Byte) : Option (Digest × Word32) :=
  let h := read 0 128
  let len := field h 12 4
  if field h 0 4 = 0x50465731 ∧ field h 4 1 = 1 ∧ field h 5 1 = 0xB0 ∧ zeros (slice h 6 2) ∧ zeros (slice h 100 28) ∧
     len ≤ imageBodyMax ∧ svnMin ≤ field h 8 4 then
    let img := read 0 (128 + len + imageSigLen)
    if Config.fwSigOk img then some (digest img, BitVec.ofNat 32 (field h 8 4)) else none
  else none

/-- What a slot holds, where it is valid. The vendor's image as delivered is signed. -/
def State.slotImage (s : State) (k : Nat) : Option (Digest × Word32) :=
  let x := s.slot k
  if x.factory then
    if s.trust.svnMin.toNat ≤ Config.factorySvn.toNat then some (Config.factoryDigest, Config.factorySvn) else none
  else imageOk s.trust.svnMin.toNat (Mem.readList x.bytes)

/-- The selector record in force, and whether SEL_A holds it. -/
def State.selector (s : State) : Option (Selector × Bool) :=
  match s.boot.selA, s.boot.selB with
  | some a, some b => if b.count ≤ a.count then some (a, true) else some (b, false)
  | some a, none => some (a, true)
  | none, some b => some (b, false)
  | none, none => none

/-- The slot that boots with its image, and whether it is not the active one. -/
def State.bootSlot (s : State) : Option (Nat × Digest × Word32 × Bool) :=
  let first := match s.selector with | some x => x.1.active | none => 0
  let second := 1 - first
  match s.slotImage first, s.slotImage second with
  | some i, _ => some (first, i.1, i.2, false)
  | none, some i => some (second, i.1, i.2, s.selector.isSome)
  | none, none => none

/-- A selector update: the sector that does not hold the record in force, COUNT one higher. -/
def State.setSelector (k : Nat) (s : State) : State :=
  match s.selector with
  | some (x, true) => { s with boot := { s.boot with selB := some ⟨x.count + 1, k⟩ } }
  | some (x, false) => { s with boot := { s.boot with selA := some ⟨x.count + 1, k⟩ } }
  | none => { s with boot := { s.boot with selA := some ⟨1, k⟩ } }

/-- The identity index at a boot of the firmware (R411). -/
def State.loadIndex (s : State) : State :=
  match newerRes s.boot.resA s.boot.resB with
  | some (r, _) => { s with trust := { s.trust with idxNext := r.next, idxLimit := r.next, idxOk := true } }
  | none => ({ s with trust := { s.trust with idxOk := false, idxLost := true } }).raise .secSts 10 ⟨9, 2, 2, 0xFF, 0, []⟩

/-- The boot ROM chooses, verifies and measures an image and starts the control cores; with none it stays in ROM recovery. -/
def State.startFirmware (phase : Phase) (s : State) : State :=
  match s.bootSlot with
  | none => s.setPow fun p => { p with phase := .romRecovery }
  | some (k, dig, svn, fallback) =>
    let s := { s with
      boot := { s.boot with active := k }
      trust := { s.trust with fwDigest := dig, svnRun := svn, romDigest := Config.romDigest } }
    let s := s.setPow fun p => { p with phase := phase }
    let s := if fallback then s.raise .pwrSts 8 Rec.event else s
    (s.note ⟨8, 9, 0, 0xFF, 0, powDetail 0 s.pow.lastCause 0⟩).loadIndex

/-! ## The configuration image (R486, R487) -/

def configSize : Nat := 4194288

/-- Bytes of the configuration region; beyond what is written it is blank. -/
def State.configRead (s : State) (off n : Nat) : List Byte :=
  let l := slice s.boot.config off n
  l ++ List.replicate (n - l.length) 0xFF

def State.configEntries (s : State) : List (Nat × Nat) :=
  (chunks 8 (s.configRead 16 (field (s.configRead 0 16) 4 4))).map fun e => (field e 0 4, field e 4 4)

/-- A register that an entry may name. -/
def Reg.configurable (r : Reg) : Bool := r.fields.any fun f => f.kept

/-- An entry judged against the values that the entries before it wrote: the state that holds them. -/
def State.tryEntry (s : State) (e : Nat × Nat) : Option State :=
  match Reg.at? e.1 with
  | none => none
  | some r =>
    if ¬ r.configurable then none
    else match s.judge r e.2 with
      | .ignored => none
      | .ok v => some (s.keep r v)
      | _ => some s

/-- The number of the first invalid entry. -/
def State.badEntry : Nat → List (Nat × Nat) → State → Option Nat
  | _, [], _ => none
  | n, e :: l, s => match s.tryEntry e with
    | none => some n
    | some t => State.badEntry (n + 1) l t

/-- Why the image is not applied, and the first invalid entry (R512). -/
def State.configFault (s : State) : Option (Nat × Nat) :=
  let h := s.configRead 0 16
  let len := field h 4 4
  if s.boot.config.all (· == 0xFF) then some (6, 0)
  else if field h 0 4 ≠ 0x50434631 then some (1, 0)
  else if len % 8 ≠ 0 ∨ configSize < len then some (2, 0)
  else if field h 8 4 ≠ (crc32c (slice h 0 4 ++ s.configRead 16 len)).toNat then some (3, 0)
  else if ¬ zeros (slice h 12 4) then some (4, 0)
  else (s.badEntry 0 s.configEntries).map fun n => (5, n)

def configDetail (entries reason entry : Nat) : List Byte := leBytes 4 entries ++ leBytes 1 reason ++ zeroBytes 3 ++ leBytes 4 entry

/-- The unit whose EN a register holds is still training or initialising. -/
def State.unitTrains (s : State) (o : Nat) : Bool :=
  match Reg.at? o with
  | some (.hptPortCtl n) => (s.port n).state == 1
  | some (.fabLinkCtl n) => (s.link n).state == .training
  | some (.memStkCtl n) => (s.stack n).state == .training
  | some (.flsCtl) => s.flash.state == .init || s.flash.state == .rebuild
  | some (.flsChCtl n) => (s.chan n).state == .training
  | _ => false

/-- The firmware is in service. Where nothing is to be restored, nothing has been lost. -/
def State.inService (s : State) : State :=
  let s := s.setPow fun p => { p with phase := .service, hbmSurvived := p.hbmSurvived || !(s.store.seqs.any fun q => q.state.unsettled) }
  s.refingerprint

/-- Applies entries in order; one that sets an EN is complete once its unit has trained. -/
def State.applyEntries : List (Nat × Word32) → State → State
  | [], s =>
    let n := s.configEntries.length
    ((s.setPow fun p => { p with cfgApplied := true, cfgPending := [], cfgAwait := none }).note
      ⟨10, 1, 0, 0xFF, 0, configDetail n 0 0⟩).inService
  | e :: l, s =>
    let t := s.regArrives .image e.1 e.2.toNat
    if t.unitTrains e.1 then t.setPow fun p => { p with cfgPending := l, cfgAwait := some e.1 } else State.applyEntries l t

/-- A unit may have trained: the next entries follow. -/
def State.continueConfig (s : State) : State :=
  match s.pow.phase, s.pow.cfgAwait with
  | .applying, some o => if s.unitTrains o then s else s.applyEntries s.pow.cfgPending
  | _, _ => s

/-- The firmware reads the configuration image. -/
def State.configure (s : State) : State :=
  if s.pow.phase ≠ .applying then s
  else match s.configFault with
    | some (reason, entry) =>
      let n := if reason = 5 then s.configEntries.length else 0
      let s := s.setPow fun p => { p with cfgDefaulted := true }
      let s := { s with trust := { s.trust with cfgDigest := Config.defaultsDigest } }
      (s.note ⟨10, 2, 0, 0xFF, 0, configDetail n reason entry⟩).inService
    | none =>
      let len := field (s.configRead 0 16) 4 4
      let s := { s with trust := { s.trust with cfgDigest := digest (s.configRead 0 (16 + len)) } }
      s.applyEntries (s.configEntries.map fun e => (e.1, BitVec.ofNat 32 e.2))

/-- The start of R489 with RESET_N high: root PLL, boot ROM, firmware, configuration. -/
def State.start (s : State) : State :=
  ((s.setPow fun p => { p with rootLock := true }).startFirmware .applying).configure

/-! ## Package resets (R464, R476, R480, R481, R524, R525) -/

/-- An immediate reset of the package with its cause; RESET_N is as it is. -/
def State.packageReset (cause : Nat) (s : State) : State := (s.wipe false).setPow fun p => { p with lastCause := cause }

def State.resetLow (s : State) : State :=
  if s.pow.state = .off ∨ ¬ s.pow.resetN then s else (s.packageReset 1).setPow fun p => { p with resetN := false }

/-- RESET_N rises. While a sensor reads 100 °C or more after a trip the node stays in reset. -/
def State.resetRise (hottest : Int) (s : State) : State :=
  if s.pow.state = .off ∨ s.pow.resetN then s
  else if s.pow.thermtrip ∧ 100 ≤ hottest then s.setPow fun p => { p with resetN := true, phase := .tripped }
  else
    let s := if s.pow.thermtrip then s.emit (.pin "THERMTRIP_N" true) else s
    (s.setPow fun p => { p with resetN := true, thermtrip := false }).start

/-- The clocks of both dies run: the boot ROM or the firmware does. -/
def Phase.clocked : Phase → Bool
  | .held | .tripped => false
  | _ => true

def State.rootLoss (s : State) : State := if Phase.clocked s.pow.phase ∧ s.pow.state ≠ .off then (s.packageReset 3).start else s

/-- THERMTRIP: no clock runs, lasers are dark. -/
def State.trip (s : State) : State :=
  if s.pow.thermtrip ∨ s.pow.state = .off then s
  else
    let s := s.wipe false
    (s.setPow fun p => { p with phase := .tripped, thermtrip := true }).emit (.pin "THERMTRIP_N" false)

/-- Every supply falls. -/
def State.railsFall (s : State) : State :=
  if s.pow.state = .off then s else (s.wipe true).setPow fun p => { p with state := .off, resetN := false, incarn := s.pow.incarn }

/-- The rails rise from `OFF`, with RESET_N low. -/
def State.powerOn (s : State) : State :=
  if s.pow.state ≠ .off then s
  else
    let s := if s.pow.thermtrip then s.emit (.pin "THERMTRIP_N" true) else s
    s.setPow fun p => { p with state := .ride, phase := .held, thermtrip := false, railsOut := [], lastCause := 0, incarn := p.incarn + 1 }

/-! ## The end of a freewheel and the resume (R468, R472, R481, R492) -/

/-- Enabled links light and train. -/
def State.relight (s : State) : State :=
  if s.nodeValid then
    (List.range 48).foldl (fun s n => if s.linkOn n ∧ (s.link n).state = .off then s.startTraining n else s) s
  else s

/-- In `PARK` after a freewheel with nothing against it: the package reset that was asked for, or the resume. -/
def State.tryResume (s : State) : State :=
  if s.pow.state = .park ∧ s.pow.freewheel.isSome ∧ ¬ s.pow.resuming ∧ s.mayResume then
    if s.pow.resetAfter then (s.packageReset 2).start
    else (s.setPow fun p => { p with resuming := true }).wakeStacks.relight
  else s

/-- FREEWHEEL_FLUSH_COMPLETE: every frame is programmed, or there was nowhere to write; then `PARK`, or the package reset of an
orderly one. -/
def State.flushComplete (s : State) : State :=
  if s.pow.state ≠ .freewheel then s
  else
    let s := if s.flushes? then
        let s := s.putFlush true
        let s := { s with flash := { s.flash with health := { s.flash.health with writes := s.flash.health.writes + 1 } } }
        s.powRaise 1 2 1 (powDetail 0 0 0)
      else s
    if s.pow.resetAfter ∧ s.mayResume then ((s.setPow fun p => { p with state := .ride }).packageReset 2).start
    else s.enterPark.tryResume

def State.warnOver (s : State) : State := (s.setPow fun p => { p with pwrWarn := false }).tryResume

def State.supplyBack (rail : Nat) (s : State) : State := (s.setPow fun p => { p with railsOut := delAll rail p.railsOut }).tryResume

def State.thermalOver (s : State) : State := (s.setPow fun p => { p with thermalHold := false }).tryResume

/-- RESUME_COMPLETE: back in `RIDE`, and commands are taken again (R472). -/
def State.resumed (s : State) : State :=
  if ¬ s.pow.resuming then s
  else
    let s := s.setPow fun p => { p with state := .ride, parked := false, freewheel := none, resuming := false }
    let s := s.emit (.pin "PARKED" false)
    ((s.powRaise 2 3 1 (powDetail 0 0 0)).count 8 nodeScope 4).nextDrain

/-- What REQ says by now, once the node is back in `RIDE` (R472). -/
def State.reqAgain (s : State) : State :=
  if s.reqField = 1 then s.rideRequest true else if s.reqField = 2 then s.parkRequest else s

/-- FW_RESTART_COMPLETE. -/
def State.fwRestarted (s : State) : State :=
  if s.pow.phase ≠ .fwRestart then s
  else
    let s := s.startFirmware .service
    if s.pow.phase = .service then s.refingerprint else s

/-- The readings of THERMAL_SENSOR_READ. -/
def State.thermalRead (t : Temps) (s : State) : State :=
  if s.pow.state = .off ∨ s.pow.phase = .held then s
  else if 125 ≤ t.junction then s.trip
  else s.thermalCheck t

/-! ## The flash tier and its channels (R233, R242) -/

/-- FLASH_TIER_ENABLE: EN is set; once no channel trains the map is loaded, or the rebuild begins. -/
def State.tierEnable (path : Path) (anchorOk : Bool) (s : State) : State :=
  let s := if s.rf .flsCtl 0 1 = 0 then s.writeField path .flsCtl 0 1 1 else s
  if s.flash.state ≠ .init ∨ s.flash.chans.any (fun c => c.state == .training) then s
  else if anchorOk then s.tierServes
  else { s with flash := { s.flash with state := .rebuild } }

/-- CHANNEL_ENABLE: EN is set, the channel trains, and its dies' parameter pages are read. -/
def State.chanEnable (path : Path) (chan dies : Nat) (bad : Option Nat) (s : State) : State :=
  let s := if s.rf (.flsChCtl chan) 0 1 = 0 then s.writeField path (.flsChCtl chan) 0 1 1 else s
  s.chanTrained chan dies bad

/-! ## The commands -/

def execPwrWarnDeassert (s : State) : Host.Outcome State Fault Refusal := .next s.warnOver
def execFreewheelFlushComplete (s : State) : Host.Outcome State Fault Refusal := .next s.flushComplete
def execSupplyReturn (rail : Fin 13) (s : State) : Host.Outcome State Fault Refusal := .next (s.supplyBack rail)
def execThermalSensorRead (t : Temps) (s : State) : Host.Outcome State Fault Refusal := .next (s.thermalRead t)
def execThermalResume (s : State) : Host.Outcome State Fault Refusal := .next s.thermalOver
def execResetN (s : State) : Host.Outcome State Fault Refusal := .next s.resetLow
def execResetNRelease (hottest : Int) (s : State) : Host.Outcome State Fault Refusal := .next (s.resetRise hottest)
def execRootPllLoss (s : State) : Host.Outcome State Fault Refusal := .next s.rootLoss
def execColdPowerOn (s : State) : Host.Outcome State Fault Refusal := .next s.powerOn
def execRailsDown (s : State) : Host.Outcome State Fault Refusal := .next s.railsFall
def execChannelEnable (path : Path) (chan : Fin 32) (dies : Nat) (badDie : Option Nat) (s : State) :
    Host.Outcome State Fault Refusal := .next (s.chanEnable path chan dies badDie).continueConfig
def execStackInitDone (stack : Fin 8) (ok : Bool) (s : State) : Host.Outcome State Fault Refusal :=
  .next (s.stackInit stack ok).continueConfig
def execTrainFrame (link : Fin 48) (t : TrainInfo) (s : State) : Host.Outcome State Fault Refusal :=
  .next (s.gotTrain link t).continueConfig
def execSpareLockTimeout (link : Fin 48) (s : State) : Host.Outcome State Fault Refusal := .next (s.spareTimeout link).continueConfig
def execHostLinkChange (port : Fin 4) (up : Bool) (s : State) : Host.Outcome State Fault Refusal :=
  .next (s.hostLink port up).continueConfig

end Sys2Proof.Machine
end

