-- ==== Sys2Proof/Machine/Mgmt.lean ====
section
/-! DEFINITION. Firmware and management commands (11_command_reference.md R327, R330; 16_power_clocks_reset.md R490) and the
I3C messages (17_configuration_space.md R494 to R500, R507 to R511). -/

namespace Sys2Proof.Machine

def mgmtDef (seven : Cmd → State → Option Status) (mx : Cmd → State → Nat) (run : Cmd → State → Res) : OpDef :=
  ⟨fun _ => .nothing, noSix, seven, mx, run, emptyDup⟩

/-- A request without payload. -/
def bareSeven (c : Cmd) (_ : State) : Option Status := if c.data = [] then none else some .badParam

/-! ## Firmware update (R327, R484, R490) -/

def slotSize : Nat := 67108864

/-- The slot that is not active. -/
def State.otherSlot (s : State) : Nat := 1 - s.boot.active

def State.updSlot (k : Nat) (f : FwSlot → FwSlot) (s : State) : State :=
  if k = 0 then { s with boot := { s.boot with slotA := f s.boot.slotA } } else { s with boot := { s.boot with slotB := f s.boot.slotB } }

def State.setFw (f : FwUpdate → FwUpdate) (s : State) : State := { s with trust := { s.trust with fw := f s.trust.fw } }

/-- Bytes written into a slot; the vendor's image does not survive the first of them (log 14). -/
def FwSlot.put (off : Nat) (data : List Byte) (x : FwSlot) : FwSlot :=
  ⟨false, Mem.writeList (if x.factory then [] else x.bytes) off data⟩

def fwStageSeven (c : Cmd) (_ : State) : Option Status :=
  let n := field c.data 4 4
  if c.data.length < 16 ∨ n = 0 ∨ 16777216 < n ∨ c.data.length ≠ 16 + n ∨ slotSize < field c.data 0 4 + n ∨
     ¬ zeros (slice c.data 8 8) then some .badParam
  else none

def fwStageRun (c : Cmd) (s : State) : Res :=
  if s.trust.fw.state = 3 then .no .busyRetry
  else .ok [] ((s.updSlot s.otherSlot (FwSlot.put (field c.data 0 4) (c.data.drop 16))).setFw fun f => { f with state := 1 })

def fwStageDef : OpDef := mgmtDef fwStageSeven noReply fwStageRun

def fwCheckSeven (c : Cmd) (_ : State) : Option Status :=
  if c.data.length ≠ 40 ∨ ¬ zeros (slice c.data 4 4) ∨ slotSize < field c.data 0 4 then some .badParam else none

/-- The digest of a slot's first bytes. -/
def State.slotDigest (s : State) (k n : Nat) : Digest :=
  if (s.slot k).factory then Config.factoryDigest else digest (Mem.readList (s.slot k).bytes 0 n)

/-- A check during activation waits as a stage does (DEDUCED, log 32). -/
def fwCheckRun (c : Cmd) (s : State) : Res :=
  let n := field c.data 0 4
  let want : Digest := BitVec.ofNat 256 (field c.data 8 32)
  if s.trust.fw.state = 3 then .no .busyRetry
  else if s.slotDigest s.otherSlot n ≠ want then .no .conflict
  else match s.slotImage s.otherSlot with
    | none => .no .denied
    | some i => .ok [] (s.setFw fun f => { f with state := 2, staged := want, stagedSvn := i.2, stagedLen := n })

def fwCheckDef : OpDef := mgmtDef fwCheckSeven noReply fwCheckRun

def State.runningBytes (s : State) : List Byte := digestBytes s.trust.fwDigest

def fwActivateSeven (c : Cmd) (s : State) : Option Status :=
  if c.data.length ≠ 8 ∨ ¬ zeros c.data ∨ s.trust.fw.state ≠ 2 then some .badParam else none

def fwActivateRun (_ : Cmd) (s : State) : Res :=
  .wait .fwActivate [] (s.setFw fun f => { f with state := 3, groupsDone := 0, waiter := some s.cmds.nextId })

def fwActivateDef : OpDef :=
  ⟨fun _ => .nothing, noSix, fwActivateSeven, fun _ _ => 32, fwActivateRun, fun _ s => .done .okDuplicate s.runningBytes s⟩

def fwAbortRun (_ : Cmd) (s : State) : Res :=
  if s.trust.fw.state = 3 then .no .busyRetry else .ok [] (s.setFw fun f => { f with state := 0 })

def fwAbortDef : OpDef := mgmtDef bareSeven noReply fwAbortRun

def fwDescribeRun (_ : Cmd) (s : State) : Res :=
  let f := s.trust.fw
  .ok (leBytes 1 f.state ++ zeroBytes 3 ++ leBytes 4 s.trust.svnRun.toNat ++ s.runningBytes ++
    (if 2 ≤ f.state then digestBytes f.staged else zeroBytes 32)) s

def fwDescribeDef : OpDef := mgmtDef bareSeven (fun _ _ => 72) fwDescribeRun

/-- The `FW_ACTIVATE` that waits ends. -/
def State.endActivate (st : Status) (payload : List Byte) (s : State) : State :=
  match s.trust.fw.waiter.bind s.inflight? with
  | some i => (s.complete i st none 0 payload).setFw fun f => { f with waiter := none }
  | none => s.setFw fun f => { f with waiter := none }

/-- CORE_GROUP_READY: a core group runs the new image, or failed to start. After the sixth the selector names the new slot:
the activation point. -/
def State.coreGroup (ok : Bool) (s : State) : State :=
  let f := s.trust.fw
  if f.state ≠ 3 ∨ s.pow.phase ≠ .service ∨ s.pow.state ≠ .ride then s
  else if ¬ ok then (s.setFw fun f => { f with state := 2, groupsDone := 0 }).endActivate .internal []
  else if f.groupsDone < 5 then s.setFw fun f => { f with groupsDone := f.groupsDone + 1 }
  else
    let k := s.otherSlot
    let s := s.setSelector k
    let s := { s with
      boot := { s.boot with active := k }
      trust := { s.trust with fwDigest := f.staged, svnRun := f.stagedSvn, fw := { f with state := 0, groupsDone := 0 } } }
    s.endActivate .ok s.runningBytes

/-! ## `NODE_DESCRIBE`, `HEALTH_READ`, `STACK_STATE` (R330, R252) -/

def nodeDescribeRun (_ : Cmd) (s : State) : Res :=
  .ok (leBytes 2 s.self.toNat ++ [0xB0] ++ leBytes 1 (PState.code s) ++ leBytes 4 s.epoch ++ leBytes 8 s.fingerprint.toNat ++
    leBytes 2 s.map.score ++ leBytes 1 s.map.role ++ leBytes 1 (b2n s.pow.cfgDefaulted + 2 * b2n s.confPresent) ++
    leBytes 8 s.pow.tsc.toNat ++ zeroBytes 4 ++ s.runningBytes) s

def nodeDescribeDef : OpDef := mgmtDef bareSeven (fun _ _ => 64) nodeDescribeRun

def healthReadDef : OpDef := mgmtDef bareSeven (fun _ s => s.healthLog.length) fun _ s => .ok s.healthLog s

/-- Page frames that a stack can give now, in its protected and its open region. -/
def State.stackFree (s : State) (n : Nat) : Nat :=
  if s.serving n then s.protFree n + (s.openFrames n - s.usedIn fun l => l.stack == n && l.pch.isSome) else 0

def State.stackRecord (s : State) (n : Nat) : List Byte :=
  let k := s.stack n
  leBytes 1 n ++ leBytes 1 (StackState.code k.state) ++ leBytes 1 (s.rf (.memStkSts n) 0 7) ++ zeroBytes 1 ++ leBytes 4 (s.stackFree n) ++
  leBytes 1 k.openGib ++ zeroBytes 3 ++ leBytes 4 k.taints

def stackStateDef : OpDef := mgmtDef bareSeven (fun _ _ => 128) fun _ s => .ok ((List.range 8).flatMap s.stackRecord) s

/-! ## Registers (R330, R494 to R496) -/

def regReadSeven (c : Cmd) (_ : State) : Option Status :=
  let off := field c.data 0 4
  let n := field c.data 4 2
  if c.data.length ≠ 8 ∨ off % 4 ≠ 0 ∨ 2 ^ 24 ≤ off ∨ n = 0 ∨ 256 < n ∨ ¬ zeros (c.data.drop 6) then some .badParam else none

def regReadRun (c : Cmd) (s : State) : Res :=
  .ok ((List.range (field c.data 4 2)).flatMap fun i => leBytes 4 (s.readOffset (field c.data 0 4 + 4 * i)).toNat) s

def regReadDef : OpDef := mgmtDef regReadSeven (fun c _ => 4 * field c.data 4 2) regReadRun

/-- The path of a command's source. -/
def Src.path : Sys2Proof.Src → Sys2Proof.Path
  | .host _ _ => .host | .mgmt _ => .mport | .i3c => .i3c

/-- A write of RESTORE, whose effect depends on whether the original lanes lock (R369). -/
def restores (o v : Nat) : Bool := match Reg.at? o with | some (.fabLinkCtl _) => bit v 2 | _ => false

/-- One write that comes as a plain register write. -/
def State.plainWrite (path : Path) (o v : Nat) (s : State) : WriteEnd × State :=
  if restores o v then s.drawn.writeReg path o v (Config.laneLocks s.freeCtr) else s.writeReg path o v

def regWriteSeven (c : Cmd) (_ : State) : Option Status :=
  let n := field c.data 0 2
  if c.data.length < 8 ∨ n = 0 ∨ 256 < n ∨ ¬ zeros (slice c.data 2 6) ∨ c.data.length ≠ 8 + 8 * n then some .badParam else none

/-- The pairs in order: how many applied, and the first that was ignored or refused. -/
def State.writePairs (path : Path) : List (Nat × Nat × Nat) → Nat → Nat → State → Nat × Nat × State
  | [], a, f, s => (a, f, s)
  | (i, o, v) :: l, a, f, s =>
    let x := s.plainWrite path o v
    match x.1 with
    | .applied => State.writePairs path l (a + 1) f x.2
    | .nothing => State.writePairs path l a f x.2
    | .ignored => State.writePairs path l a (if f = 0xFFFF then i else f) x.2

def regWriteRun (c : Cmd) (s : State) : Res :=
  let pairs := (enumFrom 0 (chunks 8 (c.data.drop 8))).map fun x => (x.1, field x.2 0 4, field x.2 4 4)
  let r := s.writePairs (Src.path c.pkt.src) pairs 0 0xFFFF
  .ok (leBytes 4 r.1 ++ leBytes 2 r.2.1 ++ zeroBytes 2) r.2.2

def regWriteDef : OpDef := mgmtDef regWriteSeven (fun _ _ => 8) regWriteRun

/-! ## `TEL_READ` (R507 to R509) -/

/-- The own partition with DATA; any other, or the node, with NODE_ADMIN; over I3C the node alone (R294, R330, R499). -/
def telReadSeven (c : Cmd) (s : State) : Option Status :=
  let g := field c.data 0 2
  let n := field c.data 4 2
  let ptn := field c.data 6 1
  if c.data.length ≠ 8 ∨ ¬ zeros (c.data.drop 7) ∨ n = 0 ∨ 4096 < n ∨ (32 ≤ ptn ∧ ptn ≠ 0xFF) then some .badParam
  else match telGroupSize g with
    | none => some .badParam
    | some size =>
      if size < field c.data 2 2 + n ∨ (3 ≤ g ∧ g ≠ 7 ∧ ptn ≠ 0xFF) ∨ (g = 7 ∧ ptn = 0xFF) then some .badParam
      else if c.pkt.src = .i3c then (if ptn = 0xFF then none else some .denied)
      else if s.mayDescribe c ptn then none else some .denied

def telReadRun (c : Cmd) (s : State) : Res :=
  .ok ((List.range (field c.data 4 2)).flatMap fun i => leBytes 8 (s.readCounter (field c.data 0 2) (field c.data 6 1) (field c.data 2 2 + i))) s

def telReadDef : OpDef := mgmtDef telReadSeven (fun c _ => 8 * field c.data 4 2) telReadRun

/-! ## `LOG_READ` (R330, R510, R511) -/

def LogRec.bytes (r : LogRec) : List Byte :=
  leBytes 8 r.seqno ++ leBytes 8 r.tsc.toNat ++ leBytes 1 r.cls ++ leBytes 1 r.severity ++ leBytes 2 r.code ++ leBytes 1 r.ptn ++
  leBytes 1 (b2n r.zeroed) ++ leBytes 2 r.unit ++ leBytes 4 r.reg ++ leBytes 4 r.bit.toNat ++ fitBytes 32 r.detail

/-- The records above `after` of the classes asked for, at most `mx`. -/
def State.logFrom (s : State) (after mx : Nat) (classes : Word32) : List LogRec :=
  (s.log.records.filter fun r => decide (after < r.seqno) && classes.getLsbD r.cls).take mx

def logBytes (l : List LogRec) : List Byte := leBytes 4 l.length ++ zeroBytes 4 ++ l.flatMap LogRec.bytes

def logReadSeven (c : Cmd) (_ : State) : Option Status :=
  let n := field c.data 8 2
  if c.data.length ≠ 16 ∨ n = 0 ∨ 1024 < n ∨ 60000 < field c.data 10 2 then some .badParam else none

def logReadRun (c : Cmd) (s : State) : Res :=
  let after := field c.data 0 8
  let n := field c.data 8 2
  let classes : Word32 := BitVec.ofNat 32 (field c.data 12 4)
  let l := s.logFrom after n classes
  if l = [] ∧ field c.data 10 2 ≠ 0 then .wait (.log after n classes) [] s else .ok (logBytes l) s

def logReadDef : OpDef := mgmtDef logReadSeven (fun c _ => 8 + 64 * field c.data 8 2) logReadRun

/-- LOG_READ_WAKE and LOG_READ_WAIT_EXPIRY. -/
def State.logEnds (expired : Bool) (id : Nat) (s : State) : State :=
  match s.inflight? id with
  | none => s
  | some i => match i.wait with
    | .log after n classes =>
      let l := s.logFrom after n classes
      if l = [] ∧ ¬ expired then s else s.complete i .ok none 0 (logBytes l)
    | _ => s

/-! ## I3C (R497, R498, R500) -/

/-- The node answers on I3C: from the moment the boot ROM runs, while its rails are up. -/
def State.i3cUp (s : State) : Bool := Phase.clocked s.pow.phase && s.pow.state != .off

def State.setI3c (f : I3c → I3c) (s : State) : State := if s.i3cUp then { s with i3c := f s.i3c } else s

/-- An answer on I3C. -/
def State.i3cSay (l : List Byte) (s : State) : State := if s.i3cUp then s.emit (.i3cResponse l) else s

def Phase.code : Phase → Nat
  | .held | .tripped | .bootRom => 0
  | .romRecovery => 1 | .applying => 2 | .service => 3 | .fwRestart => 4

def statusBytes (st : Status) : List Byte := leBytes 2 st.code ++ zeroBytes 2

/-- KIND 1: a write at offset 0 erases the slot first. -/
def State.slotWrite (k off : Nat) (data : List Byte) (s : State) : State :=
  if s.pow.phase ≠ .romRecovery then s.i3cSay (statusBytes .denied)
  else if data = [] ∨ 1024 < data.length ∨ slotSize < off + data.length then s.i3cSay (statusBytes .badParam)
  else
    let put := fun (x : FwSlot) => FwSlot.put off data (if off = 0 then ⟨false, []⟩ else x)
    (s.updSlot k put).i3cSay (statusBytes .ok)

/-- KIND 2. -/
def State.slotCheck (k : Nat) (s : State) : State :=
  if s.pow.phase ≠ .romRecovery then s.i3cSay (statusBytes .denied)
  else s.i3cSay (statusBytes (if (s.slotImage k).isSome then .ok else .denied))

/-- KIND 3. -/
def State.bootStatus (s : State) : State :=
  s.i3cSay (leBytes 1 (Phase.code s.pow.phase) ++ leBytes 1 s.pow.lastCause ++
    leBytes 1 (b2n s.pow.cfgDefaulted + 2 * s.rf .pwrSts 8 1 + 4 * b2n s.trust.idxOk) ++ zeroBytes 1)

/-! ## The commands -/

def execEntdaa (addr : BitVec 7) (s : State) : Host.Outcome State Fault Refusal := .next (s.setI3c fun x => { x with dynAddr := addr })
/-- The node takes the endpoint ID and confirms it (log 31). -/
def execSetEndpointId (eid : Byte) (s : State) : Host.Outcome State Fault Refusal :=
  .next ((s.setI3c fun x => { x with eid := eid }).i3cSay [eid])
def execGetEndpointId (s : State) : Host.Outcome State Fault Refusal := .next (s.i3cSay [s.i3c.eid])
/-- The versions, types and identifier are those of DSP0236 and of the node's vendor (log 31). -/
def execGetMctpVersionSupport (s : State) : Host.Outcome State Fault Refusal := .next (s.i3cSay Config.mctpVersions)
def execGetMessageTypeSupport (s : State) : Host.Outcome State Fault Refusal := .next (s.i3cSay [0x7F])
def execGetVendorDefinedSupport (s : State) : Host.Outcome State Fault Refusal := .next (s.i3cSay (fitBytes 4 Config.vendorId))
def execI3cSlotWrite (slot : Fin 2) (offset : Nat) (data : List Byte) (s : State) : Host.Outcome State Fault Refusal :=
  .next (s.slotWrite slot offset data)
def execI3cSlotCheck (slot : Fin 2) (s : State) : Host.Outcome State Fault Refusal := .next (s.slotCheck slot)
def execI3cBootStatus (s : State) : Host.Outcome State Fault Refusal := .next s.bootStatus

end Sys2Proof.Machine
end

