-- ==== Sys2Proof/Machine/Service.lean ====
section
/-! DEFINITION. One definition per opcode, commands that go on after a wait (10_ndox_protocol.md R263, R272, R277, R280, R281;
01_fabric_and_engines.md R17, R18; 15_resilience.md R446, R448), ordered messages (13_chainline_fabric.md R374) and session
records (14_partitions_and_trust.md R423). -/

namespace Sys2Proof.Machine

/-- The definition of an opcode. -/
def opDef : Op → OpDef
  | .ctxCreate => ctxCreateDef | .ctxDestroy => ctxDestroyDef | .queueCreate => queueCreateDef | .queueDestroy => queueDestroyDef
  | .nsCreate => nsCreateDef | .nsModify => nsModifyDef | .nsDelete => nsDeleteDef
  | .seqCreate => seqCreateDef | .seqDelete => seqDeleteDef | .fork => forkDef | .truncate => truncateDef | .seqTag => seqTagDef
  | .seqDescribe => seqDescribeDef | .append => appendDef | .appendBulk => appendBulkDef | .pageList => pageListDef
  | .attend => attendDef | .attendBatch => attendBatchDef | .gradAttend => gradAttendDef | .gradRead => gradReadDef
  | .gradClear => gradClearDef | .recall => recallDef false | .recallAttend => recallDef true
  | .patInvalidate => patInvalidateDef | .patWrite => patWriteDef | .patValidate => patValidateDef | .patUnload => patUnloadDef
  | .patDescribe => patDescribeDef | .progLoad => progLoadDef | .progUnload => progUnloadDef | .progDescribe => progDescribeDef
  | .modelInstall => modelInstallDef | .modelDescribe => modelDescribeDef | .windowRekey => rekeyDef
  | .windowDescribe => windowDescribeDef | .trigPost => trigPostDef | .trigCancel => trigCancelDef | .trigDescribe => trigDescribeDef
  | .mapPush => mapPushDef | .mapDescribe => mapDescribeDef
  | .ptnCreate => ptnCreateDef | .ptnModify => ptnModifyDef | .ptnReset => ptnResetDef | .ptnDestroy => ptnDestroyDef
  | .ptnDescribe => ptnDescribeDef
  | .fwStage => fwStageDef | .fwCheck => fwCheckDef | .fwActivate => fwActivateDef | .fwAbort => fwAbortDef
  | .fwDescribe => fwDescribeDef | .attest => attestDef | .certRead => certReadDef | .keyInstall => keyInstallDef
  | .keyRevoke => keyRevokeDef | .nodeDescribe => nodeDescribeDef | .regRead => regReadDef | .regWrite => regWriteDef
  | .logRead => logReadDef | .telRead => telReadDef | .healthRead => healthReadDef | .stackState => stackStateDef

/-! ## Commands that were held before their admission -/

/-- A held command, or batch entry, goes through step 5 again. -/
def State.restart (i : Inflight) (s : State) : State :=
  match i.wait with
  | .batchEntry parent k _ => (s.dropInflight i.id).entryStart parent k i.cmd []
  | _ => (s.dropInflight i.id).fiveToNine (opDef i.op) i.cmd

/-- The commands whose sequence has arrived, has been settled or restored, or is known to be absent (R448, R451, R454, R489). -/
def State.releaseHeld (s : State) : State :=
  s.cmds.list.foldl (fun s i => match i.wait.inner with
    | .transfer h => if s.unready h then s else s.restart i
    | _ => s) s

/-- EPOCH_HOLD_RELEASE: the node holds a map of the command's epoch, or a newer one. -/
def State.epochCame (id : Nat) (s : State) : State :=
  match s.inflight? id with
  | some i => if i.wait.inner = .epoch ∧ i.pkt.epoch.toNat ≤ s.epoch then s.restart i else s
  | none => s

/-- DESCRIPTOR_INSTALL: the descriptor is in the cache, and what waited for it goes on at step 6 (R17). -/
def State.descriptorHere (h : Handle) (s : State) : State :=
  let s := s.install h
  s.cmds.list.foldl (fun s i =>
    if i.wait.inner = .descriptor h then
      match i.wait with
      | .batchEntry parent k _ => (s.dropInflight i.id).entryRun parent k i.cmd []
      | _ => (s.dropInflight i.id).sixToNine (opDef i.op) i.cmd
    else s) s

/-- DUPLICATE_HELD_RELEASE: the original has finished. With its record the duplicate ends as any duplicate; else as the
original did. -/
def State.duplicateEnds (id : Nat) (s : State) : State :=
  match s.inflight? id with
  | none => s
  | some i => match i.wait with
    | .dup (some (code, payload)) =>
      let d := opDef i.op
      match (s.sixRecorded d i.cmd).orElse fun _ => d.six i.cmd s with
      | some r => s.resettle i r
      | none => s.complete i (Status.ofCode code) none 0 payload
    | _ => s

/-! ## Queues that were not taken -/

/-- The least number of a list above `last`, or the least of all. -/
def nextInTurn (l : List Nat) (last : Nat) : Nat :=
  ((minNat? (l.filter fun n => decide (last < n))).orElse fun _ => minNat? l).getD 0

/-- The queues whose next command the node can take. -/
def State.takable (s : State) : List Queue :=
  s.host.queues.filter fun q => match q.backlog with
    | [] => false
    | (op, _) :: _ => !q.err && s.takes op q

/-- The queue whose turn it is (R275): partitions by deficit round robin, a command at the cost of 1 and a partition's quantum its
engine share in per mille (DESIGN CHOICE, log 66), within a partition contexts in turn, within a context queues in turn. -/
def State.nextQueue (s : State) : Option (Queue × Turns) :=
  let qs := s.takable
  let t := s.cmds.turns
  let stays : Bool := decide (0 < t.left) && qs.any fun q => q.ptn == t.ptn
  let p := if stays then t.ptn else nextInTurn (qs.map (·.ptn)) t.ptn
  let left := if stays then t.left else max 1 (((s.ptn? p).map (·.enginePm)).getD 0)
  let mine := qs.filter fun q => q.ptn == p
  let c := nextInTurn (mine.map (·.ctx)) ((assoc p t.ctxs).getD 0)
  let here := mine.filter fun q => q.ctx == c
  let n := nextInTurn (here.map (·.num)) ((assoc c t.queues).getD 0)
  (here.find? fun q => q.num == n).map fun q => (q, ⟨p, left - 1, assocSet p c t.ctxs, assocSet c n t.queues⟩)

/-- Takes waiting commands as long as the node can (R18, R263, R272, R275, R280). -/
def State.drainQueues : Nat → State → State
  | 0, s => s
  | k + 1, s =>
    match s.nextQueue with
    | none => s
    | some (q, t) => match q.backlog with
      | [] => s
      | (op, p) :: l =>
        let s : State := { s with cmds := { s.cmds with turns := t } }
        State.drainQueues k ((s.updQueue q.qpn fun x => { x with backlog := l }).takeIn op (opDef op) p)

/-- Takes waiting commands of a session while fewer than 16 are outstanding (R354). -/
def State.drainSession (n : Nat) : Nat → State → State
  | 0, s => s
  | k + 1, s =>
    match s.session? n with
    | none => s
    | some x => match x.backlog with
      | [] => s
      | (op, p) :: l =>
        if s.takesSession x then
          State.drainSession n k ((s.updSession n fun y => { y with backlog := l, outstanding := y.outstanding + 1 }).takeIn op (opDef op) p)
        else s

/-- Takes waiting I3C commands one at a time (R498). -/
def State.drainI3c : Nat → State → State
  | 0, s => s
  | k + 1, s =>
    match s.i3c.backlog with
    | [] => s
    | (op, p) :: l =>
      if s.i3cBusy ∨ s.pow.phase ≠ .service then s
      else State.drainI3c k (({ s with i3c := { s.i3c with backlog := l } } : State).takeIn op (opDef op) p)

/-- What waited goes on as far as it can. -/
def State.resume (s : State) : State :=
  let s := s.releaseHeld
  let s := s.drainQueues (sumNat (s.host.queues.map fun q => q.backlog.length))
  let s := s.host.sessions.foldl (fun s x => s.drainSession x.num x.backlog.length) s
  (s.drainI3c s.i3c.backlog.length).progress.schedule

/-- A newer consumed count: replies that waited are written, then commands are taken (R272). -/
def State.ringFreed (qpn consumed : Nat) (s : State) : State := (s.ringSpace qpn consumed).resume

/-- Record space of a partition has come free: commands that waited for it are taken (R280). -/
def State.recordsFreed (ptn : Nat) (s : State) : State := if (s.ptn? ptn).isSome then s.resume else s

/-! ## Ordered messages (R374) -/

/-- What an ordered message does once it is delivered. -/
def deliver (i : Instr) (s : State) : State :=
  match i with
  | .mirrorWrite h a => (s.gotMirrorWrite h a).settleCheck a.seq
  | .mirrorStepCreate h r => s.gotStepCreate h r
  | .mirrorStepDelete h q => s.gotStepDelete h q
  | .mirrorStepFork h f => s.gotStepFork h f
  | .mirrorStepTruncate h q t => s.gotStepTruncate h q t
  | .mirrorStepTag h q t => s.gotStepTag h q t
  | .mirrorStepSealCommit h p l c => s.gotStepSeal h p l c
  | .mirrorStepPersisted h q l p => s.gotStepPersisted h q l p
  | .mirrorStepTailImage h q l i r => (s.gotStepTail h q l i r).settleCheck q
  | .mirrorStepLayerLoss h q l f e => s.gotStepLoss h q l f e
  | .mirrorStepRestoredLengths h q v l => s.gotLengths h q v l
  | .mirrorStepTransferDone h k _ => s.gotTransferDone h k
  | .pageCopy h p q l c => ((((s.gotPageCopy h p q l c).settleCheck q).startGrads).serveGrads).settleRecalls
  | .pageRelease _ p n => s.gotRelease p n
  | _ => s

def State.ordered (i : Instr) (s : State) : State := (s.orderedIn deliver i).resume

/-! ## Session records (R354, R423) -/

/-- The longest record: LEN counts the ciphertext and its tag (DEDUCED, log 33). -/
def recordMax : Nat := 16777280

/-- A record on a session: one command, or the end of the session. -/
def State.sessionRecord (n : Nat) (tagOk : Bool) (op : Op) (p : Packet) (s : State) : State :=
  match s.session? n with
  | none => s
  | some x =>
    if ¬ x.isOpen ∨ ¬ tagOk ∨ recordMax < 32 + p.body.length + 16 ∨ 2 ^ 32 ≤ x.rxCount then s.closeSession n
    else (s.updSession n fun y => { y with rxCount := y.rxCount + 1 }).arriveAll op (opDef op) { p with src := .mgmt n }

/-! ## Commands of the management family -/

def runFwStage (p : Packet) (s : State) : State := s.arriveAll .fwStage fwStageDef p
def runFwCheck (p : Packet) (s : State) : State := s.arriveAll .fwCheck fwCheckDef p
def runFwActivate (p : Packet) (s : State) : State := s.arriveAll .fwActivate fwActivateDef p
def runFwAbort (p : Packet) (s : State) : State := s.arriveAll .fwAbort fwAbortDef p
def runFwDescribe (p : Packet) (s : State) : State := s.arriveAll .fwDescribe fwDescribeDef p
def runNodeDescribe (p : Packet) (s : State) : State := s.arriveAll .nodeDescribe nodeDescribeDef p
def runRegRead (p : Packet) (s : State) : State := s.arriveAll .regRead regReadDef p
def runRegWrite (p : Packet) (s : State) : State := s.arriveAll .regWrite regWriteDef p
def runLogRead (p : Packet) (s : State) : State := s.arriveAll .logRead logReadDef p
def runTelRead (p : Packet) (s : State) : State := s.arriveAll .telRead telReadDef p
def runHealthRead (p : Packet) (s : State) : State := s.arriveAll .healthRead healthReadDef p
def runStackState (p : Packet) (s : State) : State := s.arriveAll .stackState stackStateDef p
def runSessionRecord (n : Nat) (tagOk : Bool) (op : Op) (p : Packet) (s : State) : State := (s.sessionRecord n tagOk op p).resume
def runI3cCommand (op : Op) (p : Packet) (s : State) : State := (s.arriveAll op (opDef op) { p with src := .i3c }).resume

/-- A register write that reaches the node as one. -/
def State.registerWrite (path : Path) (o v : Nat) (s : State) : State :=
  if s.pow.phase = .service ∨ (path = .image ∧ s.pow.phase = .applying) then ((s.plainWrite path o v).2).resume else s

/-! ## The commands of the queues. What waits behind them, or for what they free, goes on (R263, R272, R275) -/

def execNsCreate (p : Packet) (s : State) : Host.Outcome State Fault Refusal := .next (runNsCreate p s).resume
def execNsModify (p : Packet) (s : State) : Host.Outcome State Fault Refusal := .next (runNsModify p s).resume
def execNsDelete (p : Packet) (s : State) : Host.Outcome State Fault Refusal := .next (runNsDelete p s).resume
def execSeqCreate (p : Packet) (s : State) : Host.Outcome State Fault Refusal := .next (runSeqCreate p s).resume
def execSeqDelete (p : Packet) (s : State) : Host.Outcome State Fault Refusal := .next (runSeqDelete p s).resume
def execFork (p : Packet) (s : State) : Host.Outcome State Fault Refusal := .next (runFork p s).resume
def execTruncate (p : Packet) (s : State) : Host.Outcome State Fault Refusal := .next (runTruncate p s).resume
def execSeqTag (p : Packet) (s : State) : Host.Outcome State Fault Refusal := .next (runSeqTag p s).resume
def execSeqDescribe (p : Packet) (s : State) : Host.Outcome State Fault Refusal := .next (runSeqDescribe p s).resume
def execPageList (p : Packet) (s : State) : Host.Outcome State Fault Refusal := .next (runPageList p s).resume
def execAppend (p : Packet) (s : State) : Host.Outcome State Fault Refusal := .next (runAppend' p s).resume
def execAppendBulk (p : Packet) (s : State) : Host.Outcome State Fault Refusal := .next (runAppendBulk p s).resume
def execPatInvalidate (p : Packet) (s : State) : Host.Outcome State Fault Refusal := .next (runPatInvalidate p s).resume
def execPatWrite (p : Packet) (s : State) : Host.Outcome State Fault Refusal := .next (runPatWrite p s).resume
def execPatValidate (p : Packet) (s : State) : Host.Outcome State Fault Refusal := .next (runPatValidate p s).resume
def execPatUnload (p : Packet) (s : State) : Host.Outcome State Fault Refusal := .next (runPatUnload p s).resume
def execPatDescribe (p : Packet) (s : State) : Host.Outcome State Fault Refusal := .next (runPatDescribe p s).resume
def execProgLoad (p : Packet) (s : State) : Host.Outcome State Fault Refusal := .next (runProgLoad p s).resume
def execProgUnload (p : Packet) (s : State) : Host.Outcome State Fault Refusal := .next (runProgUnload p s).resume
def execProgDescribe (p : Packet) (s : State) : Host.Outcome State Fault Refusal := .next (runProgDescribe p s).resume
def execModelInstall (p : Packet) (s : State) : Host.Outcome State Fault Refusal := .next (runModelInstall p s).resume
def execModelDescribe (p : Packet) (s : State) : Host.Outcome State Fault Refusal := .next (runModelDescribe p s).resume
def execAttend (p : Packet) (s : State) : Host.Outcome State Fault Refusal := .next (runAttend' p s).resume
def execAttendBatch (p : Packet) (s : State) : Host.Outcome State Fault Refusal := .next (runAttendBatch p s).resume
def execGradAttend (p : Packet) (s : State) : Host.Outcome State Fault Refusal := .next (runGradAttend p s).resume
def execGradRead (p : Packet) (s : State) : Host.Outcome State Fault Refusal := .next (runGradRead p s).resume
def execGradClear (p : Packet) (s : State) : Host.Outcome State Fault Refusal := .next (runGradClear p s).resume
def execRecall (p : Packet) (s : State) : Host.Outcome State Fault Refusal := .next (runRecall p s).resume
def execRecallAttend (p : Packet) (s : State) : Host.Outcome State Fault Refusal := .next (runRecallAttend p s).resume
def execCtxCreate (p : Packet) (s : State) : Host.Outcome State Fault Refusal := .next (runCtxCreate p s).resume
def execCtxDestroy (p : Packet) (s : State) : Host.Outcome State Fault Refusal := .next (runCtxDestroy p s).resume
def execQueueCreate (p : Packet) (s : State) : Host.Outcome State Fault Refusal := .next (runQueueCreate p s).resume
def execQueueDestroy (p : Packet) (s : State) : Host.Outcome State Fault Refusal := .next (runQueueDestroy p s).resume
def execWindowRekey (p : Packet) (s : State) : Host.Outcome State Fault Refusal := .next (runWindowRekey p s).resume
def execWindowDescribe (p : Packet) (s : State) : Host.Outcome State Fault Refusal := .next (runWindowDescribe p s).resume
def execTrigPost (p : Packet) (s : State) : Host.Outcome State Fault Refusal := .next (runTrigPost p s).resume
def execTrigCancel (p : Packet) (s : State) : Host.Outcome State Fault Refusal := .next (runTrigCancel p s).resume
def execTrigDescribe (p : Packet) (s : State) : Host.Outcome State Fault Refusal := .next (runTrigDescribe p s).resume
def execPtnCreate (p : Packet) (s : State) : Host.Outcome State Fault Refusal := .next (runPtnCreate p s).resume
def execPtnModify (p : Packet) (s : State) : Host.Outcome State Fault Refusal := .next (runPtnModify p s).resume
def execPtnReset (p : Packet) (s : State) : Host.Outcome State Fault Refusal := .next (runPtnReset p s).resume
def execPtnDestroy (p : Packet) (s : State) : Host.Outcome State Fault Refusal := .next (runPtnDestroy p s).resume
def execPtnDescribe (p : Packet) (s : State) : Host.Outcome State Fault Refusal := .next (runPtnDescribe p s).resume
def execKeyInstall (p : Packet) (s : State) : Host.Outcome State Fault Refusal := .next (runKeyInstall p s).resume
def execKeyRevoke (p : Packet) (s : State) : Host.Outcome State Fault Refusal := .next (runKeyRevoke p s).resume
def execAttest (p : Packet) (s : State) : Host.Outcome State Fault Refusal := .next (runAttest p s).resume
def execCertRead (p : Packet) (s : State) : Host.Outcome State Fault Refusal := .next (runCertRead p s).resume
def execMapDescribe (p : Packet) (s : State) : Host.Outcome State Fault Refusal := .next (runMapDescribe p s).resume
def execFwStage (p : Packet) (s : State) : Host.Outcome State Fault Refusal := .next (runFwStage p s).resume
def execFwCheck (p : Packet) (s : State) : Host.Outcome State Fault Refusal := .next (runFwCheck p s).resume
def execFwActivate (p : Packet) (s : State) : Host.Outcome State Fault Refusal := .next (runFwActivate p s).resume
def execFwAbort (p : Packet) (s : State) : Host.Outcome State Fault Refusal := .next (runFwAbort p s).resume
def execFwDescribe (p : Packet) (s : State) : Host.Outcome State Fault Refusal := .next (runFwDescribe p s).resume
def execNodeDescribe (p : Packet) (s : State) : Host.Outcome State Fault Refusal := .next (runNodeDescribe p s).resume
def execRegRead (p : Packet) (s : State) : Host.Outcome State Fault Refusal := .next (runRegRead p s).resume
def execRegWrite (p : Packet) (s : State) : Host.Outcome State Fault Refusal := .next (runRegWrite p s).resume
def execLogRead (p : Packet) (s : State) : Host.Outcome State Fault Refusal := .next (runLogRead p s).resume
def execTelRead (p : Packet) (s : State) : Host.Outcome State Fault Refusal := .next (runTelRead p s).resume
def execHealthRead (p : Packet) (s : State) : Host.Outcome State Fault Refusal := .next (runHealthRead p s).resume
def execStackState (p : Packet) (s : State) : Host.Outcome State Fault Refusal := .next (runStackState p s).resume
def execLogReadWake (id : Nat) (s : State) : Host.Outcome State Fault Refusal := .next (s.logEnds false id).resume
def execLogReadWaitExpiry (id : Nat) (s : State) : Host.Outcome State Fault Refusal := .next (s.logEnds true id).resume
def execCoreGroupReady (ok : Bool) (s : State) : Host.Outcome State Fault Refusal := .next (s.coreGroup ok).resume
def execPtnResetComplete (ptn : Fin 32) (s : State) : Host.Outcome State Fault Refusal := .next (s.resetDone ptn).resume

/-! ## The other commands -/

def execReplyRingSpace (queue : Nat) (consumed : Word32) (s : State) : Host.Outcome State Fault Refusal :=
  .next (s.ringFreed queue consumed.toNat)
def execWindowRdmaWrite (queue : Nat) (a : RdmaAddr) (data : List Byte) (s : State) : Host.Outcome State Fault Refusal :=
  .next (s.rdmaWrite queue a data).resume
def execFetchAndAdd (queue : Nat) (a : RdmaAddr) (add : Word64) (s : State) : Host.Outcome State Fault Refusal :=
  .next (s.atomic queue a fun old => (old + add.toNat) % 2 ^ 64).resume
def execCompareAndSwap (queue : Nat) (a : RdmaAddr) (cmp swap : Word64) (s : State) : Host.Outcome State Fault Refusal :=
  .next (s.atomic queue a fun old => if old = cmp.toNat then swap.toNat else old).resume
def execTransportAck (queue upTo delayNs : Nat) (s : State) : Host.Outcome State Fault Refusal := .next (s.acked queue upTo delayNs).resume
def execScoreboardEntriesFreed (s : State) : Host.Outcome State Fault Refusal := .next s.resume
def execDescriptorInstall (seq : Handle) (s : State) : Host.Outcome State Fault Refusal := .next (s.descriptorHere seq).resume
def execEpochHoldRelease (id : Nat) (s : State) : Host.Outcome State Fault Refusal := .next (s.epochCame id).progress.schedule
def execDuplicateHeldRelease (id : Nat) (s : State) : Host.Outcome State Fault Refusal := .next (s.duplicateEnds id).progress
def execRecordSpaceFreed (ptn : Fin 32) (s : State) : Host.Outcome State Fault Refusal := .next (s.recordsFreed ptn)
def execPendingChildTimeout (seq : Handle) (s : State) : Host.Outcome State Fault Refusal := .next (s.dropPending seq).resume
def execMapPush (p : Packet) (s : State) : Host.Outcome State Fault Refusal := .next (runMapPush p s).resume
def execMapBody (h : MsgHdr) (b : MapBody) (s : State) : Host.Outcome State Fault Refusal :=
  .next (s.unordered h fun s => s.gotMap b).resume
def execMirrorWrite (h : MsgHdr) (a : AppendReq) (s : State) : Host.Outcome State Fault Refusal := .next (s.ordered (.mirrorWrite h a))
def execMirrorStepCreate (h : MsgHdr) (r : SeqCreateReq) (s : State) : Host.Outcome State Fault Refusal :=
  .next (s.ordered (.mirrorStepCreate h r))
def execMirrorStepDelete (h : MsgHdr) (seq : Handle) (s : State) : Host.Outcome State Fault Refusal :=
  .next (s.ordered (.mirrorStepDelete h seq))
def execMirrorStepFork (h : MsgHdr) (f : ForkReq) (s : State) : Host.Outcome State Fault Refusal := .next (s.ordered (.mirrorStepFork h f))
def execMirrorStepTruncate (h : MsgHdr) (seq : Handle) (t : Nat) (s : State) : Host.Outcome State Fault Refusal :=
  .next (s.ordered (.mirrorStepTruncate h seq t))
def execMirrorStepTag (h : MsgHdr) (seq : Handle) (tag : Word32) (s : State) : Host.Outcome State Fault Refusal :=
  .next (s.ordered (.mirrorStepTag h seq tag))
def execMirrorStepSealCommit (h : MsgHdr) (page : PageName) (list : Nat) (code : List Byte) (s : State) :
    Host.Outcome State Fault Refusal := .next (s.ordered (.mirrorStepSealCommit h page list code))
def execMirrorStepPersisted (h : MsgHdr) (seq : Handle) (layer persisted : Nat) (s : State) : Host.Outcome State Fault Refusal :=
  .next (s.ordered (.mirrorStepPersisted h seq layer persisted))
def execMirrorStepTailImage (h : MsgHdr) (seq : Handle) (layer : Nat) (img : Image) (recs : List AppendRec) (s : State) :
    Host.Outcome State Fault Refusal := .next (s.ordered (.mirrorStepTailImage h seq layer img recs))
def execMirrorStepLayerLoss (h : MsgHdr) (seq : Handle) (layer first fin : Nat) (s : State) : Host.Outcome State Fault Refusal :=
  .next (s.ordered (.mirrorStepLayerLoss h seq layer first fin))
def execMirrorStepRestoredLengths (h : MsgHdr) (seq : Handle) (survived : Bool) (lengths : List Nat) (s : State) :
    Host.Outcome State Fault Refusal := .next (s.ordered (.mirrorStepRestoredLengths h seq survived lengths))
def execMirrorStepTransferDone (h : MsgHdr) (shard count : Nat) (s : State) : Host.Outcome State Fault Refusal :=
  .next (s.ordered (.mirrorStepTransferDone h shard count))
def execPageCopy (h : MsgHdr) (purpose : Nat) (seq : Handle) (layer : Nat) (c : Copied) (s : State) : Host.Outcome State Fault Refusal :=
  .next (s.ordered (.pageCopy h purpose seq layer c))
def execPageRelease (h : MsgHdr) (page : Handle) (count : Nat) (s : State) : Host.Outcome State Fault Refusal :=
  .next (s.ordered (.pageRelease h page count))
def execSessionRecord (session : Nat) (tagOk : Bool) (op : Op) (p : Packet) (s : State) : Host.Outcome State Fault Refusal :=
  .next (runSessionRecord session tagOk op p s)
def execResumeComplete (s : State) : Host.Outcome State Fault Refusal :=
  .next (if s.pow.resuming then s.resumed.resume.reqAgain else s)
def execFwRestartComplete (s : State) : Host.Outcome State Fault Refusal := .next s.fwRestarted.resume
def execRideRequest (path : Path) (s : State) : Host.Outcome State Fault Refusal := .next (s.writeField path .pwrCtl 0 2 0).resume
def execCoastRequest (path : Path) (s : State) : Host.Outcome State Fault Refusal := .next (s.writeField path .pwrCtl 0 2 1).resume
def execRegisterWrite (path : Path) (offset : Nat) (value : Word32) (s : State) : Host.Outcome State Fault Refusal :=
  .next (s.registerWrite path offset value.toNat)
def execFlashTierEnable (path : Path) (anchorOk : Bool) (s : State) : Host.Outcome State Fault Refusal :=
  .next (s.tierEnable path anchorOk).continueConfig.resume
def execMapRebuildComplete (s : State) : Host.Outcome State Fault Refusal := .next s.mapRebuilt.continueConfig.resume
def execI3cNdoxCommand (op : Op) (p : Packet) (s : State) : Host.Outcome State Fault Refusal := .next (runI3cCommand op p s)

end Sys2Proof.Machine
end

