-- ==== Sys2Proof/Machine/Dispatch.lean ====
section
/-! DEFINITION. The commands and their meanings, one arm each, in the order of spec/opcode_table.json. -/

namespace Sys2Proof.Machine

def exec (i : Instr) (s : State) : Host.Outcome State Fault Refusal :=
  match i with
  | .ctxCreate p => Sys2Proof.Machine.execCtxCreate p s
  | .ctxDestroy p => Sys2Proof.Machine.execCtxDestroy p s
  | .queueCreate p => Sys2Proof.Machine.execQueueCreate p s
  | .queueDestroy p => Sys2Proof.Machine.execQueueDestroy p s
  | .nsCreate p => Sys2Proof.Machine.execNsCreate p s
  | .nsModify p => Sys2Proof.Machine.execNsModify p s
  | .nsDelete p => Sys2Proof.Machine.execNsDelete p s
  | .seqCreate p => Sys2Proof.Machine.execSeqCreate p s
  | .seqDelete p => Sys2Proof.Machine.execSeqDelete p s
  | .fork p => Sys2Proof.Machine.execFork p s
  | .truncate p => Sys2Proof.Machine.execTruncate p s
  | .seqTag p => Sys2Proof.Machine.execSeqTag p s
  | .seqDescribe p => Sys2Proof.Machine.execSeqDescribe p s
  | .append p => Sys2Proof.Machine.execAppend p s
  | .appendBulk p => Sys2Proof.Machine.execAppendBulk p s
  | .pageList p => Sys2Proof.Machine.execPageList p s
  | .attend p => Sys2Proof.Machine.execAttend p s
  | .attendBatch p => Sys2Proof.Machine.execAttendBatch p s
  | .gradAttend p => Sys2Proof.Machine.execGradAttend p s
  | .gradRead p => Sys2Proof.Machine.execGradRead p s
  | .gradClear p => Sys2Proof.Machine.execGradClear p s
  | .recall p => Sys2Proof.Machine.execRecall p s
  | .recallAttend p => Sys2Proof.Machine.execRecallAttend p s
  | .patInvalidate p => Sys2Proof.Machine.execPatInvalidate p s
  | .patWrite p => Sys2Proof.Machine.execPatWrite p s
  | .patValidate p => Sys2Proof.Machine.execPatValidate p s
  | .patUnload p => Sys2Proof.Machine.execPatUnload p s
  | .patDescribe p => Sys2Proof.Machine.execPatDescribe p s
  | .progLoad p => Sys2Proof.Machine.execProgLoad p s
  | .progUnload p => Sys2Proof.Machine.execProgUnload p s
  | .progDescribe p => Sys2Proof.Machine.execProgDescribe p s
  | .modelInstall p => Sys2Proof.Machine.execModelInstall p s
  | .modelDescribe p => Sys2Proof.Machine.execModelDescribe p s
  | .windowRekey p => Sys2Proof.Machine.execWindowRekey p s
  | .windowDescribe p => Sys2Proof.Machine.execWindowDescribe p s
  | .trigPost p => Sys2Proof.Machine.execTrigPost p s
  | .trigCancel p => Sys2Proof.Machine.execTrigCancel p s
  | .trigDescribe p => Sys2Proof.Machine.execTrigDescribe p s
  | .mapPush p => Sys2Proof.Machine.execMapPush p s
  | .mapDescribe p => Sys2Proof.Machine.execMapDescribe p s
  | .ptnCreate p => Sys2Proof.Machine.execPtnCreate p s
  | .ptnModify p => Sys2Proof.Machine.execPtnModify p s
  | .ptnReset p => Sys2Proof.Machine.execPtnReset p s
  | .ptnDestroy p => Sys2Proof.Machine.execPtnDestroy p s
  | .ptnDescribe p => Sys2Proof.Machine.execPtnDescribe p s
  | .fwStage p => Sys2Proof.Machine.execFwStage p s
  | .fwCheck p => Sys2Proof.Machine.execFwCheck p s
  | .fwActivate p => Sys2Proof.Machine.execFwActivate p s
  | .fwAbort p => Sys2Proof.Machine.execFwAbort p s
  | .fwDescribe p => Sys2Proof.Machine.execFwDescribe p s
  | .attest p => Sys2Proof.Machine.execAttest p s
  | .certRead p => Sys2Proof.Machine.execCertRead p s
  | .keyInstall p => Sys2Proof.Machine.execKeyInstall p s
  | .keyRevoke p => Sys2Proof.Machine.execKeyRevoke p s
  | .nodeDescribe p => Sys2Proof.Machine.execNodeDescribe p s
  | .regRead p => Sys2Proof.Machine.execRegRead p s
  | .regWrite p => Sys2Proof.Machine.execRegWrite p s
  | .logRead p => Sys2Proof.Machine.execLogRead p s
  | .telRead p => Sys2Proof.Machine.execTelRead p s
  | .healthRead p => Sys2Proof.Machine.execHealthRead p s
  | .stackState p => Sys2Proof.Machine.execStackState p s
  | .sendLengthError queue len => Sys2Proof.Machine.execSendLengthError queue len s
  | .sendNoBuffer queue => Sys2Proof.Machine.execSendNoBuffer queue s
  | .replyRingSpace queue consumed => Sys2Proof.Machine.execReplyRingSpace queue consumed s
  | .scoreboardEntriesFreed => Sys2Proof.Machine.execScoreboardEntriesFreed s
  | .descriptorInstall seq => Sys2Proof.Machine.execDescriptorInstall seq s
  | .epochHoldRelease id => Sys2Proof.Machine.execEpochHoldRelease id s
  | .epochHoldExpiry id => Sys2Proof.Machine.execEpochHoldExpiry id s
  | .attendPositionsLanded id => Sys2Proof.Machine.execAttendPositionsLanded id s
  | .attendWaitExpiry id => Sys2Proof.Machine.execAttendWaitExpiry id s
  | .appendGapFilled id => Sys2Proof.Machine.execAppendGapFilled id s
  | .appendGapExpiry id => Sys2Proof.Machine.execAppendGapExpiry id s
  | .journalSpaceFreed id => Sys2Proof.Machine.execJournalSpaceFreed id s
  | .journalWaitExpiry id => Sys2Proof.Machine.execJournalWaitExpiry id s
  | .duplicateHeldRelease id => Sys2Proof.Machine.execDuplicateHeldRelease id s
  | .recordExpiry ptn reqId => Sys2Proof.Machine.execRecordExpiry ptn reqId s
  | .recordSpaceFreed ptn => Sys2Proof.Machine.execRecordSpaceFreed ptn s
  | .sealStart engine page => Sys2Proof.Machine.execSealStart engine page s
  | .sealPriorityRaise page => Sys2Proof.Machine.execSealPriorityRaise page s
  | .sealCommit page readBackOk => Sys2Proof.Machine.execSealCommit page readBackOk s
  | .persistedPageWritten page => Sys2Proof.Machine.execPersistedPageWritten page s
  | .engineStepCommit engine => Sys2Proof.Machine.execEngineStepCommit engine s
  | .fanoutTimeout id reqSeq => Sys2Proof.Machine.execFanoutTimeout id reqSeq s
  | .partialReq h b => Sys2Proof.Machine.execPartialReq h b s
  | .partialReply h reqSeq status p lost => Sys2Proof.Machine.execPartialReply h reqSeq status p lost s
  | .partialDecline h reqSeq reason => Sys2Proof.Machine.execPartialDecline h reqSeq reason s
  | .gradReq h b => Sys2Proof.Machine.execGradReq h b s
  | .gradReply h reqSeq dq => Sys2Proof.Machine.execGradReply h reqSeq dq s
  | .draftHint h seq layer pages => Sys2Proof.Machine.execDraftHint h seq layer pages s
  | .draftingReadComplete page => Sys2Proof.Machine.execDraftingReadComplete page s
  | .flashReadComplete page o => Sys2Proof.Machine.execFlashReadComplete page o s
  | .stagingLineExpiry page => Sys2Proof.Machine.execStagingLineExpiry page s
  | .nearBankSequenceDone stack page o => Sys2Proof.Machine.execNearBankSequenceDone stack page o s
  | .nearBankRefreshSuspend stack pch => Sys2Proof.Machine.execNearBankRefreshSuspend stack pch s
  | .nearBankResume stack pch => Sys2Proof.Machine.execNearBankResume stack pch s
  | .pageReclaim page => Sys2Proof.Machine.execPageReclaim page s
  | .demotion => Sys2Proof.Machine.execDemotion s
  | .promotion page => Sys2Proof.Machine.execPromotion page s
  | .migrationCopyComplete page ok => Sys2Proof.Machine.execMigrationCopyComplete page ok s
  | .placementMove page target => Sys2Proof.Machine.execPlacementMove page target s
  | .openRegionPromotion page => Sys2Proof.Machine.execOpenRegionPromotion page s
  | .openRegionDemotion page => Sys2Proof.Machine.execOpenRegionDemotion page s
  | .reclamationStart die => Sys2Proof.Machine.execReclamationStart die s
  | .reclaimCopyComplete die frame ok => Sys2Proof.Machine.execReclaimCopyComplete die frame ok s
  | .blockCloseCheck die block ok => Sys2Proof.Machine.execBlockCloseCheck die block ok s
  | .blockErase die block => Sys2Proof.Machine.execBlockErase die block s
  | .programFailure die block => Sys2Proof.Machine.execProgramFailure die block s
  | .eraseFailure die block => Sys2Proof.Machine.execEraseFailure die block s
  | .wearLevelMove die => Sys2Proof.Machine.execWearLevelMove die s
  | .flashPatrolRead die block frame o correctedPct => Sys2Proof.Machine.execFlashPatrolRead die block frame o correctedPct s
  | .flashTempRead chan temps => Sys2Proof.Machine.execFlashTempRead chan temps s
  | .deltaFlush => Sys2Proof.Machine.execDeltaFlush s
  | .deltaBufferSpace => Sys2Proof.Machine.execDeltaBufferSpace s
  | .leafWriteback leaf => Sys2Proof.Machine.execLeafWriteback leaf s
  | .directoryCheckpoint => Sys2Proof.Machine.execDirectoryCheckpoint s
  | .mapRebuildComplete => Sys2Proof.Machine.execMapRebuildComplete s
  | .flushConsumed => Sys2Proof.Machine.execFlushConsumed s
  | .indexCompaction seg => Sys2Proof.Machine.execIndexCompaction seg s
  | .indexRebuild seg => Sys2Proof.Machine.execIndexRebuild seg s
  | .recallBatchStart seg => Sys2Proof.Machine.execRecallBatchStart seg s
  | .scanPassComplete seg bad => Sys2Proof.Machine.execScanPassComplete seg bad s
  | .recallDeadlineExpiry id => Sys2Proof.Machine.execRecallDeadlineExpiry id s
  | .scanReq h b => Sys2Proof.Machine.execScanReq h b s
  | .scanResult h reqSeq flags lists => Sys2Proof.Machine.execScanResult h reqSeq flags lists s
  | .scanDecline h reqSeq => Sys2Proof.Machine.execScanDecline h reqSeq s
  | .patternCheck h seq block slot select => Sys2Proof.Machine.execPatternCheck h seq block slot select s
  | .patternResult h reqSeq answer => Sys2Proof.Machine.execPatternResult h reqSeq answer s
  | .patternCheckTimeout id reqSeq => Sys2Proof.Machine.execPatternCheckTimeout id reqSeq s
  | .handleQuery h seq layer block => Sys2Proof.Machine.execHandleQuery h seq layer block s
  | .handleReply h reqSeq page code => Sys2Proof.Machine.execHandleReply h reqSeq page code s
  | .forkCreate h f groups tokens pages cut => Sys2Proof.Machine.execForkCreate h f groups tokens pages cut s
  | .forkAccept h reqSeq status => Sys2Proof.Machine.execForkAccept h reqSeq status s
  | .forkAcceptTimeout id => Sys2Proof.Machine.execForkAcceptTimeout id s
  | .pendingChildTimeout seq => Sys2Proof.Machine.execPendingChildTimeout seq s
  | .mirrorWrite h a => Sys2Proof.Machine.execMirrorWrite h a s
  | .mirrorAck h seq layer status mirrored => Sys2Proof.Machine.execMirrorAck h seq layer status mirrored s
  | .mirrorStepCreate h r => Sys2Proof.Machine.execMirrorStepCreate h r s
  | .mirrorStepDelete h seq => Sys2Proof.Machine.execMirrorStepDelete h seq s
  | .mirrorStepFork h f => Sys2Proof.Machine.execMirrorStepFork h f s
  | .mirrorStepTruncate h seq t => Sys2Proof.Machine.execMirrorStepTruncate h seq t s
  | .mirrorStepTag h seq tag => Sys2Proof.Machine.execMirrorStepTag h seq tag s
  | .mirrorStepSealCommit h page list code => Sys2Proof.Machine.execMirrorStepSealCommit h page list code s
  | .mirrorStepPersisted h seq layer persisted => Sys2Proof.Machine.execMirrorStepPersisted h seq layer persisted s
  | .mirrorStepTailImage h seq layer img recs => Sys2Proof.Machine.execMirrorStepTailImage h seq layer img recs s
  | .mirrorStepLayerLoss h seq layer first fin => Sys2Proof.Machine.execMirrorStepLayerLoss h seq layer first fin s
  | .mirrorStepRestoredLengths h seq survived lengths => Sys2Proof.Machine.execMirrorStepRestoredLengths h seq survived lengths s
  | .mirrorStepTransferDone h shard count => Sys2Proof.Machine.execMirrorStepTransferDone h shard count s
  | .pageCopy h purpose seq layer c => Sys2Proof.Machine.execPageCopy h purpose seq layer c s
  | .pageCopyAck h reqSeq page status => Sys2Proof.Machine.execPageCopyAck h reqSeq page status s
  | .pageRelease h page count => Sys2Proof.Machine.execPageRelease h page count s
  | .pageFetch h page seq layer block => Sys2Proof.Machine.execPageFetch h page seq layer block s
  | .engineFault engine cause => Sys2Proof.Machine.execEngineFault engine cause s
  | .engineWatchdogExpiry engine => Sys2Proof.Machine.execEngineWatchdogExpiry engine s
  | .spareEngineReady engine => Sys2Proof.Machine.execSpareEngineReady engine s
  | .partitionFence ptn => Sys2Proof.Machine.execPartitionFence ptn s
  | .partitionFenceLift ptn ok => Sys2Proof.Machine.execPartitionFenceLift ptn ok s
  | .controlCoreFault core cause => Sys2Proof.Machine.execControlCoreFault core cause s
  | .automataEngineFault pa => Sys2Proof.Machine.execAutomataEngineFault pa s
  | .healthScoreRecompute => Sys2Proof.Machine.execHealthScoreRecompute s
  | .expulsionRequestSend target => Sys2Proof.Machine.execExpulsionRequestSend target s
  | .expel h target kind reason token healthSeen failed => Sys2Proof.Machine.execExpel h target kind reason token healthSeen failed s
  | .transferHoldExpiry id => Sys2Proof.Machine.execTransferHoldExpiry id s
  | .drainWindowExpiry => Sys2Proof.Machine.execDrainWindowExpiry s
  | .mapFetch h wanted => Sys2Proof.Machine.execMapFetch h wanted s
  | .mapBody h b => Sys2Proof.Machine.execMapBody h b s
  | .heartbeat h b => Sys2Proof.Machine.execHeartbeat h b s
  | .heartbeatFastSend => Sys2Proof.Machine.execHeartbeatFastSend s
  | .heartbeatSlowSend => Sys2Proof.Machine.execHeartbeatSlowSend s
  | .peerSuspect peer => Sys2Proof.Machine.execPeerSuspect peer s
  | .e2eAck h seq => Sys2Proof.Machine.execE2eAck h seq s
  | .e2eAckTimer peer => Sys2Proof.Machine.execE2eAckTimer peer s
  | .orderedRtoExpiry peer => Sys2Proof.Machine.execOrderedRtoExpiry peer s
  | .messageReassemblyTimeout peer seq => Sys2Proof.Machine.execMessageReassemblyTimeout peer seq s
  | .segmentReassemblyTimeout peer firstSeq => Sys2Proof.Machine.execSegmentReassemblyTimeout peer firstSeq s
  | .handshakeHello h b => Sys2Proof.Machine.execHandshakeHello h b s
  | .handshakeReply h b => Sys2Proof.Machine.execHandshakeReply h b s
  | .handshakeFinish h b => Sys2Proof.Machine.execHandshakeFinish h b s
  | .handshakeAbort h hsId reason => Sys2Proof.Machine.execHandshakeAbort h hsId reason s
  | .handshakeRetry peer => Sys2Proof.Machine.execHandshakeRetry peer s
  | .handshakeBackoffExpiry peer => Sys2Proof.Machine.execHandshakeBackoffExpiry peer s
  | .initiatorHoldExpiry peer => Sys2Proof.Machine.execInitiatorHoldExpiry peer s
  | .rekeyDue peer => Sys2Proof.Machine.execRekeyDue peer s
  | .oldKeyErase peer => Sys2Proof.Machine.execOldKeyErase peer s
  | .trainFrame link t => Sys2Proof.Machine.execTrainFrame link t s
  | .spareLockTimeout link => Sys2Proof.Machine.execSpareLockTimeout link s
  | .dataFrame link f => Sys2Proof.Machine.execDataFrame link f s
  | .linkNak link ack => Sys2Proof.Machine.execLinkNak link ack s
  | .linkReplayTimeout link => Sys2Proof.Machine.execLinkReplayTimeout link s
  | .idleAckTimer link => Sys2Proof.Machine.execIdleAckTimer link s
  | .laneFault link dir lane cause => Sys2Proof.Machine.execLaneFault link dir lane cause s
  | .spareReq link lane => Sys2Proof.Machine.execSpareReq link lane s
  | .laneMark link lane => Sys2Proof.Machine.execLaneMark link lane s
  | .linkLanesReturn link => Sys2Proof.Machine.execLinkLanesReturn link s
  | .bulkGateEntryExpiry => Sys2Proof.Machine.execBulkGateEntryExpiry s
  | .windowRdmaWrite queue a data => Sys2Proof.Machine.execWindowRdmaWrite queue a data s
  | .windowRdmaRead queue a len => Sys2Proof.Machine.execWindowRdmaRead queue a len s
  | .fetchAndAdd queue a add => Sys2Proof.Machine.execFetchAndAdd queue a add s
  | .compareAndSwap queue a cmp swap => Sys2Proof.Machine.execCompareAndSwap queue a cmp swap s
  | .rdmaWriteImmReceived queue => Sys2Proof.Machine.execRdmaWriteImmReceived queue s
  | .revocationComplete ctx => Sys2Proof.Machine.execRevocationComplete ctx s
  | .transportAck queue upTo delayNs => Sys2Proof.Machine.execTransportAck queue upTo delayNs s
  | .ackTimeout queue => Sys2Proof.Machine.execAckTimeout queue s
  | .rnrNakReceived queue => Sys2Proof.Machine.execRnrNakReceived queue s
  | .triggerWrComplete ptn chain nak => Sys2Proof.Machine.execTriggerWrComplete ptn chain nak s
  | .cnpReceived queue => Sys2Proof.Machine.execCnpReceived queue s
  | .cePacketReceived queue => Sys2Proof.Machine.execCePacketReceived queue s
  | .ccUpdatePeriod queue => Sys2Proof.Machine.execCcUpdatePeriod queue s
  | .qpIdleReset queue => Sys2Proof.Machine.execQpIdleReset queue s
  | .frameDeparture port => Sys2Proof.Machine.execFrameDeparture port s
  | .gateEntryExpiry port => Sys2Proof.Machine.execGateEntryExpiry port s
  | .pfcFrameReceived port prio quanta => Sys2Proof.Machine.execPfcFrameReceived port prio quanta s
  | .pfcPauseExpiry port prio => Sys2Proof.Machine.execPfcPauseExpiry port prio s
  | .hostLinkChange port up => Sys2Proof.Machine.execHostLinkChange port up s
  | .mgmtConnect => Sys2Proof.Machine.execMgmtConnect s
  | .mgmtHello session b => Sys2Proof.Machine.execMgmtHello session b s
  | .sessionRecord session tagOk op p => Sys2Proof.Machine.execSessionRecord session tagOk op p s
  | .sessionIdleTimeout session => Sys2Proof.Machine.execSessionIdleTimeout session s
  | .sessionRekeyClose session => Sys2Proof.Machine.execSessionRekeyClose session s
  | .pwrWarnAssert => Sys2Proof.Machine.execPwrWarnAssert s
  | .freewheelFlushComplete => Sys2Proof.Machine.execFreewheelFlushComplete s
  | .pwrWarnDeassert => Sys2Proof.Machine.execPwrWarnDeassert s
  | .resumeComplete => Sys2Proof.Machine.execResumeComplete s
  | .droop die => Sys2Proof.Machine.execDroop die s
  | .droopRecover die => Sys2Proof.Machine.execDroopRecover die s
  | .droopLong die => Sys2Proof.Machine.execDroopLong die s
  | .droopLongEnd die => Sys2Proof.Machine.execDroopLongEnd die s
  | .supplyFault rail => Sys2Proof.Machine.execSupplyFault rail s
  | .supplyReturn rail => Sys2Proof.Machine.execSupplyReturn rail s
  | .thermalSensorRead t => Sys2Proof.Machine.execThermalSensorRead t s
  | .thermalResume => Sys2Proof.Machine.execThermalResume s
  | .resetN => Sys2Proof.Machine.execResetN s
  | .pkgRst path => Sys2Proof.Machine.execPkgRst path s
  | .fwRestart path => Sys2Proof.Machine.execFwRestart path s
  | .supervisorWatchdog => Sys2Proof.Machine.execSupervisorWatchdog s
  | .fwRestartComplete => Sys2Proof.Machine.execFwRestartComplete s
  | .rootPllLoss => Sys2Proof.Machine.execRootPllLoss s
  | .serdesPllLoss pll => Sys2Proof.Machine.execSerdesPllLoss pll s
  | .coldPowerOn => Sys2Proof.Machine.execColdPowerOn s
  | .attKeyReady => Sys2Proof.Machine.execAttKeyReady s
  | .attKeyRoll => Sys2Proof.Machine.execAttKeyRoll s
  | .coreGroupReady ok => Sys2Proof.Machine.execCoreGroupReady ok s
  | .ptnResetComplete ptn => Sys2Proof.Machine.execPtnResetComplete ptn s
  | .parkRequest path => Sys2Proof.Machine.execParkRequest path s
  | .parkEntryComplete => Sys2Proof.Machine.execParkEntryComplete s
  | .coastRequest path => Sys2Proof.Machine.execCoastRequest path s
  | .rideRequest path => Sys2Proof.Machine.execRideRequest path s
  | .autoCoastIdle engine => Sys2Proof.Machine.execAutoCoastIdle engine s
  | .stackEnable path stack => Sys2Proof.Machine.execStackEnable path stack s
  | .stackInitDone stack ok => Sys2Proof.Machine.execStackInitDone stack ok s
  | .stackDisable path stack => Sys2Proof.Machine.execStackDisable path stack s
  | .stackFence path stack => Sys2Proof.Machine.execStackFence path stack s
  | .stackDrainComplete stack => Sys2Proof.Machine.execStackDrainComplete stack s
  | .nbEnWrite path stack on => Sys2Proof.Machine.execNbEnWrite path stack on s
  | .hbmPatrolScrub stack o => Sys2Proof.Machine.execHbmPatrolScrub stack o s
  | .stackTempRead stack temp => Sys2Proof.Machine.execStackTempRead stack temp s
  | .flashTierEnable path anchorOk => Sys2Proof.Machine.execFlashTierEnable path anchorOk s
  | .flashWriteEnable path => Sys2Proof.Machine.execFlashWriteEnable path s
  | .channelEnable path chan dies badDie => Sys2Proof.Machine.execChannelEnable path chan dies badDie s
  | .channelFence path chan => Sys2Proof.Machine.execChannelFence path chan s
  | .channelDrainComplete chan => Sys2Proof.Machine.execChannelDrainComplete chan s
  | .hostPortEnable path port on => Sys2Proof.Machine.execHostPortEnable path port on s
  | .mportEnable path on => Sys2Proof.Machine.execMportEnable path on s
  | .hostGateEnable path port on => Sys2Proof.Machine.execHostGateEnable path port on s
  | .shaperWrite path port cls value => Sys2Proof.Machine.execShaperWrite path port cls value s
  | .linkEnable path link on => Sys2Proof.Machine.execLinkEnable path link on s
  | .linkFence path link => Sys2Proof.Machine.execLinkFence path link s
  | .linkRestore path link locked => Sys2Proof.Machine.execLinkRestore path link locked s
  | .fabricGateEnable path on => Sys2Proof.Machine.execFabricGateEnable path on s
  | .nodeValidSet path node => Sys2Proof.Machine.execNodeValidSet path node s
  | .glbLockSet path => Sys2Proof.Machine.execGlbLockSet path s
  | .secSvnCommit path svn => Sys2Proof.Machine.execSecSvnCommit path svn s
  | .telFreeze path on => Sys2Proof.Machine.execTelFreeze path on s
  | .telClear path => Sys2Proof.Machine.execTelClear path s
  | .registerWrite path offset value => Sys2Proof.Machine.execRegisterWrite path offset value s
  | .fingerprintRecompute => Sys2Proof.Machine.execFingerprintRecompute s
  | .logReadWake id => Sys2Proof.Machine.execLogReadWake id s
  | .logReadWaitExpiry id => Sys2Proof.Machine.execLogReadWaitExpiry id s
  | .entdaa addr => Sys2Proof.Machine.execEntdaa addr s
  | .setEndpointId eid => Sys2Proof.Machine.execSetEndpointId eid s
  | .getEndpointId => Sys2Proof.Machine.execGetEndpointId s
  | .getMctpVersionSupport => Sys2Proof.Machine.execGetMctpVersionSupport s
  | .getMessageTypeSupport => Sys2Proof.Machine.execGetMessageTypeSupport s
  | .getVendorDefinedSupport => Sys2Proof.Machine.execGetVendorDefinedSupport s
  | .i3cNdoxCommand op p => Sys2Proof.Machine.execI3cNdoxCommand op p s
  | .i3cSlotWrite slot offset data => Sys2Proof.Machine.execI3cSlotWrite slot offset data s
  | .i3cSlotCheck slot => Sys2Proof.Machine.execI3cSlotCheck slot s
  | .i3cBootStatus => Sys2Proof.Machine.execI3cBootStatus s
  | .railsDown => Sys2Proof.Machine.execRailsDown s
  | .resetNRelease hottest => Sys2Proof.Machine.execResetNRelease hottest s
  | .mgmtDisconnect session => Sys2Proof.Machine.execMgmtDisconnect session s
  | .keySlotFault ptn die => Sys2Proof.Machine.execKeySlotFault ptn die s
  | .serdesPllRelock pll => Sys2Proof.Machine.execSerdesPllRelock pll s
  | .healthLogHourly => Sys2Proof.Machine.execHealthLogHourly s

end Sys2Proof.Machine
end

