-- ==== Sys2Proof/Machine/Passing.lean ====
section
/-! DEFINITION. What passes between two commands (log 42): the clock, measured counters, and the events of host ports for which the
table has no row (12_host_ports.md R335, R349; 16_power_clocks_reset.md R475; 17_configuration_space.md R508). -/

namespace Sys2Proof.Machine

/-- The node counters whose growth the spec ties to no command: bytes received and FEC words of a host port, its power-limited
intervals, the traffic of MPORT, symbols and code words of fabric lanes, heartbeats missed, package energy, busy cycles. -/
def measurable (group index : Nat) : Bool :=
  let k := index % 16
  (group == 5 && decide (index < 64) && (k == 1 || k == 3 || k == 4 || k == 15)) ||
  (group == 5 && decide (64 ≤ index) && decide (index < 71)) ||
  (group == 6 && decide (index < 768) && (decide (k < 6) || k == 15)) ||
  (group == 8 && index == 5) || (group == 9 && decide (index < 272) && index % 4 == 0)

/-- The node holds more than 160 KiB for a selected priority and sends an XOFF, or less than 64 KiB after one and sends an XON
(R349). -/
def State.bufferHeld (n p bytes : Nat) (s : State) : State :=
  let x := s.port n
  if x.state ≠ 2 ∨ ¬ bit (s.rf (.hptPortCtl n) 8 8) p then s
  else if x.xoffs.contains p then
    if bytes < 65536 then (s.updPort n fun x => { x with xoffs := delAll p x.xoffs }).emit (.xon n p) else s
  else if 163840 < bytes then
    (((s.updPort n fun x => { x with xoffs := addNew p x.xoffs }).emit (.xoff n p)).count 5 nodeScope (hostTel n 7)).raise
      (.hptPortSts n) 4 (Rec.event 0xFF (64 + n))
  else s

/-- One thing that passed. A port takes nothing unless its link is up. -/
def State.passed (s : State) : Passing → State
  | .measured g i n => if measurable g i then s.count g nodeScope i n else s
  | .shapeWait p n => s.countPtn p 1 11 n
  | .fecWord n =>
    if (s.port n).state ≠ 2 then s
    else (s.count 5 nodeScope (hostTel n 5)).raise (.hptPortSts n) 1 (Rec.event 0xFF (64 + n))
  | .frameDropped n =>
    if (s.port n).state ≠ 2 then s
    else (s.count 5 nodeScope (hostTel n 6)).raise (.hptPortSts n) 2 (Rec.event 0xFF (64 + n))
  | .held n p b => s.bufferHeld n p b

/-- One MGMT cycle: the time-stamp counter advances by 2, and with every engine gated so does that counter; what passed comes by
draw. -/
def State.cycle (s : State) : State :=
  let t : State := { s with pow := { s.pow with tsc := s.pow.tsc + 2 } }
  let t := if t.pow.state = .ride ∧ t.pow.phase = .service ∧ t.allGated then t.count 8 nodeScope 6 2 else t
  (Config.passing s.freeCtr).foldl State.passed t.drawn

/-- With no command: one MGMT cycle passes; the counter runs on VAON from the moment the node leaves reset (R475; DESIGN CHOICE,
log 1). -/
def State.tick (s : State) : State :=
  if s.pow.phase = .held ∨ s.pow.phase = .tripped then s else s.cycle

end Sys2Proof.Machine
end

