-- ==== Sys2Proof/Safety.lean ====
section
/-! DEFINITION. What a safe state of the node is, in the terms that the statements use: the promises that the trust core makes
about the identity index and the security version (14_partitions_and_trust.md R398, R411, R418). -/

namespace Sys2Proof.Machine

/-- The newest durable reservation of identity indices, 0 where no record passes its CRC (R411). -/
def State.reserved (s : State) : Nat := match newerRes s.boot.resA s.boot.resB with | some (r, _) => r.next | none => 0

/-- No identity index leaves the trust core before a durable record reserves it, so none is used twice: the next index is at most
the limit, and the limit is what the newest record reserves (R411). -/
def State.indexSafe (s : State) : Prop := s.trust.idxOk = true → s.trust.idxNext ≤ s.trust.idxLimit ∧ s.trust.idxLimit = s.reserved

/-- The fuse bank allows 64 advances of SEC_SVN_MIN (R418). -/
def State.fusesSafe (s : State) : Prop := s.trust.svnAdvances ≤ 64

/-- The invariant of every step. -/
def State.Inv (s : State) : Prop := s.indexSafe ∧ s.fusesSafe

/-- What may not happen between two states: the reserved indices, the security version and the recorded node ID go back. -/
def State.Onward (s t : State) : Prop :=
  s.reserved ≤ t.reserved ∧ s.trust.svnMin.toNat ≤ t.trust.svnMin.toNat ∧ (∀ n, s.trust.nodeId = some n → t.trust.nodeId = some n)

end Sys2Proof.Machine
end

