-- ==== Sys2Proof/Certificates/Slice0/Obligations.lean ====
section
/-! DEFINITION. The statements about the node, for the provers. Helper definitions say when a command passes its admission
and how a command that finishes answers; every statement is a `def Obligations.<Name> : Prop`. -/

namespace Sys2Proof.Machine

/-! ## Admission, read from 10_ndox_protocol.md R274 as one function -/

/-- The state in which a command that arrives is taken at once: on a command queue, on a session or over I3C. None where
it is not taken. -/
def taken (op : Op) (p : Packet) (s : State) : Option State :=
  match p.src with
  | .host x n => match s.ctxQueue? x n with
    | none => none
    | some q =>
      let u := (s.ringSpace q.qpn p.ringHead.toNat).count 5 nodeScope (hostTel q.port 1)
      let x := (u.queue? q.qpn).getD q
      if q.err = false ∧ (s.port q.port).state = 2 ∧ q.backlog.length < q.qdepth ∧ x.backlog = [] ∧ u.takes op x = true then some u
      else none
  | .mgmt n => match s.session? n with
    | none => none
    | some x =>
      if x.isOpen = true ∧ x.backlog = [] ∧ s.takesSession x = true then
        some (s.updSession n fun y => { y with outstanding := y.outstanding + 1 })
      else none
  | .i3c => if s.pow.phase = .service ∧ s.pow.state ≠ .off ∧ s.i3c.backlog = [] ∧ s.i3cBusy = false then some s else none

/-- The partition of a command's context exists and takes commands; other sources have none. -/
def ptnTakes (p : Packet) (u : State) : Bool :=
  match p.src with
  | .host _ _ => match u.ptn? (u.srcPtn p.src) with | some q => !(q.fenced || q.resetting) | none => false
  | _ => true

/-- The sequence that a command names is on its way, or its descriptor is not in the cache (R17, R448). -/
def mustWait (op : Op) (n : Named) (u : State) : Bool :=
  match n.seq? with
  | none => false
  | some h => u.unready h || ((op.cls == .positional || op == .attend) && match u.seq? h with | some q => !q.resident | none => false)

/-- Step 9 counts the command, on its partition and its context. -/
def counted (c : Cmd) (u : State) : State :=
  let u := u.countPtn c.ptn 0 0
  match c.pkt.src with | .host x _ => u.count 7 nodeScope (4 * x) | _ => u

/-- Steps 1 to 8 of R274: the command and the state at step 9 where every step passes and nothing holds the command. -/
def admission (op : Op) (p : Packet) (s : State) : Option (Cmd × State) :=
  match taken op p s with
  | none => none
  | some u =>
    let d := opDef op
    let priv := u.srcPriv p.src
    if ptnTakes p u = false ∨ u.headerOk p = false then none
    else match u.openPayload op p priv with
      | .error _ => none
      | .ok data =>
        let c : Cmd := ⟨op, { p with body := u.payloadRead p }, data, u.srcPtn p.src⟩
        if op.granted p.src priv = false ∨ u.five (d.named data) p.epoch.toNat priv ≠ .pass ∨ mustWait op (d.named data) u = true then none
        else if (u.sixRecorded d c).isSome ∨ (d.six c u).isSome ∨ (d.seven c u).isSome ∨ u.replyFits c (d.maxReply c u) = false then none
        else some (c, counted c u)

/-- A command finished with a status that carries the payload `b`, and what waited goes on. -/
def State.answered (u : State) (c : Cmd) (b : List Byte) (st : Status := .ok) : State := (u.finish c st none 0 b).progress.resume

/-- A command refused with a status, and what waited goes on. -/
def State.refused (u : State) (c : Cmd) (st : Status) : State := (u.refuse c.op c.pkt c.ptn st none 0).progress.resume

/-- A command held, with pages pinned, until what it waits for comes, and what waited goes on. -/
def State.held (u : State) (c : Cmd) (w : Wait) (pins : List Handle := []) : State := ((u.pin pins).hold c w pins).progress.resume

end Sys2Proof.Machine

namespace Sys2Proof

/-- The command of an opcode. -/
def Op.command (op : Op) (p : Packet) : Instr :=
  match op with
  | .ctxCreate => .ctxCreate p
  | .ctxDestroy => .ctxDestroy p
  | .queueCreate => .queueCreate p
  | .queueDestroy => .queueDestroy p
  | .nsCreate => .nsCreate p
  | .nsModify => .nsModify p
  | .nsDelete => .nsDelete p
  | .seqCreate => .seqCreate p
  | .seqDelete => .seqDelete p
  | .fork => .fork p
  | .truncate => .truncate p
  | .seqTag => .seqTag p
  | .seqDescribe => .seqDescribe p
  | .append => .append p
  | .appendBulk => .appendBulk p
  | .pageList => .pageList p
  | .attend => .attend p
  | .attendBatch => .attendBatch p
  | .gradAttend => .gradAttend p
  | .gradRead => .gradRead p
  | .gradClear => .gradClear p
  | .recall => .recall p
  | .recallAttend => .recallAttend p
  | .patInvalidate => .patInvalidate p
  | .patWrite => .patWrite p
  | .patValidate => .patValidate p
  | .patUnload => .patUnload p
  | .patDescribe => .patDescribe p
  | .progLoad => .progLoad p
  | .progUnload => .progUnload p
  | .progDescribe => .progDescribe p
  | .modelInstall => .modelInstall p
  | .modelDescribe => .modelDescribe p
  | .windowRekey => .windowRekey p
  | .windowDescribe => .windowDescribe p
  | .trigPost => .trigPost p
  | .trigCancel => .trigCancel p
  | .trigDescribe => .trigDescribe p
  | .mapPush => .mapPush p
  | .mapDescribe => .mapDescribe p
  | .ptnCreate => .ptnCreate p
  | .ptnModify => .ptnModify p
  | .ptnReset => .ptnReset p
  | .ptnDestroy => .ptnDestroy p
  | .ptnDescribe => .ptnDescribe p
  | .fwStage => .fwStage p
  | .fwCheck => .fwCheck p
  | .fwActivate => .fwActivate p
  | .fwAbort => .fwAbort p
  | .fwDescribe => .fwDescribe p
  | .attest => .attest p
  | .certRead => .certRead p
  | .keyInstall => .keyInstall p
  | .keyRevoke => .keyRevoke p
  | .nodeDescribe => .nodeDescribe p
  | .regRead => .regRead p
  | .regWrite => .regWrite p
  | .logRead => .logRead p
  | .telRead => .telRead p
  | .healthRead => .healthRead p
  | .stackState => .stackState p

/-- What follows the arrival of a command: appends that can answer do, engines take what waits for them, and what waited goes
on. -/
def Op.after (op : Op) (s : Machine.State) : Machine.State :=
  match op with
  | .attend | .attendBatch | .gradAttend => s.progress.dispatch.resume
  | .mapPush => s.progress.schedule.resume
  | _ => s.progress.resume

end Sys2Proof

open Sys2Proof Sys2Proof.Machine

/-! ## The queue, the invariants -/

/-- A step of a state with a command at the front of its queue is that command's effect on the state with the queue's rest
(the model's own queue, log 1). -/
def Obligations.StepRunsTheFrontCommand : Prop :=
  ∀ (c : Instr) (rest : List Instr) (s : State), step { s with pending := c :: rest } = exec c { s with pending := rest }

/-- With an empty queue a step answers a next state whose time-stamp counter has advanced by 2 ns. What passes then changes telemetry, the
log, the outputs, the I3C interrupt, the log's status and the host ports' status and XOFFs, and nothing else: no other register, table, store,
partition, engine, slot, map, link or command. While RESET_N holds the node, and after a thermal trip, a step changes nothing (the model's
choice, logs 1 and 42). -/
def Obligations.IdleStepPassesOneCycle : Prop :=
  (∀ s : State, s.pending = [] → s.pow.phase ≠ .held → s.pow.phase ≠ .tripped → ∃ t : State, step s = .next t ∧
    t.pow = { s.pow with tsc := s.pow.tsc + 2 } ∧ t.boot = s.boot ∧ t.trust = s.trust ∧ t.store = s.store ∧ t.hbm = s.hbm ∧
    t.flash = s.flash ∧ t.staging = s.staging ∧ t.ptns = s.ptns ∧ t.eng = s.eng ∧ t.slots = s.slots ∧ t.rcl = s.rcl ∧
    t.cmds = s.cmds ∧ t.map = s.map ∧ t.fab = s.fab ∧ t.host.ctxs = s.host.ctxs ∧ t.host.queues = s.host.queues ∧
    t.host.chains = s.host.chains ∧ t.host.sessions = s.host.sessions ∧ t.pending = [] ∧
    (∀ r : Reg, (∀ n : Fin 4, r.offset ≠ (Reg.hptPortSts n).offset) → r.offset ≠ Reg.logSts.offset → t.kept r = s.kept r)) ∧
  (∀ s : State, s.pending = [] → s.pow.phase = .held ∨ s.pow.phase = .tripped → step s = .next s)

/-- Every command answers a next state from every state, in which the commands that wait behind it wait as before. -/
def Obligations.NoCommandTouchesTheQueue : Prop :=
  ∀ (c : Instr) (s : State), ∃ t : State, exec c s = .next t ∧ t.pending = s.pending

/-- While the trust core may use identity indices, the next one is at most its limit and the limit is what the newest
durable record reserves, and no more than 64 advances of the security version have been made: every step keeps this, from any state. -/
def Obligations.EveryStepKeepsIndexAndFuses : Prop :=
  ∀ s t : State, s.Inv → step s = .next t → t.Inv

/-- The state after reset meets the invariant that every step keeps. -/
def Obligations.ResetMeetsIndexAndFuses : Prop := State.reset.Inv

/-- From a state in which the trust core's index is reserved, no step lowers the newest durable reservation of identity
indices or SEC_SVN_MIN, and none changes a recorded node ID. -/
def Obligations.NoStepTakesTrustBack : Prop :=
  ∀ s t : State, s.Inv → step s = .next t → s.Onward t

/-- After reset every register reads its reset value, time is zero, the power state is RIDE, nothing is stored, no partition,
context, session or sequence exists, no map is held, the health score is 1,000, engines 0 to 63 are in use and 64 to 67 are
spare, and no command waits (the phase, the pins and what is not a register are the model's choices, logs 12 and 13). -/
def Obligations.ResetStateIsBlank : Prop :=
  (∀ r : Reg, State.reset.kept r = r.rst) ∧ State.reset.pow.tsc = 0 ∧ State.reset.pow.state = .ride ∧
  State.reset.pow.phase = .held ∧ State.reset.store.seqs = [] ∧ State.reset.store.pages = [] ∧ State.reset.store.nss = [] ∧
  (∀ n, State.reset.ptn? n = none) ∧ State.reset.host.ctxs = [] ∧ State.reset.host.sessions = [] ∧
  State.reset.map.map = none ∧ State.reset.map.score = 1000 ∧
  (∀ e x, State.reset.eng.engines[e]? = some x → (x.inUse = true ↔ e < 64)) ∧ State.reset.log.records = [] ∧
  State.reset.pending = []

/-! ## Admission -/

/-- For each of the 61 opcodes and from any source, a command that is taken at once and passes steps 1 to 8 of R274 does what
its opcode's definition does on the state at step 9, and what waited goes on. -/
def Obligations.AdmittedCommandRunsItsMeaning : Prop :=
  ∀ (op : Op) (p : Packet) (s u : State) (c : Cmd), admission op p s = some (c, u) →
    exec (op.command p) s = .next (op.after (u.settle c ((opDef op).run c u)))

/-- A host's command that is taken at once: with its partition fenced or in reset it is refused `PARTITION_FENCED`; with no
partition `DENIED`; else with a bad header `BAD_PARAM`; else with a payload that does not open the status of R268; else
without the opcode's privilege `DENIED`. A payload whose tag fails is also counted for the context and raises SEAL_FAIL of the partition and of the
security status, the latter with event 1 of class 9 that names the context and the request. Beside that and the refusal nothing changes, and what waited on the node goes on. -/
def Obligations.FirstFailedStepGivesTheStatus : Prop :=
  ∀ (op : Op) (p : Packet) (s u : State) (x n : Nat), p.src = .host x n → taken op p s = some u →
    (∀ q, u.ptn? (u.srcPtn p.src) = some q → q.fenced = true ∨ q.resetting = true →
      exec (op.command p) s = .next (op.after (u.refuse op p (u.srcPtn p.src) .partitionFenced none 0))) ∧
    (u.ptn? (u.srcPtn p.src) = none →
      exec (op.command p) s = .next (op.after (u.refuse op p (u.srcPtn p.src) .denied none 0))) ∧
    (ptnTakes p u = true → u.headerOk p = false →
      exec (op.command p) s = .next (op.after (u.refuse op p (u.srcPtn p.src) .badParam none 0))) ∧
    (∀ st, ptnTakes p u = true → u.headerOk p = true → u.openPayload op p (u.srcPriv p.src) = .error (st, false) →
      exec (op.command p) s = .next (op.after (u.refuse op p (u.srcPtn p.src) st none 0))) ∧
    (∀ st, ptnTakes p u = true → u.headerOk p = true → u.openPayload op p (u.srcPriv p.src) = .error (st, true) →
      exec (op.command p) s = .next (op.after
        ((((u.count 7 nodeScope (4 * x + 1)).raise (.ptnSts (u.srcPtn p.src)) 2 (Rec.event (u.srcPtn p.src))).raise .secSts 9
          ⟨9, 1, 0, u.srcPtn p.src, 0, leBytes 2 x ++ zeroBytes 6 ++ leBytes 8 p.reqId.toNat⟩).refuse op p (u.srcPtn p.src) st none 0))) ∧
    (∀ data, ptnTakes p u = true → u.headerOk p = true → u.openPayload op p (u.srcPriv p.src) = .ok data →
      op.granted p.src (u.srcPriv p.src) = false →
      exec (op.command p) s = .next (op.after (u.refuse op p (u.srcPtn p.src) .denied none 0)))

/-! ## Namespaces and sequences -/

/-- An admitted NS_CREATE of a number that the node does not hold appends the namespace: its number, owning partition, RECALL and
SELF_PLACED flags, durability level, MAX_SEQ, node list and index list are those of the request, it keeps the request, and it has
no current and no retained recall model. An admitted NS_MODIFY sets MAX_SEQ of the namespace named and changes nothing else of it. An
admitted NS_DELETE of a namespace of which the node holds nothing removes it and its empty index segments. Each also adds one delta
record of the namespace and replies `OK`. NS_CREATE of a number that is held, and NS_DELETE of a namespace of which the node holds something,
are refused `CONFLICT` with no other effect. In each case what waited on the node then goes on. -/
def Obligations.NamespaceCommandsTakeEffect : Prop :=
  (∀ (p : Packet) (s u : State) (c : Cmd), admission .nsCreate p s = some (c, u) → u.ns? (field c.data 0 2) = none →
    let x : Ns :=
      { num := field c.data 0 2, ptn := field c.data 2 1, recallOn := bit (field c.data 3 1) 0, selfPlaced := bit (field c.data 3 1) 1,
        level := field c.data 4 1, maxSeq := field c.data 8 4, nodes := (nsNodes c.data).map (BitVec.ofNat 12),
        index := (nsIndex c.data).map (BitVec.ofNat 12), current := none, retained := none, createPayload := c.data }
    exec (.nsCreate p) s = .next
      ((({ u with store := { u.store with nss := u.store.nss ++ [x] } } : State).delta [.ns x.num]).answered c [])) ∧
  (∀ (p : Packet) (s u : State) (c : Cmd), admission .nsCreate p s = some (c, u) → (u.ns? (field c.data 0 2)).isSome = true →
    exec (.nsCreate p) s = .next (u.refused c .conflict)) ∧
  (∀ (p : Packet) (s u : State) (c : Cmd), admission .nsModify p s = some (c, u) →
    let l := updWhere (fun x => x.num == field c.data 0 2) (fun x => { x with maxSeq := field c.data 4 4 }) u.store.nss
    exec (.nsModify p) s = .next
      ((({ u with store := { u.store with nss := l } } : State).delta [.ns (field c.data 0 2)]).answered c [])) ∧
  (∀ (p : Packet) (s u : State) (c : Cmd), admission .nsDelete p s = some (c, u) → u.nsUsed (field c.data 0 2) = false →
    exec (.nsDelete p) s = .next ((({ u with
      store := { u.store with nss := u.store.nss.filter fun x => !(x.num == field c.data 0 2) }
      rcl := { u.rcl with segments := u.rcl.segments.filter fun g => !(g.name.ns == field c.data 0 2) } } : State).delta
        [.ns (field c.data 0 2)]).answered c [])) ∧
  (∀ (p : Packet) (s u : State) (c : Cmd), admission .nsDelete p s = some (c, u) → u.nsUsed (field c.data 0 2) = true →
    exec (.nsDelete p) s = .next (u.refused c .conflict))

/-- Admitted commands. SEQ_CREATE of a new handle with room adds the sequence as the request describes it, sends the step to the
tandem and replies `OK`. SEQ_TAG sets the tag, adds a delta record, sends the step and replies `OK`. SEQ_DELETE sends the step,
removes the sequence and ends what waited on it; TRUNCATE with every page at hand cuts the layers at T and sends the step; FORK with the child's home here and every
page at hand makes the child, sends the child's contents first where its tandem is not the parent's, and sends the step: each of these three is held until its tandem
has the step (a map gives every home a tandem). FORK with the child's home elsewhere and no unsealed page below f sends FORK_CREATE and is held until it is accepted.
SEQ_DESCRIBE replies with the body of R307, PAGE_LIST with up to MAX records of R311 in
block order from the first block asked for and the next block; these two change nothing but what a reply changes. In each case what waited
on the node then goes on. -/
def Obligations.SequenceCommandsTakeEffect : Prop :=
  (∀ (p : Packet) (s u : State) (c : Cmd) (r : SeqCreateReq), admission .seqCreate p s = some (c, u) →
    parseSeqCreate c.data = some r → u.seq? r.seq = none → u.seqRoom (nsOf r.seq) = true →
    exec (.seqCreate p) s = .next (((u.addSeq (freshSeq r .live)).mirrorMsg r.seq c.pkt.reqId (.stepCreate r)).answered c [])) ∧
  (∀ (p : Packet) (s u : State) (c : Cmd), admission .seqTag p s = some (c, u) →
    let h := seqAt0 c.data
    let tag : Word32 := BitVec.ofNat 32 (field c.data 8 4)
    exec (.seqTag p) s = .next ((((u.updSeq h fun q => { q with tag := tag }).delta [.seq h]).mirrorMsg h c.pkt.reqId
      (.stepTag h tag)).answered c [])) ∧
  (∀ (p : Packet) (s u v : State) (c : Cmd) (n : NodeId) (k : Nat), admission .seqDelete p s = some (c, u) →
    u.mirrorWait (seqAt0 c.data) c.pkt.reqId (.stepDelete (seqAt0 c.data)) = (some (n, k), v) →
    let t := v.removeSeq true (seqAt0 c.data)
    exec (.seqDelete p) s = .next ((t.endWaits (seqAt0 c.data) t.cmds.list).held c (.mirror n k (seqAt0 c.data)))) ∧
  (∀ (p : Packet) (s u v t : State) (c : Cmd) (q : Seq) (n : NodeId) (k : Nat), admission .truncate p s = some (c, u) →
    let h := seqAt0 c.data
    u.seq? h = some q → field c.data 8 4 ≤ q.tokLen → u.cutMissing q (field c.data 8 4) = [] → u.truncHome h (field c.data 8 4) = some v →
    v.mirrorWait h c.pkt.reqId (.stepTruncate h (field c.data 8 4)) = (some (n, k), t) →
    exec (.truncate p) s = .next (t.held c (.mirror n k h))) ∧
  (∀ (p : Packet) (s u v t : State) (c : Cmd) (r : ForkReq) (q x : Seq) (n : NodeId) (k : Nat), admission .fork p s = some (c, u) →
    parseFork c.data = some r → u.seq? r.parent = some q → u.seq? r.child = none → q.covers r.f = true → u.cutMissing q r.f = [] →
    u.isHome r.child = true → u.refsOk q r.f = true → u.seqRoom (nsOf r.child) = true → u.forkHere r = some v → v.seq? r.child = some x →
    v.tandemOf r.child = some n →
    (if v.tandemOf r.child = v.tandemOf r.parent then v else v.resyncSeq n 5 x).mirrorWait r.child c.pkt.reqId (.stepFork r) = (some (n, k), t) →
    exec (.fork p) s = .next (t.held c (.mirror n k r.child))) ∧
  (∀ (p : Packet) (s u : State) (c : Cmd) (r : ForkReq) (q : Seq) (n : NodeId), admission .fork p s = some (c, u) →
    parseFork c.data = some r → u.seq? r.parent = some q → u.seq? r.child = none → q.covers r.f = true → u.cutMissing q r.f = [] →
    u.isHome r.child = false → u.homeOf r.child = some n → u.refsOk q r.f = true → u.unsealedBelow q r.f = [] →
    let x := u.sendForkCreate c.pkt.reqId r n q
    exec (.fork p) s = .next (x.2.held c (.forkAccept r (BitVec.ofNat 32 x.1)))) ∧
  (∀ (p : Packet) (s u : State) (c : Cmd) (q : Seq), admission .seqDescribe p s = some (c, u) → u.seq? (seqAt0 c.data) = some q →
    let node := fun (o : Option NodeId) => leBytes 2 ((o.map (·.toNat)).getD 0)
    exec (.seqDescribe p) s = .next (u.answered c
      (leBytes 8 q.handle.toNat ++ leBytes 2 q.layers.length ++ leBytes 1 q.groups.length ++ leBytes 1 (b2n q.shared) ++
       leBytes 4 q.tag.toNat ++ leBytes 4 q.tokLen ++ node (u.homeOf q.handle) ++ node (u.tandemOf q.handle) ++
       leBytes 1 q.replicas.length ++ zeroBytes 7 ++ replicaBytes q.replicas ++ q.groups.flatMap LayerGroup.bytes ++
       (List.range (field c.data 10 2)).flatMap fun i => u.layerRecord q (field c.data 8 2 + i)))) ∧
  (∀ (p : Packet) (s u : State) (c : Cmd) (q : Seq), admission .pageList p s = some (c, u) → u.seq? (seqAt0 c.data) = some q →
    let all := sortBy (fun (x y : Entry) => decide (x.block < y.block))
      ((q.layer (field c.data 8 2)).entries.filter fun e => decide (field c.data 12 4 ≤ e.block))
    let out := all.take (field c.data 16 4)
    let next := match all.drop (field c.data 16 4) with | [] => 0xFFFFFFFF | e :: _ => e.block
    exec (.pageList p) s = .next (u.answered c (leBytes 4 out.length ++ leBytes 4 next ++ zeroBytes 8 ++ out.flatMap u.pageRecord)))

/-- An admitted APPEND or APPEND_BULK whose layers all end at its first position, with token IDs that agree with those recorded
and, at `PERSISTED`, the tier ready and journal room, writes its rows, sends them to the tandem, at `PERSISTED` brings its layers' persisted lengths
up as far as it can, and is held until its level is reached. An admitted APPEND below `PERSISTED` with a layer that ends before its first
position and no wait allowed replies `NOT_YET` with the lowest such layer and its length, and changes nothing else. In each case what waited on
the node then goes on; the reply of the append itself may follow at once. -/
def Obligations.AppendAtTheEndTakesEffect : Prop :=
  (∀ (bulk : Bool) (p : Packet) (s u v w : State) (c : Cmd) (q : Seq) (a : AppendReq),
    admission (if bulk then .appendBulk else .append) p s = some (c, u) →
    u.seq? (seqAt0 c.data) = some q → parseAppend q bulk c.data = some a → u.seq? a.seq = some q →
    (u.levelOf a = 3 → u.persistOk = true ∧ u.journalRoom (journalHalf a.seq) (u.journalNeed a q) = true) →
    u.fit a q = .apply → tokensAgree q a.pos a.tokens = true → u.applyRows true false a c.pkt.reqId c.ptn = some v →
    w = v.mirrorMsg a.seq c.pkt.reqId (.mirrorWrite a) →
    let x := if w.levelOf a = 3 then a.layers.foldl (fun s l => s.persist a.seq l (a.pos + a.count)) w else w
    (bulk = false → exec (.append p) s = .next (x.held c (.level a false))) ∧
    (bulk = true → exec (.appendBulk p) s = .next (x.held c (.level a false)))) ∧
  (∀ (p : Packet) (s u : State) (c : Cmd) (q : Seq) (a : AppendReq), admission .append p s = some (c, u) →
    u.seq? (seqAt0 c.data) = some q → parseAppend q false c.data = some a → u.levelOf a ≠ 3 → u.seq? a.seq = some q →
    u.fit a q = .gap → a.timeoutUs = 0 →
    exec (.append p) s = .next (u.answered c (notYetBytes q ((a.layers.find? fun l => decide ((q.layer l).length < a.pos)).getD 0)) .notYet))

/-! ## Contexts, queues, windows and chains (11_command_reference.md, 12_host_ports.md) -/

namespace Sys2Proof.Machine

/-- The bytes of a context's window. -/
def State.windowBytes (s : State) (n : Nat) : Mem := ((s.ctx? n).map (·.window)).getD []

/-- The state in which a window's bytes are set and the queues whose head word lies among them have taken the counts now held. -/
def State.windowSet (s : State) (q : Queue) (c : Ctx) (off len : Nat) (w : Mem) : State :=
  (((s.countFrame q).updCtx c.num fun x => { x with window := w }).noteHeads c.num off len w)

end Sys2Proof.Machine

/-- Admitted, with a die, queue and quota room: CTX_CREATE issues the next key of the context's number, adds the context of the number, partition, class
and window size asked for, with a zeroed window at an aligned base (the node's choice, log 16), four empty key slots and a new window key,
clears its counters, adds its queue, and replies with the queue reply and the window reply. QUEUE_CREATE adds a
queue to the context it came on and replies with the queue reply. QUEUE_DESTROY removes the queue, if there is one. CTX_DESTROY ends waiting rekeys, removes the context's
queues, chains and keys and leaves the window to its revocation. WINDOW_REKEY issues the next key and is held until the revocation
completes: REVOCATION_COMPLETE then lets the rekeys of the context reply, and for a destroyed context it frees the context. WINDOW_DESCRIBE replies with
key, base and size of the window and changes nothing else. After each command but REVOCATION_COMPLETE what waited goes on. -/
def Obligations.ContextAndQueueCommandsTakeEffect : Prop :=
  (∀ (p : Packet) (s u v : State) (c : Cmd) (d : Die), admission .ctxCreate p s = some (c, u) → u.windowDie = some d →
    u.queueRoom (field c.data 0 2) (field c.data 2 1) = true → u.quotaRoom (field c.data 2 1) (windowFrames (field c.data 4 1)) = some v →
    let w := (v.issueKey (field c.data 0 2)).2
    let x : Ctx :=
      { num := field c.data 0 2, ptn := field c.data 2 1, tclass := field c.data 3 1, winLog2 := field c.data 4 1,
        base := BitVec.ofNat 64 (Config.windowBase w.freeCtr * 2 ^ field c.data 4 1), rkeySerial := (v.issueKey (field c.data 0 2)).1,
        window := [], keys := List.replicate 4 none, winKey := w.trust.nextKey, winDie := d, revoking := none }
    let q := w.newQueue (c.data.drop 16) x.num x.ptn
    let t := (({ w with host := { w.host with ctxs := w.host.ctxs ++ [x] }
                        trust := { w.trust with nextKey := w.trust.nextKey + 1 } } : State).clearCtxCounters x.num).addQueue q
    exec (.ctxCreate p) s = .next (t.answered c (t.queueReply q ++ x.windowReply))) ∧
  (∀ (p : Packet) (s u : State) (c : Cmd), admission .queueCreate p s = some (c, u) → u.queueRoom c.ctx c.ptn = true →
    let q := u.newQueue c.data c.ctx c.ptn
    exec (.queueCreate p) s = .next ((u.addQueue q).answered c (u.queueReply q)) ∧ q.ctx = c.ctx ∧ q.ptn = c.ptn ∧
      q.num = field c.data 6 2 ∧ q.port = field c.data 0 1 ∧ q.qdepth = field c.data 2 2 ∧ q.ringLog2 = field c.data 4 1 ∧ q.err = false ∧ q.waiting = []) ∧
  (∀ (p : Packet) (s u : State) (c : Cmd), admission .queueDestroy p s = some (c, u) →
    (∀ q, u.ctxQueue? c.ctx (field c.data 0 2) = some q →
      exec (.queueDestroy p) s = .next ((u.removeQueue q).answered c []) ∧ (u.removeQueue q).queue? q.qpn = none) ∧
    (u.ctxQueue? c.ctx (field c.data 0 2) = none → exec (.queueDestroy p) s = .next (u.answered c []))) ∧
  (∀ (p : Packet) (s u : State) (c : Cmd), admission .ctxDestroy p s = some (c, u) →
    exec (.ctxDestroy p) s = .next ((u.destroyCtx (field c.data 0 2)).answered c [])) ∧
  (∀ (p : Packet) (s u : State) (c : Cmd) (x : Ctx), admission .windowRekey p s = some (c, u) → u.ctx? c.ctx = some x →
    exec (.windowRekey p) s = .next (((u.issueKey x.num).2.updCtx x.num fun y =>
      { y with rkeySerial := (u.issueKey x.num).1, revoking := some (some u.cmds.nextId) }).held c (.rekey x.num))) ∧
  (∀ (s : State) (n id : Nat) (x : Ctx), s.ctx? n = some x → x.revoking = some (some id) →
    exec (.revocationComplete n) s = .next ((s.updCtx n fun c => { c with revoking := none }).endRekeys n s.cmds.list)) ∧
  (∀ (s : State) (n : Nat) (x : Ctx), s.ctx? n = some x → x.revoking = some none →
    exec (.revocationComplete n) s = .next { s with host := { s.host with ctxs := s.host.ctxs.filter fun c => !(c.num == n) } }) ∧
  (∀ (p : Packet) (s u : State) (c : Cmd) (x : Ctx), admission .windowDescribe p s = some (c, u) → u.ctx? c.ctx = some x →
    exec (.windowDescribe p) s = .next (u.answered c (leBytes 4 x.rkey.toNat ++ zeroBytes 4 ++ leBytes 8 x.base.toNat ++ leBytes 8 (2 ^ x.winLog2))))

/-- An admitted TRIG_POST with a free place adds an armed chain of the context with the number, queue, match and work requests of the request, in the place of a fired
one, and replies `OK`. TRIG_CANCEL of an armed chain removes it and replies 0, of a firing one changes nothing and replies 1, of a fired one removes it
and replies 1, of none replies 2. TRIG_DESCRIBE replies with 16 zero bytes for no chain, else with STATE (1 armed or firing, 2 fired), the number of
requests and the match. After each of these what waited goes on. TRIGGER_WR_COMPLETE for a firing chain whose requests have all been posted takes it to STATE 2; with a NAK it
takes the chain's queue pair to the error state instead. -/
def Obligations.TriggerChainsTakeEffect : Prop :=
  (∀ (p : Packet) (s u : State) (c : Cmd) (q : Queue) (l : List Wr), admission .trigPost p s = some (c, u) →
    u.ctxQueue? c.ctx (field c.data 2 2) = some q → trigWrs c.data = some l →
    (u.dropChain c.ptn (field c.data 0 2)).host.chains.length < 65536 →
    let x : Chain := { ptn := c.ptn, num := field c.data 0 2, ctx := c.ctx, queue := q.qpn, reqMatch := BitVec.ofNat 64 (field c.data 8 8),
                       wrs := l, state := .armed, reply := none }
    let t := u.dropChain c.ptn (field c.data 0 2)
    exec (.trigPost p) s = .next (({ t with host := { t.host with chains := t.host.chains ++ [x] } } : State).answered c [])) ∧
  (∀ (p : Packet) (s u : State) (c : Cmd), admission .trigCancel p s = some (c, u) →
    let n := field c.data 0 2
    (∀ x, u.chain? c.ptn n = some x → x.state = .armed → exec (.trigCancel p) s = .next ((u.dropChain c.ptn n).answered c (leBytes 1 0 ++ zeroBytes 7))) ∧
    (∀ x, u.chain? c.ptn n = some x → x.state = .firing → exec (.trigCancel p) s = .next (u.answered c (leBytes 1 1 ++ zeroBytes 7))) ∧
    (∀ x, u.chain? c.ptn n = some x → x.state = .fired → exec (.trigCancel p) s = .next ((u.dropChain c.ptn n).answered c (leBytes 1 1 ++ zeroBytes 7))) ∧
    (u.chain? c.ptn n = none → exec (.trigCancel p) s = .next (u.answered c (leBytes 1 2 ++ zeroBytes 7)))) ∧
  (∀ (p : Packet) (s u : State) (c : Cmd), admission .trigDescribe p s = some (c, u) →
    (u.chain? c.ptn (field c.data 0 2) = none → exec (.trigDescribe p) s = .next (u.answered c (zeroBytes 16))) ∧
    (∀ x, u.chain? c.ptn (field c.data 0 2) = some x → exec (.trigDescribe p) s = .next (u.answered c
      (leBytes 1 (if x.state = .fired then 2 else 1) ++ leBytes 1 x.wrs.length ++ zeroBytes 6 ++ leBytes 8 x.reqMatch.toNat)))) ∧
  (∀ (s : State) (ptn : Fin 32) (n : Nat) (x : Chain), s.chain? ptn n = some x → x.state = .firing → x.reply = none →
    exec (.triggerWrComplete ptn n false) s = .next (s.updChain ptn n fun y => { y with state := .fired }) ∧
    ((s.queue? x.queue).isSome → exec (.triggerWrComplete ptn n true) s = .next (s.queueError x.queue)))

/-- On a queue that can receive, with the context's key and every byte inside the window: a WRITE stores its bytes and is acknowledged;
an aligned FETCH_AND_ADD stores the sum modulo 2^64, an aligned COMPARE_AND_SWAP stores the swap where the word held equals the compare, and each
returns what the word held; queues whose head word the stored bytes touch take the count now held, and then what waited goes on. A READ returns
the bytes. The frame is counted for the port; nothing else changes. -/
def Obligations.WindowOperationsTakeEffect : Prop :=
  ∀ (s : State) (qpn : Nat) (a : RdmaAddr) (q : Queue) (c : Ctx) (off : Nat), s.receives qpn = some q →
    (∀ data, s.windowAt q a data.length = some (c, off) →
      exec (.windowRdmaWrite qpn a data) s = .next
        ((s.windowSet q c off data.length (Mem.writeList c.window off data)).emit (.writeAck qpn)).resume) ∧
    (∀ len, s.windowAt q a len = some (c, off) →
      exec (.windowRdmaRead qpn a len) s = .next
        (((s.count 5 nodeScope (16 * q.port + 1)).post qpn .response len false).emit (.readResponse qpn (Mem.readList c.window off len)))) ∧
    (∀ add : Word64, a.addr.toNat % 8 = 0 → s.windowAt q a 8 = some (c, off) →
      let old := leNat (Mem.readList c.window off 8)
      let w := Mem.writeList c.window off (leBytes 8 ((old + add.toNat) % 2 ^ 64))
      exec (.fetchAndAdd qpn a add) s = .next
        (((s.windowSet q c off 8 w).post qpn .response 8 false).emit (.atomicResponse qpn (BitVec.ofNat 64 old))).resume) ∧
    (∀ cmp swap : Word64, a.addr.toNat % 8 = 0 → s.windowAt q a 8 = some (c, off) →
      let old := leNat (Mem.readList c.window off 8)
      let w := Mem.writeList c.window off (leBytes 8 (if old = cmp.toNat then swap.toNat else old))
      exec (.compareAndSwap qpn a cmp swap) s = .next
        (((s.windowSet q c off 8 w).post qpn .response 8 false).emit (.atomicResponse qpn (BitVec.ofNat 64 old))).resume)

/-- From a window in canonical form: a WRITE that is accepted leaves, before what waited goes on, a state in which a READ of the same bytes returns the data
written, every byte outside them reads as before, no other context's window has changed, and the window is in canonical form again. -/
def Obligations.WindowWriteReadsBack : Prop :=
  ∀ (s : State) (qpn : Nat) (a : RdmaAddr) (data : List Byte) (q : Queue) (c : Ctx) (off : Nat), s.receives qpn = some q →
    s.windowAt q a data.length = some (c, off) → Mem.wf c.window = true →
    ∃ t : State, exec (.windowRdmaWrite qpn a data) s = .next t.resume ∧ Mem.wf (t.windowBytes c.num) = true ∧
      (∀ x, x < off ∨ off + data.length ≤ x → Mem.read (t.windowBytes c.num) x = Mem.read c.window x) ∧
      (∀ n, n ≠ c.num → t.windowBytes n = s.windowBytes n) ∧
      ∃ v : State, exec (.windowRdmaRead qpn a data.length) t = .next v ∧ v.out = .readResponse qpn data :: t.out

/-- A WRITE, a READ, or an atomic operation on an aligned word that arrives on a queue with a key that is not its context's, or that addresses a
byte outside the window, is answered with a remote-access-error NAK, changes no context (so no window), and takes the queue pair to the error state; after a WRITE
or an atomic operation what waited goes on. -/
def Obligations.WindowRefusesStrangers : Prop :=
  ∀ (s : State) (qpn : Nat) (a : RdmaAddr) (q : Queue) (c : Ctx), s.receives qpn = some q → s.ctx? q.ctx = some c →
    let strange := fun (len : Nat) => a.rkey ≠ c.rkey ∨ a.addr.toNat < c.base.toNat ∨ c.base.toNat + 2 ^ c.winLog2 < a.addr.toNat + len
    ∃ t : State, t.host.ctxs = s.host.ctxs ∧ Output.accessNak qpn ∈ t.out ∧ ((t.queue? qpn).map (·.err)) = some true ∧
      (∀ data : List Byte, strange data.length → exec (.windowRdmaWrite qpn a data) s = .next t.resume) ∧
      (∀ len, strange len → exec (.windowRdmaRead qpn a len) s = .next t) ∧
      (∀ add, a.addr.toNat % 8 = 0 → strange 8 → exec (.fetchAndAdd qpn a add) s = .next t.resume) ∧
      (∀ cmp swap, a.addr.toNat % 8 = 0 → strange 8 → exec (.compareAndSwap qpn a cmp swap) s = .next t.resume)

/-- On a queue that can receive: a SEND shorter than 32 B or longer than 65,536 B takes the queue pair to the error state; one
without a buffer draws a receiver-not-ready NAK; a WRITE with immediate draws an invalid-request NAK; each frame is counted. A newer consumed count
is recorded, replies that waited are written as far as they fit, and what waited goes on. On a queue pair with unacknowledged messages an acknowledgement timeout within
RETRY_CNT counts the retry, halves the rate down to RMIN where rate control is on, and sends every unacknowledged message again, and beyond it takes the queue pair
to the error state; a receiver-not-ready NAK does the same by RNR_RETRY, 7 being no limit, without touching the rate. A command of any
opcode beyond the queue's depth of waiting commands draws a receiver-not-ready NAK and is not taken; what waited goes on. -/
def Obligations.TransportErrorsTakeEffect : Prop :=
  (∀ (s : State) (qpn len : Nat) (q : Queue), s.receives qpn = some q → len < 32 ∨ 65536 < len →
    exec (.sendLengthError qpn len) s = .next ((s.count 5 nodeScope (16 * q.port + 1)).queueError qpn)) ∧
  (∀ (s : State) (qpn : Nat) (q : Queue), s.receives qpn = some q →
    exec (.sendNoBuffer qpn) s = .next ((s.count 5 nodeScope (16 * q.port + 1)).emit (.rnrNak qpn)) ∧
    exec (.rdmaWriteImmReceived qpn) s = .next ((s.count 5 nodeScope (16 * q.port + 1)).emit (.invalidNak qpn))) ∧
  (∀ (s : State) (qpn : Nat) (n : Word32), exec (.replyRingSpace qpn n) s =
    .next ((s.updQueue qpn fun q => { q with consumed := n.toNat }).flush qpn).resume) ∧
  (∀ (s : State) (qpn : Nat) (q : Queue), s.queue? qpn = some q → q.err = false → q.posted ≠ [] →
    (s.rf .hptRc 5 3 ≤ q.retries → exec (.ackTimeout qpn) s = .next (s.queueError qpn)) ∧
    (q.retries < s.rf .hptRc 5 3 →
      let r : Rat := if ccOn s then max (s.rmin : Rat) (q.rate / 2) else q.rate
      exec (.ackTimeout qpn) s = .next ((s.updQueue qpn fun x => { x with retries := x.retries + 1, rate := r }).goBack qpn)) ∧
    (s.rf .hptRc 8 3 ≠ 7 → s.rf .hptRc 8 3 ≤ q.rnrRetries → exec (.rnrNakReceived qpn) s = .next (s.queueError qpn)) ∧
    (s.rf .hptRc 8 3 = 7 ∨ q.rnrRetries < s.rf .hptRc 8 3 →
      exec (.rnrNakReceived qpn) s = .next ((s.updQueue qpn fun x => { x with rnrRetries := x.rnrRetries + 1 }).goBack qpn))) ∧
  (∀ (op : Op) (p : Packet) (s : State) (x n : Nat) (q : Queue), p.src = .host x n → s.ctxQueue? x n = some q → q.err = false →
    (s.port q.port).state = 2 → q.qdepth ≤ q.backlog.length →
    exec (op.command p) s = .next (op.after (s.emit (.rnrNak q.qpn))))

/-- An acknowledgement of the first k messages of a queue pair releases them, clears its retries, takes the delay sample (R351), lets tail words and
chains follow in order, then replies that waited, then what waited goes on. A CNP marks the queue pair. A CE mark draws a CNP where CNP_EN is set and 50 us have passed since the last,
else none. An update period sets the rate that R351 gives and clears the mark and the least delay; an idle
reset sets the line rate. A port that is up in RIDE starts the frame chosen: it leaves its queue pair, whose next start follows by its rate on
the timing wheel; the deficits, the class and the queue pair served last and the class's tokens are updated; the frame and its bytes are counted. A running gate cycle goes to its next entry. A PFC frame of a
selected priority on a port that is up pauses it, with no quanta resumes it; a pause ends by its expiry. A link change of an enabled port sets the state, raises LINK
with its record, and a configuration that waited for the port goes on. -/
def Obligations.HostPortEventsTakeEffect : Prop :=
  (∀ (s : State) (qpn k d : Nat) (q : Queue), s.queue? qpn = some q → q.err = false →
    let v := s.updQueue qpn fun x =>
      { x with posted := x.posted.drop k, retries := 0, rnrRetries := 0
               srtt := some (match x.srtt with | none => (d : Rat) | some o => o + ((d : Rat) - o) / 8)
               minDelay := some (match x.minDelay with | some m => min m d | none => d) }
    exec (.transportAck qpn k d) s = .next (((q.posted.take k).foldl (fun s p => s.afterAck qpn p) v).flush qpn).resume) ∧
  (∀ (s : State) (qpn : Nat) (q : Queue), s.receives qpn = some q →
    exec (.cnpReceived qpn) s = .next ((s.updQueue qpn fun x => { x with cnpSeen := true }).count 5 nodeScope (16 * q.port + 10)) ∧
    (s.rf .hptCc2 17 1 = 1 → (∀ t, q.cnpAt = some t → t + 50000 ≤ s.pow.tsc.toNat) →
      exec (.cePacketReceived qpn) s = .next ((((s.count 5 nodeScope (16 * q.port + 1)).updQueue qpn fun x =>
        { x with cnpAt := some s.pow.tsc.toNat }).count 5 nodeScope (16 * q.port + 9)).emit (.cnp qpn))) ∧
    (s.rf .hptCc2 17 1 = 0 ∨ (∃ t, q.cnpAt = some t ∧ s.pow.tsc.toNat < t + 50000) →
      exec (.cePacketReceived qpn) s = .next (s.count 5 nodeScope (16 * q.port + 1)))) ∧
  (∀ (s : State) (qpn : Nat) (q : Queue), s.queue? qpn = some q →
    exec (.ccUpdatePeriod qpn) s = .next (s.updQueue qpn fun x => { x with rate := s.newRate q, minDelay := none, cnpSeen := false }) ∧
    exec (.qpIdleReset qpn) s = .next (s.updQueue qpn fun x => { x with rate := s.lineRate q.port })) ∧
  (∀ (s : State) (n : Fin 4) (q : Queue) (c : Nat) (d : List Nat), (s.port n).state = 2 → s.pow.state = .ride →
    (s.accrue n).chooseFrame n = some (q, c, d) →
    let v := s.accrue n
    let len := q.egress.headD 0
    let rate : Rat := if ccOn v then q.rate else v.lineRate n
    let v' := v.updQueue q.qpn fun x => { x with egress := x.egress.drop 1, wheel := v.wheelAt ((v.pow.tsc.toNat : Rat) + (len * 80 : Nat) / rate) }
    exec (.frameDeparture n) s = .next ((((v'.updPort n fun p =>
      { p with deficits := d, lastClass := if c < 6 then c else p.lastClass, lastQp := updAt c (fun _ => q.qpn) p.lastQp
               tokens := if v'.shpRate n c = 0 then p.tokens else updAt c (· - len * 80) p.tokens }).count 5 nodeScope (16 * n)).count 5
        nodeScope (16 * n + 2) len).emit (.frame n q.qpn len))) ∧
  (∀ (s : State) (n : Fin 4), (s.port n).gateRunning = true →
    exec (.gateEntryExpiry n) s = .next (s.updPort n fun p => { p with gateEntry := (p.gateEntry + 1) % s.hostEnt n, gateAt := s.pow.tsc.toNat })) ∧
  (∀ (s : State) (n : Fin 4) (k : Fin 8) (quanta : Nat), bit (s.rf (.hptPortCtl n) 8 8) k = true → (s.port n).state = 2 →
    exec (.pfcFrameReceived n k quanta) s = .next ((s.updPort n fun x =>
      { x with paused := if quanta = 0 then x.paused.filter (fun y => !(y == (k : Nat))) else addNew (k : Nat) x.paused }).count 5 nodeScope (16 * n + 8))) ∧
  (∀ (s : State) (n : Fin 4) (k : Fin 8),
    exec (.pfcPauseExpiry n k) s = .next (s.updPort n fun x => { x with paused := x.paused.filter fun y => !(y == (k : Nat)) })) ∧
  (∀ (s : State) (n : Fin 4) (up : Bool), (s.port n).state ≠ 0 → (s.port n).state ≠ (if up then 2 else 3) →
    exec (.hostLinkChange n up) s = .next ((s.updPort n fun x => { x with state := if up then 2 else 3 }).raise (.hptPortSts n) 0
      ⟨4, 7, if up then 0 else 1, 0xFF, 64 + n, []⟩).continueConfig)

/-! ## Messages from other nodes: when one is handled -/

namespace Sys2Proof.Machine

/-- The state in which an unordered message is handled: its tag and incarnation pass, and its SEQ was not seen within 1 ms
(R373, R375, R376). None where it is discarded. -/
def heard (h : MsgHdr) (s : State) (beat : Bool := false) : Option State :=
  match (s.gathered h false).screen h beat with
  | (false, _) => none
  | (true, u) =>
    let old := (u.peer h.src).seen.filter fun y => decide (u.pow.tsc.toNat ≤ y.2 + 1000000)
    if old.any fun y => y.1 == h.seq.toNat then none
    else some (u.updPeer h.src fun p => { p with seen := (h.seq.toNat, u.pow.tsc.toNat) :: old })

/-- The state in which a request is answered: it is handled, and the node is not one that has been expelled and whose drain
window is over (R459). -/
def asked (h : MsgHdr) (s : State) : Option State :=
  match heard h s with
  | none => none
  | some u =>
    let gone : Bool := match u.map.map with
      | some m => MapBody.stateOf m u.self == some 2 && u.map.prev.isNone
      | none => false
    if gone then none else some u

/-- The state in which an ordered message is delivered at once: its tag and incarnation pass, and its SEQ is the next of the
stream, which counts as delivered (R374). -/
def inTurn (i : Instr) (s : State) : Option State :=
  match orderedMsg i with
  | none => none
  | some (h, m) =>
    match (s.gathered h true).screen h with
    | (false, _) => none
    | (true, u) =>
      if h.seq.toNat = (u.peer h.src).rxOrd + 1 ∧ ((u.peer h.src).held.any fun x => x.1 == h.seq.toNat) = false then
        some ((u.updPeer h.src fun p => { p with held := p.held ++ [(h.seq.toNat, i)] }).updPeer h.src fun p =>
          { p with rxOrd := p.rxOrd + m.segments, ackOwed := true, held := p.held.filter fun x => decide (p.rxOrd + m.segments < x.1) })
      else none

/-- What follows a delivered message: those that the stream held behind it, and what waited. -/
def State.streamOn (h : MsgHdr) (s : State) : State := (s.drainStream deliver h.src heldLimit).resume

end Sys2Proof.Machine

/-- HANDLE_QUERY, GRAD_REQ, GRAD_REPLY, PARTIAL_REQ and SCAN_REQ (unordered messages): where the node does not listen, the tag
fails, the sender has no key, the incarnation is older than the peer's, or the SEQ was seen within 1 ms, the message changes
nothing of sequences, pages, gradients, records, recall index, flash, stacks and trust core. -/
def Obligations.UnfitMessagesStoreNothing : Prop :=
  ∀ (s t : State) (h : MsgHdr) (i : Instr),
    ((∃ q l b, i = .handleQuery h q l b) ∨ (∃ b, i = .gradReq h b) ∨ (∃ r dq, i = .gradReply h r dq) ∨ (∃ b, i = .partialReq h b) ∨
      (∃ b, i = .scanReq h b)) →
    heard h s = none → exec i s = .next t → t.store = s.store ∧ t.flash = s.flash ∧ t.rcl = s.rcl ∧ t.hbm = s.hbm ∧ t.trust = s.trust

/-- An ordered message from a keyed peer whose incarnation is the peer's, that carries an epoch no newer than the map's and a SEQ
already delivered, is not delivered again: whichever kind of ordered message it is, the node only marks the acknowledgement owed and
counts it, then lets what waited go on. -/
def Obligations.DeliveredSeqIsNotDeliveredAgain : Prop :=
  ∀ (s u : State) (i : Instr) (h : MsgHdr) (m : Msg), orderedMsg i = some (h, m) → (s.gathered h true).screen h = (true, u) →
    h.seq.toNat ≤ (u.peer h.src).rxOrd →
    exec i s = .next ((u.updPeer h.src fun p => { p with ackOwed := true }).count 6 nodeScope (16 * h.link + 14)).resume

/-! ## Attends, gradients and recalls -/

/-- An admitted ATTEND counts, and its token-ID blocks are checked. One of visible length 0 starts drafting, empties its layer's selection record and replies `OK` with an empty
partial. One whose positions have landed, or that may wait and whose layer has lost nothing, is held with its pages and starts at once where it can; one that is short and may
not wait starts drafting and replies `NOT_YET` with the layer's length. ATTEND_BATCH is held, and each of its commands starts as an entry, knowing what all of them select.
When the positions of a waiting ATTEND have landed, ATTEND_POSITIONS_LANDED starts it; when its wait expires first, it replies `NOT_YET`. When its engine step commits with the loop
at its end and no holder asked further, it finishes with its result and its engine is free. Where an engine may be free, work is dispatched. -/
def Obligations.AttendsTakeEffect : Prop :=
  (∀ (p : Packet) (s u : State) (c : Cmd) (q : Seq) (r : AttendReq) (b : Option ProgVer × Option PatVer), admission .attend p s = some (c, u) →
    u.seq? (seqAt0 c.data) = some q → parseAttend q c.data = some r → u.bindAll c.ptn r.program r.k r.filter = .ok b →
    let v := (u.countPtn c.ptn 1 0).verifyTokens q (q.group r.layer) r.vis b.2
    let x := (v.seq? q.handle).getD q
    let len := (x.layer r.layer).length
    (r.vis = 0 →
      exec (.attend p) s = .next (((((v.draft q r c.ptn c.pkt.reqId).updLayer r.seq r.layer fun y => { y with selection := [] }).finish c .ok none 0
        (emptyPartial 0 (x.group r.layer).cv (x.group r.layer).qHeads len r.compact).bytes).progress).dispatch).resume) ∧
    (0 < r.vis → r.vis ≤ len ∨ (x.layer r.layer).loss = none → (r.vis ≤ len ∧ v.windowShort x r.layer r.vis = false) ∨ r.timeoutUs ≠ 0 →
      let run := freshRun x r b.1 b.2
      exec (.attend p) s = .next (((v.admitRun c x (if v.landed x run then run else { run with pins := v.admitPins x r }) [] id).progress).dispatch).resume) ∧
    (len < r.vis → (x.layer r.layer).loss = none → r.timeoutUs = 0 →
      exec (.attend p) s = .next ((((v.draft q r c.ptn c.pkt.reqId).finish c .notYet none 0 (notYetBytes x r.layer)).progress).dispatch).resume)) ∧
  (∀ (p : Packet) (s u : State) (c : Cmd), admission .attendBatch p s = some (c, u) →
    let all := ((batchCmds c).flatMap u.entrySelects).eraseDups
    exec (.attendBatch p) s = .next ((((enumFrom 0 (batchCmds c)).foldl (fun s x => s.entryStart u.cmds.nextId x.1 x.2 all)
      (u.hold c (.batch ((batchCmds c).map fun _ => none)) [])).progress).dispatch).resume) ∧
  (∀ (s : State) (id : Nat) (i : Inflight) (r : AttendRun) (q : Seq), s.inflight? id = some i → i.wait = .positions r →
    s.seq? r.req.seq = some q →
    (s.landed q r = true → exec (.attendPositionsLanded id) s = .next (s.startRun i q r []).dispatch) ∧
    ((q.layer r.req.layer).length < r.req.vis →
      exec (.attendWaitExpiry id) s = .next (s.complete i .notYet none 0 (notYetBytes q r.req.layer)))) ∧
  (∀ (s : State) (e : Fin 68) (y : Engine) (n id : Nat) (i : Inflight) (r : AttendRun) (st : LoopSt),
    s.eng.engines[e.val]? = some y → y.step = some (n, .attend id) → s.inflight? id = some i → i.wait = .attend r →
    let v := (s.updEngine e fun y => { y with step := none }).countStep n e 1
    let w := v.setHeld (v.eng.held.filter fun h => h.step != .attend id)
    let nb := fun (sel : List Handle) (h : Handle) =>
      !r.req.lowlat && !r.nearBank.contains h && [3, 4].any fun k => (w.nbMine r.group.layout [h] ((w.batchPages i ++ sel).eraseDups) k).contains h
    (r.work w.freeCtr).loop r.remotes (fun sel h => w.readable h && !nb sel h) w.groupHere (r.work w.freeCtr).fuel
      ⟨r.selected, r.refined, r.budgetLeft⟩ = .done st → w.asksFurther r st = [] →
    exec (.engineStepCommit e) s = .next (w.finishRun i r st).schedule)

/-- A handled PARTIAL_REQ of another node makes its sequence's descriptor resident. One that the node cannot serve is declined with the reason of R379. Else its pages are
pinned and checked, those on flash are read, those for near-bank units are sent to them, and the request is kept until all is here; where nothing is awaited it is answered at once with
the partial, and its pins go. A PARTIAL_REPLY that fits its attend is taken, pages that it reports lost leave the request and are recovered here, and work is dispatched. A PARTIAL_DECLINE (of reason 4 counted
for the peer) and a FANOUT_TIMEOUT (counted) of an attend's request fail it: the first time it is sent again to the pages' next holders with its share of the
budget, the second time its pages count as unselected and work is dispatched. A DRAFT_HINT drafts the pages named. -/
def Obligations.PartialMessagesTakeEffect : Prop :=
  (∀ (s u : State) (h : MsgHdr) (b : PartialReq), asked h s = some u → h.src ≠ u.self →
    let v := u.install b.seq
    (∀ k, v.declines h.epoch b = some k → exec (.partialReq h b) s = .next (v.postFor h.src h.reqId (.partialDecline h.seq k))) ∧
    (v.declines h.epoch b = none →
      let w := b.pages.foldl (fun s p => s.verify p) (v.pin b.pages)
      let need := b.pages.filter fun p => match w.page? p with | some x => x.sealed? && !x.recovering && !w.readable p | none => false
      let z := need.foldl (fun s p => s.readFlash p) w
      let id := z.cmds.nextId
      let x := z.routeNear id (match b.pages.findSome? z.page? with | some p => p.img.layout | none => .exact) b.exhaustive b.pages b.pages
      let part : HeldPart := ⟨id, h, b, (need ++ x.1).eraseDups, []⟩
      let y : State := { x.2 with cmds := { x.2.cmds with nextId := id + 1, parts := x.2.cmds.parts ++ [part] } }
      (part.needs ≠ [] → exec (.partialReq h b) s = .next y) ∧
      (∀ st p l a, part.needs = [] → y.tandemShort b = false → b.ofRecall = false → (y.holderPins b true).length = b.pages.length →
        y.holderAnswer b (y.holderPins b true) [] = (.partialReply 0 st p l, a) →
        exec (.partialReq h b) s = .next (((a.dropPart part).noteSelected h.reqId ((y.holderPins b true).map fun p => p.1.handle)).answerPart h
          (.partialReply h.seq st p l))))) ∧
  (∀ (s u : State) (h : MsgHdr) (k : Word32) (st : Nat) (p : PartialSet) (lost : List LostRange) (i : Inflight) (r : AttendRun) (x : Remote),
    heard h s = some u → (u.recallBy h.reqId fun r => (r.openReq k (· == h.src)).isSome) = none → u.remoteOf h.reqId h.src k = some (i, r, x) →
    r.fits p = true → st ≠ Status.notYet.code → x.further = false →
    let gone := x.pages.filter fun h => r.pins.any fun q => q.page == h && (lost.map fun l => l.first / 256).contains q.block
    let v := u.setRun i.id { r with
      remotes := updWhere (· == x) (fun y => { y with answer := some p, short := st == Status.budgetExhausted.code, pages := y.pages.filter fun h => !gone.contains h }) r.remotes
      needs := r.needs ++ gone }
    exec (.partialReply h k st p lost) s = .next (gone.foldl (fun s h => match r.pins.find? fun q => q.page == h with
      | some q => s.wantPage h ⟨r.req.seq, r.req.layer, q.block⟩
      | none => s) v).dispatch) ∧
  (∀ (s u : State) (h : MsgHdr) (k : Word32) (n : Nat) (i : Inflight) (r : AttendRun) (x : Remote), heard h s = some u →
    u.remoteOf h.reqId h.src k = some (i, r, x) →
    exec (.partialDecline h k n) s = .next ((if n = 4 then u.countFailed h.src else u).remoteFailed i r x)) ∧
  (∀ (s : State) (id : Nat) (k : Word32) (i : Inflight) (r : AttendRun) (x : Remote), s.inflight? id = some i → i.wait = .attend r →
    (r.remotes.find? fun x => x.reqSeq == k && x.answer.isNone && !x.failed) = some x →
    exec (.fanoutTimeout id k) s = .next ((s.countFailed x.node).remoteFailed i r x)) ∧
  (∀ (s : State) (i : Inflight) (r : AttendRun) (x : Remote), x.further = false →
    (x.resent = true → s.remoteFailed i r x =
      (s.setRun i.id { r with remotes := updWhere (· == x) (fun y => { y with failed := true }) r.remotes }).dispatch) ∧
    (x.resent = false →
      let b := if r.req.tokenBudget = 0 then 0 else budgetShare r.budgetLeft x.pages.length (max 1 r.selected.length)
      let y := s.resend i { r with remotes := delAll x r.remotes, budgetLeft := r.budgetLeft - b } x b
      s.remoteFailed i r x = y.2.setRun i.id y.1)) ∧
  (∀ (s u : State) (h : MsgHdr) (q : Handle) (l : Nat) (pages : List Handle), heard h s = some u →
    exec (.draftHint h q l pages) s = .next (u.draftHere pages))

/-- An admitted GRAD_ATTEND whose positions and token IDs are there, and whose planes fit, allocates them, asks the other holders, checks its pages, reads those on flash, and is held with its pages until its pass
has run. GRAD_READ replies with the planes of the blocks asked for and changes nothing else. GRAD_CLEAR removes exactly the planes of the sequence and
layer named, all or those of the blocks named, and replies `OK`. A handled GRAD_REQ of pages held here in good order makes the sequence's descriptor resident, pins and checks its
pages and reads those on flash; with none to read and room for its planes it allocates them, adds to them unless it is recorded for the block
already, records each block, replies with the sums, and its pins go: nothing but planes, records, the draw counter and those pins changes. A GRAD_REPLY is taken by its pass, and work is dispatched. -/
def Obligations.GradientsTakeEffect : Prop :=
  (∀ (p : Packet) (s u v : State) (c : Cmd) (q : Seq) (r : GradRun) (b : Option ProgVer × Option PatVer) (x : GradRun),
    admission .gradAttend p s = some (c, u) → u.seq? (seqAt0 c.data) = some q → parseGrad q c.data = some r →
    u.bindAll c.ptn none [] r.filter = .ok b →
    let run := { r with version := b.2, duplicate := false, ids := match b.2 with | some v => filterBlocks q r.group r.top v | none => [] }
    let w := u.verifyTokens q r.group r.top b.2
    let q' := (w.seq? q.handle).getD q
    gradLanded q' run = true → (w.countPtn c.ptn 1 10 r.rows.length).startGrad c.ptn c.pkt.reqId q' run = some (x, v) →
    exec (.gradAttend p) s = .next (((((v.pin (x.pins.map fun p => p.1.page)).hold c (.grad x) (x.pins.map fun p => p.1.page)).progress).dispatch).resume)) ∧
  (∀ (p : Packet) (s u : State) (c : Cmd), admission .gradRead p s = some (c, u) →
    exec (.gradRead p) s = .next (u.answered c ((u.gradBlocks c).flatMap fun x =>
      leBytes 4 x.1 ++ leBytes 4 (b2n x.2.isSome) ++ zeroBytes 8 ++ match x.2 with | some g => gradBytes g | none => []))) ∧
  (∀ (p : Packet) (s u : State) (c : Cmd), admission .gradClear p s = some (c, u) →
    let b := c.data
    exec (.gradClear p) s = .next (({ u with store := { u.store with grads := u.store.grads.filter fun g =>
      !(g.seq == seqAt0 b && g.layer == field b 8 2 &&
        (field b 16 4 == 0 || decide (field b 12 4 ≤ g.block ∧ g.block < field b 12 4 + field b 16 4))) } } : State).answered c [])) ∧
  (∀ (s u : State) (h : MsgHdr) (b : GradReq), asked h s = some u →
    let v := b.pages.foldl (fun s p => s.verify p) (u.install b.seq)
    b.pages ≠ [] → (b.pages.all fun p => match v.page? p with | some x => x.refs != 0 && !x.recovering | none => false) = true →
    v.epoch ≤ h.epoch.toNat ∨ v.prevEpoch = some h.epoch.toNat →
    let need := b.pages.filter fun p => match v.page? p with | some x => x.sealed? && !v.readable p | none => false
    let w := need.foldl (fun s p => s.readFlash p) (v.pin b.pages)
    (need ≠ [] → exec (.gradReq h b) s = .next { w with cmds := { w.cmds with grads := w.cmds.grads ++ [⟨h, b, need⟩] } }) ∧
    (∀ (ps : List Page) (a : State), need = [] →
      let x : State := { w with cmds := { w.cmds with grads := delAll ⟨h, b, []⟩ (w.cmds.grads ++ [⟨h, b, []⟩]) } }
      ps = b.pages.filterMap x.page? → (ps.any (·.recovering)) = false → ps.length = b.pages.length →
      x.allocGrads (x.seqPtn b.seq) (x.pageGroup b.seq b.layer (b.rows.headD ⟨0, [], [], [], [], []⟩).m.length
        (ps.headD (Page.fresh 0 0 ⟨0, 0, 0⟩ (emptyTail groupZero 0 0 0) 0 0))) b.seq b.layer (ps.map (·.name.block)) = some a →
      let notes := ps.map fun p => (⟨x.seqPtn b.seq, h.reqId, b.seq, b.layer, p.name.block, b.rows⟩ : GradSeen)
      ∃ (t : State) (dq : List Word32),
        t.store.gradSeen = a.store.gradSeen ++ notes.filter (fun n => !a.store.gradSeen.contains n) ∧
        ((∀ n ∈ notes, n ∈ a.store.gradSeen) → t.store.grads = a.store.grads) ∧
        { t with store := { t.store with grads := a.store.grads, gradSeen := a.store.gradSeen }, freeCtr := a.freeCtr } = a ∧
        exec (.gradReq h b) s = .next ((t.postFor h.src h.reqId (.gradReply h.seq dq)).unpin b.pages))) ∧
  (∀ (s u : State) (h : MsgHdr) (k : Word32) (dq : List Word32) (i : Inflight) (r : GradRun) (x : GradRemote), heard h s = some u →
    u.gradOf h.src k = some (i, r, x) →
    exec (.gradReply h k dq) s = .next (u.setGrad i.id { r with
      remotes := delAll x r.remotes
      dq := r.dq ++ List.zip x.rows (chunks (r.group.qHeads * r.group.channels) dq) }).dispatch)

/-- An admitted RECALL or RECALL_ATTEND under its model counts, sends its scan request to every other index node, is held as one that gathers, with the second phase for RECALL_ATTEND, and joins this node's own lists where it is an index node.
A handled SCAN_REQ whose model and digest the node has joins its lists, else it is counted and declined. SCAN_RESULT and SCAN_DECLINE are taken by the
recall that waits for them, which merges once none is awaited. RECALL_BATCH_START counts and begins a pass over the window's queries with a snapshot of the segment, its flushed
blocks read and its pages pinned. SCAN_PASS_COMPLETE scans the snapshot for each query without the blocks named bad, counts, and lets pins go. INDEX_COMPACTION keeps the live entries of a mostly dead segment, and a segment left with nothing goes; with
fewer dead it changes nothing. INDEX_REBUILD adds the entries that the pages here give and the blocks kept lack. The deadline, in the gathering stage, counts the nodes awaited as missing and merges. PATTERN_CHECK is answered; PATTERN_RESULT, and its
timeout as failed, settle the candidate; HANDLE_QUERY at the home is answered with the block's handle and code; HANDLE_REPLY is taken by its recall. -/
def Obligations.RecallsTakeEffect : Prop :=
  (∀ (second : Bool) (p : Packet) (s u : State) (c : Cmd) (x : Ns) (m : Model) (np : Nat),
    admission (if second then .recallAttend else .recall) p s = some (c, u) →
    u.ns? (field c.data 0 2) = some x → u.recallModel x c.data = .ok m → nprobeOf c.data m.coarse.length = some np →
    let q := scanOf c.data m np
    let nodes := (if x.selfPlaced then x.nodes else x.index).dedup
    let mine : Word32 := BitVec.ofNat 32 u.cmds.nextId
    let y := nodes.foldl (fun (y : List (NodeId × Word32) × State) (n : NodeId) =>
      if n = u.self then (y.1 ++ [(n, mine)], y.2)
      else let k := y.2.postSeq n c.pkt.reqId (.scanReq q); (y.1 ++ [(n, BitVec.ofNat 32 k.1)], k.2)) ([], u.countPtn c.ptn 2 0)
    let r : RecallRun :=
      { req := q, filter := recallFilter c.data, kk := field c.data 4 2, nprobe := np, stage := .gather, waiting := y.1, missing := 0, got := [], flags := 0
        deadline := false, todo := [], checking := [], passed := [], dropped := 0, phase2 := if second then recallAttendOf c.data else none
        asks := [], queries := [], budgetHit := false, budgetLeft := 0 }
    let t := y.2.hold c (.recall r) []
    let t := if nodes.contains u.self then t.startScan ⟨u.self, c.pkt.reqId, mine, q⟩ else t.recallMerge u.cmds.nextId
    (second = false → exec (.recall p) s = .next t.progress.resume) ∧ (second = true → exec (.recallAttend p) s = .next t.progress.resume)) ∧
  (∀ (s u : State) (h : MsgHdr) (b : ScanReq), asked h s = some u →
    (u.scanMatches b = true → exec (.scanReq h b) s = .next (u.startScan ⟨h.src, h.reqId, h.seq, b⟩)) ∧
    (u.scanMatches b = false → exec (.scanReq h b) s =
      .next ((u.countPtn (((u.ns? b.ns).map (·.ptn)).getD noPtn) 2 8).postFor h.src h.reqId (.scanDecline h.seq)))) ∧
  (∀ (s u : State) (h : MsgHdr) (k : Word32) (fl : Byte) (ls : List ListResult) (i : Inflight) (r : RecallRun), heard h s = some u →
    (u.recallBy h.reqId fun r => r.stage == .gather && r.waiting.contains (h.src, k)) = some (i, r) → r.stage = .gather →
    r.waiting.contains (h.src, k) = true →
    exec (.scanResult h k fl ls) s = .next ((u.setRecall i.id { r with
      waiting := delAll (h.src, k) r.waiting, got := r.got ++ ls, flags := r.flags ||| (fl &&& 6) }).recallMerge i.id) ∧
    exec (.scanDecline h k) s = .next ((u.setRecall i.id { r with
      waiting := delAll (h.src, k) r.waiting, missing := r.missing + 1 }).recallMerge i.id)) ∧
  (∀ (s : State) (n : SegName) (g : Segment), s.segment? n = some g →
    (g.window ≠ [] →
      let snap := g.blocks ++ [g.opened]
      let v := (g.flushed.filterMap (·.frame)).foldl (fun s f => s.queueWork .scan (frameKey f) (s.pageDie (frameKey f)))
        ((s.countPtn g.ptn 2 1).countPtn g.ptn 2 2 g.window.length)
      exec (.recallBatchStart n) s = .next ((v.pin (snapshotPages snap)).updSegment n fun g => { g with window := [], passes := g.passes ++ [(g.window, snap)] })) ∧
    (∀ p rest (named : List Nat), g.passes = p :: rest →
      let bad := named.filter fun k => decide (k + 1 < p.2.length)
      let entries := ((enumFrom 0 p.2).filter fun b => !bad.contains b.1).flatMap (·.2)
      let v := (s.countPtn g.ptn 2 5 bad.length).updSegment n fun g => { g with passes := rest, degraded := g.degraded || !bad.isEmpty }
      let m := (v.modelOf n.ns n.model).getD ⟨n.model, 0, 0, [], [], [], []⟩
      let w := p.1.foldl (fun s x =>
        let l := s.scanList m x.q n.list entries
        ((s.countPtn g.ptn 2 3 l.scanned).countPtn g.ptn 2 4 l.stale).listDone x l (!bad.isEmpty)) v
      exec (.scanPassComplete n named) s = .next ((((if rest = [] then g.flushed.filterMap (·.frame) ++ g.dropped else []).foldl
        (fun s f => s.doneWork .scan (frameKey f)) w).unpin (snapshotPages p.2)).freeReplaced n)) ∧
    ((∀ x ∈ s.rcl.segments, x.name = n → x.removed = false) →
      (s.mostlyDead g = false → exec (.indexCompaction n) s = .next s) ∧
      (s.mostlyDead g = true →
        let v := s.newChain n [] ((g.blocks.flatten ++ g.opened).filter fun e => s.entryLive e.page)
        exec (.indexCompaction n) s = .next { v with rcl := { v.rcl with segments := v.rcl.segments.filter fun x =>
          !(x.name == n && !x.removed && x.flushed == [] && x.opened == [] && x.window == [] && x.passes == [] && x.dropped == []) } })) ∧
    (g.rebuilding = true ∨ g.degraded = true → s.flash.state ≠ .readOnly →
      let keep := if g.degraded then [] else g.flushed
      let l := (s.pageEntries n).filter fun e => !((keep.flatMap (·.entries)).map (·.page)).contains e.page
      exec (.indexRebuild n) s = .next ((s.newChain n keep l).updSegment n fun g => { g with rebuilding := false, degraded := false }))) ∧
  (∀ (s : State) (id : Nat) (i : Inflight) (r : RecallRun), s.recallOf id = some (i, r) → r.stage = .gather →
    exec (.recallDeadlineExpiry id) s = .next ((s.setRecall id { r with
      deadline := true, missing := r.missing + r.waiting.length, waiting := [] }).recallMerge id)) ∧
  (∀ (s u : State) (h : MsgHdr) (q : Handle) (block slot : Nat) (sel : Word32), asked h s = some u →
    exec (.patternCheck h q block slot sel) s =
      .next (u.postFor h.src h.reqId (.patternResult h.seq (u.patternAnswer q block ⟨slot, 1, sel⟩)))) ∧
  (∀ (s u : State) (h : MsgHdr) (k : Word32) (a : Nat) (i : Inflight) (r : RecallRun), heard h s = some u →
    (u.recallBy h.reqId fun r => r.checking.any fun x => x.1 == k && u.homeOf x.2.seq == some h.src) = some (i, r) →
    exec (.patternResult h k a) s = .next (u.checkAnswered i r k a)) ∧
  (∀ (s : State) (id : Nat) (k : Word32) (i : Inflight) (r : RecallRun), s.recallOf id = some (i, r) →
    exec (.patternCheckTimeout id k) s = .next (s.checkAnswered i r k 0)) ∧
  (∀ (s u : State) (h : MsgHdr) (q : Handle) (layer block : Nat), asked h s = some u → u.isHome q = true →
    exec (.handleQuery h q layer block) s =
      .next (u.postFor h.src h.reqId (.handleReply h.seq (u.handleOf q layer block).1 (u.handleOf q layer block).2))) ∧
  (∀ (s u : State) (h : MsgHdr) (k : Word32) (page : Handle) (code : List Byte) (i : Inflight) (r : RecallRun), heard h s = some u →
    (u.recallBy h.reqId fun r => r.queries.any fun x => x.1 == k && u.homeOf x.2.seq == some h.src) = some (i, r) →
    exec (.handleReply h k page code) s = .next (u.queryAnswered i r k page code))

/-! ## Waits of commands, engines, seals and faults -/

/-- A held append that fits its layers now goes on as an append and keeps its place among those in flight, and at its timeout replies `NOT_YET` for the lowest layer that is short. One
that waits for journal space goes on, or at its timeout replies `NO_SPACE`. A command held for an epoch goes through step 5 again once the node's epoch has come, and at the timeout is refused `BUSY_RETRY`
with the larger of EPOCH_HOLD_US and 1; one held for a transfer is refused with TRANSFER_HOLD_US. DESCRIPTOR_INSTALL with no command waiting for that
descriptor makes it resident, if the sequence is here, and what waited goes on. RECORD_EXPIRY of a REQ_ID that is in no command in flight and no reply that waits removes its command, append and
gradient records and nothing else. A duplicate held behind an original that left no record ends as the original did. SCOREBOARD_ENTRIES_FREED, and RECORD_SPACE_FREED
of a partition that exists, let what waited go on. -/
def Obligations.HeldCommandsGoOnOrExpire : Prop :=
  (∀ (s : State) (id : Nat) (i : Inflight) (a : AppendReq) (q : Seq), s.inflight? id = some i → i.wait = .gap a → s.seq? a.seq = some q →
    (s.fit a q ≠ .gap → exec (.appendGapFilled id) s = .next (s.resettle i (s.runAppend i.cmd a)).progress) ∧
    exec (.appendGapExpiry id) s = .next (s.complete i .notYet none 0
      (notYetBytes q ((a.layers.find? fun l => decide ((q.layer l).length < a.pos)).getD 0)))) ∧
  (∀ (s : State) (id : Nat) (i : Inflight) (a : AppendReq), s.inflight? id = some i → i.wait = .journal a →
    exec (.journalSpaceFreed id) s = .next (s.resettle i (s.runAppend i.cmd a)).progress ∧
    exec (.journalWaitExpiry id) s = .next (s.complete i .noSpace none 0 [])) ∧
  (∀ (s : State) (id : Nat) (i : Inflight), s.inflight? id = some i → i.wait = .epoch →
    (i.pkt.epoch.toNat ≤ s.epoch →
      exec (.epochHoldRelease id) s = .next ((s.dropInflight i.id).fiveToNine (opDef i.op) i.cmd).progress.schedule) ∧
    exec (.epochHoldExpiry id) s = .next ((s.dropInflight i.id).refuse i.op i.pkt i.ptn .busyRetry none (max (s.rf .hptNdox 16 12) 1))) ∧
  (∀ (s : State) (id : Nat) (i : Inflight) (h : Handle), s.inflight? id = some i → i.wait = .transfer h →
    exec (.transferHoldExpiry id) s = .next ((s.dropInflight i.id).refuse i.op i.pkt i.ptn .busyRetry none (s.rf .fabDrain 8 16))) ∧
  (∀ (s : State) (h : Handle), (s.cmds.list.all fun i => i.wait.inner != .descriptor h) = true →
    exec (.descriptorInstall h) s = .next (s.install h).resume) ∧
  (∀ (s : State) (ptn : Fin 32) (reqId : Word64), (s.cmds.list.any fun i => i.ptn == ptn.val && i.reqId == reqId) = false →
    (s.host.queues.any fun q => q.ptn == ptn.val && q.waiting.any fun r => r.reqId == reqId) = false →
    exec (.recordExpiry ptn reqId) s = .next { s with store := { s.store with
      cmdRecs := s.store.cmdRecs.filter fun r => !(r.ptn == ptn.val && r.reqId == reqId)
      appendRecs := s.store.appendRecs.filter fun r => !(r.ptn == ptn.val && r.reqId == reqId)
      gradSeen := s.store.gradSeen.filter fun g => !(g.ptn == ptn.val && g.reqId == reqId) } }) ∧
  (∀ (s : State) (id code : Nat) (i : Inflight) (b : List Byte), s.inflight? id = some i → i.wait = .dup (some (code, b)) →
    s.sixRecorded (opDef i.op) i.cmd = none → (opDef i.op).six i.cmd s = none →
    exec (.duplicateHeldRelease id) s = .next (s.complete i (Status.ofCode code) none 0 b).progress) ∧
  (∀ (s : State), exec .scoreboardEntriesFreed s = .next s.resume) ∧
  (∀ (s : State) (ptn : Fin 32), (s.ptn? ptn).isSome = true → exec (.recordSpaceFreed ptn) s = .next s.resume)

/-- SEAL_START on an idle engine, of a queued seal that may run, with frames for its image and its sequence here, takes the new page's frames, pins it, marks the seal as running and gives the engine its step.
SEAL_PRIORITY_RAISE of a seal queued without priority raises it and counts it. SEAL_COMMIT with an image that read back equal and the delta buffer below its limit commits the seal: of a sequence and new page that are here, the tail frame's seal ends, every
sequence that named the tail frame names the new page, which carries the code of the model that is current now, the step's pin goes, the index entry is made, the step is counted, the tandem or the replicas are told, a flash write starts where positions of
it are persisted, and forks that waited and idle engines go on. With an image that does not, it runs the seal again at the first mismatch and faults the engine, as of a bank, at the second. PERSISTED_PAGE_WRITTEN
of a page being written ends its job and advances what is persisted. -/
def Obligations.SealsTakeEffect : Prop :=
  (∀ (s v : State) (e : Fin 68) (n : PageName) (p : Page) (y : Engine) (q : Seq) (b : Bool) (k : Handle), s.sealPage n = some p →
    s.eng.engines[e.val]? = some y → p.sealing = .queued b → y.idle = true → s.sealMay p = true → s.seq? p.name.seq = some q →
    let x := s.sealFull q p
    s.newPage p.ptn p.name x.1 (x.1.frames (q.group p.name.layer)) true = some (k, v) →
    exec (.sealStart e n) s = .next ((((v.install p.name.seq).updPage k fun y => { y with refs := 0, pins := 1 }).updPage p.handle fun y =>
      { y with sealing := .running e k 0 }).updEngine e fun y => { y with step := some (p.ptn, .seal p.name), gated := false })) ∧
  (∀ (s : State) (n : PageName) (p : Page), s.sealPage n = some p → p.sealing = .queued false →
    exec (.sealPriorityRaise n) s = .next ((s.raiseSeal p.handle).countPtn p.ptn 1 13)) ∧
  (∀ (s : State) (n : PageName) (p : Page) (e k : Nat) (into : Handle), s.sealPage n = some p →
    p.sealing = .running e into k →
    (s.deltaFull = false → exec (.sealCommit n true) s = .next (s.commitSeal p e into).schedule) ∧
    (k = 0 → exec (.sealCommit n false) s = .next (s.sealAgain e p)) ∧
    (k ≠ 0 → exec (.sealCommit n false) s = .next (s.engineFault e 2))) ∧
  (∀ (s : State) (p : Page) (e : Nat) (into : Handle) (q : Seq) (y : Page), s.seq? p.name.seq = some q → s.page? into = some y →
    let refs := s.referrers p.handle
    let x := s.sealFull q p
    let a := ((s.endSeal p).repoint refs p.handle into).updPage into fun y => { Page.unpinned 1 y with img := x.1 }
    let b := ((((a.indexSeal q into x.1 p.name p.ptn x.2).countPtn p.ptn 1 12).countStep p.ptn e 1).spread into refs)
    s.commitSeal p e into = (if refs.any fun x => hasPersisted x.1 then b.startFlash into else b).forksReady.dispatch) ∧
  (∀ (s t : State) (h : Handle) (p : Page), s.page? h = some p → p.job = .toFlash → s.writePage p = some t →
    exec (.persistedPageWritten h) s = .next ((t.updPage h Page.endJob).pageWritten h).progress)

/-- A fault of an engine in use that is not fenced and has no step, with a spare left, fences it, counts and records it, brings in the spare (of its die first), gives the
held steps that waited for it to the spare, checks the hard criteria and schedules. A fault of a spare that replaces none fences and records it and checks the criteria. A watchdog expiry of an engine
with a step is a fault of cause 5, without one nothing. A spare that is ready runs the first step held for it. A partition fence fences a running partition, raises both status bits, and
runs its twice-faulted steps; a key-slot fault fences its partition only. A fence lifts, with no step held, and work is scheduled. A control core's first fault fences and records it and checks the criteria. An
automata engine's first fault is noted, to be replayed; its second fences it, records it and leaves invalid exactly the slots whose version has banks in it, the version kept as an old one. -/
def Obligations.FaultsFenceAndReplace : Prop :=
  (∀ (s : State) (e : Fin 68) (cause : EngCause) (y : Engine) (k : Nat), s.eng.engines[e.val]? = some y → y.fenced = false → y.inUse = true →
    y.step = none → s.spareFor e = some k →
    let det := leBytes 1 e ++ leBytes 1 k ++ leBytes 1 (EngCause.code cause) ++ zeroBytes 5 ++ leBytes 8 0
    let v := (s.updEngine e fun y => { y with fenced := true, step := none, replacing := none }).count 9 nodeScope (4 * e + 3)
    let w := v.raise .engRsts 0 ⟨6, 1, 2, 0xFF, e, det⟩
    let x := (w.updEngine k fun y => { y with inUse := true, gated := false, replacing := some e.val }).raise .engRsts 1 ⟨6, 2, 1, 0xFF, k, det⟩
    exec (.engineFault e cause) s = .next ((x.setHeld (updWhere (fun h => h.on == e.val && !x.onEngine h.step) (fun h => { h with on := k }) x.eng.held)).leaveCheck.schedule)) ∧
  (∀ (s : State) (e : Fin 68) (cause : EngCause) (y : Engine), s.eng.engines[e.val]? = some y → y.fenced = false → y.inUse = false →
    exec (.engineFault e cause) s = .next ((s.updEngine e fun y => { y with fenced := true }).raise .engRsts 0
      ⟨6, 1, 2, 0xFF, e, unitDetail e anyEngine (EngCause.code cause) 0⟩).leaveCheck) ∧
  (∀ (s : State) (e : Fin 68), (((s.eng.engines[e.val]?).bind (·.step)).isSome = true → exec (.engineWatchdogExpiry e) s = .next (s.engineFault e 5)) ∧
    (((s.eng.engines[e.val]?).bind (·.step)).isSome = false → exec (.engineWatchdogExpiry e) s = .next s)) ∧
  (∀ (s : State) (e : Fin 68) (y : Engine) (k : Nat) (h : HeldStep), s.eng.engines[e.val]? = some y → y.replacing = some k →
    let v := s.updEngine e fun y => { y with replacing := none }
    (v.eng.held.find? fun h => h.on == e.val && !v.onEngine h.step && (h.faults == 2 || match h.step with | .seal _ => false | _ => true)) = some h →
    exec (.spareEngineReady e) s = .next (v.replayOn e h).schedule) ∧
  (∀ (s : State) (n : Fin 32) (p : Ptn), s.ptn? n = some p → p.fenced = false →
    let v := ((s.updPtn n fun p => { p with fenced := true }).raise .engRsts 3 ⟨6, 4, 2, n, 0, []⟩).raise (.ptnSts n) 0 ⟨6, 4, 2, n, 0, []⟩
    exec (.partitionFence n) s = .next (v.fenceWork n) ∧ (∀ d, exec (.keySlotFault n d) s = .next v)) ∧
  (∀ (s : State) (n : Fin 32), s.eng.held = [] → exec (.partitionFenceLift n true) s = .next ((s.updPtn n fun p => { p with fenced := false }).schedule)) ∧
  (∀ (s : State) (k : Fin 24) (cause : Nat), s.eng.coresFenced.contains k.val = false →
    exec (.controlCoreFault k cause) s = .next ((({ s with eng := { s.eng with coresFenced := s.eng.coresFenced ++ [k.val] } } : State).raise .engRsts 4
      ⟨6, 5, 2, 0xFF, k, unitDetail k 0xFF cause 0⟩).leaveCheck)) ∧
  (∀ (s : State) (k : Fin 8), s.eng.pasFenced.contains k.val = false →
    (s.eng.pasFaulted.contains k.val = false →
      exec (.automataEngineFault k) s = .next { s with eng := { s.eng with pasFaulted := s.eng.pasFaulted ++ [k.val] } }) ∧
    (s.eng.pasFaulted.contains k.val = true →
      let pats := s.slots.pats.map fun p => match p.current with
        | some v => if v.inEngine k then { p with old := p.old ++ [v], current := none } else p
        | none => p
      exec (.automataEngineFault k) s = .next (({ s with eng := { s.eng with pasFenced := s.eng.pasFenced ++ [k.val] }, slots := { s.slots with pats := pats } } : State).raise
        .engRsts 5 ⟨6, 6, 2, 0xFF, k, unitDetail k 0xFF 4 0⟩)))

/-- Whatever engine fault, watchdog expiry, readiness of a spare, start of a seal, partition fence, key-slot fault, control-core fault or automata-engine fault happens, an
engine that is fenced stays fenced. -/
def Obligations.FencedEnginesStayFenced : Prop :=
  ∀ (s t : State) (k : Nat) (y : Engine), s.eng.engines[k]? = some y → y.fenced = true →
    ((∃ e c, exec (.engineFault e c) s = .next t) ∨ (∃ e, exec (.engineWatchdogExpiry e) s = .next t) ∨
      (∃ e, exec (.spareEngineReady e) s = .next t) ∨ (∃ e n, exec (.sealStart e n) s = .next t) ∨ (∃ n, exec (.partitionFence n) s = .next t) ∨
      (∃ n d, exec (.keySlotFault n d) s = .next t) ∨ (∃ c n, exec (.controlCoreFault c n) s = .next t) ∨
      (∃ n, exec (.automataEngineFault n) s = .next t)) →
    ∃ z, t.eng.engines[k]? = some z ∧ z.fenced = true

/-! ## Mirrored steps, copies and forks between nodes -/

/-- An ordered message whose turn it is and whose epoch is not older than the node's. Kind 1 adds a sequence that the node, not its home, does not hold, and at a home that awaits its shard adds it as arriving after the
sequences that came before have arrived; kind 2 removes the sequence and ends what waited on it; kind 3 makes a pending child live, or forks here where there is no child; kind 4 truncates every layer and clears its
loss; kind 5 sets the tag; kind 7 sets the persisted length, at most the layer's own; kind 9 loses the range; kind 8's tail image gets a page, raises the layer's length to its end, keeps the append records and is acknowledged; a
mirrored append of a sequence held here writes each layer's rows and the token IDs, keeps its record, acknowledges every layer, and serves requests held. Kinds 1 to 4 keep the command's record. Recovery that waited
for the sequence is settled after an append or a tail. Then what the stream held goes on. An older epoch is acknowledged with `STALE_EPOCH` (an append at each of its layers) and changes nothing else. -/
def Obligations.MirroredStepsTakeEffect : Prop :=
  (∀ (s u : State) (h : MsgHdr) (r : SeqCreateReq), inTurn (.mirrorStepCreate h r) s = some u → u.stale h = false → u.seq? r.seq = none →
    let v := u.stepRecord h r.seq .seqCreate (SeqCreateReq.bytes r)
    (u.isHome r.seq = false → exec (.mirrorStepCreate h r) s = .next ((v.addSeq (freshSeq r .live)).streamOn h)) ∧
    (u.isHome r.seq = true → (u.map.transfersIn.any fun t => t.shard == shardOf r.seq) = true →
      let w := (v.shardArrived (shardOf r.seq)).addSeq (freshSeq r .arriving)
      let ts := updWhere (fun (t : Transfer) => t.shard == shardOf r.seq) (fun t => ⟨t.shard, t.arrived + 1⟩) w.map.transfersIn
      exec (.mirrorStepCreate h r) s = .next (({ w with map := { w.map with transfersIn := ts } } : State).streamOn h))) ∧
  (∀ (s u : State) (h : MsgHdr) (q : Handle), inTurn (.mirrorStepDelete h q) s = some u → u.stale h = false →
    let t := (u.stepRecord h q .seqDelete (leBytes 8 q.toNat)).removeSeq false q
    exec (.mirrorStepDelete h q) s = .next ((t.endWaits q t.cmds.list).streamOn h)) ∧
  (∀ (s u : State) (h : MsgHdr) (f : ForkReq), inTurn (.mirrorStepFork h f) s = some u → u.stale h = false →
    let v := u.stepRecord h f.parent .fork (ForkReq.bytes f)
    (∀ q k, v.seq? f.child = some q → q.state = .pendingChild k →
      exec (.mirrorStepFork h f) s = .next (((v.updSeq f.child fun q => { q with state := .live }).delta [.child f.child]).streamOn h)) ∧
    (∀ w, v.seq? f.child = none → v.forkHere f = some w → exec (.mirrorStepFork h f) s = .next (w.streamOn h))) ∧
  (∀ (s u v : State) (h : MsgHdr) (x : Handle) (t : Nat) (q : Seq), inTurn (.mirrorStepTruncate h x t) s = some u → u.stale h = false →
    u.seq? x = some q →
    (u.stepRecord h x .truncate (leBytes 8 x.toNat ++ leBytes 4 t ++ zeroBytes 4)).truncSeq false x (List.range q.layers.length) t = some v →
    exec (.mirrorStepTruncate h x t) s = .next ((v.updSeq x fun q => { q with layers := q.layers.map fun y => { y with loss := none } }).streamOn h)) ∧
  (∀ (s u : State) (h : MsgHdr) (q : Handle) (tag : Word32), inTurn (.mirrorStepTag h q tag) s = some u → u.stale h = false →
    exec (.mirrorStepTag h q tag) s = .next (((u.updSeq q fun x => { x with tag := tag }).delta [.seq q]).streamOn h)) ∧
  (∀ (s u : State) (h : MsgHdr) (q : Handle) (l p : Nat), inTurn (.mirrorStepPersisted h q l p) s = some u → u.stale h = false →
    exec (.mirrorStepPersisted h q l p) s = .next ((u.updLayer q l fun x => { x with persisted := min p x.length }).streamOn h)) ∧
  (∀ (s u : State) (h : MsgHdr) (q : Handle) (l first fin : Nat), inTurn (.mirrorStepLayerLoss h q l first fin) s = some u → u.stale h = false →
    exec (.mirrorStepLayerLoss h q l first fin) s = .next ((u.loseLayer false q l first fin).streamOn h)) ∧
  (∀ (s u v : State) (h : MsgHdr) (q : Handle) (l : Nat) (img : Image) (recs : List AppendRec) (x : Seq) (k : Handle),
    inTurn (.mirrorStepTailImage h q l img recs) s = some u → u.stale h = false → u.seq? q = some x →
    u.newPage (u.seqPtn q) ⟨q, l, img.block⟩ img (img.frames (x.group l)) true = some (k, v) →
    let w := (v.setEntry false q l ⟨img.block, k, [], 0⟩).updLayer q l fun y => { y with length := max y.length (256 * img.block + img.fill) }
    let z : State := { w with store := { w.store with appendRecs := w.store.appendRecs ++ recs.filter fun r => !w.store.appendRecs.contains r } }
    exec (.mirrorStepTailImage h q l img recs) s = .next ((((z.ackMirror h q l .ok).serveParts).settleCheck q).streamOn h)) ∧
  (∀ (s u : State) (h : MsgHdr) (a : AppendReq) (q : Seq), inTurn (.mirrorWrite h a) s = some u → u.stale h = false → u.seq? a.seq = some q →
    let v := ((List.zip a.layers a.rows).foldl (fun s x => s.mirrorLayer a x) (u.install a.seq)).updSeq a.seq fun q =>
      { q with tokens := putTokens a.pos a.tokens q.tokens }
    let r : AppendRec := ⟨a.seq, a.layers, a.pos, a.count, a.digest, a.bulk, h.reqId, v.seqPtn a.seq, false⟩
    let w : State := if h.reqId = 0 ∨ v.store.appendRecs.contains r = true then v else { v with store := { v.store with appendRecs := v.store.appendRecs ++ [r] } }
    exec (.mirrorWrite h a) s = .next ((((a.layers.foldl (fun s l => s.ackMirror h a.seq l .ok) w).serveParts).settleCheck a.seq).streamOn h)) ∧
  (∀ (s u : State) (h : MsgHdr), u.stale h = true →
    (∀ i x, (∃ r, i = .mirrorStepCreate h r ∧ x = r.seq) ∨ i = .mirrorStepDelete h x ∨ (∃ f, i = .mirrorStepFork h f ∧ x = f.child) ∨
      (∃ t, i = .mirrorStepTruncate h x t) ∨ (∃ t, i = .mirrorStepTag h x t) ∨ (∃ n l c, i = .mirrorStepSealCommit h n l c ∧ x = n.seq) ∨
      (∃ l p, i = .mirrorStepPersisted h x l p) ∨ (∃ l a b, i = .mirrorStepLayerLoss h x l a b) ∨ (∃ k l, i = .mirrorStepRestoredLengths h x k l) →
      inTurn i s = some u → exec i s = .next ((u.ackMirror h x 0 .staleEpoch).streamOn h)) ∧
    (∀ x l img recs, inTurn (.mirrorStepTailImage h x l img recs) s = some u →
      exec (.mirrorStepTailImage h x l img recs) s = .next (((u.ackMirror h x 0 .staleEpoch).settleCheck x).streamOn h)) ∧
    (∀ a, inTurn (.mirrorWrite h a) s = some u →
      exec (.mirrorWrite h a) s = .next (((a.layers.foldl (fun s l => s.ackMirror h a.seq l .staleEpoch) u).settleCheck a.seq).streamOn h)))

/-- In turn and of a current epoch: a seal's step of a tail held here makes, for a `PRIVATE` sequence, the page from this node's own tail with the list and code of the message, which every `PRIVATE` sequence that shares the tail then names; for a
`SHARED` one it keeps the envelopes and count and lets the tail go. Restored lengths reach a home that settles. A transfer's end makes its shard live. A page copy that passes its checks is stored and acknowledged under its handle; one of a transfer or
resynchronisation also takes its place in the layer. PAGE_RELEASE drops references of a page of this node. A fetch of a page held in good order is answered with its image, of none declined. The acknowledgement of a copy ends a live placement
move; or notes a replica's copy and, once no member is awaited, tells the tandems of `SHARED` sequences; or notes a resynchronised copy. A mirror acknowledgement raises the mirrored length up to the layer's length, adds a delta record and
lets appends reply. After an ordered message what the stream held goes on. -/
def Obligations.CopiesAndAcksTakeEffect : Prop :=
  (∀ (s u : State) (h : MsgHdr) (n : PageName) (list : Nat) (code : List Byte) (q : Seq) (p : Page),
    inTurn (.mirrorStepSealCommit h n list code) s = some u → u.stale h = false → u.seq? n.seq = some q →
    u.blockPage q n.layer n.block = some p → p.img.tail = true →
    let g := q.group n.layer
    let img := sealImage g p.img (if list = noList then none else some code)
    let v := u.install n.seq
    (q.shared = true →
      let ents := updWhere (fun (e : Entry) => e.block == n.block) fun e => ⟨e.block, e.page, img.planes.map (·.env), img.requant⟩
      let w := (v.updLayer n.seq n.layer fun x => { x with entries := ents x.entries }).delta [.entry n.seq n.layer n.block]
      exec (.mirrorStepSealCommit h n list code) s = .next ((w.dropLocal p.handle 1).streamOn h)) ∧
    (∀ k w, q.shared = false → v.newPage p.ptn n img (img.frames g) true = some (k, w) →
      let refs := (w.referrers p.handle).filter fun x => !x.1.shared
      let m := ((w.ns? (nsOf n.seq)).bind (·.current)).map (·.num)
      let z := w.updPage k fun x => { x with index := if list = noList then none else m.map fun m =>
        (list, (⟨k, n.seq, n.block, n.layer, m, img.inherit.isSome, h.epoch, q.tag, code⟩ : IdxEntry)) }
      exec (.mirrorStepSealCommit h n list code) s =
        .next ((((if refs.length < p.refs then z else z.endSeal p).repoint refs p.handle k).serveParts).streamOn h))) ∧
  (∀ (s u : State) (h : MsgHdr) (x : Handle) (ok : Bool) (lens : List Nat) (q : Seq) (w : Option (List Nat)),
    inTurn (.mirrorStepRestoredLengths h x ok lens) s = some u → u.stale h = false → u.seq? x = some q → u.isHome x = true → q.state = .settling w →
    let v := u.updSeq x fun q => { q with state := .settling (some lens), before := (enumFrom 0 q.before).map fun y => max y.2 (lens.getD y.1 0) }
    exec (.mirrorStepRestoredLengths h x ok lens) s = .next ((v.settleCheck x).streamOn h)) ∧
  (∀ (s u : State) (h : MsgHdr) (shard n : Nat), inTurn (.mirrorStepTransferDone h shard n) s = some u → u.stale h = false → h.epoch.toNat ≤ u.epoch →
    let v := u.shardArrived shard
    exec (.mirrorStepTransferDone h shard n) s =
      .next (({ v with map := { v.map with transfersIn := v.map.transfersIn.filter fun t => t.shard != shard } } : State).streamOn h)) ∧
  (∀ (s u v : State) (h : MsgHdr) (k : Nat) (x : Handle) (l : Nat) (i : Image) (y : Handle), inTurn (.pageCopy h k x l (.image i)) s = some u →
    k ≠ 3 → copyOk (u.groupFor x l i) l i = true → u.strayCopy h k x = false →
    u.newPage (u.seqPtn x) ⟨x, l, i.block⟩ i (i.frames (u.groupFor x l i)) (k != 1) = some (y, v) →
    let w := v.postFor h.src h.reqId (.pageCopyAck h.seq y 0)
    let z := if k = 4 ∨ k = 5 then ((w.setEntry false x l ⟨i.block, y, [], 0⟩).updLayer x l fun b => { b with length := max b.length (256 * i.block + i.fill) }).serveParts
      else w
    exec (.pageCopy h k x l (.image i)) s = .next (((((z.settleCheck x).startGrads).serveGrads).settleRecalls).streamOn h)) ∧
  (∀ (s u : State) (h : MsgHdr) (p : Handle) (n : Nat), inTurn (.pageRelease h p n) s = some u → u.isOwn p = true →
    exec (.pageRelease h p n) s = .next ((u.dropLocal p n).streamOn h)) ∧
  (∀ (s u : State) (h : MsgHdr) (p x : Handle) (l b : Nat), heard h s = some u → l ≠ 0xFFFF →
    (∀ i, u.fetched p x l b = some i → exec (.pageFetch h p x l b) s = .next (u.postFor h.src h.reqId (.pageCopy 3 x l (.image i)))) ∧
    (u.fetched p x l b = none → exec (.pageFetch h p x l b) s = .next (u.postFor h.src h.reqId (.partialDecline h.seq 2)))) ∧
  (∀ (s u : State) (h : MsgHdr) (k : Word32) (p : Handle) (c : CopySent), heard h s = some u →
    ((u.peer h.src).copies.find? fun c => c.seq == k.toNat) = some c →
    let v := u.updPeer h.src fun p => { p with copies := delAll c p.copies }
    (∀ y, c.purpose = 1 → v.placed? c.page = none → v.page? c.page = some y → y.job = .place h.src → y.refs ≠ 0 →
      exec (.pageCopyAck h k p 0) s = .next (v.placed c.page p)) ∧
    (∀ y, c.purpose = 2 →
      let w := v.updPage c.page fun y => { y with awaiting := delAll h.src y.awaiting, copies := addNew p y.copies }
      w.page? c.page = some y →
      exec (.pageCopyAck h k p 0) s = .next (if y.awaiting ≠ [] then w else (w.referrers c.page).foldl (fun s x =>
        if x.1.shared ∧ s.isHome x.1.handle then s.mirrorMsg x.1.handle 0 (.stepSeal ⟨x.1.handle, x.2.1, x.2.2⟩ y.sealSummary.1 y.sealSummary.2) else s) w)) ∧
    (c.purpose = 4 ∨ c.purpose = 5 → exec (.pageCopyAck h k p 0) s = .next (v.updPage c.page fun y => { y with copies := addNew p y.copies }))) ∧
  (∀ (s u : State) (h : MsgHdr) (x : Handle) (l m : Nat), heard h s = some u → u.mirrorNode x = some h.src →
    exec (.mirrorAck h x l 0 m) s = .next (((u.updLayer x l fun y => { y with mirrored := max y.mirrored (min m y.length) }).delta [.length x l]).progress))

/-- A FORK_CREATE that is refused is answered with the status that says why; one that the child's home can take, with room for the references, makes the pending child, sends its contents to its tandem where it has one, and accepts. FORK_ACCEPT with status 0 of the
request awaited commits the fork, with another status ends it with that; its timeout replies `BUSY_RETRY` after 1,000 us. A pending child whose step never comes is removed, its tandem told, and what waited goes on. A
placement move of a sealed page of this node, of a sequence homed here, to another node of its set that leaves a second copy in another failure domain, marks, pins and sends the page. E2E_ACK releases the acknowledged messages and
ends what waited for them. A stream that owes an acknowledgement sends it; a retransmission timer sends every unacknowledged message again, each whole message once. -/
def Obligations.ForksAndStreamsTakeEffect : Prop :=
  (∀ (s u : State) (h : MsgHdr) (f : ForkReq) (g : List LayerGroup) (tk : List (List Word32)) (pg : List ForkPage) (cut : List (Nat × Copied)),
    asked h s = some u →
    ((u.forkVerdict h.reqId f).2 = false →
      exec (.forkCreate h f g tk pg cut) s = .next (u.postFor h.src h.reqId (.forkAccept h.seq (u.forkVerdict h.reqId f).1.code))) ∧
    (∀ v x, (u.forkVerdict h.reqId f).2 = true → (pg.all fun p => u.refRoom p.handle) = true →
      u.makeChild h.src h.reqId f g tk pg cut = some v → v.seq? f.child = some x →
      exec (.forkCreate h f g tk pg cut) s = .next ((match v.mirrorNode f.child with | some n => v.resyncSeq n 5 x | none => v).postFor h.src h.reqId
        (.forkAccept h.seq 0)))) ∧
  (∀ (s u : State) (h : MsgHdr) (k : Word32) (i : Inflight) (f : ForkReq), heard h s = some u → i.wait = .forkAccept f k →
    (u.cmds.list.find? fun i => (match i.wait with | .forkAccept f j => j == k && u.homeOf f.child == some h.src | _ => false)) = some i →
    exec (.forkAccept h k 0) s = .next (u.forkCommit i f) ∧
    ∀ st, st ≠ 0 → exec (.forkAccept h k st) s = .next (u.complete i (Status.ofCode st) none 0 [])) ∧
  (∀ (s : State) (id : Nat) (i : Inflight) (f : ForkReq) (k : Word32), s.inflight? id = some i → i.wait = .forkAccept f k →
    exec (.forkAcceptTimeout id) s = .next (s.complete i .busyRetry none 1000 [])) ∧
  (∀ (s : State) (h : Handle) (q : Seq) (k : Word64), s.seq? h = some q → q.state = .pendingChild k →
    exec (.pendingChildTimeout h) s = .next ((s.mirrorMsg h 0 (.stepDelete h)).removeSeq false h).resume) ∧
  (∀ (s : State) (h : Handle) (n : NodeId) (p : Page) (x : Ns) (q : Seq) (l b : Nat),
    ((s.referrers h).find? fun r => s.isHome r.1.handle) = some (q, l, b) → s.ns? (nsOf q.handle) = some x → x.selfPlaced = true → x.nodes.contains n = true →
    n ≠ handleNode h → n ≠ s.self → s.secondCopy q n = true → s.placed? h = none → s.page? h = some p → p.sealed? = true →
    p.img.ring = false → p.job = .none → p.recovering = false → p.refs ≠ 0 →
    exec (.placementMove h n) s = .next ((s.updPage h fun p => { p with job := .place n, pins := p.pins + 1 }).sendCopy n 1 q.handle l p)) ∧
  (∀ (s u : State) (h : MsgHdr) (k : Word32), heard h s = some u →
    let v := u.updPeer h.src fun p => { p with unacked := p.unacked.filter fun x => decide (k.toNat < x.seq) }
    exec (.e2eAck h k) s = .next (v.stepsAcked h.src k.toNat v.cmds.list).dropLeaving) ∧
  (∀ (s : State) (n : NodeId), s.listens = true →
    ((s.peer n).ackOwed = true → exec (.e2eAckTimer n) s =
      .next ((s.updPeer n fun p => { p with ackOwed := false }).postMsg n (.e2eAck (s.peer n).rxOrd))) ∧
    ((s.peer n).keyed = true → (s.peer n).holdUntilFirst = false → exec (.orderedRtoExpiry n) s =
      .next ((resendGo none (s.peer n).unacked).foldl (fun s x => if (s.peer n).waiting.contains x then s else s.transmit n x) s)))

/-! ## The composition map, heartbeats and health -/

/-- An admitted MAP_PUSH, on a node with no map or with an older one, installs its map and replies with the epoch and the fingerprint; a
push identical to the held map replies the same and installs nothing, an older one draws `STALE_EPOCH`, another map of the same epoch `CONFLICT`. MAP_DESCRIBE replies with the
epoch and one word a shard, all zero on a node with no map.
MAP_BODY installs a newer map that passes its checks and any other not, and what waited goes on; MAP_FETCH is answered with the map, and on a node with none not at all. The drain window's end forgets
the map before and drops the copies that the node gave up. The fingerprint is the digest of the effective configuration: where it changes it is taken and recorded, else nothing happens. -/
def Obligations.MapsTakeEffect : Prop :=
  (∀ (p : Packet) (s u : State) (c : Cmd) (m : MapBody), admission .mapPush p s = some (c, u) → parseMap c.data = some m →
    ((u.map.map = none ∨ ∃ o, u.map.map = some o ∧ o.epoch.toNat < m.epoch.toNat) →
      let t := u.installMap m
      exec (.mapPush p) s = .next (t.finish c .ok none 0 (leBytes 4 t.epoch ++ zeroBytes 4 ++ leBytes 8 t.fingerprint.toNat)).progress.schedule.resume) ∧
    (∀ o, u.map.map = some o → m.epoch.toNat < o.epoch.toNat →
      exec (.mapPush p) s = .next (u.refuse .mapPush c.pkt c.ptn .staleEpoch none 0).progress.schedule.resume) ∧
    (∀ o, u.map.map = some o → m.epoch.toNat = o.epoch.toNat → MapBody.same m o = true →
      exec (.mapPush p) s = .next (u.finish c .ok none 0 (leBytes 4 u.epoch ++ zeroBytes 4 ++ leBytes 8 u.fingerprint.toNat)).progress.schedule.resume) ∧
    (∀ o, u.map.map = some o → m.epoch.toNat = o.epoch.toNat → MapBody.same m o = false →
      exec (.mapPush p) s = .next (u.refuse .mapPush c.pkt c.ptn .conflict none 0).progress.schedule.resume)) ∧
  (∀ (p : Packet) (s u : State) (c : Cmd), admission .mapDescribe p s = some (c, u) →
    exec (.mapDescribe p) s = .next (u.answered c (leBytes 4 u.epoch ++ zeroBytes 4 ++ (List.range (mapCount c)).flatMap fun i =>
      leBytes 4 (match u.map.map with | some m => shardWord (m.roles (field c.data 0 2 + i)) | none => 0)))) ∧
  (∀ (s u : State) (h : MsgHdr) (b : MapBody), heard h s = some u →
    (u.epoch < b.epoch.toNat → MapBody.ok b = true → exec (.mapBody h b) s = .next (u.installMap b).resume) ∧
    (b.epoch.toNat ≤ u.epoch ∨ MapBody.ok b = false → exec (.mapBody h b) s = .next u.resume) ∧
    ∀ w, (∀ m, u.map.map = some m → exec (.mapFetch h w) s = .next (u.postFor h.src h.reqId (.mapBody m))) ∧
      (u.map.map = none → exec (.mapFetch h w) s = .next u)) ∧
  (∀ s : State, exec .drainWindowExpiry s = .next ({ s with map := { s.map with prev := none } } : State).dropLeaving) ∧
  (∀ s : State,
    (digest64 s.configBytes = s.fingerprint → exec .fingerprintRecompute s = .next s) ∧
    (digest64 s.configBytes ≠ s.fingerprint → exec .fingerprintRecompute s = .next
      (({ s with fingerprint := digest64 s.configBytes } : State).note ⟨10, 3, 0, 0xFF, 0, zeroBytes 16 ++ leBytes 8 (digest64 s.configBytes).toNat⟩)))

/-- A heartbeat renews its peer; under the same map one with the node's fingerprint ends the count of differing ones, and one with another counts, and at FP_HOLD raises FP_MISMATCH. On a
node that beats, fast heartbeats go to the watch set and to peers that left it, slow ones to the other nodes of the map; a silent peer of the map is suspected once. The health score
is 1,000 less the penalties. On a node that listens, a peer that is low or failing and was not asked within 10 s is asked to leave, with a token where FAB_EXPEL[7:0] has one, which is spent, else with kind 2. EXPEL of kind 1 with a newer token
raises EXPEL_REQUESTED, and the node leaves unless a leave was raised; of kind 2 an unhealthy normal node keeps itself out, another only records it; an EXPEL for another node or with an old token is recorded and counted. -/
def Obligations.HealthTakesEffect : Prop :=
  (∀ (s u : State) (h : MsgHdr) (b : Heartbeat), heard h s true = some u →
    let v := u.updPeer h.src fun p => { p with
      hbRx := b.hbSeq.toNat, watched := b.watched, suspect := false, warned := b.warning, healths := u.keepHealth b.health p.healths }
    (h.epoch.toNat ≠ v.epoch ∨ b.mapDigest ≠ v.mapDigest → exec (.heartbeat h b) s = .next v) ∧
    (h.epoch.toNat = v.epoch → b.mapDigest = v.mapDigest → b.fingerprint = v.fingerprint →
      exec (.heartbeat h b) s = .next (v.updPeer h.src fun p => { p with fpDiff := 0 })) ∧
    (h.epoch.toNat = v.epoch → b.mapDigest = v.mapDigest → b.fingerprint ≠ v.fingerprint →
      let w := v.updPeer h.src fun p => { p with fpDiff := p.fpDiff + 1 }
      exec (.heartbeat h b) s = .next (if (w.peer h.src).fpDiff = w.rf .fabHb 22 4 then
        w.raise .fabSts 1 ⟨5, 2, 0, 0xFF, 0, leBytes 2 h.src.toNat ++ leBytes 2 0 ++ leBytes 4 w.epoch ++ leBytes 4 0 ++ zeroBytes 4 ++
          leBytes 8 w.fingerprint.toNat ++ leBytes 8 b.fingerprint.toNat⟩ else w))) ∧
  (∀ s : State, s.beats = true → exec .heartbeatFastSend s = .next (s.watchSet.foldl (fun s n => s.sendHeartbeat n true) s.tellLeavers)) ∧
  (∀ (s : State) (m : MapBody), s.beats = true → s.map.map = some m → exec .heartbeatSlowSend s =
    .next (((m.nodes.map (·.1)).filter fun n => n != s.self && !s.watchSet.contains n).foldl (fun s n => s.sendHeartbeat n false) s)) ∧
  (∀ (s : State) (n : NodeId), s.inMap n = true → n ≠ s.self → s.beats = true →
    ((s.peer n).suspect = false → exec (.peerSuspect n) s = .next ((s.updPeer n fun p => { p with suspect := true }).raise .fabSts 0
      ⟨5, 1, 1, 0xFF, 0, leBytes 2 n.toNat ++ leBytes 2 0 ++ leBytes 4 s.epoch ++ leBytes 4 (s.peer n).hbRx⟩)) ∧
    ((s.peer n).suspect = true → exec (.peerSuspect n) s = .next s)) ∧
  (∀ s : State, exec .healthScoreRecompute s = .next { s with map := { s.map with score := 1000 - sumNat s.penalties } }) ∧
  (∀ (s : State) (n : NodeId), s.listens = true → n ≠ s.self → s.lowFor (s.peer n) = true ∨ s.failing (s.peer n) = true →
    (∀ t, (s.peer n).expelAt = some t → t + 10 * secondNs ≤ s.pow.tsc.toNat) →
    let reason := if s.lowFor (s.peer n) = true then 1 else 2
    let seen := (minNat? (((s.peer n).healths.filter fun x => decide (s.pow.tsc.toNat < x.2 + secondNs)).map (·.1))).getD 0
    let failed := (s.lastSecond (s.peer n).reqFailed).length
    let v := s.updPeer n fun p => { p with expelAt := some s.pow.tsc.toNat }
    let spent := v.map.tokensSpent + 1
    (s.rf .fabExpel 0 8 = 0 → exec (.expulsionRequestSend n) s = .next (v.postMsg n (.expel n 2 reason 0 seen failed))) ∧
    (s.rf .fabExpel 0 8 ≠ 0 → exec (.expulsionRequestSend n) s =
      .next (({ v.setRf .fabExpel 0 8 (s.rf .fabExpel 0 8 - 1) with map := { v.map with tokensSpent := spent } } : State).postMsg n
        (.expel n 1 reason spent seen failed)))) ∧
  (∀ (s u : State) (h : MsgHdr) (n : NodeId) (kind r a b : Nat) (k : Word32), heard h s = some u →
    let det := leBytes 2 h.src.toNat ++ leBytes 2 r ++ leBytes 4 u.epoch ++ leBytes 4 0
    (n = u.self → kind = 1 → (u.peer h.src).tokenSeen < k.toNat →
      let v := (u.updPeer h.src fun p => { p with tokenSeen := k.toNat }).raise .fabHealth 16 ⟨5, 4, 2, 0xFF, 0, det⟩
      exec (.expel h n kind r k a b) s = .next (if v.map.leaveRaised then v else v.leave 6)) ∧
    (n = u.self → kind = 2 → u.map.score < u.keepThr → u.map.role = 0 → exec (.expel h n kind r k a b) s =
      .next (({ u with map := { u.map with role := 1, keepEpoch := BitVec.ofNat 32 u.epoch } } : State).raise .fabHealth 17 ⟨5, 5, 1, 0xFF, 0, det⟩)) ∧
    (n = u.self → kind = 2 → u.keepThr ≤ u.map.score ∨ u.map.role ≠ 0 →
      exec (.expel h n kind r k a b) s = .next (u.note ⟨5, 5, 0, 0xFF, 0, det⟩)) ∧
    (n ≠ u.self ∨ (kind = 1 ∧ k.toNat ≤ (u.peer h.src).tokenSeen) →
      exec (.expel h n kind r k a b) s = .next ((u.note ⟨5, 6, 0, 0xFF, 0, det⟩).count 6 nodeScope (fabTel h.link 14))))

/-! ## Pattern slots, program slots and models -/

/-- Admitted: PAT_INVALIDATE gives the slot to the caller's partition with no valid pattern and no staging, a valid one kept for the commands bound to it; PAT_WRITE to a slot that is
owned and not valid, with quota, puts the bytes into the staging area; to another slot it draws `BUSY_RETRY`, without quota `NO_SPACE`. PAT_VALIDATE of a valid slot
compares the digest. Of any other slot: with two earlier versions still bound it draws `BUSY_RETRY`; else a staged image of an owned slot with the digest given that is well formed and has banks becomes the slot's version;
another digest or no owner draws `CONFLICT`, a malformed image `BAD_PARAM`, no banks `NO_SPACE`. PAT_UNLOAD
empties the slot; PAT_DESCRIBE tells it and changes nothing. Putting a slot sets that slot, with those earlier versions that are still bound, and no other. -/
def Obligations.PatternSlotCommandsTakeEffect : Prop :=
  (∀ (p : Packet) (s u : State) (c : Cmd), admission .patInvalidate p s = some (c, u) →
    let x := u.patSlot (field c.data 0 2)
    exec (.patInvalidate p) s = .next ((u.setPat { x with
      owner := c.ptn, current := none, old := x.old ++ x.current.toList, staging := [], stagingLen := 0 }).answered c [])) ∧
  (∀ (p : Packet) (s u : State) (c : Cmd), admission .patWrite p s = some (c, u) →
    let x := u.patSlot (field c.data 0 2)
    let len := max x.stagingLen (field c.data 4 4 + field c.data 8 4)
    let room := u.quotaRoom c.ptn (stagingFrames len - stagingFrames x.stagingLen)
    (x.owner = noPtn ∨ x.current.isSome = true → exec (.patWrite p) s = .next (u.refused c .busyRetry)) ∧
    (x.owner ≠ noPtn → x.current = none → room = none → exec (.patWrite p) s = .next (u.refused c .noSpace)) ∧
    (∀ v, x.owner ≠ noPtn → x.current = none → room = some v →
      exec (.patWrite p) s = .next ((v.setPat { x with
        staging := Mem.writeList x.staging (field c.data 4 4) (c.data.drop 16), stagingLen := len }).answered c []))) ∧
  (∀ (p : Packet) (s u : State) (c : Cmd), admission .patValidate p s = some (c, u) →
    let x := u.patSlot (field c.data 0 2)
    let image := Mem.readList x.staging 0 (field c.data 4 4)
    let want := BitVec.ofNat 256 (field c.data 8 32)
    (∀ v, x.current = some v → v.digest = want → exec (.patValidate p) s = .next (u.answered c [])) ∧
    (∀ v, x.current = some v → v.digest ≠ want → exec (.patValidate p) s = .next (u.refused c .conflict)) ∧
    (x.current = none → 2 ≤ (u.oldPats x).length → exec (.patValidate p) s = .next (u.refused c .busyRetry)) ∧
    (x.current = none → (u.oldPats x).length < 2 →
      (x.owner = noPtn ∨ digest image ≠ want → exec (.patValidate p) s = .next (u.refused c .conflict)) ∧
      (x.owner ≠ noPtn → digest image = want →
        (parsePattern image = none → exec (.patValidate p) s = .next (u.refused c .badParam)) ∧
        ∀ v, parsePattern image = some v →
          (u.placeBanks v = none → exec (.patValidate p) s = .next (u.refused c .noSpace)) ∧
          ∀ w, u.placeBanks v = some w → exec (.patValidate p) s = .next
            ((({ u with slots := { u.slots with nextVer := u.slots.nextVer + 1 } } : State).setPat { x with
              current := some { w with serial := u.slots.nextVer } }).answered c [])))) ∧
  (∀ (p : Packet) (s u : State) (c : Cmd), admission .patUnload p s = some (c, u) →
    let x := u.patSlot (field c.data 0 2)
    exec (.patUnload p) s = .next ((u.setPat { PatSlot.empty x.num with old := x.old ++ x.current.toList }).answered c [])) ∧
  (∀ (p : Packet) (s u : State) (c : Cmd), admission .patDescribe p s = some (c, u) →
    let x := u.patSlot (field c.data 0 2)
    (x.current = none → exec (.patDescribe p) s =
      .next (u.answered c (leBytes 1 (if x.owner = noPtn then 0 else 1) ++ leBytes 1 x.owner ++ zeroBytes 174))) ∧
    ∀ v, x.current = some v → exec (.patDescribe p) s =
      .next (u.answered c (leBytes 1 (if x.owner = noPtn then 0 else 2) ++ leBytes 1 x.owner ++ leBytes 1 v.npat ++ leBytes 1 v.lookback ++
        leBytes 4 v.nstates ++ leBytes 1 v.firstBank ++ leBytes 1 v.nbanks ++ zeroBytes 6 ++ leBytes 32 v.digest.toNat ++
        fitBytes 128 (v.patid.flatMap fun w => leBytes 4 w.toNat)))) ∧
  (∀ (u : State) (x : PatSlot), (u.setPat x).patSlot x.num = { x with old := u.oldPats x } ∧
    ∀ n, n ≠ x.num → (u.setPat x).patSlot n = u.patSlot n)

/-- Admitted: PROG_LOAD of a well-formed image draws `BUSY_RETRY` where the slot has no version and earlier ones of another partition are still bound, or where two bound versions would stay; else it makes the image the
slot's version, the bound ones kept, and replies with its digest. PROG_UNLOAD leaves the slot without a version; PROG_DESCRIBE tells it. Putting a slot sets that slot and no other.
MODEL_INSTALL draws `MEDIA_EXHAUSTED` in READ_ONLY. Elsewhere, with two images that unwrap on this node and are well formed: a number in use in the namespace draws `BAD_PARAM`, too many lists `NO_SPACE`, a retained model that a recall
uses `BUSY_RETRY`; else the model is made current, the one before it retained, the one retained before removed, and the reply has both digests. An image that does not unwrap draws `DENIED`. MODEL_DESCRIBE tells both. -/
def Obligations.ProgramAndModelCommandsTakeEffect : Prop :=
  (∀ (p : Packet) (s u : State) (c : Cmd) (ws : List Word32), admission .progLoad p s = some (c, u) → parseProgram (c.data.drop 8) = some ws →
    let x := u.progSlot (field c.data 0 1)
    let bound := u.oldProgs x ++ x.current.toList.filter (u.progBound x.num)
    let foreign := x.current = none ∧ u.oldProgs x ≠ [] ∧ x.owner ≠ c.ptn
    (foreign ∨ 2 ≤ bound.length → exec (.progLoad p) s = .next (u.refused c .busyRetry)) ∧
    (¬ foreign → bound.length < 2 → exec (.progLoad p) s =
      .next ((({ u with slots := { u.slots with nextVer := u.slots.nextVer + 1 } } : State).setProg
        ⟨x.num, c.ptn, some ⟨ws, digest (c.data.drop 8), u.slots.nextVer⟩, bound⟩).answered c (leBytes 32 (digest (c.data.drop 8)).toNat)))) ∧
  (∀ (p : Packet) (s u : State) (c : Cmd), admission .progUnload p s = some (c, u) →
    let x := u.progSlot (field c.data 0 1)
    (x.current = none → exec (.progUnload p) s = .next (u.answered c [])) ∧
    (x.current ≠ none →
      exec (.progUnload p) s = .next ((u.setProg { x with current := none, old := x.old ++ x.current.toList }).answered c []))) ∧
  (∀ (p : Packet) (s u : State) (c : Cmd), admission .progDescribe p s = some (c, u) →
    let x := u.progSlot (field c.data 0 1)
    let bound := (x.current.toList.filter (u.progBound x.num)).length + (u.oldProgs x).length
    (x.current = none → exec (.progDescribe p) s =
      .next (u.answered c (leBytes 1 0 ++ leBytes 1 noPtn ++ leBytes 1 0 ++ leBytes 1 bound ++ zeroBytes 36))) ∧
    ∀ v, x.current = some v → exec (.progDescribe p) s =
      .next (u.answered c (leBytes 1 1 ++ leBytes 1 x.owner ++ leBytes 1 v.words.length ++ leBytes 1 bound ++ zeroBytes 4 ++ leBytes 32 v.digest.toNat))) ∧
  (∀ (u : State) (x : ProgSlot), ((u.setProg x).progSlot x.num =
      if x.current = none ∧ u.oldProgs x = [] then ProgSlot.empty x.num else { x with old := u.oldProgs x }) ∧
    ∀ n, n ≠ x.num → (u.setProg x).progSlot n = u.progSlot n) ∧
  (∀ (p : Packet) (s u : State) (c : Cmd) (x : Ns), admission .modelInstall p s = some (c, u) → u.flash.state ≠ .readOnly →
    u.ns? (field c.data 0 2) = some x →
    let w? := unwrapBound 1 (slice c.data 16 (field c.data 4 4))
    let k? := unwrapBound 2 (slice c.data (up64 (16 + field c.data 4 4)) (field c.data 8 4))
    (w? = none ∨ k? = none → exec (.modelInstall p) s = .next (u.refused c .denied)) ∧
    ∀ (wi ci : List Byte) (w : List Nat × List (Nat × List (List Word16) × List Word32)) (k : List (List Word16) × List (List (List Word32))),
      w? = some wi → k? = some ci → parseWeights wi = some w → parseCodebook ci = some k →
      let used := (x.current.toList ++ x.retained.toList).any fun y => y.num == field c.data 2 1
      let lists := k.1.length + sumNat ((u.store.nss.flatMap fun y => y.current.toList ++
        (if y.num = field c.data 0 2 then [] else y.retained.toList)).map fun y => y.coarse.length)
      (used = true → exec (.modelInstall p) s = .next (u.refused c .badParam)) ∧
      (used = false → nlistMax < lists → exec (.modelInstall p) s = .next (u.refused c .noSpace)) ∧
      (∀ y, used = false → lists ≤ nlistMax → x.retained = some y → u.modelBound (field c.data 0 2) y.num = true →
        exec (.modelInstall p) s = .next (u.refused c .busyRetry)) ∧
      (used = false → lists ≤ nlistMax → (∀ y, x.retained = some y → u.modelBound (field c.data 0 2) y.num = false) →
        let m : Model := ⟨field c.data 2 1, digest wi, digest ci, w.1, w.2, k.1, k.2⟩
        let v := match x.retained with | some y => u.removeModel (field c.data 0 2) y.num | none => u
        let l := v.store.nss.map fun y => if y.num = field c.data 0 2 then { y with current := some m, retained := y.current } else y
        exec (.modelInstall p) s = .next ((({ v with store := { v.store with nss := l } } : State).delta [.ns (field c.data 0 2)]).answered c
          (leBytes 32 (digest wi).toNat ++ leBytes 32 (digest ci).toNat)))) ∧
  (∀ (p : Packet) (s u : State) (c : Cmd), admission .modelInstall p s = some (c, u) → u.flash.state = .readOnly →
    exec (.modelInstall p) s = .next (u.refused c .mediaExhausted)) ∧
  (∀ (p : Packet) (s u : State) (c : Cmd) (x : Ns), admission .modelDescribe p s = some (c, u) → u.ns? (field c.data 0 2) = some x →
    exec (.modelDescribe p) s = .next (u.answered c (u.modelRecord x.num 1 x.current ++ u.modelRecord x.num 2 x.retained)))

/-! ## Partitions and keys -/

/-- Admitted with room: PTN_CREATE makes the partition with its fields under the next storage key, counts the number's generation up, clears its
counters, and for a confidential one latches JTAG_LOCK; PTN_MODIFY sets the fields that may change; without room both draw
`NO_SPACE`. PTN_RESET marks the partition in reset, ends its waiting commands and is held. PTN_RESET_COMPLETE, once nothing of a partition in reset runs but its resets,
empties its key slots and its program and pattern slots, counts the generation up, takes it out of reset and fence with an event, and answers the resets; till then it does nothing but let go on what waited. PTN_DESTROY empties the partition's program and pattern slots and leaves no partition of
the number. Creation, the end of a reset and destruction write the anchors where flash can be written. PTN_DESCRIBE replies with the partition's body, use, state and generation, of no partition with its number and zeros. KEY_INSTALL
puts the key that unwraps for this node, context, slot and generation into the slot with its counter at 0; KEY_REVOKE marks the slot's
key revoked; neither touches another context. -/
def Obligations.PartitionCommandsTakeEffect : Prop :=
  (∀ (p : Packet) (s u : State) (c : Cmd) (x : PtnBody), admission .ptnCreate p s = some (c, u) → parsePtn c.data = some x →
    (u.ptnRoom x = false → exec (.ptnCreate p) s = .next (u.refused c .noSpace)) ∧
    (u.ptnRoom x = true →
      let v := if x.confidential = true then u.latchJtag else u
      let t := ({ v with
        ptns := updAt x.num (fun _ => some ⟨x.keyMode, x.confidential, BitVec.ofNat 32 x.priv, x.hbm, x.flash, x.engine, x.first, x.count,
          x.queueMax, x.trigMax, false, false, v.trust.nextKey⟩) v.ptns
        ptnGen := updAt x.num (· + 1) v.ptnGen
        trust := { v.trust with nextKey := v.trust.nextKey + 1 } } : State)
      exec (.ptnCreate p) s = .next ((t.clearPtnCounters x.num).securityChanged.answered c []))) ∧
  (∀ s : State, s.latchJtag.trust.jtagLock = true ∧ (s.trust.jtagLock = false → s.latchJtag.rf .secCtl 0 1 = 0)) ∧
  (∀ (p : Packet) (s u : State) (c : Cmd) (x : PtnBody), admission .ptnModify p s = some (c, u) → parsePtn c.data = some x →
    (u.ptnRoom x = false → exec (.ptnModify p) s = .next (u.refused c .noSpace)) ∧
    (u.ptnRoom x = true → exec (.ptnModify p) s = .next ((u.updPtn x.num fun y => { y with
      priv := BitVec.ofNat 32 x.priv, hbmQuota := x.hbm, flashQuota := x.flash, enginePm := x.engine, ctxFirst := x.first,
      ctxCount := x.count, queueMax := x.queueMax, trigMax := x.trigMax }).answered c []))) ∧
  (∀ (p : Packet) (s u : State) (c : Cmd), admission .ptnReset p s = some (c, u) →
    let v := u.updPtn (field c.data 0 1) fun y => { y with resetting := true }
    let w := v.cutWaits (fun i => i.ptn == field c.data 0 1) v.cmds.list
    exec (.ptnReset p) s = .next (w.held c (.ptnReset (field c.data 0 1)))) ∧
  (∀ (s : State) (n : Fin 32) (y : Ptn), s.ptn? n = some y →
    let busy := s.cmds.list.any fun i => i.ptn == n.val && i.wait != .ptnReset n
    (y.resetting = true → busy = false →
      let a := ({ s with host := { s.host with
        ctxs := updWhere (fun c => c.ptn == n.val) (fun c => { c with keys := List.replicate 4 none }) s.host.ctxs } } : State).unloadSlots n
      let b := ({ a with ptnGen := updAt n (· + 1) a.ptnGen } : State).updPtn n fun y => { y with resetting := false, fenced := false }
      let t := b.raise (.ptnSts n) 1 (Rec.event n.val)
      exec (.ptnResetComplete n) s = .next (t.endResets n t.cmds.list).securityChanged.resume) ∧
    (y.resetting = false ∨ busy = true → exec (.ptnResetComplete n) s = .next s.resume)) ∧
  (∀ (s : State) (n : Fin 32), s.ptn? n = none → exec (.ptnResetComplete n) s = .next s.resume) ∧
  (∀ (p : Packet) (s u : State) (c : Cmd), admission .ptnDestroy p s = some (c, u) →
    let v := u.unloadSlots (field c.data 0 1)
    exec (.ptnDestroy p) s =
      .next (({ v with ptns := updAt (field c.data 0 1) (fun _ => none) v.ptns } : State).securityChanged.answered c [])) ∧
  (∀ (p : Packet) (s u : State) (c : Cmd), admission .ptnDescribe p s = some (c, u) →
    let n := field c.data 0 1
    (u.ptn? n = none → exec (.ptnDescribe p) s = .next (u.answered c (leBytes 1 n ++ zeroBytes 63))) ∧
    (∀ y, u.ptn? n = some y → exec (.ptnDescribe p) s = .next (u.answered c (y.body n ++ leBytes 4 (u.hbmUsed n) ++ leBytes 4 (u.flashUsed n) ++
      leBytes 2 (u.host.ctxs.filter fun k => k.ptn == n).length ++ leBytes 2 (u.ptnQueues n).length ++
      leBytes 1 (ptnStateCode (some y)) ++ zeroBytes 3 ++ leBytes 4 (u.ptnGen.getD n 0) ++ zeroBytes 12)))) ∧
  (∀ (p : Packet) (s u : State) (c : Cmd) (y : Ptn) (k : Nat), admission .keyInstall p s = some (c, u) → u.ptn? c.ptn = some y →
    u.unwrapKey y.keyMode c.ctx (field c.data 0 1) c.ptn (c.data.drop 8) = some k →
    exec (.keyInstall p) s = .next ((u.updCtx c.ctx fun x => { x with
      keys := updAt (field c.data 0 1) (fun _ => some ⟨k, false, 0⟩) x.keys }).answered c [])) ∧
  (∀ (p : Packet) (s u : State) (c : Cmd), admission .keyRevoke p s = some (c, u) →
    exec (.keyRevoke p) s = .next ((u.updCtx c.ctx fun x => { x with
      keys := updAt (field c.data 0 1) (fun k => k.map fun y => { y with revoked := true }) x.keys }).answered c []))

/-! ## Firmware update and attestation -/

/-- Admitted, with no activation running: FW_STAGE puts its bytes into the slot that is not active, where the vendor's image goes first, and clears a checked state;
FW_CHECK with the digest of the staged bytes and a valid image records it as checked, with another digest draws `CONFLICT`, with no valid image
`DENIED`; FW_ABORT goes back to state 0; during an activation the three draw `BUSY_RETRY`. FW_ACTIVATE begins the activation and is
held. While it runs in RIDE, core groups take the new image one by one; after the sixth the selector names the other slot, which is active with its measurement, and the command that waits replies. A
group that fails goes back to the checked state with `INTERNAL`. A report with no activation running does nothing but let go on what waited. FW_DESCRIBE tells the state and the digests. -/
def Obligations.FirmwareUpdateTakesEffect : Prop :=
  (∀ (p : Packet) (s u : State) (c : Cmd), admission .fwStage p s = some (c, u) →
    let put := fun (x : FwSlot) => (⟨false, Mem.writeList (if x.factory = true then [] else x.bytes) (field c.data 0 4) (c.data.drop 16)⟩ : FwSlot)
    (u.trust.fw.state = 3 → exec (.fwStage p) s = .next (u.refused c .busyRetry)) ∧
    (u.trust.fw.state ≠ 3 → exec (.fwStage p) s =
      .next (((u.updSlot (1 - u.boot.active) put).setFw fun f => { f with state := 1 }).answered c []))) ∧
  (∀ (p : Packet) (s u : State) (c : Cmd), admission .fwCheck p s = some (c, u) →
    let want : Digest := BitVec.ofNat 256 (field c.data 8 32)
    (u.trust.fw.state = 3 → exec (.fwCheck p) s = .next (u.refused c .busyRetry)) ∧
    (u.trust.fw.state ≠ 3 → u.slotDigest u.otherSlot (field c.data 0 4) ≠ want → exec (.fwCheck p) s = .next (u.refused c .conflict)) ∧
    (u.trust.fw.state ≠ 3 → u.slotDigest u.otherSlot (field c.data 0 4) = want → u.slotImage u.otherSlot = none →
      exec (.fwCheck p) s = .next (u.refused c .denied)) ∧
    (∀ i, u.trust.fw.state ≠ 3 → u.slotDigest u.otherSlot (field c.data 0 4) = want → u.slotImage u.otherSlot = some i →
      exec (.fwCheck p) s = .next ((u.setFw fun f =>
        { f with state := 2, staged := want, stagedSvn := i.2, stagedLen := field c.data 0 4 }).answered c []))) ∧
  (∀ (p : Packet) (s u : State) (c : Cmd), admission .fwAbort p s = some (c, u) →
    (u.trust.fw.state = 3 → exec (.fwAbort p) s = .next (u.refused c .busyRetry)) ∧
    (u.trust.fw.state ≠ 3 → exec (.fwAbort p) s = .next ((u.setFw fun f => { f with state := 0 }).answered c []))) ∧
  (∀ (p : Packet) (s u : State) (c : Cmd), admission .fwActivate p s = some (c, u) →
    let v := u.setFw fun f => { f with state := 3, groupsDone := 0, waiter := some u.cmds.nextId }
    u.trust.fw.state = 2 ∧ exec (.fwActivate p) s = .next (v.held c .fwActivate)) ∧
  (∀ s : State, s.trust.fw.state = 3 → s.pow.phase = .service → s.pow.state = .ride →
    (s.trust.fw.groupsDone < 5 →
      exec (.coreGroupReady true) s = .next (s.setFw fun f => { f with groupsDone := f.groupsDone + 1 }).resume) ∧
    (5 ≤ s.trust.fw.groupsDone →
      let v := s.setSelector (1 - s.boot.active)
      let t := ({ v with
        boot := { v.boot with active := 1 - s.boot.active }
        trust := { v.trust with fwDigest := s.trust.fw.staged, svnRun := s.trust.fw.stagedSvn,
                                fw := { s.trust.fw with state := 0, groupsDone := 0 } } } : State)
      exec (.coreGroupReady true) s = .next (t.endActivate .ok (leBytes 32 s.trust.fw.staged.toNat)).resume) ∧
    exec (.coreGroupReady false) s = .next ((s.setFw fun f => { f with state := 2, groupsDone := 0 }).endActivate .internal []).resume) ∧
  (∀ (s : State) (ok : Bool), s.trust.fw.state ≠ 3 → exec (.coreGroupReady ok) s = .next s.resume) ∧
  (∀ (p : Packet) (s u : State) (c : Cmd), admission .fwDescribe p s = some (c, u) →
    exec (.fwDescribe p) s = .next (u.answered c (leBytes 1 u.trust.fw.state ++ zeroBytes 3 ++ leBytes 4 u.trust.svnRun.toNat ++
      leBytes 32 u.trust.fwDigest.toNat ++ (if 2 ≤ u.trust.fw.state then leBytes 32 u.trust.fw.staged.toNat else zeroBytes 32))))

/-- An admitted ATTEST with a ready key and no activation running replies with the report, its signature under "PTATTST1", and uses one index of
the key, a used-up key first giving way to its successor; otherwise it draws `BUSY_RETRY`. CERT_READ replies with the certificate, or for a key not there yet draws `BUSY_RETRY` (the model's choice, log 32). The first
attestation key, and each successor once 2^18 indices remain, takes one identity signature; where none can be had no key comes, and where none is due nothing happens. A
used-up key gives way to its certified successor, and ATT_ROLL is raised. -/
def Obligations.AttestationTakesEffect : Prop :=
  (∀ (p : Packet) (s u : State) (c : Cmd), admission .attest p s = some (c, u) →
    (u.trust.fw.state ≠ 3 → u.trust.attReady = true →
      let v := u.attRoll
      let r := v.attestReport c
      let t : State := { v with trust := { v.trust with attLeft := v.trust.attLeft - 1,
                                                        attReady := v.trust.attSuccessor || decide (1 < v.trust.attLeft) } }
      exec (.attest p) s = .next (t.answered c (padTo 8 (leBytes 4 r.length ++ leBytes 4 4963 ++ r) ++
        fitBytes 4963 (Config.sign v.trust.attSerial (prefixAtt ++ r))))) ∧
    (u.trust.fw.state = 3 → exec (.attest p) s = .next (u.refuse .attest c.pkt c.ptn .busyRetry none (u.expectedWait 2000)).progress.resume) ∧
    (u.trust.fw.state ≠ 3 → u.trust.attReady = false →
      exec (.attest p) s = .next (u.refuse .attest c.pkt c.ptn .busyRetry none (u.expectedWait 65535)).progress.resume)) ∧
  (∀ (p : Packet) (s u : State) (c : Cmd), admission .certRead p s = some (c, u) →
    let m := Config.certMap (field c.data 0 1) (if field c.data 0 1 = 0 then 0 else u.trust.attSerial)
    (field c.data 0 1 ≠ 1 ∨ u.trust.attSerial ≠ 0 → exec (.certRead p) s = .next (u.answered c (leBytes 4 m.length ++ zeroBytes 4 ++ m))) ∧
    (field c.data 0 1 = 1 → u.trust.attSerial = 0 →
      exec (.certRead p) s = .next (u.refuse .certRead c.pkt c.ptn .busyRetry none (u.expectedWait 65535)).progress.resume)) ∧
  (∀ s v : State, s.pow.phase = .service ∨ s.pow.phase = .applying → s.identitySign = (true, v) →
    v.trust.idxNext = s.trust.idxNext + 1 ∧
    (s.trust.attSerial = 0 →
      let t : State := { v with trust := { v.trust with attSerial := 1, attLeft := 2 ^ 20, attReady := true } }
      exec .attKeyReady s = .next ((t.fab.peers.filter fun x => !x.keyed && !x.waiting.isEmpty).foldl (fun u x => u.needKey x.node) t)) ∧
    (s.trust.attSerial ≠ 0 → s.trust.attLeft ≤ 2 ^ 18 → s.trust.attSuccessor = false →
      let w : State := { v with trust := { v.trust with attSuccessor := true } }
      let t := if v.trust.attLeft = 0 then w.attRoll else w
      exec .attKeyReady s = .next ((t.fab.peers.filter fun x => !x.keyed && !x.waiting.isEmpty).foldl (fun u x => u.needKey x.node) t))) ∧
  (∀ s v : State, s.pow.phase = .service ∨ s.pow.phase = .applying →
    s.trust.attSerial = 0 ∨ (s.trust.attLeft ≤ 2 ^ 18 ∧ s.trust.attSuccessor = false) → s.identitySign = (false, v) →
    exec .attKeyReady s = .next v) ∧
  (∀ s : State, s.trust.attSerial ≠ 0 → 2 ^ 18 < s.trust.attLeft ∨ s.trust.attSuccessor = true → exec .attKeyReady s = .next s) ∧
  (∀ s : State, s.trust.idxLost = true ∨ s.trust.idxOk = false → s.identitySign = (false, s)) ∧
  (∀ s : State,
    let next : Trust := { s.trust with attSerial := s.trust.attSerial + 1, attLeft := 2 ^ 20, attSuccessor := false, attReady := true }
    (s.trust.attLeft = 0 → s.trust.attSuccessor = true →
      exec .attKeyRoll s = .next (({ s with trust := next } : State).raise .secSts 11 ⟨9, 3, 0, 0xFF, 0, []⟩)) ∧
    (s.trust.attLeft ≠ 0 ∨ s.trust.attSuccessor = false → exec .attKeyRoll s = .next s))

/-- ATTEST from a management session passes its checks for any mask of partitions, and its report holds one map a partition asked for.
The map of a confidential partition has keys 1 to 6 alone. For a context, the report holds the map of the context's own partition, with
keys 7 to 11 too (R425 leaves those out while the partition is in reset). -/
def Obligations.ConfidentialMapsAreShortForSessions : Prop :=
  (∀ (c : Cmd) (u : State) (n : Nat), c.pkt.src = .mgmt n → c.data.length = 40 → zeros (slice c.data 36 4) = true →
    (opDef .attest).seven c u = none) ∧
  (∀ (p : Packet) (s u : State) (c : Cmd), admission .attest p s = some (c, u) → u.trust.fw.state ≠ 3 → u.trust.attReady = true →
    ∃ (t v : State) (r : List Byte), exec (.attest p) s = .next (t.answered c (padTo 8 (leBytes 4 r.length ++ leBytes 4 4963 ++ r) ++
        fitBytes 4963 (Config.sign v.trust.attSerial (prefixAtt ++ r)))) ∧
      ((∃ n, c.pkt.src = .mgmt n) → r = v.report (c.data.take 32) (field c.data 32 4) false) ∧
      ((∃ x n, c.pkt.src = .host x n) → r = v.report (c.data.take 32) (field c.data 32 4) true ∧
        ∀ n, n < 32 → bit (field c.data 32 4) n = true → n = c.ptn)) ∧
  (∀ (s : State) (nonce : List Byte) (mask : Nat) (own : Bool), ∃ a b, s.report nonce mask own =
    a ++ cUint 19 ++ cArr (((List.range 32).filter (bit mask)).map (s.ptnMap own)) ++ b) ∧
  (∀ (s : State) (n : Nat) (y : Ptn), s.ptn? n = some y →
    let six := [(1, cUint n), (2, cUint (ptnStateCode (some y))), (3, cUint (s.ptnGen.getD n 0)), (4, cUint y.keyMode),
      (5, cBool y.confidential), (6, cUint y.priv.toNat)]
    (y.confidential = true → s.ptnMap false n = cMap six) ∧
    (y.resetting = false → s.ptnMap true n = cMap (six ++ s.ptnDigests n)) ∧ (s.ptnDigests n).map (·.1) = [7, 8, 9, 10, 11])

/-! ## Reads of the node -/

/-- Admitted: NODE_DESCRIBE replies with identity, power, epoch, fingerprint, score, role, flags, time and firmware; HEALTH_READ with the health
log of 3,200 bytes; STACK_STATE with one record of 16 bytes a stack, whose free frames are 0 unless the stack serves; TEL_READ with the counters asked for; LOG_READ with the records above AFTER of the classes asked
for, at most MAX, or, with WAIT_MS and none there, is held until one comes or the wait is over. The replies change nothing else. -/
def Obligations.NodeReadsAnswer : Prop :=
  (∀ (p : Packet) (s u : State) (c : Cmd), admission .nodeDescribe p s = some (c, u) →
    exec (.nodeDescribe p) s = .next (u.answered c (leBytes 2 u.self.toNat ++ [0xB0] ++ leBytes 1 (PState.code u) ++ leBytes 4 u.epoch ++
      leBytes 8 u.fingerprint.toNat ++ leBytes 2 u.map.score ++ leBytes 1 u.map.role ++
      leBytes 1 (b2n u.pow.cfgDefaulted + 2 * b2n u.confPresent) ++ leBytes 8 u.pow.tsc.toNat ++ zeroBytes 4 ++
      leBytes 32 u.trust.fwDigest.toNat))) ∧
  (∀ (p : Packet) (s u : State) (c : Cmd), admission .healthRead p s = some (c, u) →
    exec (.healthRead p) s = .next (u.answered c u.healthLog)) ∧
  (∀ (p : Packet) (s u : State) (c : Cmd), admission .stackState p s = some (c, u) →
    exec (.stackState p) s = .next (u.answered c ((List.range 8).flatMap fun n => leBytes 1 n ++ leBytes 1 (StackState.code (u.stack n).state) ++
      leBytes 1 (u.rf (.memStkSts n) 0 7) ++ zeroBytes 1 ++ leBytes 4 (u.stackFree n) ++ leBytes 1 (u.stack n).openGib ++ zeroBytes 3 ++
      leBytes 4 (u.stack n).taints)) ∧
    ∀ n, u.serving n = false → u.stackFree n = 0) ∧
  (∀ (p : Packet) (s u : State) (c : Cmd), admission .telRead p s = some (c, u) →
    exec (.telRead p) s = .next (u.answered c ((List.range (field c.data 4 2)).flatMap fun i =>
      leBytes 8 (u.readCounter (field c.data 0 2) (field c.data 6 1) (field c.data 2 2 + i))))) ∧
  (∀ (p : Packet) (s u : State) (c : Cmd), admission .logRead p s = some (c, u) →
    let classes : Word32 := BitVec.ofNat 32 (field c.data 12 4)
    let l := (u.log.records.filter fun r => decide (field c.data 0 8 < r.seqno) && classes.getLsbD r.cls).take (field c.data 8 2)
    (l ≠ [] ∨ field c.data 10 2 = 0 → exec (.logRead p) s = .next (u.answered c (leBytes 4 l.length ++ zeroBytes 4 ++ l.flatMap LogRec.bytes))) ∧
    (l = [] → field c.data 10 2 ≠ 0 → exec (.logRead p) s = .next (u.held c (.log (field c.data 0 8) (field c.data 8 2) classes)))) ∧
  (∀ (s : State) (id after n : Nat) (classes : Word32) (i : Inflight), s.inflight? id = some i → i.wait = .log after n classes →
    (s.logFrom after n classes ≠ [] →
      exec (.logReadWake id) s = .next (s.complete i .ok none 0 (logBytes (s.logFrom after n classes))).resume) ∧
    (s.logFrom after n classes = [] → exec (.logReadWake id) s = .next s.resume) ∧
    exec (.logReadWaitExpiry id) s = .next (s.complete i .ok none 0 (logBytes (s.logFrom after n classes))).resume)

/-! ## Registers -/

namespace Sys2Proof.Machine

/-- The node's firmware takes register writes on a path. -/
def State.takesWrites (s : State) (path : Path) : Bool := s.pow.phase == .service || (path == .image && s.pow.phase == .applying)

end Sys2Proof.Machine

/-- REG_READ reads COUNT words at offsets that are multiples of 4 and below 2^24, each from one state, so that the two words of a 64-bit pair
belong together: they are the halves of the fingerprint, of the time stamp and of the two log numbers wherever those registers keep no
bits of their own. An offset without a register reads zero; a write to it is ignored and changes nothing: only what waited goes on, where the write reaches the node. -/
def Obligations.RegisterWordsReadAndPair : Prop :=
  (∀ (p : Packet) (s u : State) (c : Cmd), admission .regRead p s = some (c, u) →
    field c.data 0 4 % 4 = 0 ∧ field c.data 0 4 < 2 ^ 24 ∧ 1 ≤ field c.data 4 2 ∧ field c.data 4 2 ≤ 256 ∧
    exec (.regRead p) s = .next (u.answered c ((List.range (field c.data 4 2)).flatMap fun i =>
      leBytes 4 (u.readOffset (field c.data 0 4 + 4 * i)).toNat))) ∧
  (∀ (s : State) (o : Nat), Reg.at? o = none → s.readOffset o = 0) ∧
  (∀ (s : State) (path : Path) (o : Nat) (v : Word32), Reg.at? o = none →
    s.writeReg path o v.toNat = (.ignored, s) ∧
    exec (.registerWrite path o v) s = .next (if s.takesWrites path = true then s.resume else s)) ∧
  (∀ s : State, ∀ x ∈ [(Reg.glbFpLo, Reg.glbFpHi, s.fingerprint.toNat), (.glbTsLo, .glbTsHi, s.pow.tsc.toNat),
      (.logHeadLo, .logHeadHi, s.log.head % 2 ^ 64), (.logTailLo, .logTailHi, s.logTail % 2 ^ 64)],
    s.kept x.1 = 0 → s.kept x.2.1 = 0 →
    (s.readOffset x.1.offset).toNat + 2 ^ 32 * (s.readOffset x.2.1.offset).toNat = x.2.2)

/-- For every register of the GLB, ENG, TEL and LOG blocks: a write, by any path, that gives one of its RW or RWL fields a value other
than the one it holds and outside the field's range is ignored, and the register keeps its bits. What waited goes on where the
write reaches the node. -/
def Obligations.OutOfRangeWritesAreIgnored : Prop :=
  ∀ (s : State) (path : Path) (r : Reg) (v : Word32) (f : Fld),
    r ∈ [Reg.glbId, .glbLock, .glbSts, .glbEvt, .glbEvtMask, .glbFpLo, .glbFpHi, .glbTsLo, .glbTsHi, .glbI3c, .engCtl, .engDraft 0,
      .engDraft 1, .engDraft 2, .engDraft 3, .engRecov, .engRsts, .telCtl, .logHeadLo, .logHeadHi, .logTailLo, .logTailHi, .logSts] →
    f ∈ r.fields → f.acc = .rw ∨ f.acc = .rwl → bits v.toNat f.lo f.w ≠ bits (s.kept r) f.lo f.w →
    bits v.toNat f.lo f.w < f.mn ∨ f.mx < bits v.toNat f.lo f.w →
    ∃ t : State, s.writeReg path r.offset v.toNat = (.ignored, t) ∧ t.kept r = s.kept r ∧
      exec (.registerWrite path r.offset v) s = .next (if s.takesWrites path = true then t.resume else s)

/-- A write, to a node that serves, of a word whose fields lie in their ranges, to a register whose fields are all RW and whose
write starts nothing: each field reads back as written, every other register reads as before, and nothing but the registers changes. -/
def Obligations.WrittenFieldsReadBack : Prop :=
  ∀ (s : State) (path : Path) (r : Reg) (v : Word32), s.pow.phase = .service →
    ((∃ n, n < 4 ∧ (r = .hptPortVlan n ∨ ∃ k, k < 4 ∧ r = .hptPortAddr n k)) ∨ (∃ k, k < 4 ∧ (r = .engDraft k ∨ r = .hptMportAddr k)) ∨
      r ∈ [Reg.hptCc0, .hptCc1, .hptCc2, .hptRc, .hptWheel, .hptNdox, .fabHb, .fabE2e, .fabSpare, .fabVcw, .fabExpel, .fabDrain, .memScrub,
        .flsPatrol, .flsPromo, .flsRecall, .engCtl]) →
    (∀ f ∈ r.fields, f.mn ≤ bits v.toNat f.lo f.w ∧ bits v.toNat f.lo f.w ≤ f.mx) →
    ∃ t : State, exec (.registerWrite path r.offset v) s = .next t.resume ∧
      (∀ f ∈ r.fields, bits (t.readOffset r.offset).toNat f.lo f.w = bits v.toNat f.lo f.w) ∧
      (∀ q, q ∈ Reg.all → q ≠ r → t.kept q = s.kept q) ∧ { t with regs := s.regs } = s

/-- With GLB_LOCK set, a write that sets an RWL field of a register is ignored: the register keeps its bits, LOCK_VIOL is set, and a record
names the value and the path. REG_WRITE applies its pairs in order and replies with the number applied and the first that was ignored or refused: each pair is
one register write, and one that sets nothing counts as neither. -/
def Obligations.LockedFieldsStay : Prop :=
  (∀ (s : State) (path : Path) (r : Reg) (v : Word32) (f : Fld), s.rf .glbLock 0 1 = 1 → Reg.at? r.offset = some r → f ∈ r.fields → f.acc = .rwl →
    bits v.toNat f.lo f.w ≠ bits (s.kept r) f.lo f.w →
    let t := s.raise .glbSts 2 ⟨1, 1, 0, 0xFF, 0, leBytes 4 v.toNat ++ leBytes 1 (Path.code path)⟩
    t.kept r = s.kept r ∧ t.rf .glbSts 2 1 = 1 ∧
    (s.pow.phase = .service → exec (.registerWrite path r.offset v) s = .next t.resume)) ∧
  (∀ (p : Packet) (s u : State) (c : Cmd), admission .regWrite p s = some (c, u) →
    let r := u.writePairs (Src.path c.pkt.src) ((enumFrom 0 (chunks 8 (c.data.drop 8))).map fun x => (x.1, field x.2 0 4, field x.2 4 4)) 0 0xFFFF
    exec (.regWrite p) s = .next (r.2.2.answered c (leBytes 4 r.1 ++ leBytes 2 r.2.1 ++ zeroBytes 2))) ∧
  (∀ (path : Path) (i o v a f : Nat) (l : List (Nat × Nat × Nat)) (s : State),
    let x := s.plainWrite path o v
    s.writePairs path ((i, o, v) :: l) a f = match x.1 with
      | .applied => x.2.writePairs path l (a + 1) f
      | .nothing => x.2.writePairs path l a f
      | .ignored => x.2.writePairs path l a (if f = 0xFFFF then i else f))

/-! ## Register writes that command units -/

/-- Where the node takes register writes: EN trains a stack that is `OFF` and not fenced and is ignored otherwise; clearing EN turns a fenced stack
off and is ignored otherwise; FENCE starts the drain of a stack, or with no room for its pages is refused with the DRAIN_REFUSED bit;
NB_EN stands in stacks 3 and 4 alone. The flash write enable is set, and index blocks that waited for it are written. FENCE of a channel starts its drain, or is refused. A channel's
EN trains it, and its parameter pages decide, as they do of one that trains already; the tier's EN, with every channel's set, starts the tier once no channel trains. A field that has the value already is not written. -/
def Obligations.MemoryUnitsObeyTheirRegisters : Prop :=
  ∀ (s : State) (path : Path), s.takesWrites path = true →
    (∀ k : Fin 8, s.rf (.memStkCtl k) 0 1 = 0 →
      ((s.stack k).state = .off → s.rf (.memStkCtl k) 1 1 = 0 → exec (.stackEnable path k) s = .next ((s.setRf (.memStkCtl k) 0 1 1).stackOn k)) ∧
      ((s.stack k).state ≠ .off ∨ s.rf (.memStkCtl k) 1 1 = 1 → exec (.stackEnable path k) s = .next s) ∧
      exec (.stackDisable path k) s = .next s) ∧
    (∀ k : Fin 8, s.rf (.memStkCtl k) 0 1 = 1 →
      ((s.stack k).state = .fenced → exec (.stackDisable path k) s = .next ((s.setRf (.memStkCtl k) 0 1 0).stackOff k)) ∧
      ((s.stack k).state ≠ .fenced → exec (.stackDisable path k) s = .next s) ∧
      exec (.stackEnable path k) s = .next s) ∧
    (∀ k : Fin 8,
      (s.rf (.memStkCtl k) 1 1 = 0 → (s.stack k).state ≠ .service ∨ s.drainFits k = true →
        exec (.stackFence path k) s = .next ((s.setRf (.memStkCtl k) 1 1 1).startDrain k)) ∧
      (s.rf (.memStkCtl k) 1 1 = 0 → (s.stack k).state = .service → s.drainFits k = false →
        exec (.stackFence path k) s = .next (s.drainRefused k)) ∧
      (s.rf (.memStkCtl k) 1 1 = 1 → exec (.stackFence path k) s = .next s)) ∧
    (∀ (k : Fin 8) (on : Bool),
      (k.val = 3 ∨ k.val = 4 → s.rf (.memStkCtl k) 2 1 ≠ b2n on → exec (.nbEnWrite path k on) s = .next (s.setRf (.memStkCtl k) 2 1 (b2n on))) ∧
      ((k.val ≠ 3 ∧ k.val ≠ 4) ∨ s.rf (.memStkCtl k) 2 1 = b2n on → exec (.nbEnWrite path k on) s = .next s)) ∧
    (s.rf .flsCtl 1 1 = 0 → exec (.flashWriteEnable path) s = .next (s.setRf .flsCtl 1 1 1).flushKept) ∧
    (s.rf .flsCtl 1 1 = 1 → exec (.flashWriteEnable path) s = .next s) ∧
    (∀ k : Fin 32,
      (s.rf (.flsChCtl k) 1 1 = 0 → (s.chan k).state ≠ .service ∨ s.chanFits k = true →
        exec (.channelFence path k) s = .next ((s.setRf (.flsChCtl k) 1 1 1).chanDrain k)) ∧
      (s.rf (.flsChCtl k) 1 1 = 0 → (s.chan k).state = .service → s.chanFits k = false →
        exec (.channelFence path k) s = .next (s.chanRefused k)) ∧
      (s.rf (.flsChCtl k) 1 1 = 1 → exec (.channelFence path k) s = .next s)) ∧
    (∀ (k : Fin 32) (dies : Nat) (bad : Option Nat),
      (s.rf (.flsChCtl k) 0 1 = 0 → s.rf (.flsChCtl k) 1 1 = 0 → exec (.channelEnable path k dies bad) s =
        .next (((s.setRf (.flsChCtl k) 0 1 1).chanOn k).chanTrained k dies bad).continueConfig) ∧
      (s.rf (.flsChCtl k) 0 1 = 1 ∨ s.rf (.flsChCtl k) 1 1 = 1 →
        exec (.channelEnable path k dies bad) s = .next (s.chanTrained k dies bad).continueConfig)) ∧
    (∀ ok : Bool, s.rf .flsCtl 0 1 = 0 → s.flash.state = .off →
      (((List.range 32).all fun n => s.rf (.flsChCtl n) 0 1 == 1) = true → (s.flash.chans.any fun c => c.state == .training) = false →
        let t := s.setRf .flsCtl 0 1 1
        let v : State := { t with flash := { t.flash with state := .init } }
        let w : State := { v with flash := { v.flash with state := .rebuild } }
        exec (.flashTierEnable path ok) s = .next (if ok then v.tierServes else w).continueConfig.resume) ∧
      (((List.range 32).all fun n => s.rf (.flsChCtl n) 0 1 == 1) = false →
        exec (.flashTierEnable path ok) s = .next s.continueConfig.resume))

/-- Where the node takes register writes: a host port's EN trains it in its MODE, and clearing it stops the port; MPORT's EN opens it, and
clearing it closes its sessions; a gate cycle of a port starts at its first entry, and not on an entry of no duration, and so does the fabric's; a shaper takes a rate and burst in
range and is ignored above its port's rate or below the least burst; a link's EN trains it, FENCE takes it out of service, and RESTORE gives spared lanes back;
NODE_VALID records the ID once, refuses another with a record, and stays. A field that has the value already is not written. -/
def Obligations.PortsAndLinksObeyTheirRegisters : Prop :=
  ∀ (s : State) (path : Path), s.takesWrites path = true →
    (∀ n : Fin 4,
      let v := s.setRf (.hptPortCtl n) 0 1 1
      let w := s.setRf (.hptPortCtl n) 0 1 0
      (s.rf (.hptPortCtl n) 0 1 = 0 → exec (.hostPortEnable path n true) s =
        .next ((v.updPort n fun p => { p with
            paused := p.paused.filter fun k => bit (s.kept (.hptPortCtl n)) (8 + k), xoffs := p.xoffs.filter fun k => bit (s.kept (.hptPortCtl n)) (8 + k) }).portEnabled n)) ∧
      (s.rf (.hptPortCtl n) 0 1 = 1 → exec (.hostPortEnable path n false) s =
        .next ((w.updPort n fun p => { p with
            paused := p.paused.filter fun k => bit (s.kept (.hptPortCtl n)) (8 + k), xoffs := p.xoffs.filter fun k => bit (s.kept (.hptPortCtl n)) (8 + k) }).portDisabled n)) ∧
      (∀ on, s.rf (.hptPortCtl n) 0 1 = b2n on → exec (.hostPortEnable path n on) s = .next s)) ∧
    (∀ on : Bool, (s.rf .hptMportCtl 0 1 ≠ b2n on → exec (.mportEnable path on) s = .next ((s.setRf .hptMportCtl 0 1 (b2n on)).mportSet on)) ∧
      (s.rf .hptMportCtl 0 1 = b2n on → exec (.mportEnable path on) s = .next s)) ∧
    (∀ n : Fin 4,
      (s.rf (.hptPortGctl n) 0 1 = 0 → gateTimes s (.hptPortGent n) (s.rf (.hptPortGctl n) 4 5) = true →
        exec (.hostGateEnable path n true) s = .next ((s.setRf (.hptPortGctl n) 0 1 1).hostGate n true)) ∧
      (s.rf (.hptPortGctl n) 0 1 = 0 → gateTimes s (.hptPortGent n) (s.rf (.hptPortGctl n) 4 5) = false →
        exec (.hostGateEnable path n true) s = .next s) ∧
      (s.rf (.hptPortGctl n) 0 1 = 1 → exec (.hostGateEnable path n false) s = .next ((s.setRf (.hptPortGctl n) 0 1 0).hostGate n false)) ∧
      ∀ on, s.rf (.hptPortGctl n) 0 1 = b2n on → exec (.hostGateEnable path n on) s = .next s) ∧
    ((s.rf .fabGctl 0 1 = 0 → gateTimes s .fabGent (s.rf .fabGctl 4 5) = true →
        exec (.fabricGateEnable path true) s = .next ((s.setRf .fabGctl 0 1 1).fabricGate true)) ∧
      (s.rf .fabGctl 0 1 = 0 → gateTimes s .fabGent (s.rf .fabGctl 4 5) = false → exec (.fabricGateEnable path true) s = .next s) ∧
      (s.rf .fabGctl 0 1 = 1 → exec (.fabricGateEnable path false) s = .next ((s.setRf .fabGctl 0 1 0).fabricGate false)) ∧
      ∀ on, s.rf .fabGctl 0 1 = b2n on → exec (.fabricGateEnable path on) s = .next s) ∧
    (∀ (n : Fin 4) (c : Fin 8) (x : Word32),
      (bits x.toNat 0 16 ≤ modeRate (s.rf (.hptPortCtl n) 2 3) → 5 ≤ bits x.toNat 16 14 →
        ∃ t, exec (.shaperWrite path n c x) s = .next t ∧ t.rf (.hptShp n c) 0 16 = bits x.toNat 0 16 ∧
          t.rf (.hptShp n c) 16 14 = bits x.toNat 16 14 ∧ t.rf (.hptShp n c) 30 1 = bits x.toNat 30 1 ∧
          { t with regs := s.regs, host := { t.host with ports := s.host.ports } } = s) ∧
      ((modeRate (s.rf (.hptPortCtl n) 2 3) < bits x.toNat 0 16 ∧ bits x.toNat 0 16 ≠ s.rf (.hptShp n c) 0 16) ∨
          (bits x.toNat 16 14 < 5 ∧ bits x.toNat 16 14 ≠ s.rf (.hptShp n c) 16 14) →
        exec (.shaperWrite path n c x) s = .next s)) ∧
    (∀ n : Fin 48,
      (s.rf (.fabLinkCtl n) 0 1 = 0 → s.rf (.fabLinkCtl n) 1 1 = 0 →
        exec (.linkEnable path n true) s = .next ((s.setRf (.fabLinkCtl n) 0 1 1).linkEnabled n)) ∧
      (s.rf (.fabLinkCtl n) 0 1 = 0 → s.rf (.fabLinkCtl n) 1 1 = 1 → exec (.linkEnable path n true) s = .next s) ∧
      (s.rf (.fabLinkCtl n) 0 1 = 1 → exec (.linkEnable path n false) s = .next ((s.setRf (.fabLinkCtl n) 0 1 0).linkDisabled n)) ∧
      (s.rf (.fabLinkCtl n) 1 1 = 0 → exec (.linkFence path n) s = .next ((s.setRf (.fabLinkCtl n) 1 1 1).linkFenced n)) ∧
      (s.rf (.fabLinkCtl n) 1 1 = 1 → exec (.linkFence path n) s = .next s) ∧
      (∀ on, s.rf (.fabLinkCtl n) 0 1 = b2n on → exec (.linkEnable path n on) s = .next s) ∧
      ∀ locked, exec (.linkRestore path n locked) s = .next (s.linkRestored n locked)) ∧
    (∀ id : NodeId, s.rf .glbLock 0 1 = 0 →
      (s.rf .fabNode 12 1 = 1 → exec (.nodeValidSet path id) s = .next s) ∧
      (s.rf .fabNode 12 1 = 0 → (∀ n, s.trust.nodeId = some n → n = id) →
        ∃ t : State, exec (.nodeValidSet path id) s = .next t.nodeValidated ∧ t.rf .fabNode 0 12 = id.toNat ∧ t.nodeValid = true ∧
          t.nodeValidated.trust.nodeId = some id ∧ { t with regs := s.regs } = s) ∧
      (∀ n, s.rf .fabNode 12 1 = 0 → s.trust.nodeId = some n → n ≠ id →
        exec (.nodeValidSet path id) s = .next (s.note ⟨10, 4, 0, 0xFF, 0, []⟩)))

/-- Where the node takes register writes: GLB_LOCK is set; SEC_SVN_COMMIT of the running SVN above the minimum with fuses left makes it the minimum, for one
advance, and any other value is ignored with a record; FREEZE takes a snapshot of the counters, its clearing drops it, and CLEAR zeroes both; the keyed writes start the
orderly reset and the firmware restart; REQ
asks for `PARK`, `COAST` or `RIDE`, and one that it has already asks for nothing. The watchdog restarts the firmware of a node that serves, which counts the incarnation up, keeps fast commands alone and leaves
the registers, sequences, contexts, flash and the least SVN as they are, and does nothing elsewhere. -/
def Obligations.NodeControlsTakeEffect : Prop :=
  (∀ (s : State) (path : Path), s.takesWrites path = true →
    (∃ t, exec (.glbLockSet path) s = .next t ∧ t.locked = true ∧ { t with regs := s.regs } = s) ∧
    (∀ v : Word32,
      (v = s.trust.svnRun → s.trust.svnMin.toNat < v.toNat → s.trust.svnAdvances < 64 →
        exec (.secSvnCommit path v) s = .next ({ s with trust := { s.trust with svnMin := v, svnAdvances := s.trust.svnAdvances + 1 } } :
          State).securityChanged) ∧
      (v ≠ s.trust.svnRun ∨ v.toNat ≤ s.trust.svnMin.toNat ∨ 64 ≤ s.trust.svnAdvances →
        exec (.secSvnCommit path v) s = .next (s.note ⟨9, 4, 0, 0xFF, 0, []⟩))) ∧
    (s.rf .telCtl 0 1 = 0 → exec (.telFreeze path true) s =
      .next { s.setRf .telCtl 0 1 1 with tel := ⟨s.tel.counters, some s.tel.counters⟩ }) ∧
    (s.rf .telCtl 0 1 = 1 → exec (.telFreeze path false) s = .next { s.setRf .telCtl 0 1 0 with tel := ⟨s.tel.counters, none⟩ }) ∧
    (∀ on, s.rf .telCtl 0 1 = b2n on → exec (.telFreeze path on) s = .next s) ∧
    exec (.telClear path) s = .next { s with tel := ⟨[], s.tel.snapshot.map fun _ => []⟩ } ∧
    exec (.pkgRst path) s = .next (State.startFreewheel .pkgRst { s with pow := { s.pow with resetAfter := true } }) ∧
    exec (.fwRestart path) s = .next (s.fwRestart 4) ∧
    (s.rf .pwrCtl 0 2 ≠ 2 → exec (.parkRequest path) s = .next (s.setRf .pwrCtl 0 2 2).parkRequest) ∧
    (s.rf .pwrCtl 0 2 = 2 → exec (.parkRequest path) s = .next s) ∧
    (s.rf .pwrCtl 0 2 = 1 → exec (.coastRequest path) s = .next s.resume) ∧
    (s.rf .pwrCtl 0 2 = 0 → exec (.rideRequest path) s = .next s.resume) ∧
    (s.rf .pwrCtl 0 2 ≠ 1 → exec (.coastRequest path) s = .next ((s.setRf .pwrCtl 0 2 1).rideRequest true).resume) ∧
    (s.rf .pwrCtl 0 2 ≠ 0 → exec (.rideRequest path) s = .next ((s.setRf .pwrCtl 0 2 0).rideRequest false).resume)) ∧
  (∀ s : State, s.pow.phase = .service → ∃ t : State, exec .supervisorWatchdog s = .next t ∧ t.pow.phase = .fwRestart ∧ t.pow.lastCause = 5 ∧
    t.pow.incarn = s.pow.incarn + 1 ∧ t.trust.attReady = false ∧ (∀ i, i ∈ t.cmds.list → Op.fast i.op = true) ∧ t.trust.svnMin = s.trust.svnMin ∧
    t.regs = s.regs ∧ t.store.seqs = s.store.seqs ∧ t.host.ctxs = s.host.ctxs ∧ t.flash = s.flash) ∧
  (∀ s : State, s.pow.phase ≠ .service → exec .supervisorWatchdog s = .next s)

/-! ## HBM stacks, near-bank sequences and migration -/

/-- Training done puts a training stack in service with its unit-write markers clear, or fences it with its event. While a stack serves or drains, a read of an error in a row whose marker is set taints the stack; any other outcome goes on with the rows that are due and then
counts a corrected error, counts an uncorrectable word and recovers its page or token IDs, with the sixteenth within 1 s fencing the stack, spares a failing row, recovers an open page that fails its record, counts parity retries, or, with
retries exhausted or a failed retraining, fences the stack. A draining stack whose pages can all go moves them; once none holds frames there it is fenced, its sequences abandoned and its roles moved, and the next drain begins. Of the near-bank sequences of a page the first that is not suspended ends:
one that passes lets its read go on with its scores, one that fails its checks or its unit sends it to the normal path, and a taint fences the stack. A refresh suspends and resumes those of one pseudo-channel. -/
def Obligations.StackEventsTakeEffect : Prop :=
  (∀ (s : State) (k : Fin 8),
    ((s.stack k).state = .training →
      exec (.stackInitDone k true) s =
        .next (s.updStack k fun x => { x with state := .service, scratchMarked := [], rowsMarked := [] }).continueConfig ∧
      exec (.stackInitDone k false) s = .next (((s.updStack k fun x => { x with state := .fenced }).raise (.memStkSts k) 4
        ⟨2, 5, 2, 0xFF, k, memDetail 0 0 0 0⟩).leaveCheck).continueConfig) ∧
    ((s.stack k).state ≠ .training → ∀ ok, exec (.stackInitDone k ok) s = .next s.continueConfig)) ∧
  (∀ (s : State) (k : Fin 8),
    ((s.stack k).state ≠ .draining → exec (.stackDrainComplete k) s = .next s) ∧
    ((s.stack k).state = .draining →
      (s.moveOut k = none → exec (.stackDrainComplete k) s = .next s) ∧
      ∀ v, s.moveOut k = some v →
        (v.stackHeld k = true → exec (.stackDrainComplete k) s = .next v) ∧
        (v.stackHeld k = false → exec (.stackDrainComplete k) s =
          .next (((((v.updStack k fun x => { x with state := .fenced }).abandonNb k fun _ => true).moveRoles k).note
            ⟨2, 8, 0, 0xFF, k, []⟩).leaveCheck).nextDrain))) ∧
  (∀ (s : State) (k : Fin 8), (s.stack k).state ≠ .service → (s.stack k).state ≠ .draining → ∀ o, exec (.hbmPatrolScrub k o) s = .next s) ∧
  (∀ (s : State) (k : Fin 8), (s.stack k).state = .service ∨ (s.stack k).state = .draining →
    let v := s.settleRows k
    let marked := fun row => (s.stack k).rowsMarked.contains row
    (∀ o row, ScrubOutcome.row o = some row → marked row = true → exec (.hbmPatrolScrub k o) s = .next (s.taint k 0 row 0)) ∧
    exec (.hbmPatrolScrub k .clean) s = .next v ∧
    (∀ row, marked row = false →
      exec (.hbmPatrolScrub k (.corrected row)) s = .next (v.rowError k row) ∧
      exec (.hbmPatrolScrub k (.rowFailing row)) s = .next ((v.updStack k fun x => { x with eccReports := x.eccReports + 1 }).spareRow k row) ∧
      exec (.hbmPatrolScrub k (.uncorrectable row none)) s = .next (((v.stackUe k row 0).spareRow k row).ueFence k) ∧
      (∀ h, exec (.hbmPatrolScrub k (.uncorrectable row (some h))) s =
        .next ((((v.stackUe k row h).uncorrectable h false).spareRow k row).ueFence k)) ∧
      ∀ q b, exec (.hbmPatrolScrub k (.uncorrectableTokens row q b)) s =
        .next ((((v.stackUe k row 0).tokensUncorrectable q b).spareRow k row).ueFence k)) ∧
    (∀ h, exec (.hbmPatrolScrub k (.openMismatch h)) s =
      .next (((v.count 3 nodeScope (8 * k.val + 5)).raise (.memStkSts k) 3 ⟨2, 4, 1, 0xFF, k, memDetail 0 0 0 h⟩).uncorrectable h false)) ∧
    (∀ pch row, exec (.hbmPatrolScrub k (.tainted pch row)) s = .next (v.taint k pch row 0)) ∧
    (∀ n, exec (.hbmPatrolScrub k (.parityRetried n)) s = .next (v.count 3 nodeScope (8 * k.val + 7) n.val)) ∧
    exec (.hbmPatrolScrub k .parityExhausted) s =
      .next (((v.count 3 nodeScope (8 * k.val + 7) 4).raise (.memStkSts k) 4 ⟨2, 5, 2, 0xFF, k, memDetail 0 0 0 0⟩).fenceStack k) ∧
    exec (.hbmPatrolScrub k .retrainFailed) s = .next ((v.raise (.memStkSts k) 4 ⟨2, 5, 2, 0xFF, k, memDetail 0 0 0 0⟩).fenceStack k) ∧
    exec (.hbmPatrolScrub k .passDone) s =
      .next ((v.updStack k fun x => { x with scrubPasses := x.scrubPasses + 1 }).count 3 nodeScope (8 * k.val + 6))) ∧
  (∀ (s : State) (k : Fin 8),
    (∀ row h, ∃ t : State, s.stackUe k row h = t ∧ t.rf (.memStkSts k) 1 1 = 1 ∧ t.store = s.store) ∧
    (16 ≤ (s.stack k).ueTimes.length → s.ueFence k = s.fenceStack k) ∧ ((s.stack k).ueTimes.length < 16 → s.ueFence k = s)) ∧
  (∀ (s : State) (k : Fin 8) (c : Int),
    exec (.stackTempRead k c) s = .next (if (s.stack k).state = .off then s else s.updStack k fun x => { x with temp := c })) ∧
  (∀ (s : State) (k : Fin 8) (pch : Fin 64),
    exec (.nearBankRefreshSuspend k pch) s = .next (s.updStack k fun x =>
      { x with running := updWhere (fun y => y.pch == pch.val) (fun y => { y with suspended := true }) x.running }) ∧
    exec (.nearBankResume k pch) s = .next (s.updStack k fun x =>
      { x with running := updWhere (fun y => y.pch == pch.val) (fun y => { y with suspended := false }) x.running })) ∧
  (∀ (s : State) (k : Fin 8) (h : Handle),
    let next := (s.stack k).running.find? fun y => y.page == h && !y.suspended
    (next = none → ∀ o, exec (.nearBankSequenceDone k h o) s = .next s) ∧
    ∀ x, next = some x →
      let t := s.updStack k fun y => { y with running := y.running.erase x, scratchMarked := addNew x.pch y.scratchMarked }
      let bad := (t.count 3 nodeScope (8 * k.val + 5)).raise (.memStkSts k) 3 ⟨2, 4, 1, 0xFF, k, memDetail x.pch 0 0 h⟩
      exec (.nearBankSequenceDone k h .pass) s = .next (t.nbEnd x true) ∧
      exec (.nearBankSequenceDone k h .scoreCrc) s = .next (bad.nbEnd x false) ∧
      exec (.nearBankSequenceDone k h .rangeFail) s = .next ((bad.uncorrectable h false).nbEnd x false) ∧
      exec (.nearBankSequenceDone k h .unitFault) s =
        .next (((t.updStack k fun y => { y with unitsFenced := addNew x.pch y.unitsFenced }).nbEnd x false).abandonNb k fun y => y.pch == x.pch) ∧
      ∀ row, exec (.nearBankSequenceDone k h (.taint row)) s = .next ((t.nbEnd x false).taint k x.pch row h))

/-- DEMOTION, PROMOTION, OPEN_REGION_PROMOTION and OPEN_REGION_DEMOTION, whatever they choose: every page keeps its handle, its name, its
image, its partition, its frames, its references and whether flash holds it; its pins stay or, where a copy of it is under way, grow; and nothing but pages changes. -/
def Obligations.ChoosingMovesKeepsContents : Prop :=
  ∀ (s : State) (i : Instr), (i = .demotion ∨ ∃ h, i = .promotion h ∨ i = .openRegionPromotion h ∨ i = .openRegionDemotion h) →
    ∃ t : State, exec i s = .next t ∧ { t with store := { t.store with pages := s.store.pages } } = s ∧
      t.store.pages.map (fun p => (p.handle, p.name, p.img, p.ptn)) = s.store.pages.map (fun p => (p.handle, p.name, p.img, p.ptn)) ∧
      t.store.pages.map (fun p => (p.frames, p.refs, p.flash)) = s.store.pages.map (fun p => (p.frames, p.refs, p.flash)) ∧
      ∀ (k : Nat) (p q : Page), s.store.pages[k]? = some p → t.store.pages[k]? = some q → p.pins ≤ q.pins ∧ (q.job = .none → q.pins = p.pins)

/-- Below the target, demotion takes the coldest old page out of HBM where flash holds it, or begins its copy to flash. A page on flash alone that was selected often enough is copied to HBM; a split page often selected is copied into the first free run of an open pseudo-channel,
whose coldest page is moved out first where there is none, and one seldom
selected is taken out. A finished copy that verifies gives the page its new place: flash alone after the write, HBM, or the open
region with its record; without room, quota or stack the copy just ends, with the delta buffer full or a drafting read of the page in flight it waits. A copy that does not verify, or whose page is being recovered, changes nothing. A drafting read that
completes stages its page unless it is without a flash copy, being recovered or released with no reader, and the next goes; a flash read under way counts, stages its page where a read waits for it and
serves it, refreshes its block when it was retried, and an uncorrectable one sends it to recovery; a drafted line that nothing running uses expires. -/
def Obligations.PageMovesTakeEffect : Prop :=
  (∀ (s : State) (h : Handle) (p : Page), s.page? h = some p → p.sealed? = true → p.flash = true → p.hbm = none → p.refs ≠ 0 →
    p.job = .none → p.recovering = false → s.rf .flsPromo 0 8 ≠ 0 → s.rf .flsPromo 0 8 ≤ s.selections p (s.rf .flsPromo 8 16 * 1000000) →
    s.belowPct s.targetPct = false → exec (.promotion h) s = .next (s.updPage h (Page.startJob .toHbm))) ∧
  (∀ (s : State) (h : Handle) (p : Page) (n k : Nat), s.page? h = some p → s.openPlace = some (n, k) → s.openable p = true →
    s.rf .memNb 0 8 ≤ s.selections p 100000000 →
    (∀ f, s.openRun n k p.frames = some f → exec (.openRegionPromotion h) s = .next (s.updPage h (Page.startJob (.toOpen n k f)))) ∧
    (s.openRun n k p.frames = none →
      let cold := sortBy (fun (a b : Page) => decide (a.lastSel < b.lastSel)) ((s.pchPages n k).filter fun x => x.job == .none)
      (cold = [] → exec (.openRegionPromotion h) s = .next s) ∧
      ∀ x l, cold = x :: l → exec (.openRegionPromotion h) s = .next (s.updPage x.handle (Page.startJob .fromOpen)))) ∧
  (∀ (s : State) (h : Handle) (p : Page) (l : HbmLoc) (k : Nat), s.page? h = some p → p.hbm = some l → l.pch = some k → p.job = .none →
    p.recovering = false → s.selections p 100000000 ≤ s.rf .memNb 8 8 →
    exec (.openRegionDemotion h) s = .next (s.updPage h (Page.startJob .fromOpen))) ∧
  (∀ (s : State) (h : Handle) (p : Page), s.page? h = some p →
    let v := s.updPage h Page.endJob
    let stack := s.chooseStack p.name.block p.name.layer (shardOf p.name.seq) p.frames
    exec (.migrationCopyComplete h false) s = .next s ∧
    (p.recovering = true → exec (.migrationCopyComplete h true) s = .next s) ∧
    (p.recovering = false →
      (p.job = .toFlash →
        (∀ t, s.writePage p = some t → exec (.migrationCopyComplete h true) s =
          .next (((t.updPage h Page.endJob).leaveHbm h).pageWritten h).progress) ∧
        (s.writePage p = none → exec (.migrationCopyComplete h true) s = .next (if s.deltaFull = true then s else v.enterReadOnly))) ∧
      (p.job = .toHbm →
        (s.flash.drafting.contains h = true → exec (.migrationCopyComplete h true) s = .next s) ∧
        (s.flash.drafting.contains h = false →
          (s.hbmQuota p.ptn < s.hbmUsed p.ptn + p.frames ∨ stack = none → exec (.migrationCopyComplete h true) s = .next v) ∧
          ∀ st, s.hbmUsed p.ptn + p.frames ≤ s.hbmQuota p.ptn → stack = some st →
            exec (.migrationCopyComplete h true) s = .next ((v.updPage h (Page.moveTo (some ⟨st, none, 0⟩))).evict h))) ∧
      (∀ n k f, p.job = .toOpen n k f →
        (s.serving n = true → exec (.migrationCopyComplete h true) s = .next ((v.updPage h (Page.moveTo (some ⟨n, some k, f⟩))).updPage h fun x =>
          { x with openRec := openRecord (s.groupFor p.name.seq p.name.layer p.img) p.img })) ∧
        (s.serving n = false → exec (.migrationCopyComplete h true) s = .next v)) ∧
      (p.job = .fromOpen →
        (∀ st, stack = some st → exec (.migrationCopyComplete h true) s = .next (v.updPage h (Page.moveTo (some ⟨st, none, 0⟩)))) ∧
        (stack = none → exec (.migrationCopyComplete h true) s = .next (if p.flash = true then v.leaveHbm h else v))))) ∧
  (∀ (s : State) (p : Page) (l : List Page), s.belowPct s.targetPct = true → s.page? p.handle = some p →
    s.coldest (fun x => decide (x.lastSel + s.rf .flsMig 0 16 * secondNs ≤ s.pow.tsc.toNat)) = p :: l →
    ∃ (t : State) (q : Page), exec .demotion s = .next t ∧ t.page? p.handle = some q ∧
      (p.flash = true → q.hbm = none) ∧ (p.flash = false → s.flashWritable = true → q.job = .toFlash)) ∧
  (∀ s : State, s.belowPct s.targetPct = false → s.belowPct s.lowPct = false → (∀ n, n < 32 → s.ptn? n = none) → exec .demotion s = .next s) ∧
  (∀ (s : State) (h : Handle), s.flash.drafting.contains h = false → exec (.draftingReadComplete h) s = .next s) ∧
  (∀ (s : State) (h : Handle) (p : Page), s.flash.drafting.contains h = true → s.page? h = some p →
    let t := ({ s with flash := { s.flash with drafting := delAll h s.flash.drafting } } : State).doneWork .draft h
    let none' := p.flash = false ∨ p.recovering = true ∨ t.tierUp = false ∨ (p.refs = 0 ∧ t.wantsPage h = false)
    (none' → exec (.draftingReadComplete h) s = .next (t.issueDrafts t.flash.draftQueue.length)) ∧
    (¬ none' →
      let v := ((t.noteRead p).stage p true).pageLanded h
      exec (.draftingReadComplete h) s = .next (v.issueDrafts v.flash.draftQueue.length))) ∧
  (∀ (s : State) (h : Handle) (p : Page), s.page? h = some p →
    let t := s.doneWork .attend h
    let idle := p.flash = false ∨ p.recovering = true ∨ t.tierUp = false ∨ t.flashBusy p = false
    (idle → ∀ o, exec (.flashReadComplete h o) s = .next t) ∧
    (¬ idle →
      let v := t.noteRead p
      let chan := t.pageChan h
      let serve := fun (w : State) => if t.wantsPage h = true then (w.stage p false).pageLanded h else w
      exec (.flashReadComplete h .clean) s = .next (serve v) ∧
      exec (.flashReadComplete h .corrected) s = .next (serve (v.flashCorrected chan false)) ∧
      exec (.flashReadComplete h .retried) s = .next (serve ((v.flashCorrected chan true).refreshPage h)) ∧
      let w := v.doneWork .draft h
      exec (.flashReadComplete h .uncorrectable) s =
        .next (({ w with flash := { w.flash with drafting := delAll h w.flash.drafting } } : State).readFailed p))) ∧
  (∀ (s : State) (h : Handle),
    let inUse := s.wantsPage h || s.cmds.list.any fun i => match i.wait.inner with | .attend r => r.selected.contains h | _ => false
    exec (.stagingLineExpiry h) s = .next (if inUse then s else { s with staging := s.staging.filter fun l => !(l.page == h && l.drafted) }))

/-- PAGE_RECLAIM of a page with no reference and no pin takes it from the pages, so that its HBM place is free, takes every flash location of its frames from the map, and
evicts every staging line of its handle. A page that is pinned or referenced keeps its place, its image and its flash copy, and so does
every other page. A page that is gone is not reclaimed again: nothing of store, staging and map changes. What a tier in `READ_ONLY` then does with the free space comes after. -/
def Obligations.ReleasedPagesAreReclaimedOnce : Prop :=
  ∀ (s : State) (h : Handle), ∃ t : State, exec (.pageReclaim h) s = .next t.leaveReadOnly ∧
    (s.flash.state ≠ .readOnly → exec (.pageReclaim h) s = .next t) ∧
    (∀ p, s.page? h = some p → p.refs = 0 → p.pins = 0 →
      t.page? h = none ∧ (∀ l ∈ t.staging, l.page ≠ h) ∧ t.store.pages = s.store.pages.filter (fun q => !(q.handle == h)) ∧
      (p.flash = true → ∀ i, i < p.frames → t.mapEntry? (handleFrame h + i) = none)) ∧
    (∀ p, s.page? h = some p → p.refs ≠ 0 ∨ p.pins ≠ 0 → t = s) ∧ (s.page? h = none → t = s) ∧
    (∀ k, k ≠ h → t.page? k = s.page? k) ∧ (∀ l ∈ s.staging, l.page ≠ h → l ∈ t.staging)

/-! ## The flash tier -/

/-- BLOCK_ERASE of a block that holds a valid frame, whose frames are still being copied, that is not being reclaimed, that a read in flight may use, or whose frames went to a target that has not closed
changes nothing, and neither does ERASE_FAILURE. Of one that meets the conditions and is not at the end of its endurance, the block is free with one more erase counted for it,
and no other block, no map entry and no page changes but for naming it as a source; at the end of its endurance it retires. -/
def Obligations.EraseKeepsEveryValidFrame : Prop :=
  ∀ (s : State) (d : DieId) (b : Nat) (x : FBlock), s.fblock? d b = some x →
    ((∃ f ∈ x.frames, f.valid = true) ∨ (∃ c ∈ s.flash.copying, c.1 = x.die ∧ c.2.2 = x.num) ∨ x.use ≠ .reclaiming ∨ s.readsHold x = true ∨
        (∃ t ∈ s.flash.blocks, t.sources.contains (x.die, x.num) = true ∧ t.use ≠ .retired ∧ (t.use = .opened ∨ t.closed = false)) →
      exec (.blockErase d b) s = .next s ∧ exec (.eraseFailure d b) s = .next s) ∧
    (s.eraseOk x = true → 3600 ≤ x.erases → exec (.blockErase d b) s = .next ((s.dropSource d b).retireBlock d b)) ∧
    (s.eraseOk x = true → x.erases < 3600 → ∃ t : State, exec (.blockErase d b) s = .next t ∧ t.fblock? d b = none ∧
      t.flash.map = s.flash.map ∧ t.store = s.store ∧ (∀ y, s.fdie? d = some y →
        ∃ z, t.fdie? d = some z ∧ z.free = y.free + 1 ∧ z.eraseCount b = x.erases + 1) ∧
      ∀ e k, (e ≠ d ∨ k ≠ b) → (t.fblock? e k).map (fun y => (y.frames, y.use, y.erases)) =
        (s.fblock? e k).map (fun y => (y.frames, y.use, y.erases)))

/-- Reclamation of a die that is worn out or below its low mark, until the high one, takes its first victim. A copy that checks, of a frame whose entry still names the source, is programmed into the
target and its entry replaced, of another is discarded; one that fails its check retires the target; without writes, with the delta buffer full or the target suspended it waits. A full target that passes its check closes, and fails else. An
open block that fails is retired with the event: a target's frames are copied again from their sources, of another block the last frame is written elsewhere and the others are copied. Wear levelling moves the least worn full block to the most worn free one. A patrol
read, on a channel with no reads or scans to do, counts, and has its block refreshed when a page was retried or had too many errors; an uncorrectable page is recovered. A temperature reading warns at 70 °C and stops writes at
85 °C until 80 °C. -/
def Obligations.FlashMediaEventsTakeEffect : Prop :=
  (∀ (s : State) (d : DieId) (x : FDie), s.fdie? d = some x →
    let on := x.worn || decide (x.free < s.rf .flsGc 0 8) || (x.gc && decide (x.free < s.rf .flsGc 8 8))
    let t := s.updDie d fun y => { y with gc := on }
    (∀ v l, t.victims d = v :: l → on = true → t.mediaWrites d.chan = true → exec (.reclamationStart d) s = .next (t.reclaimBlock v)) ∧
    (t.victims d = [] ∨ on = false ∨ t.mediaWrites d.chan = false → exec (.reclamationStart d) s = .next t)) ∧
  (∀ (s : State) (d : DieId) (frame : Nat) (c : DieId × Nat × Nat), s.flash.copying.find? (fun x => x.1 == d && x.2.1 == frame) = some c →
    (s.mediaWrites d.chan = false ∨ s.deltaFull = true → ∀ ok, exec (.reclaimCopyComplete d frame ok) s = .next s) ∧
    (s.mediaWrites d.chan = true → s.deltaFull = false →
      (s.targetFor (d, c.2.2) = none → ∀ ok, exec (.reclaimCopyComplete d frame ok) s = .next s.enterReadOnly) ∧
      ∀ y v, s.targetFor (d, c.2.2) = some (y, v) →
        let w := (v.updBlock y.die y.num fun k => { k with sources := addNew (d, c.2.2) k.sources }).count 4 nodeScope (8 * d.chan.val + 6)
        let x := w.doneWork .write (frameKey frame)
        let u : State := { x with flash := { x.flash with copying := w.flash.copying.filter fun k => !(k == c) } }
        (v.dieSuspended y.die = true → ∀ ok, exec (.reclaimCopyComplete d frame ok) s = .next s) ∧
        (v.dieSuspended y.die = false →
          (∀ e, w.mapEntry? frame = some e → e.die = d → e.block = c.2.2 →
            exec (.reclaimCopyComplete d frame true) s = .next (u.programFrame (w.kindOf frame) y.die y.num frame e.gen.toNat e.index)) ∧
          (∀ e, w.mapEntry? frame = some e → e.die ≠ d ∨ e.block ≠ c.2.2 →
            exec (.reclaimCopyComplete d frame true) s = .next (u.discardCopy y frame)) ∧
          (w.mapEntry? frame = none → exec (.reclaimCopyComplete d frame true) s = .next (u.discardCopy y frame)) ∧
          (∀ z, w.fblock? y.die y.num = some z → exec (.reclaimCopyComplete d frame false) s = .next (w.failTarget z))))) ∧
  (∀ (s : State) (d : DieId) (b : Nat) (x : FBlock), s.fblock? d b = some x → x.single = false →
    (x.use = .full → x.closed = false → x.sources ≠ [] →
      exec (.blockCloseCheck d b true) s = .next (s.updBlock d b fun y => { y with closed := true }) ∧
      exec (.blockCloseCheck d b false) s = .next (s.failTarget x)) ∧
    (x.use ≠ .full ∨ x.closed = true ∨ x.sources = [] → ∀ ok, exec (.blockCloseCheck d b ok) s = .next s) ∧
    (x.use ≠ .opened → exec (.programFailure d b) s = .next s) ∧
    (x.use = .opened →
      let last := (x.frames.getLast?.map (·.num)).getD 0
      let v := (s.updHealth fun h => { h with programFails := h.programFails + 1 }).updChan d.chan.val fun k => { k with progFails := k.progFails + 1 }
      let t := v.raise .flsSts 1 ⟨3, 2, 1, 0xFF, d.chan.val, flsDetail (locCode d b (x.frames.length - 1)) 0 last v.flash.wseq⟩
      (x.sources ≠ [] → exec (.programFailure d b) s = .next (t.failTarget x)) ∧
      (x.sources = [] →
        let r := t.retireBlock d b
        let move := fun (u : State) (z : FBlock) =>
          u.setCopying (u.flash.copying ++ (z.frames.filter (·.valid)).map fun f => (d, f.num, b))
        (∀ e z, r.mapEntry? last = some e → e.die = d → e.block = b →
          let u := (r.placeFrame (r.kindOf last) x.stream none d.chan.val last e.gen.toNat e.index).getD r.enterReadOnly
          u.fblock? d b = some z → exec (.programFailure d b) s = .next (move u z)) ∧
        (∀ z, r.mapEntry? last = none → r.fblock? d b = some z → exec (.programFailure d b) s = .next (move r z)))) ∧
    (s.eraseOk x = true →
      let v := (s.updHealth fun h => { h with eraseFails := h.eraseFails + 1 }).updChan d.chan.val fun k => { k with eraseFails := k.eraseFails + 1 }
      exec (.eraseFailure d b) s = .next (((v.raise .flsSts 2
        ⟨3, 3, 1, 0xFF, d.chan.val, flsDetail (locCode d b 0) 0 0 v.flash.wseq⟩).dropSource d b).retireBlock d b))) ∧
  (∀ (s : State) (d : DieId), (s.flash.blocks.filter fun b => b.die == d && b.use == .full && !b.single) = [] → exec (.wearLevelMove d) s = .next s) ∧
  (∀ (s : State) (d : DieId) (x : FDie) (v : FBlock) (l : List FBlock) (f : Nat) (m : List Nat), s.fdie? d = some x → x.worn = false →
    s.mediaWrites d.chan = true → s.freeBlocks x = f :: m →
    let used := s.flash.blocks.filter fun b => b.die == d && b.use != .retired && !b.single
    let all := used.map (·.erases) ++ (f :: m).map x.eraseCount
    let lo := all.foldl min (all.foldl max 0)
    sortBy (fun (a b : FBlock) => decide (a.erases < b.erases) || (decide (a.erases = b.erases) && decide (a.num < b.num)))
      (used.filter fun b => b.use == .full) = v :: l →
    (all.foldl max 0 - lo ≤ s.rf .flsGc 16 16 → exec (.wearLevelMove d) s = .next s) ∧
    (s.rf .flsGc 16 16 < all.foldl max 0 - lo →
      ∃ top, top ∈ f :: m ∧ (∀ y ∈ f :: m, x.eraseCount y ≤ x.eraseCount top) ∧
        exec (.wearLevelMove d) s = .next ((s.openNew x top .reclamation (some (d, v.num))).reclaimBlock v))) ∧
  (∀ (s : State) (d : DieId) (b frame pct : Nat) (x : FBlock), s.fblock? d b = some x →
    let busy := (s.chan d.chan.val).queue.any fun w => decide (w.cls.rank ≤ 2)
    (x.use = .reclaiming ∨ s.tierUp = false ∨ busy = true → ∀ o, exec (.flashPatrolRead d b frame o pct) s = .next s) ∧
    (x.use ≠ .reclaiming → s.tierUp = true → busy = false →
      let w := (s.blockRead d b).count 4 nodeScope (8 * d.chan.val + 7)
      let v := w.updHealth fun h =>
        if sumNat (w.flash.blocks.map fun k => k.frames.length) ≤ h.patrolProgress + 1 then
          { h with patrolPasses := h.patrolPasses + 1, patrolProgress := 0 }
        else { h with patrolProgress := h.patrolProgress + 1 }
      let after := fun (t : State) => if s.rf .flsPatrol 16 8 < pct then t.refresh d b else t
      (pct = 0 → exec (.flashPatrolRead d b frame .clean pct) s = .next v) ∧
      (v.rf .flsPatrol 16 8 = s.rf .flsPatrol 16 8 →
        exec (.flashPatrolRead d b frame .corrected pct) s = .next (after (v.flashCorrected d.chan.val false))) ∧
      exec (.flashPatrolRead d b frame .retried pct) s = .next ((v.flashCorrected d.chan.val true).refresh d b) ∧
      ∀ e p, pct = 0 → v.mapEntry? frame = some e → e.die = d → e.block = b → v.pageOfFrame frame = some p →
        ∃ t : State, t.rf .flsSts 0 1 = 1 ∧ t.store = v.store ∧ exec (.flashPatrolRead d b frame .uncorrectable pct) s = .next (t.uncorrectable p.handle true))) ∧
  (∀ (s : State) (k : Fin 32) (temps : List Int), k.val < s.flash.chans.length → (s.chan k).state ≠ .off → temps ≠ [] →
    ∃ t : State, exec (.flashTempRead k temps) s = .next t ∧ t.store = s.store ∧ t.flash.map = s.flash.map ∧
      (t.chan k).temp = maxInt temps ∧ (t.chan k).tempWarn = decide (70 ≤ maxInt temps) ∧
      (t.chan k).tempCrit = (if (s.chan k).tempCrit then decide (80 < maxInt temps) else decide (85 ≤ maxInt temps)))

/-- Where the tier writes its records: the delta log takes the records not yet written, and those that a located leaf holds retire; a dirty leaf is written back, and its new place is a record; a checkpoint is written once 2^20
records have been logged and both anchors name it; the older flush whose records the delta log has becomes the consumed mark of both anchors, and its set is erased and armed again. Elsewhere these do nothing. With room in the buffer the commits that waited go
on. A rebuilt map of what is still held brings the tier into service with its event. A draining channel whose valid frames can all move is fenced, and the next drain begins. Each hour of a powered node the powered-on count goes up and the
temperature history takes an entry. -/
def Obligations.FlashTierEventsTakeEffect : Prop :=
  (∀ s : State, s.tierWrites = true →
    (s.flash.unwritten ≠ [] →
      let v := (List.range ((s.flash.unwritten.length + 4095) / 4096)).foldl (fun (u : State) _ => (u.sysNext .delta).2) s
      exec .deltaFlush s = .next { v with flash := { v.flash with
        logged := some (v.flash.unwritten.foldl Persist.apply (v.flash.logged.getD ⟨[], [], [], [], []⟩))
        unwritten := [], unretired := retireLeaves (v.flash.unretired ++ v.flash.unwritten) } }) ∧
    (s.flash.unwritten = [] → exec .deltaFlush s = .next s) ∧
    (∀ leaf, ((s.flash.unretired ++ s.flash.unwritten).any fun x => x.leaf == some leaf) = true →
      (∀ l v, s.sysNext .leaves = (some l, v) →
        exec (.leafWriteback leaf) s = .next (({ v with flash := { v.flash with dir := assocSet leaf l v.flash.dir } } : State).delta [.leaf leaf])) ∧
      ∀ v, s.sysNext .leaves = (none, v) → exec (.leafWriteback leaf) s = .next v) ∧
    (∀ leaf, ((s.flash.unretired ++ s.flash.unwritten).any fun x => x.leaf == some leaf) = false → exec (.leafWriteback leaf) s = .next s) ∧
    (2 ^ 20 ≤ s.flash.deltaTotal →
      let v := (s.sysNext .leaves).2
      let kept := (retireLeaves (v.flash.unretired ++ v.flash.unwritten.filter fun x => x.leaf.isNone)).filter fun x => x.leaf.isSome
      exec .directoryCheckpoint s = .next ({ v with flash := { v.flash with
        checkpoint := some v.flash.wseq, deltaTotal := 0, unretired := kept } } : State).writeAnchors) ∧
    (s.flash.deltaTotal < 2 ^ 20 → exec .directoryCheckpoint s = .next s) ∧
    (let done := fun (f : Flush) =>
      let v := ({ s with flash := { s.flash with consumed := max s.flash.consumed f.wseq } } : State).writeAnchors
      (v.flash.dies.map (·.die)).foldl (fun (u : State) d => u.count 4 nodeScope (8 * d.chan.val + 2)) v
    (∀ x, s.flash.setA = .holds x → (∀ y, s.flash.setB = .holds y → x.wseq < y.wseq) → exec .flushConsumed s =
      .next (if s.flushSafe x = true then { done x with flash := { (done x).flash with setA := .armed } } else s)) ∧
    (∀ y, s.flash.setB = .holds y → (∀ x, s.flash.setA = .holds x → y.wseq ≤ x.wseq) → exec .flushConsumed s =
      .next (if s.flushSafe y = true then { done y with flash := { (done y).flash with setB := .armed } } else s)) ∧
    (s.flash.setA = .armed → s.flash.setB = .armed → exec .flushConsumed s = .next s))) ∧
  (∀ s : State, s.tierWrites = false →
    exec .deltaFlush s = .next s ∧ exec .directoryCheckpoint s = .next s ∧ exec .flushConsumed s = .next s ∧
    ∀ leaf, exec (.leafWriteback leaf) s = .next s) ∧
  (∀ s : State, (s.deltaFull = true → exec .deltaBufferSpace s = .next s) ∧
    (s.deltaFull = false → exec .deltaBufferSpace s =
      .next (s.flash.stalled.foldl (fun u n => u.sealRead n true) { s with flash := { s.flash with stalled := [] } }))) ∧
  (∀ s : State, (s.flash.state = .rebuild → exec .mapRebuildComplete s =
      .next (((s.loadMap (s.taggedMap.filter fun e => (s.pageOfFrame e.frame).isSome || s.indexFrames.contains e.frame)).tierServes).raise .flsSts 8
        ⟨3, 9, 1, 0xFF, 0, []⟩).continueConfig.resume) ∧
    (s.flash.state ≠ .rebuild → exec .mapRebuildComplete s = .next s.continueConfig.resume)) ∧
  (∀ (s : State) (k : Fin 32),
    let frames := (s.flash.blocks.filter fun b => b.die.chan.val == k.val).flatMap fun b =>
      (b.frames.filter (·.valid)).map fun x => (b.die, b.num, x.num)
    ((s.chan k).state ≠ .draining → exec (.channelDrainComplete k) s = .next s) ∧
    ((s.chan k).state = .draining → s.moveValid frames = none → exec (.channelDrainComplete k) s = .next s) ∧
    (∀ v, (s.chan k).state = .draining → s.moveValid frames = some v →
      let w := v.updChan k fun c => { c with state := .fenced }
      let x : State := { w with flash := { w.flash with copying := w.flash.copying.filter fun c => c.1.chan.val != k.val } }
      (x.flash.chanDrains = [] → exec (.channelDrainComplete k) s = .next x.leaveCheck) ∧
      ∀ m l, x.flash.chanDrains = m :: l → exec (.channelDrainComplete k) s =
        .next (({ x with flash := { x.flash with chanDrains := l } } : State).chanDrain m).leaveCheck)) ∧
  (∀ s : State, s.pow.state = .off → exec .healthLogHourly s = .next s) ∧
  (∀ s : State, s.pow.state ≠ .off →
    let h := s.flash.health
    let temps := (s.flash.chans.filter fun c => c.state != .off).map (·.temp)
    let e := ((s.pow.hours + 1) % 65536, h.hour.getD (maxInt temps, minInt temps))
    let hist := if h.histNext < h.history.length then updAt h.histNext (fun _ => e) h.history else h.history ++ [e]
    let logged : Health :=
      { h with history := hist, histNext := (h.histNext + 1) % 256, hour := none, writes := h.writes + if s.tierWrites then 1 else 0 }
    let t : State := { s with pow := { s.pow with hours := s.pow.hours + 1 }, flash := { s.flash with health := logged } }
    exec .healthLogHourly s = .next (if s.tierWrites then (t.sysNext .health).2 else t))

/-! ## Fabric links -/

/-- A training link with a switch goes up once lanes and spare lock, or at the timeout without sparing where its lanes are locked. On a live link: a frame that fails its CRC or FEC draws one NAK; a good
one gives its acknowledgement and credits, and a data frame next in LSEQ order is taken, a later one draws a NAK, an earlier one is acknowledged again. A NAK and a timeout send the replay buffer
again; an idle frame carries what is owed. A transmit lane's fault moves it to the spare or loses it; a receive lane's asks for the spare, or loses the lane; SPARE_REQ moves a lane; a marker moves the
receiver, which asks for what it lacks. Frames, NAKs, timeouts and lane events of a link that is not live do nothing. A link that is DOWN trains again while enabled. The bulk gate goes to its next
entry. Incomplete messages are dropped. -/
def Obligations.LinksTakeEffect : Prop :=
  (∀ (s : State) (n : Fin 48) (t : TrainInfo),
    ((s.link n).state ≠ .training → exec (.trainFrame n t) s = .next s.continueConfig ∧ exec (.spareLockTimeout n) s = .next s.continueConfig) ∧
    ((s.link n).state = .training →
      (t.isSwitch = false → exec (.trainFrame n t) s = .next s.continueConfig) ∧
      (t.isSwitch = true → t.lanesLocked = true → t.spareLocked = true → exec (.trainFrame n t) s = .next (s.updLink n fun _ =>
        { Link.reset with state := .up, plane := t.plane % 64, credits := t.credits, rx := ⟨none, [], true⟩, tx := ⟨none, [], true⟩ }).continueConfig) ∧
      (t.isSwitch = true → t.lanesLocked = false ∨ t.spareLocked = false →
        exec (.trainFrame n t) s = .next (s.updLink n fun l => { l with trained := some t }).continueConfig) ∧
      ((s.link n).trained = some t → t.lanesLocked = true →
        let v := s.updLink n fun _ =>
          { Link.reset with state := .up, plane := t.plane % 64, credits := t.credits, rx := ⟨none, [], false⟩, tx := ⟨none, [], false⟩ }
        exec (.spareLockTimeout n) s =
          .next (v.raise (.fabLinkSts n) 3 ⟨4, 5, 1, 0xFF, n, linkDetail 2 0 1 (t.plane % 64)⟩).continueConfig) ∧
      ((s.link n).trained = some t → t.lanesLocked = false → exec (.spareLockTimeout n) s = .next s.continueConfig) ∧
      ((s.link n).trained = none → exec (.spareLockTimeout n) s = .next s.continueConfig))) ∧
  (∀ (s : State) (n : Fin 48), (s.link n).state.live = false →
    (∀ f, exec (.dataFrame n f) s = .next s) ∧ (∀ ack, exec (.linkNak n ack) s = .next s) ∧ exec (.linkReplayTimeout n) s = .next s ∧
    exec (.idleAckTimer n) s = .next s ∧ (∀ d k c, exec (.laneFault n d k c) s = .next s) ∧ (∀ k, exec (.spareReq n k) s = .next s) ∧
    (∀ k, exec (.laneMark n k) s = .next s)) ∧
  (∀ (s : State) (n : Fin 48) (f : LinkFrame), (s.link n).state.live = true →
    let u := s.updLink n fun l => { l with replay := keepAfter f.ack.toNat l.replay, credits := updAt f.creditVc (· + f.credits) l.credits }
    let v := (u.updLink n fun l =>
      { l with lseqRx := f.lseq.toNat, nakSent := false, ackOwed := true, owed := updAt f.vc (· + f.cost) l.owed }).count 6 nodeScope (fabTel n 7)
    let w : State := { v with fab := { v.fab with reassembly := gather f v.fab.reassembly } }
    let d := lseqDist (u.link n).lseqRx f.lseq.toNat
    (f.fecOk = false ∨ f.crc ≠ f.check → exec (.dataFrame n f) s = .next (s.sendNak n)) ∧
    (f.fecOk = true → f.crc = f.check → f.kind ≠ 1 → f.kind ≠ 2 → exec (.dataFrame n f) s = .next (u.pumpAll n)) ∧
    (f.fecOk = true → f.crc = f.check → f.kind = 1 ∨ f.kind = 2 →
      (d = 1 → f.dst = u.self → exec (.dataFrame n f) s = .next (w.pumpAll n)) ∧
      (d = 1 → f.dst ≠ u.self → exec (.dataFrame n f) s = .next (v.pumpAll n)) ∧
      (1 < d → d < 32768 → exec (.dataFrame n f) s = .next ((u.sendNak n).pumpAll n)) ∧
      (d = 0 ∨ 32768 ≤ d → exec (.dataFrame n f) s = .next ((u.updLink n fun l => { l with ackOwed := true }).pumpAll n)))) ∧
  (∀ (s : State) (n : Fin 48), (s.link n).state.live = true →
    (∀ ack : Word16, exec (.linkNak n ack) s =
      .next (((s.updLink n fun l => { l with replay := keepAfter ((ack.toNat + 65535) % 65536) l.replay }).replayAll n).pumpAll n)) ∧
    ((s.link n).replay = [] → exec (.linkReplayTimeout n) s = .next s) ∧
    ((s.link n).replay ≠ [] →
      let again := fun (u : State) (x : Nat × LinkFrame) =>
        let f := (u.link n).stamp x.2
        (u.updLink n fun l => { l.paid with replay := updWhere (fun y => y.1 == x.1) (fun y => (y.1, f)) l.replay }).emit (.linkFrame n f)
      exec (.linkReplayTimeout n) s =
        .next ((((s.link n).replay.foldl again s).count 6 nodeScope (fabTel n 8)).raise (.fabLinkSts n) 4 (Rec.event 0xFF n))) ∧
    ((s.link n).ackOwed = true ∨ (s.link n).owed.any (· != 0) = true → exec (.idleAckTimer n) s =
      .next ((s.updLink n fun l => l.paid).emit (.linkIdle n (s.link n).lseqRx (s.link n).creditField.1 (s.link n).creditField.2))) ∧
    ((s.link n).ackOwed = false → (s.link n).owed.any (· != 0) = false → exec (.idleAckTimer n) s = .next s) ∧
    (∀ (k : Fin 2) (cause : Nat), (s.link n).tx.lost.contains k.val = true →
      exec (.laneFault n .tx k cause) s = .next s ∧ exec (.spareReq n k) s = .next s) ∧
    (∀ (k : Fin 2) (cause : Nat), (s.link n).tx.lost.contains k.val = false →
      exec (.laneFault n .tx k cause) s = .next ((s.note ⟨4, 1, 1, 0xFF, n, linkDetail k 1 cause (s.link n).plane⟩).moveLane n k cause) ∧
      exec (.spareReq n k) s = .next (s.moveLane n k 0)) ∧
    (∀ (k : Fin 2) (cause : Nat), (s.link n).rx.lost.contains k.val = true → exec (.laneFault n .rx k cause) s = .next s) ∧
    (∀ (k : Fin 2) (cause : Nat), (s.link n).rx.lost.contains k.val = false →
      let u := (s.note ⟨4, 1, 1, 0xFF, n, linkDetail k 0 cause (s.link n).plane⟩).emit (.spareReq n k)
      let after := (s.link n).rx.lose s.autoSpare k
      (after.spareFor = some k.val → exec (.laneFault n .rx k cause) s = .next u) ∧
      (after.spareFor ≠ some k.val → exec (.laneFault n .rx k cause) s =
        .next ((u.updLink n fun l => { l with rx := after }).rejudge n (linkDetail k 0 cause (s.link n).plane)))) ∧
    (∀ k : Fin 2,
      let x := (s.link n).rx
      let done := fun (u : State) => (u.rejudge n (linkDetail k 0 0 (s.link n).plane)).sendNak n
      (x.lost.contains k.val = true → exec (.laneMark n k) s = .next (done s)) ∧
      (x.lost.contains k.val = false → x.spareFor = some k.val →
        exec (.laneMark n k) s = .next (done (s.updLink n fun l => { l with rx := { l.rx with spareFor := none } }))) ∧
      (x.lost.contains k.val = false → x.spareFor = none → x.spareLocked = true → s.autoSpare = true →
        exec (.laneMark n k) s = .next (done (s.updLink n fun l => { l with rx := { l.rx with spareFor := some k } }))) ∧
      (x.lost.contains k.val = false → x.spareFor ≠ some k.val → x.spareFor ≠ none ∨ x.spareLocked = false ∨ s.autoSpare = false →
        exec (.laneMark n k) s = .next (done s)))) ∧
  (∀ (s : State) (n : Fin 48),
    ((s.link n).state = .down → s.linkOn n = true → s.nodeValid = true →
      exec (.linkLanesReturn n) s = .next ((s.updLink n fun _ => { Link.reset with state := .training }).emit (.linkTrain n))) ∧
    ((s.link n).state ≠ .down ∨ s.linkOn n = false ∨ s.nodeValid = false → exec (.linkLanesReturn n) s = .next s)) ∧
  (∀ s : State, s.fab.gateRunning = false → exec .bulkGateEntryExpiry s = .next s) ∧
  (∀ s : State, s.fab.gateRunning = true →
    let t : State := { s with fab := { s.fab with gateEntry := (s.fab.gateEntry + 1) % s.gateEnt, gateAt := s.pow.tsc.toNat } }
    exec .bulkGateEntryExpiry s = .next (t.liveLinks.foldl (fun u k => u.pumpAll k) t)) ∧
  (∀ (s : State) (n : NodeId) (q : Word32),
    (∃ t : State, exec (.messageReassemblyTimeout n q) s = .next t ∧ { t with fab := { t.fab with reassembly := s.fab.reassembly } } = s ∧
      ∀ x, x ∈ t.fab.reassembly ↔ x ∈ s.fab.reassembly ∧ ¬ (x.src = n ∧ x.seq = q)) ∧
    (∃ t : State, exec (.segmentReassemblyTimeout n q) s = .next t ∧ { t with fab := { t.fab with reassembly := s.fab.reassembly } } = s ∧
      ∀ x, x ∈ t.fab.reassembly ↔ x ∈ s.fab.reassembly ∧
        ¬ (x.src = n ∧ x.ordered = false ∧ q.toNat ≤ x.seq.toNat ∧ x.seq.toNat < q.toNat + 512)))

/-! ## Handshakes and sessions -/

/-- A handshake message that its screen discards changes nothing more. A HELLO draws ABORT where a running handshake of this node's own wins, the same REPLY again where it was answered, the reason of a
failed check, and else a REPLY. A REPLY that passes sets the key, holds back until the responder speaks, and draws a FINISH, which a repeated REPLY draws again; a FINISH with the expected confirmation
sets the key and lets waiting messages go, another fails with reason 4; an ABORT ends the running handshake it names; a peer's new incarnation ends one in progress. Unanswered steps go again; the
backoff, the hold, the old key and a key's life end. A connection takes the lowest free session or is reset; a station that is not known, or signs wrongly, is refused and closed; a record on an open
session is taken as a command, and a bad one closes it; a session closes when idle, when its key is due with nothing outstanding, and when its connection ends; without a session none of these does
anything. -/
def Obligations.HandshakesAndSessionsTakeEffect : Prop :=
  (∀ (s : State) (h : MsgHdr) (b : HsBody), (s.screenHs h).1 = false →
    exec (.handshakeHello h b) s = .next (s.screenHs h).2 ∧ exec (.handshakeReply h b) s = .next (s.screenHs h).2 ∧
    exec (.handshakeFinish h b) s = .next (s.screenHs h).2 ∧ ∀ k r, exec (.handshakeAbort h k r) s = .next (s.screenHs h).2) ∧
  (∀ (s u : State) (h : MsgHdr) (b : HsBody), s.screenHs h = (true, u) →
    let fresh := (u.peer h.src).hs = none ∨ ∃ y, (u.peer h.src).hs = some y ∧
      (y.initiator = false ∧ y.hsId ≠ b.hsId ∨ y.initiator = true ∧ (y.running = false ∨ h.src.toNat ≤ u.self.toNat))
    (∀ y, (u.peer h.src).hs = some y → y.initiator = true → y.running = true → u.self.toNat < h.src.toNat →
      exec (.handshakeHello h b) s = .next (u.sendHs h.src (.hsAbort b.hsId 5))) ∧
    (∀ y, (u.peer h.src).hs = some y → y.initiator = false → y.hsId = b.hsId →
      exec (.handshakeHello h b) s = .next (u.transmit h.src ⟨y.seq, 0, y.epoch, y.sent⟩)) ∧
    (fresh → u.trust.attReady = false → exec (.handshakeHello h b) s = .next u) ∧
    (∀ r, fresh → u.trust.attReady = true → u.hsCheck h b (hsDigest u h 1 b) = .error r →
      exec (.handshakeHello h b) s = .next (u.hsFailed h b.hsId r)) ∧
    (∀ certs, fresh → u.trust.attReady = true → u.hsCheck h b (hsDigest u h 1 b) = .ok certs → ∃ (t : State) (y : Hs) (rb : HsBody),
      (t.peer h.src).hs = some y ∧ y.hsId = b.hsId ∧ y.initiator = false ∧ y.sent = .hsReply rb ∧ rb.hsId = b.hsId ∧ y.certs = certs ∧
      (t.peer h.src).incarn = h.incarn ∧ t.store.seqs = u.store.seqs ∧ t.store.nss = u.store.nss ∧
      exec (.handshakeHello h b) s = .next (t.transmit h.src ⟨y.seq, 0, y.epoch, y.sent⟩))) ∧
  (∀ (s u : State) (h : MsgHdr) (b : HsBody), s.screenHs h = (true, u) → (u.peer h.src).hs = none ∨
      (∃ y, (u.peer h.src).hs = some y ∧ y.hsId ≠ b.hsId) →
    exec (.handshakeReply h b) s = .next u ∧ exec (.handshakeFinish h b) s = .next u) ∧
  (∀ (s u : State) (h : MsgHdr) (b : HsBody) (y : Hs), s.screenHs h = (true, u) → (u.peer h.src).hs = some y → y.hsId = b.hsId →
    (y.initiator = true → exec (.handshakeFinish h b) s = .next u) ∧ (y.initiator = false → exec (.handshakeReply h b) s = .next u) ∧
    (y.initiator = true → y.running = true →
      (∀ r, u.hsCheck h b (y.hI ++ hsDigest u h 2 b) = .error r → exec (.handshakeReply h b) s = .next (u.hsFailed h b.hsId r)) ∧
      (∀ certs, u.hsCheck h b (y.hI ++ hsDigest u h 2 b) = .ok certs → ∃ (t : State) (z : Hs) (fb : HsBody),
        (t.peer h.src).hs = some z ∧ z.sent = .hsFinish fb ∧ (t.peer h.src).keyed = true ∧ (t.peer h.src).holdUntilFirst = true ∧
        (t.peer h.src).certs = some certs ∧ (t.peer h.src).incarn = h.incarn ∧ t.store.seqs = u.store.seqs ∧ t.store.nss = u.store.nss ∧
        exec (.handshakeReply h b) s = .next ((t.transmit h.src ⟨z.seq, 0, z.epoch, z.sent⟩).hsEpoch h))) ∧
    (y.initiator = true → y.running = false →
      ((u.peer h.src).incarn = h.incarn → exec (.handshakeReply h b) s = .next (u.transmit h.src ⟨y.seq, 0, y.epoch, y.sent⟩)) ∧
      ((u.peer h.src).incarn ≠ h.incarn → exec (.handshakeReply h b) s =
        .next (((u.hsIncarn h).updPeer h.src fun p => { p with hs := none }).needKey h.src))) ∧
    (y.initiator = false → (u.peer h.src).incarn ≠ h.incarn →
      let v := (u.hsIncarn h).updPeer h.src fun p => { p with hs := none }
      exec (.handshakeFinish h b) s = .next (if (v.peer h.src).waiting.isEmpty then v else v.needKey h.src)) ∧
    (y.initiator = false → (u.peer h.src).incarn = h.incarn →
      (b.sig ≠ y.conf → exec (.handshakeFinish h b) s = .next (u.hsFailed h b.hsId 4)) ∧
      (b.sig = y.conf → exec (.handshakeFinish h b) s =
        .next ((((u.keySet h.src y.certs).updPeer h.src fun p => { p with hs := none }).releaseWaiting h.src).hsEpoch h)))) ∧
  (∀ (s u : State) (h : MsgHdr) (k : Word32) (r : Nat), s.screenHs h = (true, u) →
    (∀ y, (u.peer h.src).hs = some y → y.hsId = k → y.running = true →
      ∃ t : State, exec (.handshakeAbort h k r) s = .next t ∧ (t.peer h.src).hs = none ∧ t.store = u.store ∧ t.cmds = u.cmds)) ∧
  (∀ (s : State) (n : NodeId),
    (∀ y, (s.peer? n).bind (·.hs) = some y → y.running = true → exec (.handshakeRetry n) s = .next (s.transmit n ⟨y.seq, 0, y.epoch, y.sent⟩)) ∧
    (∀ y, (s.peer? n).bind (·.hs) = some y → y.running = false → exec (.handshakeRetry n) s = .next s) ∧
    ((s.peer? n).bind (·.hs) = none → exec (.handshakeRetry n) s = .next s)) ∧
  (∀ (s : State) (n : NodeId), (s.peer? n).isSome = true →
    let t := s.updPeer n fun p => { p with backoff := false }
    exec (.handshakeBackoffExpiry n) s = .next (if (s.peer n).waiting = [] ∨ (s.peer n).keyed = true then t else t.needKey n) ∧
    exec (.oldKeyErase n) s = .next (s.updPeer n fun p => { p with oldKey := false })) ∧
  (∀ (s : State) (n : NodeId), (s.peer? n).isNone = true →
    exec (.handshakeBackoffExpiry n) s = .next s ∧ exec (.oldKeyErase n) s = .next s) ∧
  (∀ (s : State) (n : NodeId),
    ((s.peer n).holdUntilFirst = true →
      exec (.initiatorHoldExpiry n) s = .next ((s.updPeer n fun p => { p with holdUntilFirst := false }).releaseWaiting n)) ∧
    ((s.peer n).holdUntilFirst = false → exec (.initiatorHoldExpiry n) s = .next s) ∧
    ((s.peer n).keyed = true → s.listens = true → exec (.rekeyDue n) s = .next (s.needKey n)) ∧
    ((s.peer n).keyed = false ∨ s.listens = false → exec (.rekeyDue n) s = .next s)) ∧
  (∀ s : State,
    (s.host.mportUp = false → exec .mgmtConnect s = .next s) ∧
    (s.host.mportUp = true → (∀ n, n < 4 → (s.session? n).isSome = true) → exec .mgmtConnect s = .next (s.emit .tcpReset)) ∧
    (∀ n, s.host.mportUp = true → n < 4 → s.session? n = none → (∀ k, k < n → (s.session? k).isSome = true) → exec .mgmtConnect s =
      .next (({ s with host := { s.host with sessions := s.host.sessions ++ [⟨n, false, 0, 0, 0, []⟩] } } : State).emit (.sessionOpened n)))) ∧
  (∀ (s : State) (n : Nat), s.session? n = none →
    (∀ b, exec (.mgmtHello n b) s = .next s) ∧ exec (.sessionIdleTimeout n) s = .next s ∧ exec (.mgmtDisconnect n) s = .next s ∧
    exec (.sessionRekeyClose n) s = .next s ∧ ∀ ok op p, exec (.sessionRecord n ok op p) s = .next s.resume) ∧
  (∀ (s : State) (n : Nat) (x : Session), s.session? n = some x →
    (∀ b, x.isOpen = true → exec (.mgmtHello n b) s = .next (s.closeSession n)) ∧
    (∀ b, x.isOpen = false → s.stationKnown b.certs = false →
      exec (.mgmtHello n b) s = .next ((s.emit (.sessionHs n (.hsAbort b.hsId 6))).closeSession n)) ∧
    (∀ b, x.isOpen = false → s.stationKnown b.certs = true →
      Config.stationSigOk b.certs (prefixMgt ++ shake256 32 (b.front 1)) b.sig = false →
      exec (.mgmtHello n b) s = .next ((s.emit (.sessionHs n (.hsAbort b.hsId 2))).closeSession n)) ∧
    (∀ b, x.isOpen = false → s.stationKnown b.certs = true →
      Config.stationSigOk b.certs (prefixMgt ++ shake256 32 (b.front 1)) b.sig = true →
      (s.trust.attReady = false → exec (.mgmtHello n b) s = .next s) ∧
      (s.trust.attReady = true → ∃ (t : State) (rb : HsBody), exec (.mgmtHello n b) s = .next (t.emit (.sessionHs n (.hsReply rb))) ∧
        (t.session? n).map (·.isOpen) = some true ∧ rb.hsId = b.hsId ∧ t.store = s.store)) ∧
    (∀ ok op p, x.isOpen = true → ok = true → 32 + p.body.length + 16 ≤ 16777280 → x.rxCount < 2 ^ 32 →
      exec (.sessionRecord n ok op p) s =
        .next ((s.updSession n fun y => { y with rxCount := y.rxCount + 1 }).arriveAll op (opDef op) { p with src := .mgmt n }).resume) ∧
    (∀ ok op p, x.isOpen = false ∨ ok = false ∨ 16777280 < 32 + p.body.length + 16 ∨ 2 ^ 32 ≤ x.rxCount →
      exec (.sessionRecord n ok op p) s = .next (s.closeSession n).resume) ∧
    ((s.closeSession n).session? n = none ∧ (s.closeSession n).out = .sessionClosed n :: s.out ∧
      (s.closeSession n).cmds.list.map (·.id) = s.cmds.list.map (·.id)) ∧
    exec (.sessionIdleTimeout n) s = .next (s.closeSession n) ∧ exec (.mgmtDisconnect n) s = .next (s.closeSession n) ∧
    (x.outstanding = 0 → exec (.sessionRekeyClose n) s = .next (s.closeSession n)) ∧
    (x.outstanding ≠ 0 → exec (.sessionRekeyClose n) s = .next s))

/-! ## Power, clocks and temperature -/

/-- A warning, a supply fault and a reading above a limit start a freewheel, whose flush ends in `PARK`, or in the package reset that was asked for; when nothing keeps the node there it resumes, and
RESUME_COMPLETE is back in `RIDE` with RESUMED set and what REQ says. Droop divides a die's clock and counts; a long droop halves the issue instead; each ends. A PLL's loss takes down the links that it
clocks and sets CLK_FAULT; they train again when it relocks and no other lost PLL clocks them. `PARK` is entered once nothing runs, and denied to a node with a role. An idle engine is gated with AUTO_COAST
alone. At 125 °C the node trips; below the limits of a freewheel the readings start and end limiting alone. What a node that is off, in reset or not asked hears does nothing. -/
def Obligations.PowerEventsTakeEffect : Prop :=
  (∀ s : State, exec .pwrWarnAssert s = .next (State.startFreewheel .warn { s with pow := { s.pow with pwrWarn := true } })) ∧
  (∀ (s : State) (c : FwCause), s.pow.state = .ride → s.pow.phase = .service → s.pow.freewheel = none → ∃ t : State,
    s.startFreewheel c = t ∧ t.pow.state = .freewheel ∧ t.pow.freewheel = some c ∧ t.cmds.list = [] ∧ t.rf .pwrSts 0 1 = 1 ∧
      (∀ p, p ∈ t.store.pages → p.pins = 0 ∧ p.job = .none) ∧ t.store.seqs = s.store.seqs ∧ t.store.journal = s.store.journal) ∧
  (∀ s : State, s.pow.state = .freewheel ∨ s.pow.state = .off → ∀ c, s.startFreewheel c = s) ∧
  (∀ (s : State) (rail : Fin 13),
    (s.pow.state = .off ∨ s.pow.railsOut.contains rail.val = true → exec (.supplyFault rail) s = .next s) ∧
    (s.pow.state ≠ .off → s.pow.railsOut.contains rail.val = false →
      let t : State := { s with pow := { s.pow with railsOut := s.pow.railsOut ++ [rail.val] } }
      exec (.supplyFault rail) s = .next ((t.powRaise 5 6 1 (powDetail rail 0 0)).startFreewheel .supply)) ∧
    exec (.supplyReturn rail) s = .next (State.tryResume { s with pow := { s.pow with railsOut := delAll rail.val s.pow.railsOut } })) ∧
  (∀ s : State, exec .pwrWarnDeassert s = .next (State.tryResume { s with pow := { s.pow with pwrWarn := false } }) ∧
    exec .thermalResume s = .next (State.tryResume { s with pow := { s.pow with thermalHold := false } })) ∧
  (∀ s : State,
    (s.pow.state ≠ .freewheel → exec .freewheelFlushComplete s = .next s) ∧
    (s.pow.state = .freewheel →
      let u := s.putFlush true
      let v : State := { u with flash := { u.flash with health := { u.flash.health with writes := u.flash.health.writes + 1 } } }
      let w := if s.flushes? then v.powRaise 1 2 1 (powDetail 0 0 0) else s
      (w.pow.resetAfter = false ∨ w.mayResume = false → exec .freewheelFlushComplete s = .next w.enterPark.tryResume) ∧
      (w.pow.resetAfter = true → w.mayResume = true →
        let ride : State := { w with pow := { w.pow with state := .ride } }
        exec .freewheelFlushComplete s = .next (ride.packageReset 2).start))) ∧
  (∀ s : State, s.pow.state = .park → s.pow.freewheel ≠ none → s.pow.resuming = false →
    (s.mayResume = true → s.pow.resetAfter = false →
      s.tryResume = (({ s with pow := { s.pow with resuming := true } } : State).wakeStacks).relight) ∧
    (s.mayResume = true → s.pow.resetAfter = true → s.tryResume = (s.packageReset 2).start) ∧
    (s.mayResume = false → s.tryResume = s)) ∧
  (∀ s : State, s.pow.state ≠ .park ∨ s.pow.freewheel = none ∨ s.pow.resuming = true → s.tryResume = s) ∧
  (∀ s : State, (s.pow.resuming = false → exec .resumeComplete s = .next s.resume) ∧
    (s.pow.resuming = true →
      let u : State := { s with pow := { s.pow with state := .ride, parked := false, freewheel := none, resuming := false } }
      let t := (((u.emit (.pin "PARKED" false)).powRaise 2 3 1 (powDetail 0 0 0)).count 8 nodeScope 4).nextDrain
      exec .resumeComplete s = .next (State.resume (if t.reqField = 1 then t.rideRequest true else if t.reqField = 2 then
        t.parkRequest else t)))) ∧
  (∀ (s : State) (d : Die),
    ((s.dieClk d).div3 = false → exec (.droopLong d) s = .next s ∧ exec (.droop d) s =
      .next (((s.updDie' d fun c => { c with div3 := true }).count 8 nodeScope 1).powRaise 3 4 0 (powDetail (railOf d) 0 0))) ∧
    ((s.dieClk d).div3 = true → exec (.droop d) s = .next s ∧ exec (.droopLong d) s =
      .next (((s.updDie' d fun _ => ⟨false, true⟩).count 8 nodeScope 2).powRaise 4 5 0 (powDetail (railOf d) 0 1000))) ∧
    (∃ t : State, exec (.droopRecover d) s = .next t ∧ t.dieClk d = { s.dieClk d with div3 := false } ∧ { t with pow := s.pow } = s) ∧
    (∃ t : State, exec (.droopLongEnd d) s = .next t ∧ t.dieClk d = { s.dieClk d with halfIssue := false } ∧ { t with pow := s.pow } = s)) ∧
  (∀ (s : State) (p : Pll),
    (s.pow.pllsLost.contains p = true → exec (.serdesPllLoss p) s = .next s) ∧
    (s.pow.pllsLost.contains p = false → exec (.serdesPllRelock p) s = .next s ∧ ∃ t : State, exec (.serdesPllLoss p) s = .next t ∧
      t.pow = { s.pow with pllsLost := s.pow.pllsLost ++ [p] } ∧ t.rf .pwrSts 7 1 = 1 ∧ t.store = s.store ∧
      (∀ n, n ∈ Pll.links p → (t.link n).state.live = false ∧ (t.link n).state ≠ .training)) ∧
    (s.pow.pllsLost.contains p = true → ∃ t : State, exec (.serdesPllRelock p) s = .next t ∧
      t.pow = { s.pow with pllsLost := delAll p s.pow.pllsLost } ∧ t.store = s.store ∧
      (∀ n, n ∈ Pll.links p → (∀ r, r ∈ delAll p s.pow.pllsLost → n ∉ Pll.links r) → n < s.fab.links.length →
        (s.link n).state = .down → s.linkOn n = true → s.nodeValid = true → (t.link n).state = .training))) ∧
  (∀ s : State,
    (s.pow.parkPending = false → exec .parkEntryComplete s = .next s) ∧
    (s.pow.parkPending = true → s.holdsRole = true → exec .parkEntryComplete s =
      .next (({ s with pow := { s.pow with parkPending := false } } : State).powRaise 6 7 0 (powDetail 0 0 0))) ∧
    (s.pow.parkPending = true → s.holdsRole = false →
      let ended := s.cmds.list = [] ∧ (s.store.pages.any fun p => p.sealing != .idle) = false ∧ (s.hbm.stk.any fun k => !k.running.isEmpty) = false
      (ended → ∃ t : State, exec .parkEntryComplete s = .next t ∧ t.pow.state = .park ∧
        t.pow.parked = true ∧ t.staging = [] ∧ t.store = s.store ∧ (∀ n, (t.link n).state.live = false)) ∧
      (¬ ended → exec .parkEntryComplete s = .next s))) ∧
  (∀ (s : State) (e : Fin 68),
    (s.rf .pwrCtl 2 1 = 0 ∨ s.pow.state ≠ .ride → exec (.autoCoastIdle e) s = .next s) ∧
    (s.rf .pwrCtl 2 1 = 1 → s.pow.state = .ride → ∃ t : State, exec (.autoCoastIdle e) s = .next t ∧ { t with eng := s.eng } = s ∧
      (∀ x, s.eng.engines[e.val]? = some x → t.eng.engines[e.val]? = some (if x.step = none ∧ x.fenced = false then { x with gated := true } else x)) ∧
      ∀ k, k ≠ e.val → t.eng.engines[k]? = s.eng.engines[k]?)) ∧
  (∀ (s : State) (t : Temps), s.pow.state = .off ∨ s.pow.phase = .held → exec (.thermalSensorRead t) s = .next s) ∧
  (∀ (s : State) (t : Temps), s.pow.state ≠ .off → s.pow.phase ≠ .held →
    (125 ≤ t.junction → s.pow.thermtrip = true → exec (.thermalSensorRead t) s = .next s) ∧
    (125 ≤ t.junction → s.pow.thermtrip = false → ∃ v : State, exec (.thermalSensorRead t) s = .next v ∧ v.pow.phase = .tripped ∧
      v.pow.thermtrip = true ∧ v.cmds.list = [] ∧ v.out.head? = some (.pin "THERMTRIP_N" false)) ∧
    (t.junction < 125 → 115 ≤ t.junction ∨ 95 ≤ t.stack ∨ 85 ≤ t.optical →
      let u := s.limiting t
      exec (.thermalSensorRead t) s = .next (State.startFreewheel .thermal { u with pow := { u.pow with thermalHold := true } })) ∧
    (t.junction < 115 → t.stack < 95 → t.optical < 85 → exec (.thermalSensorRead t) s = .next (s.limiting t))) ∧
  (∀ (s : State) (t : Temps),
    (s.pow.limited = false → (s.limiting t).pow.limited = decide (100 ≤ t.junction ∨ 90 ≤ t.stack)) ∧
    (s.pow.limited = true → (s.limiting t).pow.limited = decide (95 < t.junction ∨ 85 < t.stack)) ∧ (s.limiting t).store = s.store)

/-! ## Resets and boot -/

/-- RESET_N low, the loss of the root PLL and the fall of the rails lose registers, counters, commands, contexts, sessions, slots and the staging cache and take time to zero; partitions stay without fence and
reset, the map, the fuses, the boot flash, the recorded node ID and the powered-on hours stay, and the log stays unless power goes. They do nothing to a node that is off, held in reset or without its clocks already.
RESET_N rising starts the node, but in a tripped node still hot it does not. A cold power-on counts an incarnation. With no valid slot a start, and a firmware restart, stays in ROM recovery; with one and
a blank configuration region a start serves with the defaults; a finished firmware restart serves again. -/
def Obligations.ResetsKeepWhatTheSpecKeeps : Prop :=
  (∀ s : State, s.pow.state ≠ .off → ∃ t v w : State,
    (s.pow.resetN = true → exec .resetN s = .next t) ∧ t.pow.resetN = false ∧ t.pow.phase = .held ∧ t.pow.lastCause = 1 ∧
    (Phase.clocked s.pow.phase = true → exec .rootPllLoss s = .next v.start) ∧ v.pow.lastCause = 3 ∧ v.pow.resetN = s.pow.resetN ∧
    exec .railsDown s = .next w ∧ w.pow.state = .off ∧ w.log.records = [] ∧ t.log = s.log ∧ v.log = s.log ∧
    ∀ x ∈ [t, v, w], x.regs = [] ∧ x.pow.tsc = 0 ∧ x.tel.counters = [] ∧ x.cmds.list = [] ∧ x.host.ctxs = [] ∧ x.host.sessions = [] ∧
      x.slots.pats = [] ∧ x.slots.progs = [] ∧ x.staging = [] ∧ x.map.map = s.map.map ∧ x.ptnGen = s.ptnGen ∧ x.boot = s.boot ∧
      x.trust.svnMin = s.trust.svnMin ∧ x.trust.svnAdvances = s.trust.svnAdvances ∧ x.trust.nodeId = s.trust.nodeId ∧
      x.pow.hours = s.pow.hours ∧ x.fab.peers = [] ∧
      (∀ n y, x.ptn? n = some y → y.fenced = false ∧ y.resetting = false ∧ ∃ z, s.ptn? n = some z ∧ z.priv = y.priv ∧ z.keyMode = y.keyMode)) ∧
  (∀ s : State,
    (s.pow.state = .off ∨ s.pow.resetN = false → exec .resetN s = .next s) ∧
    (s.pow.state = .off ∨ Phase.clocked s.pow.phase = false → exec .rootPllLoss s = .next s) ∧
    (s.pow.state = .off → exec .railsDown s = .next s)) ∧
  (∀ (s : State) (hot : Int),
    (s.pow.state = .off ∨ s.pow.resetN = true → exec (.resetNRelease hot) s = .next s) ∧
    (s.pow.state ≠ .off → s.pow.resetN = false → s.pow.thermtrip = true → 100 ≤ hot →
      exec (.resetNRelease hot) s = .next { s with pow := { s.pow with resetN := true, phase := .tripped } }) ∧
    (s.pow.state ≠ .off → s.pow.resetN = false → s.pow.thermtrip = true → hot < 100 →
      let u := s.emit (.pin "THERMTRIP_N" true)
      exec (.resetNRelease hot) s = .next (State.start { u with pow := { u.pow with resetN := true, thermtrip := false } })) ∧
    (s.pow.state ≠ .off → s.pow.resetN = false → s.pow.thermtrip = false →
      exec (.resetNRelease hot) s = .next (State.start { s with pow := { s.pow with resetN := true, thermtrip := false } }))) ∧
  (∀ s : State, s.bootSlot = none → s.start = { s with pow := { s.pow with rootLock := true, phase := .romRecovery } }) ∧
  (∀ (s : State) (k : Nat) (dig : Digest) (svn : Word32) (fb : Bool), s.bootSlot = some (k, dig, svn, fb) →
    (s.boot.config.all fun b => b == 0xFF) = true → s.start.pow.phase = .service ∧ s.start.pow.cfgDefaulted = true ∧ s.start.boot.active = k ∧ s.start.trust.fwDigest = dig ∧ s.start.trust.svnRun = svn ∧
    s.start.pow.rootLock = true) ∧
  (∀ s : State, s.pow.state ≠ .off → exec .coldPowerOn s = .next s) ∧
  (∀ s : State, s.pow.state = .off → ∃ t : State, exec .coldPowerOn s = .next t ∧ t.pow.state = .ride ∧ t.pow.phase = .held ∧
    t.pow.lastCause = 0 ∧ t.pow.incarn = s.pow.incarn + 1 ∧ t.pow.railsOut = [] ∧ t.pow.thermtrip = false ∧
    { t with pow := s.pow, out := s.out } = s) ∧
  (∀ s : State, s.pow.phase ≠ .fwRestart → exec .fwRestartComplete s = .next s.resume) ∧
  (∀ (s : State) (k : Nat) (dig : Digest) (svn : Word32) (fb : Bool), s.pow.phase = .fwRestart → s.bootSlot = some (k, dig, svn, fb) →
    ∃ t : State, exec .fwRestartComplete s = .next t.resume ∧ t.pow.phase = .service ∧ t.trust.fwDigest = dig ∧ t.trust.svnRun = svn ∧
      t.store = s.store ∧ t.host = s.host) ∧
  (∀ s : State, s.pow.phase = .fwRestart → s.bootSlot = none →
    exec .fwRestartComplete s = .next (State.resume { s with pow := { s.pow with phase := .romRecovery } }))

/-! ## I3C -/

/-- With the rails up and out of reset, the node takes its dynamic address and endpoint ID, and answers the control messages, BOOT_STATUS
and the slot checks. In ROM recovery a slot write erases at offset 0 and stores its bytes, outside it is `DENIED`, and a wrong length is
`BAD_PARAM`. A command over I3C runs as any other from that source. With the rails down nothing answers. -/
def Obligations.I3cTakesEffect : Prop :=
  (∀ s : State, s.i3cUp = false → (∀ a, exec (.entdaa a) s = .next s) ∧ (∀ e, exec (.setEndpointId e) s = .next s) ∧
    exec .getEndpointId s = .next s ∧ exec .getMctpVersionSupport s = .next s ∧ exec .getMessageTypeSupport s = .next s ∧
    exec .getVendorDefinedSupport s = .next s ∧ exec .i3cBootStatus s = .next s) ∧
  (∀ s : State, s.i3cUp = true →
    (∀ a, exec (.entdaa a) s = .next { s with i3c := { s.i3c with dynAddr := a } }) ∧
    (∀ e, exec (.setEndpointId e) s = .next { s with i3c := { s.i3c with eid := e }, out := .i3cResponse [e] :: s.out }) ∧
    exec .getEndpointId s = .next (s.emit (.i3cResponse [s.i3c.eid])) ∧
    exec .getMctpVersionSupport s = .next (s.emit (.i3cResponse Config.mctpVersions)) ∧
    exec .getMessageTypeSupport s = .next (s.emit (.i3cResponse [0x7F])) ∧
    exec .getVendorDefinedSupport s = .next (s.emit (.i3cResponse (fitBytes 4 Config.vendorId))) ∧
    exec .i3cBootStatus s = .next (s.emit (.i3cResponse (leBytes 1 (Phase.code s.pow.phase) ++ leBytes 1 s.pow.lastCause ++
      leBytes 1 (b2n s.pow.cfgDefaulted + 2 * s.rf .pwrSts 8 1 + 4 * b2n s.trust.idxOk) ++ zeroBytes 1))) ∧
    (∀ k : Fin 2,
      (s.pow.phase ≠ .romRecovery → (∀ off data, exec (.i3cSlotWrite k off data) s = .next (s.emit (.i3cResponse (leBytes 2 Status.denied.code ++ zeroBytes 2)))) ∧
        exec (.i3cSlotCheck k) s = .next (s.emit (.i3cResponse (leBytes 2 Status.denied.code ++ zeroBytes 2)))) ∧
      (∀ off data, s.pow.phase = .romRecovery → data = [] ∨ 1024 < data.length ∨ 67108864 < off + data.length →
        exec (.i3cSlotWrite k off data) s = .next (s.emit (.i3cResponse (leBytes 2 Status.badParam.code ++ zeroBytes 2)))) ∧
      (∀ off data, s.pow.phase = .romRecovery → data ≠ [] → data.length ≤ 1024 → off + data.length ≤ 67108864 →
        ∃ t : State, exec (.i3cSlotWrite k off data) s = .next (t.emit (.i3cResponse (leBytes 2 Status.ok.code ++ zeroBytes 2))) ∧
          (t.slot k).factory = false ∧
          (t.slot k).bytes = Mem.writeList (if off = 0 ∨ (s.slot k).factory = true then [] else (s.slot k).bytes) off data ∧
          t.slot (1 - k.val) = s.slot (1 - k.val) ∧ { t with boot := { t.boot with slotA := s.boot.slotA, slotB := s.boot.slotB } } = s) ∧
      (s.pow.phase = .romRecovery → exec (.i3cSlotCheck k) s =
        .next (s.emit (.i3cResponse (leBytes 2 (if (s.slotImage k).isSome then Status.ok.code else Status.denied.code) ++ zeroBytes 2)))))) ∧
  (∀ (op : Op) (p : Packet) (s u : State) (c : Cmd), admission op { p with src := .i3c } s = some (c, u) →
    exec (.i3cNdoxCommand op p) s = .next (u.settle c ((opDef op).run c u)).progress.resume)
end

