-- ==== Sys2Proof/Laws/State.lean ====
section
/-! SUPPORT. What each plain update of State leaves as it was: one lemma for each field and update. -/

namespace Sys2Proof.Machine

/-! ### `State.keep` -/

@[simp] theorem State.keep_pow (r : Reg) (v : Nat) (s : State) : (s.keep r v).pow = s.pow := rfl
@[simp] theorem State.keep_boot (r : Reg) (v : Nat) (s : State) : (s.keep r v).boot = s.boot := rfl
@[simp] theorem State.keep_log (r : Reg) (v : Nat) (s : State) : (s.keep r v).log = s.log := rfl
@[simp] theorem State.keep_tel (r : Reg) (v : Nat) (s : State) : (s.keep r v).tel = s.tel := rfl
@[simp] theorem State.keep_i3c (r : Reg) (v : Nat) (s : State) : (s.keep r v).i3c = s.i3c := rfl
@[simp] theorem State.keep_fingerprint (r : Reg) (v : Nat) (s : State) : (s.keep r v).fingerprint = s.fingerprint := rfl
@[simp] theorem State.keep_ptns (r : Reg) (v : Nat) (s : State) : (s.keep r v).ptns = s.ptns := rfl
@[simp] theorem State.keep_ptnGen (r : Reg) (v : Nat) (s : State) : (s.keep r v).ptnGen = s.ptnGen := rfl
@[simp] theorem State.keep_host (r : Reg) (v : Nat) (s : State) : (s.keep r v).host = s.host := rfl
@[simp] theorem State.keep_trust (r : Reg) (v : Nat) (s : State) : (s.keep r v).trust = s.trust := rfl
@[simp] theorem State.keep_store (r : Reg) (v : Nat) (s : State) : (s.keep r v).store = s.store := rfl
@[simp] theorem State.keep_hbm (r : Reg) (v : Nat) (s : State) : (s.keep r v).hbm = s.hbm := rfl
@[simp] theorem State.keep_flash (r : Reg) (v : Nat) (s : State) : (s.keep r v).flash = s.flash := rfl
@[simp] theorem State.keep_staging (r : Reg) (v : Nat) (s : State) : (s.keep r v).staging = s.staging := rfl
@[simp] theorem State.keep_eng (r : Reg) (v : Nat) (s : State) : (s.keep r v).eng = s.eng := rfl
@[simp] theorem State.keep_slots (r : Reg) (v : Nat) (s : State) : (s.keep r v).slots = s.slots := rfl
@[simp] theorem State.keep_rcl (r : Reg) (v : Nat) (s : State) : (s.keep r v).rcl = s.rcl := rfl
@[simp] theorem State.keep_cmds (r : Reg) (v : Nat) (s : State) : (s.keep r v).cmds = s.cmds := rfl
@[simp] theorem State.keep_map (r : Reg) (v : Nat) (s : State) : (s.keep r v).map = s.map := rfl
@[simp] theorem State.keep_fab (r : Reg) (v : Nat) (s : State) : (s.keep r v).fab = s.fab := rfl
@[simp] theorem State.keep_out (r : Reg) (v : Nat) (s : State) : (s.keep r v).out = s.out := rfl
@[simp] theorem State.keep_freeCtr (r : Reg) (v : Nat) (s : State) : (s.keep r v).freeCtr = s.freeCtr := rfl
@[simp] theorem State.keep_pending (r : Reg) (v : Nat) (s : State) : (s.keep r v).pending = s.pending := rfl

/-! ### `State.setRf` -/

@[simp] theorem State.setRf_pow (r : Reg) (lo w v : Nat) (s : State) : (s.setRf r lo w v).pow = s.pow := rfl
@[simp] theorem State.setRf_boot (r : Reg) (lo w v : Nat) (s : State) : (s.setRf r lo w v).boot = s.boot := rfl
@[simp] theorem State.setRf_log (r : Reg) (lo w v : Nat) (s : State) : (s.setRf r lo w v).log = s.log := rfl
@[simp] theorem State.setRf_tel (r : Reg) (lo w v : Nat) (s : State) : (s.setRf r lo w v).tel = s.tel := rfl
@[simp] theorem State.setRf_i3c (r : Reg) (lo w v : Nat) (s : State) : (s.setRf r lo w v).i3c = s.i3c := rfl
@[simp] theorem State.setRf_fingerprint (r : Reg) (lo w v : Nat) (s : State) : (s.setRf r lo w v).fingerprint = s.fingerprint := rfl
@[simp] theorem State.setRf_ptns (r : Reg) (lo w v : Nat) (s : State) : (s.setRf r lo w v).ptns = s.ptns := rfl
@[simp] theorem State.setRf_ptnGen (r : Reg) (lo w v : Nat) (s : State) : (s.setRf r lo w v).ptnGen = s.ptnGen := rfl
@[simp] theorem State.setRf_host (r : Reg) (lo w v : Nat) (s : State) : (s.setRf r lo w v).host = s.host := rfl
@[simp] theorem State.setRf_trust (r : Reg) (lo w v : Nat) (s : State) : (s.setRf r lo w v).trust = s.trust := rfl
@[simp] theorem State.setRf_store (r : Reg) (lo w v : Nat) (s : State) : (s.setRf r lo w v).store = s.store := rfl
@[simp] theorem State.setRf_hbm (r : Reg) (lo w v : Nat) (s : State) : (s.setRf r lo w v).hbm = s.hbm := rfl
@[simp] theorem State.setRf_flash (r : Reg) (lo w v : Nat) (s : State) : (s.setRf r lo w v).flash = s.flash := rfl
@[simp] theorem State.setRf_staging (r : Reg) (lo w v : Nat) (s : State) : (s.setRf r lo w v).staging = s.staging := rfl
@[simp] theorem State.setRf_eng (r : Reg) (lo w v : Nat) (s : State) : (s.setRf r lo w v).eng = s.eng := rfl
@[simp] theorem State.setRf_slots (r : Reg) (lo w v : Nat) (s : State) : (s.setRf r lo w v).slots = s.slots := rfl
@[simp] theorem State.setRf_rcl (r : Reg) (lo w v : Nat) (s : State) : (s.setRf r lo w v).rcl = s.rcl := rfl
@[simp] theorem State.setRf_cmds (r : Reg) (lo w v : Nat) (s : State) : (s.setRf r lo w v).cmds = s.cmds := rfl
@[simp] theorem State.setRf_map (r : Reg) (lo w v : Nat) (s : State) : (s.setRf r lo w v).map = s.map := rfl
@[simp] theorem State.setRf_fab (r : Reg) (lo w v : Nat) (s : State) : (s.setRf r lo w v).fab = s.fab := rfl
@[simp] theorem State.setRf_out (r : Reg) (lo w v : Nat) (s : State) : (s.setRf r lo w v).out = s.out := rfl
@[simp] theorem State.setRf_freeCtr (r : Reg) (lo w v : Nat) (s : State) : (s.setRf r lo w v).freeCtr = s.freeCtr := rfl
@[simp] theorem State.setRf_pending (r : Reg) (lo w v : Nat) (s : State) : (s.setRf r lo w v).pending = s.pending := rfl

/-! ### `State.putRec` -/

@[simp] theorem State.putRec_pow (c : Rec) (reg mask : Nat) (s : State) : (s.putRec c reg mask).pow = s.pow := rfl
@[simp] theorem State.putRec_boot (c : Rec) (reg mask : Nat) (s : State) : (s.putRec c reg mask).boot = s.boot := rfl
@[simp] theorem State.putRec_regs (c : Rec) (reg mask : Nat) (s : State) : (s.putRec c reg mask).regs = s.regs := rfl
@[simp] theorem State.putRec_tel (c : Rec) (reg mask : Nat) (s : State) : (s.putRec c reg mask).tel = s.tel := rfl
@[simp] theorem State.putRec_i3c (c : Rec) (reg mask : Nat) (s : State) : (s.putRec c reg mask).i3c = s.i3c := rfl
@[simp] theorem State.putRec_fingerprint (c : Rec) (reg mask : Nat) (s : State) : (s.putRec c reg mask).fingerprint = s.fingerprint := rfl
@[simp] theorem State.putRec_ptns (c : Rec) (reg mask : Nat) (s : State) : (s.putRec c reg mask).ptns = s.ptns := rfl
@[simp] theorem State.putRec_ptnGen (c : Rec) (reg mask : Nat) (s : State) : (s.putRec c reg mask).ptnGen = s.ptnGen := rfl
@[simp] theorem State.putRec_host (c : Rec) (reg mask : Nat) (s : State) : (s.putRec c reg mask).host = s.host := rfl
@[simp] theorem State.putRec_trust (c : Rec) (reg mask : Nat) (s : State) : (s.putRec c reg mask).trust = s.trust := rfl
@[simp] theorem State.putRec_store (c : Rec) (reg mask : Nat) (s : State) : (s.putRec c reg mask).store = s.store := rfl
@[simp] theorem State.putRec_hbm (c : Rec) (reg mask : Nat) (s : State) : (s.putRec c reg mask).hbm = s.hbm := rfl
@[simp] theorem State.putRec_flash (c : Rec) (reg mask : Nat) (s : State) : (s.putRec c reg mask).flash = s.flash := rfl
@[simp] theorem State.putRec_staging (c : Rec) (reg mask : Nat) (s : State) : (s.putRec c reg mask).staging = s.staging := rfl
@[simp] theorem State.putRec_eng (c : Rec) (reg mask : Nat) (s : State) : (s.putRec c reg mask).eng = s.eng := rfl
@[simp] theorem State.putRec_slots (c : Rec) (reg mask : Nat) (s : State) : (s.putRec c reg mask).slots = s.slots := rfl
@[simp] theorem State.putRec_rcl (c : Rec) (reg mask : Nat) (s : State) : (s.putRec c reg mask).rcl = s.rcl := rfl
@[simp] theorem State.putRec_cmds (c : Rec) (reg mask : Nat) (s : State) : (s.putRec c reg mask).cmds = s.cmds := rfl
@[simp] theorem State.putRec_map (c : Rec) (reg mask : Nat) (s : State) : (s.putRec c reg mask).map = s.map := rfl
@[simp] theorem State.putRec_fab (c : Rec) (reg mask : Nat) (s : State) : (s.putRec c reg mask).fab = s.fab := rfl
@[simp] theorem State.putRec_out (c : Rec) (reg mask : Nat) (s : State) : (s.putRec c reg mask).out = s.out := rfl
@[simp] theorem State.putRec_freeCtr (c : Rec) (reg mask : Nat) (s : State) : (s.putRec c reg mask).freeCtr = s.freeCtr := rfl
@[simp] theorem State.putRec_pending (c : Rec) (reg mask : Nat) (s : State) : (s.putRec c reg mask).pending = s.pending := rfl

/-! ### `State.ibiCheck` -/

@[simp] theorem State.ibiCheck_pow (s : State) : (s.ibiCheck).pow = s.pow := by unfold State.ibiCheck; repeat (first | rfl | split)
@[simp] theorem State.ibiCheck_boot (s : State) : (s.ibiCheck).boot = s.boot := by unfold State.ibiCheck; repeat (first | rfl | split)
@[simp] theorem State.ibiCheck_regs (s : State) : (s.ibiCheck).regs = s.regs := by unfold State.ibiCheck; repeat (first | rfl | split)
@[simp] theorem State.ibiCheck_log (s : State) : (s.ibiCheck).log = s.log := by unfold State.ibiCheck; repeat (first | rfl | split)
@[simp] theorem State.ibiCheck_tel (s : State) : (s.ibiCheck).tel = s.tel := by unfold State.ibiCheck; repeat (first | rfl | split)
@[simp] theorem State.ibiCheck_fingerprint (s : State) : (s.ibiCheck).fingerprint = s.fingerprint := by unfold State.ibiCheck; repeat (first | rfl | split)
@[simp] theorem State.ibiCheck_ptns (s : State) : (s.ibiCheck).ptns = s.ptns := by unfold State.ibiCheck; repeat (first | rfl | split)
@[simp] theorem State.ibiCheck_ptnGen (s : State) : (s.ibiCheck).ptnGen = s.ptnGen := by unfold State.ibiCheck; repeat (first | rfl | split)
@[simp] theorem State.ibiCheck_host (s : State) : (s.ibiCheck).host = s.host := by unfold State.ibiCheck; repeat (first | rfl | split)
@[simp] theorem State.ibiCheck_trust (s : State) : (s.ibiCheck).trust = s.trust := by unfold State.ibiCheck; repeat (first | rfl | split)
@[simp] theorem State.ibiCheck_store (s : State) : (s.ibiCheck).store = s.store := by unfold State.ibiCheck; repeat (first | rfl | split)
@[simp] theorem State.ibiCheck_hbm (s : State) : (s.ibiCheck).hbm = s.hbm := by unfold State.ibiCheck; repeat (first | rfl | split)
@[simp] theorem State.ibiCheck_flash (s : State) : (s.ibiCheck).flash = s.flash := by unfold State.ibiCheck; repeat (first | rfl | split)
@[simp] theorem State.ibiCheck_staging (s : State) : (s.ibiCheck).staging = s.staging := by unfold State.ibiCheck; repeat (first | rfl | split)
@[simp] theorem State.ibiCheck_eng (s : State) : (s.ibiCheck).eng = s.eng := by unfold State.ibiCheck; repeat (first | rfl | split)
@[simp] theorem State.ibiCheck_slots (s : State) : (s.ibiCheck).slots = s.slots := by unfold State.ibiCheck; repeat (first | rfl | split)
@[simp] theorem State.ibiCheck_rcl (s : State) : (s.ibiCheck).rcl = s.rcl := by unfold State.ibiCheck; repeat (first | rfl | split)
@[simp] theorem State.ibiCheck_cmds (s : State) : (s.ibiCheck).cmds = s.cmds := by unfold State.ibiCheck; repeat (first | rfl | split)
@[simp] theorem State.ibiCheck_map (s : State) : (s.ibiCheck).map = s.map := by unfold State.ibiCheck; repeat (first | rfl | split)
@[simp] theorem State.ibiCheck_fab (s : State) : (s.ibiCheck).fab = s.fab := by unfold State.ibiCheck; repeat (first | rfl | split)
@[simp] theorem State.ibiCheck_freeCtr (s : State) : (s.ibiCheck).freeCtr = s.freeCtr := by unfold State.ibiCheck; repeat (first | rfl | split)
@[simp] theorem State.ibiCheck_pending (s : State) : (s.ibiCheck).pending = s.pending := by unfold State.ibiCheck; repeat (first | rfl | split)

/-! ### `State.logRec` -/

@[simp] theorem State.logRec_pow (c : Rec) (reg mask : Nat) (s : State) : (s.logRec c reg mask).pow = s.pow := by unfold State.logRec; dsimp only; split <;> simp
@[simp] theorem State.logRec_boot (c : Rec) (reg mask : Nat) (s : State) : (s.logRec c reg mask).boot = s.boot := by unfold State.logRec; dsimp only; split <;> simp
@[simp] theorem State.logRec_tel (c : Rec) (reg mask : Nat) (s : State) : (s.logRec c reg mask).tel = s.tel := by unfold State.logRec; dsimp only; split <;> simp
@[simp] theorem State.logRec_fingerprint (c : Rec) (reg mask : Nat) (s : State) : (s.logRec c reg mask).fingerprint = s.fingerprint := by unfold State.logRec; dsimp only; split <;> simp
@[simp] theorem State.logRec_ptns (c : Rec) (reg mask : Nat) (s : State) : (s.logRec c reg mask).ptns = s.ptns := by unfold State.logRec; dsimp only; split <;> simp
@[simp] theorem State.logRec_ptnGen (c : Rec) (reg mask : Nat) (s : State) : (s.logRec c reg mask).ptnGen = s.ptnGen := by unfold State.logRec; dsimp only; split <;> simp
@[simp] theorem State.logRec_host (c : Rec) (reg mask : Nat) (s : State) : (s.logRec c reg mask).host = s.host := by unfold State.logRec; dsimp only; split <;> simp
@[simp] theorem State.logRec_trust (c : Rec) (reg mask : Nat) (s : State) : (s.logRec c reg mask).trust = s.trust := by unfold State.logRec; dsimp only; split <;> simp
@[simp] theorem State.logRec_store (c : Rec) (reg mask : Nat) (s : State) : (s.logRec c reg mask).store = s.store := by unfold State.logRec; dsimp only; split <;> simp
@[simp] theorem State.logRec_hbm (c : Rec) (reg mask : Nat) (s : State) : (s.logRec c reg mask).hbm = s.hbm := by unfold State.logRec; dsimp only; split <;> simp
@[simp] theorem State.logRec_flash (c : Rec) (reg mask : Nat) (s : State) : (s.logRec c reg mask).flash = s.flash := by unfold State.logRec; dsimp only; split <;> simp
@[simp] theorem State.logRec_staging (c : Rec) (reg mask : Nat) (s : State) : (s.logRec c reg mask).staging = s.staging := by unfold State.logRec; dsimp only; split <;> simp
@[simp] theorem State.logRec_eng (c : Rec) (reg mask : Nat) (s : State) : (s.logRec c reg mask).eng = s.eng := by unfold State.logRec; dsimp only; split <;> simp
@[simp] theorem State.logRec_slots (c : Rec) (reg mask : Nat) (s : State) : (s.logRec c reg mask).slots = s.slots := by unfold State.logRec; dsimp only; split <;> simp
@[simp] theorem State.logRec_rcl (c : Rec) (reg mask : Nat) (s : State) : (s.logRec c reg mask).rcl = s.rcl := by unfold State.logRec; dsimp only; split <;> simp
@[simp] theorem State.logRec_cmds (c : Rec) (reg mask : Nat) (s : State) : (s.logRec c reg mask).cmds = s.cmds := by unfold State.logRec; dsimp only; split <;> simp
@[simp] theorem State.logRec_map (c : Rec) (reg mask : Nat) (s : State) : (s.logRec c reg mask).map = s.map := by unfold State.logRec; dsimp only; split <;> simp
@[simp] theorem State.logRec_fab (c : Rec) (reg mask : Nat) (s : State) : (s.logRec c reg mask).fab = s.fab := by unfold State.logRec; dsimp only; split <;> simp
@[simp] theorem State.logRec_freeCtr (c : Rec) (reg mask : Nat) (s : State) : (s.logRec c reg mask).freeCtr = s.freeCtr := by unfold State.logRec; dsimp only; split <;> simp
@[simp] theorem State.logRec_pending (c : Rec) (reg mask : Nat) (s : State) : (s.logRec c reg mask).pending = s.pending := by unfold State.logRec; dsimp only; split <;> simp

/-! ### `State.note` -/

@[simp] theorem State.note_pow (c : Rec) (s : State) : (s.note c).pow = s.pow := by simp [State.note]
@[simp] theorem State.note_boot (c : Rec) (s : State) : (s.note c).boot = s.boot := by simp [State.note]
@[simp] theorem State.note_tel (c : Rec) (s : State) : (s.note c).tel = s.tel := by simp [State.note]
@[simp] theorem State.note_fingerprint (c : Rec) (s : State) : (s.note c).fingerprint = s.fingerprint := by simp [State.note]
@[simp] theorem State.note_ptns (c : Rec) (s : State) : (s.note c).ptns = s.ptns := by simp [State.note]
@[simp] theorem State.note_ptnGen (c : Rec) (s : State) : (s.note c).ptnGen = s.ptnGen := by simp [State.note]
@[simp] theorem State.note_host (c : Rec) (s : State) : (s.note c).host = s.host := by simp [State.note]
@[simp] theorem State.note_trust (c : Rec) (s : State) : (s.note c).trust = s.trust := by simp [State.note]
@[simp] theorem State.note_store (c : Rec) (s : State) : (s.note c).store = s.store := by simp [State.note]
@[simp] theorem State.note_hbm (c : Rec) (s : State) : (s.note c).hbm = s.hbm := by simp [State.note]
@[simp] theorem State.note_flash (c : Rec) (s : State) : (s.note c).flash = s.flash := by simp [State.note]
@[simp] theorem State.note_staging (c : Rec) (s : State) : (s.note c).staging = s.staging := by simp [State.note]
@[simp] theorem State.note_eng (c : Rec) (s : State) : (s.note c).eng = s.eng := by simp [State.note]
@[simp] theorem State.note_slots (c : Rec) (s : State) : (s.note c).slots = s.slots := by simp [State.note]
@[simp] theorem State.note_rcl (c : Rec) (s : State) : (s.note c).rcl = s.rcl := by simp [State.note]
@[simp] theorem State.note_cmds (c : Rec) (s : State) : (s.note c).cmds = s.cmds := by simp [State.note]
@[simp] theorem State.note_map (c : Rec) (s : State) : (s.note c).map = s.map := by simp [State.note]
@[simp] theorem State.note_fab (c : Rec) (s : State) : (s.note c).fab = s.fab := by simp [State.note]
@[simp] theorem State.note_freeCtr (c : Rec) (s : State) : (s.note c).freeCtr = s.freeCtr := by simp [State.note]
@[simp] theorem State.note_pending (c : Rec) (s : State) : (s.note c).pending = s.pending := by simp [State.note]

/-! ### `State.raise` -/

@[simp] theorem State.raise_pow (r : Reg) (k : Nat) (c : Rec) (s : State) : (s.raise r k c).pow = s.pow := by simp [State.raise]
@[simp] theorem State.raise_boot (r : Reg) (k : Nat) (c : Rec) (s : State) : (s.raise r k c).boot = s.boot := by simp [State.raise]
@[simp] theorem State.raise_tel (r : Reg) (k : Nat) (c : Rec) (s : State) : (s.raise r k c).tel = s.tel := by simp [State.raise]
@[simp] theorem State.raise_fingerprint (r : Reg) (k : Nat) (c : Rec) (s : State) : (s.raise r k c).fingerprint = s.fingerprint := by simp [State.raise]
@[simp] theorem State.raise_ptns (r : Reg) (k : Nat) (c : Rec) (s : State) : (s.raise r k c).ptns = s.ptns := by simp [State.raise]
@[simp] theorem State.raise_ptnGen (r : Reg) (k : Nat) (c : Rec) (s : State) : (s.raise r k c).ptnGen = s.ptnGen := by simp [State.raise]
@[simp] theorem State.raise_host (r : Reg) (k : Nat) (c : Rec) (s : State) : (s.raise r k c).host = s.host := by simp [State.raise]
@[simp] theorem State.raise_trust (r : Reg) (k : Nat) (c : Rec) (s : State) : (s.raise r k c).trust = s.trust := by simp [State.raise]
@[simp] theorem State.raise_store (r : Reg) (k : Nat) (c : Rec) (s : State) : (s.raise r k c).store = s.store := by simp [State.raise]
@[simp] theorem State.raise_hbm (r : Reg) (k : Nat) (c : Rec) (s : State) : (s.raise r k c).hbm = s.hbm := by simp [State.raise]
@[simp] theorem State.raise_flash (r : Reg) (k : Nat) (c : Rec) (s : State) : (s.raise r k c).flash = s.flash := by simp [State.raise]
@[simp] theorem State.raise_staging (r : Reg) (k : Nat) (c : Rec) (s : State) : (s.raise r k c).staging = s.staging := by simp [State.raise]
@[simp] theorem State.raise_eng (r : Reg) (k : Nat) (c : Rec) (s : State) : (s.raise r k c).eng = s.eng := by simp [State.raise]
@[simp] theorem State.raise_slots (r : Reg) (k : Nat) (c : Rec) (s : State) : (s.raise r k c).slots = s.slots := by simp [State.raise]
@[simp] theorem State.raise_rcl (r : Reg) (k : Nat) (c : Rec) (s : State) : (s.raise r k c).rcl = s.rcl := by simp [State.raise]
@[simp] theorem State.raise_cmds (r : Reg) (k : Nat) (c : Rec) (s : State) : (s.raise r k c).cmds = s.cmds := by simp [State.raise]
@[simp] theorem State.raise_map (r : Reg) (k : Nat) (c : Rec) (s : State) : (s.raise r k c).map = s.map := by simp [State.raise]
@[simp] theorem State.raise_fab (r : Reg) (k : Nat) (c : Rec) (s : State) : (s.raise r k c).fab = s.fab := by simp [State.raise]
@[simp] theorem State.raise_freeCtr (r : Reg) (k : Nat) (c : Rec) (s : State) : (s.raise r k c).freeCtr = s.freeCtr := by simp [State.raise]
@[simp] theorem State.raise_pending (r : Reg) (k : Nat) (c : Rec) (s : State) : (s.raise r k c).pending = s.pending := by simp [State.raise]

/-! ### `State.powRaise` -/

@[simp] theorem State.powRaise_pow (b c e : Nat) (d : List Byte) (s : State) : (s.powRaise b c e d).pow = s.pow := by simp [State.powRaise]
@[simp] theorem State.powRaise_boot (b c e : Nat) (d : List Byte) (s : State) : (s.powRaise b c e d).boot = s.boot := by simp [State.powRaise]
@[simp] theorem State.powRaise_tel (b c e : Nat) (d : List Byte) (s : State) : (s.powRaise b c e d).tel = s.tel := by simp [State.powRaise]
@[simp] theorem State.powRaise_fingerprint (b c e : Nat) (d : List Byte) (s : State) : (s.powRaise b c e d).fingerprint = s.fingerprint := by simp [State.powRaise]
@[simp] theorem State.powRaise_ptns (b c e : Nat) (d : List Byte) (s : State) : (s.powRaise b c e d).ptns = s.ptns := by simp [State.powRaise]
@[simp] theorem State.powRaise_ptnGen (b c e : Nat) (d : List Byte) (s : State) : (s.powRaise b c e d).ptnGen = s.ptnGen := by simp [State.powRaise]
@[simp] theorem State.powRaise_host (b c e : Nat) (d : List Byte) (s : State) : (s.powRaise b c e d).host = s.host := by simp [State.powRaise]
@[simp] theorem State.powRaise_trust (b c e : Nat) (d : List Byte) (s : State) : (s.powRaise b c e d).trust = s.trust := by simp [State.powRaise]
@[simp] theorem State.powRaise_store (b c e : Nat) (d : List Byte) (s : State) : (s.powRaise b c e d).store = s.store := by simp [State.powRaise]
@[simp] theorem State.powRaise_hbm (b c e : Nat) (d : List Byte) (s : State) : (s.powRaise b c e d).hbm = s.hbm := by simp [State.powRaise]
@[simp] theorem State.powRaise_flash (b c e : Nat) (d : List Byte) (s : State) : (s.powRaise b c e d).flash = s.flash := by simp [State.powRaise]
@[simp] theorem State.powRaise_staging (b c e : Nat) (d : List Byte) (s : State) : (s.powRaise b c e d).staging = s.staging := by simp [State.powRaise]
@[simp] theorem State.powRaise_eng (b c e : Nat) (d : List Byte) (s : State) : (s.powRaise b c e d).eng = s.eng := by simp [State.powRaise]
@[simp] theorem State.powRaise_slots (b c e : Nat) (d : List Byte) (s : State) : (s.powRaise b c e d).slots = s.slots := by simp [State.powRaise]
@[simp] theorem State.powRaise_rcl (b c e : Nat) (d : List Byte) (s : State) : (s.powRaise b c e d).rcl = s.rcl := by simp [State.powRaise]
@[simp] theorem State.powRaise_cmds (b c e : Nat) (d : List Byte) (s : State) : (s.powRaise b c e d).cmds = s.cmds := by simp [State.powRaise]
@[simp] theorem State.powRaise_map (b c e : Nat) (d : List Byte) (s : State) : (s.powRaise b c e d).map = s.map := by simp [State.powRaise]
@[simp] theorem State.powRaise_fab (b c e : Nat) (d : List Byte) (s : State) : (s.powRaise b c e d).fab = s.fab := by simp [State.powRaise]
@[simp] theorem State.powRaise_freeCtr (b c e : Nat) (d : List Byte) (s : State) : (s.powRaise b c e d).freeCtr = s.freeCtr := by simp [State.powRaise]
@[simp] theorem State.powRaise_pending (b c e : Nat) (d : List Byte) (s : State) : (s.powRaise b c e d).pending = s.pending := by simp [State.powRaise]

/-! ### `State.linkRaise` -/

@[simp] theorem State.linkRaise_pow (n b c e : Nat) (d : List Byte) (s : State) : (s.linkRaise n b c e d).pow = s.pow := by simp [State.linkRaise]
@[simp] theorem State.linkRaise_boot (n b c e : Nat) (d : List Byte) (s : State) : (s.linkRaise n b c e d).boot = s.boot := by simp [State.linkRaise]
@[simp] theorem State.linkRaise_tel (n b c e : Nat) (d : List Byte) (s : State) : (s.linkRaise n b c e d).tel = s.tel := by simp [State.linkRaise]
@[simp] theorem State.linkRaise_fingerprint (n b c e : Nat) (d : List Byte) (s : State) : (s.linkRaise n b c e d).fingerprint = s.fingerprint := by simp [State.linkRaise]
@[simp] theorem State.linkRaise_ptns (n b c e : Nat) (d : List Byte) (s : State) : (s.linkRaise n b c e d).ptns = s.ptns := by simp [State.linkRaise]
@[simp] theorem State.linkRaise_ptnGen (n b c e : Nat) (d : List Byte) (s : State) : (s.linkRaise n b c e d).ptnGen = s.ptnGen := by simp [State.linkRaise]
@[simp] theorem State.linkRaise_host (n b c e : Nat) (d : List Byte) (s : State) : (s.linkRaise n b c e d).host = s.host := by simp [State.linkRaise]
@[simp] theorem State.linkRaise_trust (n b c e : Nat) (d : List Byte) (s : State) : (s.linkRaise n b c e d).trust = s.trust := by simp [State.linkRaise]
@[simp] theorem State.linkRaise_store (n b c e : Nat) (d : List Byte) (s : State) : (s.linkRaise n b c e d).store = s.store := by simp [State.linkRaise]
@[simp] theorem State.linkRaise_hbm (n b c e : Nat) (d : List Byte) (s : State) : (s.linkRaise n b c e d).hbm = s.hbm := by simp [State.linkRaise]
@[simp] theorem State.linkRaise_flash (n b c e : Nat) (d : List Byte) (s : State) : (s.linkRaise n b c e d).flash = s.flash := by simp [State.linkRaise]
@[simp] theorem State.linkRaise_staging (n b c e : Nat) (d : List Byte) (s : State) : (s.linkRaise n b c e d).staging = s.staging := by simp [State.linkRaise]
@[simp] theorem State.linkRaise_eng (n b c e : Nat) (d : List Byte) (s : State) : (s.linkRaise n b c e d).eng = s.eng := by simp [State.linkRaise]
@[simp] theorem State.linkRaise_slots (n b c e : Nat) (d : List Byte) (s : State) : (s.linkRaise n b c e d).slots = s.slots := by simp [State.linkRaise]
@[simp] theorem State.linkRaise_rcl (n b c e : Nat) (d : List Byte) (s : State) : (s.linkRaise n b c e d).rcl = s.rcl := by simp [State.linkRaise]
@[simp] theorem State.linkRaise_cmds (n b c e : Nat) (d : List Byte) (s : State) : (s.linkRaise n b c e d).cmds = s.cmds := by simp [State.linkRaise]
@[simp] theorem State.linkRaise_map (n b c e : Nat) (d : List Byte) (s : State) : (s.linkRaise n b c e d).map = s.map := by simp [State.linkRaise]
@[simp] theorem State.linkRaise_fab (n b c e : Nat) (d : List Byte) (s : State) : (s.linkRaise n b c e d).fab = s.fab := by simp [State.linkRaise]
@[simp] theorem State.linkRaise_freeCtr (n b c e : Nat) (d : List Byte) (s : State) : (s.linkRaise n b c e d).freeCtr = s.freeCtr := by simp [State.linkRaise]
@[simp] theorem State.linkRaise_pending (n b c e : Nat) (d : List Byte) (s : State) : (s.linkRaise n b c e d).pending = s.pending := by simp [State.linkRaise]

/-! ### `State.count` -/

@[simp] theorem State.count_pow (g scope i n : Nat) (s : State) : (State.count g scope i n s).pow = s.pow := rfl
@[simp] theorem State.count_boot (g scope i n : Nat) (s : State) : (State.count g scope i n s).boot = s.boot := rfl
@[simp] theorem State.count_regs (g scope i n : Nat) (s : State) : (State.count g scope i n s).regs = s.regs := rfl
@[simp] theorem State.count_log (g scope i n : Nat) (s : State) : (State.count g scope i n s).log = s.log := rfl
@[simp] theorem State.count_i3c (g scope i n : Nat) (s : State) : (State.count g scope i n s).i3c = s.i3c := rfl
@[simp] theorem State.count_fingerprint (g scope i n : Nat) (s : State) : (State.count g scope i n s).fingerprint = s.fingerprint := rfl
@[simp] theorem State.count_ptns (g scope i n : Nat) (s : State) : (State.count g scope i n s).ptns = s.ptns := rfl
@[simp] theorem State.count_ptnGen (g scope i n : Nat) (s : State) : (State.count g scope i n s).ptnGen = s.ptnGen := rfl
@[simp] theorem State.count_host (g scope i n : Nat) (s : State) : (State.count g scope i n s).host = s.host := rfl
@[simp] theorem State.count_trust (g scope i n : Nat) (s : State) : (State.count g scope i n s).trust = s.trust := rfl
@[simp] theorem State.count_store (g scope i n : Nat) (s : State) : (State.count g scope i n s).store = s.store := rfl
@[simp] theorem State.count_hbm (g scope i n : Nat) (s : State) : (State.count g scope i n s).hbm = s.hbm := rfl
@[simp] theorem State.count_flash (g scope i n : Nat) (s : State) : (State.count g scope i n s).flash = s.flash := rfl
@[simp] theorem State.count_staging (g scope i n : Nat) (s : State) : (State.count g scope i n s).staging = s.staging := rfl
@[simp] theorem State.count_eng (g scope i n : Nat) (s : State) : (State.count g scope i n s).eng = s.eng := rfl
@[simp] theorem State.count_slots (g scope i n : Nat) (s : State) : (State.count g scope i n s).slots = s.slots := rfl
@[simp] theorem State.count_rcl (g scope i n : Nat) (s : State) : (State.count g scope i n s).rcl = s.rcl := rfl
@[simp] theorem State.count_cmds (g scope i n : Nat) (s : State) : (State.count g scope i n s).cmds = s.cmds := rfl
@[simp] theorem State.count_map (g scope i n : Nat) (s : State) : (State.count g scope i n s).map = s.map := rfl
@[simp] theorem State.count_fab (g scope i n : Nat) (s : State) : (State.count g scope i n s).fab = s.fab := rfl
@[simp] theorem State.count_out (g scope i n : Nat) (s : State) : (State.count g scope i n s).out = s.out := rfl
@[simp] theorem State.count_freeCtr (g scope i n : Nat) (s : State) : (State.count g scope i n s).freeCtr = s.freeCtr := rfl
@[simp] theorem State.count_pending (g scope i n : Nat) (s : State) : (State.count g scope i n s).pending = s.pending := rfl

/-! ### `State.countPtn` -/

@[simp] theorem State.countPtn_pow (p g i n : Nat) (s : State) : (State.countPtn p g i s n).pow = s.pow := by unfold State.countPtn; split <;> rfl
@[simp] theorem State.countPtn_boot (p g i n : Nat) (s : State) : (State.countPtn p g i s n).boot = s.boot := by unfold State.countPtn; split <;> rfl
@[simp] theorem State.countPtn_regs (p g i n : Nat) (s : State) : (State.countPtn p g i s n).regs = s.regs := by unfold State.countPtn; split <;> rfl
@[simp] theorem State.countPtn_log (p g i n : Nat) (s : State) : (State.countPtn p g i s n).log = s.log := by unfold State.countPtn; split <;> rfl
@[simp] theorem State.countPtn_i3c (p g i n : Nat) (s : State) : (State.countPtn p g i s n).i3c = s.i3c := by unfold State.countPtn; split <;> rfl
@[simp] theorem State.countPtn_fingerprint (p g i n : Nat) (s : State) : (State.countPtn p g i s n).fingerprint = s.fingerprint := by unfold State.countPtn; split <;> rfl
@[simp] theorem State.countPtn_ptns (p g i n : Nat) (s : State) : (State.countPtn p g i s n).ptns = s.ptns := by unfold State.countPtn; split <;> rfl
@[simp] theorem State.countPtn_ptnGen (p g i n : Nat) (s : State) : (State.countPtn p g i s n).ptnGen = s.ptnGen := by unfold State.countPtn; split <;> rfl
@[simp] theorem State.countPtn_host (p g i n : Nat) (s : State) : (State.countPtn p g i s n).host = s.host := by unfold State.countPtn; split <;> rfl
@[simp] theorem State.countPtn_trust (p g i n : Nat) (s : State) : (State.countPtn p g i s n).trust = s.trust := by unfold State.countPtn; split <;> rfl
@[simp] theorem State.countPtn_store (p g i n : Nat) (s : State) : (State.countPtn p g i s n).store = s.store := by unfold State.countPtn; split <;> rfl
@[simp] theorem State.countPtn_hbm (p g i n : Nat) (s : State) : (State.countPtn p g i s n).hbm = s.hbm := by unfold State.countPtn; split <;> rfl
@[simp] theorem State.countPtn_flash (p g i n : Nat) (s : State) : (State.countPtn p g i s n).flash = s.flash := by unfold State.countPtn; split <;> rfl
@[simp] theorem State.countPtn_staging (p g i n : Nat) (s : State) : (State.countPtn p g i s n).staging = s.staging := by unfold State.countPtn; split <;> rfl
@[simp] theorem State.countPtn_eng (p g i n : Nat) (s : State) : (State.countPtn p g i s n).eng = s.eng := by unfold State.countPtn; split <;> rfl
@[simp] theorem State.countPtn_slots (p g i n : Nat) (s : State) : (State.countPtn p g i s n).slots = s.slots := by unfold State.countPtn; split <;> rfl
@[simp] theorem State.countPtn_rcl (p g i n : Nat) (s : State) : (State.countPtn p g i s n).rcl = s.rcl := by unfold State.countPtn; split <;> rfl
@[simp] theorem State.countPtn_cmds (p g i n : Nat) (s : State) : (State.countPtn p g i s n).cmds = s.cmds := by unfold State.countPtn; split <;> rfl
@[simp] theorem State.countPtn_map (p g i n : Nat) (s : State) : (State.countPtn p g i s n).map = s.map := by unfold State.countPtn; split <;> rfl
@[simp] theorem State.countPtn_fab (p g i n : Nat) (s : State) : (State.countPtn p g i s n).fab = s.fab := by unfold State.countPtn; split <;> rfl
@[simp] theorem State.countPtn_out (p g i n : Nat) (s : State) : (State.countPtn p g i s n).out = s.out := by unfold State.countPtn; split <;> rfl
@[simp] theorem State.countPtn_freeCtr (p g i n : Nat) (s : State) : (State.countPtn p g i s n).freeCtr = s.freeCtr := by unfold State.countPtn; split <;> rfl
@[simp] theorem State.countPtn_pending (p g i n : Nat) (s : State) : (State.countPtn p g i s n).pending = s.pending := by unfold State.countPtn; split <;> rfl

/-! ### `State.emit` -/

@[simp] theorem State.emit_pow (o : Output) (s : State) : (s.emit o).pow = s.pow := rfl
@[simp] theorem State.emit_boot (o : Output) (s : State) : (s.emit o).boot = s.boot := rfl
@[simp] theorem State.emit_regs (o : Output) (s : State) : (s.emit o).regs = s.regs := rfl
@[simp] theorem State.emit_log (o : Output) (s : State) : (s.emit o).log = s.log := rfl
@[simp] theorem State.emit_tel (o : Output) (s : State) : (s.emit o).tel = s.tel := rfl
@[simp] theorem State.emit_i3c (o : Output) (s : State) : (s.emit o).i3c = s.i3c := rfl
@[simp] theorem State.emit_fingerprint (o : Output) (s : State) : (s.emit o).fingerprint = s.fingerprint := rfl
@[simp] theorem State.emit_ptns (o : Output) (s : State) : (s.emit o).ptns = s.ptns := rfl
@[simp] theorem State.emit_ptnGen (o : Output) (s : State) : (s.emit o).ptnGen = s.ptnGen := rfl
@[simp] theorem State.emit_host (o : Output) (s : State) : (s.emit o).host = s.host := rfl
@[simp] theorem State.emit_trust (o : Output) (s : State) : (s.emit o).trust = s.trust := rfl
@[simp] theorem State.emit_store (o : Output) (s : State) : (s.emit o).store = s.store := rfl
@[simp] theorem State.emit_hbm (o : Output) (s : State) : (s.emit o).hbm = s.hbm := rfl
@[simp] theorem State.emit_flash (o : Output) (s : State) : (s.emit o).flash = s.flash := rfl
@[simp] theorem State.emit_staging (o : Output) (s : State) : (s.emit o).staging = s.staging := rfl
@[simp] theorem State.emit_eng (o : Output) (s : State) : (s.emit o).eng = s.eng := rfl
@[simp] theorem State.emit_slots (o : Output) (s : State) : (s.emit o).slots = s.slots := rfl
@[simp] theorem State.emit_rcl (o : Output) (s : State) : (s.emit o).rcl = s.rcl := rfl
@[simp] theorem State.emit_cmds (o : Output) (s : State) : (s.emit o).cmds = s.cmds := rfl
@[simp] theorem State.emit_map (o : Output) (s : State) : (s.emit o).map = s.map := rfl
@[simp] theorem State.emit_fab (o : Output) (s : State) : (s.emit o).fab = s.fab := rfl
@[simp] theorem State.emit_freeCtr (o : Output) (s : State) : (s.emit o).freeCtr = s.freeCtr := rfl
@[simp] theorem State.emit_pending (o : Output) (s : State) : (s.emit o).pending = s.pending := rfl

/-! ### `State.drawn` -/

@[simp] theorem State.drawn_pow (s : State) : (s.drawn).pow = s.pow := rfl
@[simp] theorem State.drawn_boot (s : State) : (s.drawn).boot = s.boot := rfl
@[simp] theorem State.drawn_regs (s : State) : (s.drawn).regs = s.regs := rfl
@[simp] theorem State.drawn_log (s : State) : (s.drawn).log = s.log := rfl
@[simp] theorem State.drawn_tel (s : State) : (s.drawn).tel = s.tel := rfl
@[simp] theorem State.drawn_i3c (s : State) : (s.drawn).i3c = s.i3c := rfl
@[simp] theorem State.drawn_fingerprint (s : State) : (s.drawn).fingerprint = s.fingerprint := rfl
@[simp] theorem State.drawn_ptns (s : State) : (s.drawn).ptns = s.ptns := rfl
@[simp] theorem State.drawn_ptnGen (s : State) : (s.drawn).ptnGen = s.ptnGen := rfl
@[simp] theorem State.drawn_host (s : State) : (s.drawn).host = s.host := rfl
@[simp] theorem State.drawn_trust (s : State) : (s.drawn).trust = s.trust := rfl
@[simp] theorem State.drawn_store (s : State) : (s.drawn).store = s.store := rfl
@[simp] theorem State.drawn_hbm (s : State) : (s.drawn).hbm = s.hbm := rfl
@[simp] theorem State.drawn_flash (s : State) : (s.drawn).flash = s.flash := rfl
@[simp] theorem State.drawn_staging (s : State) : (s.drawn).staging = s.staging := rfl
@[simp] theorem State.drawn_eng (s : State) : (s.drawn).eng = s.eng := rfl
@[simp] theorem State.drawn_slots (s : State) : (s.drawn).slots = s.slots := rfl
@[simp] theorem State.drawn_rcl (s : State) : (s.drawn).rcl = s.rcl := rfl
@[simp] theorem State.drawn_cmds (s : State) : (s.drawn).cmds = s.cmds := rfl
@[simp] theorem State.drawn_map (s : State) : (s.drawn).map = s.map := rfl
@[simp] theorem State.drawn_fab (s : State) : (s.drawn).fab = s.fab := rfl
@[simp] theorem State.drawn_out (s : State) : (s.drawn).out = s.out := rfl
@[simp] theorem State.drawn_pending (s : State) : (s.drawn).pending = s.pending := rfl

/-! ### `State.i3cSay` -/

@[simp] theorem State.i3cSay_pow (l : List Byte) (s : State) : (s.i3cSay l).pow = s.pow := by unfold State.i3cSay; split <;> rfl
@[simp] theorem State.i3cSay_boot (l : List Byte) (s : State) : (s.i3cSay l).boot = s.boot := by unfold State.i3cSay; split <;> rfl
@[simp] theorem State.i3cSay_regs (l : List Byte) (s : State) : (s.i3cSay l).regs = s.regs := by unfold State.i3cSay; split <;> rfl
@[simp] theorem State.i3cSay_log (l : List Byte) (s : State) : (s.i3cSay l).log = s.log := by unfold State.i3cSay; split <;> rfl
@[simp] theorem State.i3cSay_tel (l : List Byte) (s : State) : (s.i3cSay l).tel = s.tel := by unfold State.i3cSay; split <;> rfl
@[simp] theorem State.i3cSay_i3c (l : List Byte) (s : State) : (s.i3cSay l).i3c = s.i3c := by unfold State.i3cSay; split <;> rfl
@[simp] theorem State.i3cSay_fingerprint (l : List Byte) (s : State) : (s.i3cSay l).fingerprint = s.fingerprint := by unfold State.i3cSay; split <;> rfl
@[simp] theorem State.i3cSay_ptns (l : List Byte) (s : State) : (s.i3cSay l).ptns = s.ptns := by unfold State.i3cSay; split <;> rfl
@[simp] theorem State.i3cSay_ptnGen (l : List Byte) (s : State) : (s.i3cSay l).ptnGen = s.ptnGen := by unfold State.i3cSay; split <;> rfl
@[simp] theorem State.i3cSay_host (l : List Byte) (s : State) : (s.i3cSay l).host = s.host := by unfold State.i3cSay; split <;> rfl
@[simp] theorem State.i3cSay_trust (l : List Byte) (s : State) : (s.i3cSay l).trust = s.trust := by unfold State.i3cSay; split <;> rfl
@[simp] theorem State.i3cSay_store (l : List Byte) (s : State) : (s.i3cSay l).store = s.store := by unfold State.i3cSay; split <;> rfl
@[simp] theorem State.i3cSay_hbm (l : List Byte) (s : State) : (s.i3cSay l).hbm = s.hbm := by unfold State.i3cSay; split <;> rfl
@[simp] theorem State.i3cSay_flash (l : List Byte) (s : State) : (s.i3cSay l).flash = s.flash := by unfold State.i3cSay; split <;> rfl
@[simp] theorem State.i3cSay_staging (l : List Byte) (s : State) : (s.i3cSay l).staging = s.staging := by unfold State.i3cSay; split <;> rfl
@[simp] theorem State.i3cSay_eng (l : List Byte) (s : State) : (s.i3cSay l).eng = s.eng := by unfold State.i3cSay; split <;> rfl
@[simp] theorem State.i3cSay_slots (l : List Byte) (s : State) : (s.i3cSay l).slots = s.slots := by unfold State.i3cSay; split <;> rfl
@[simp] theorem State.i3cSay_rcl (l : List Byte) (s : State) : (s.i3cSay l).rcl = s.rcl := by unfold State.i3cSay; split <;> rfl
@[simp] theorem State.i3cSay_cmds (l : List Byte) (s : State) : (s.i3cSay l).cmds = s.cmds := by unfold State.i3cSay; split <;> rfl
@[simp] theorem State.i3cSay_map (l : List Byte) (s : State) : (s.i3cSay l).map = s.map := by unfold State.i3cSay; split <;> rfl
@[simp] theorem State.i3cSay_fab (l : List Byte) (s : State) : (s.i3cSay l).fab = s.fab := by unfold State.i3cSay; split <;> rfl
@[simp] theorem State.i3cSay_freeCtr (l : List Byte) (s : State) : (s.i3cSay l).freeCtr = s.freeCtr := by unfold State.i3cSay; split <;> rfl
@[simp] theorem State.i3cSay_pending (l : List Byte) (s : State) : (s.i3cSay l).pending = s.pending := by unfold State.i3cSay; split <;> rfl

/-! ### `State.setPow` -/

@[simp] theorem State.setPow_boot (f : Power → Power) (s : State) : (s.setPow f).boot = s.boot := rfl
@[simp] theorem State.setPow_regs (f : Power → Power) (s : State) : (s.setPow f).regs = s.regs := rfl
@[simp] theorem State.setPow_log (f : Power → Power) (s : State) : (s.setPow f).log = s.log := rfl
@[simp] theorem State.setPow_tel (f : Power → Power) (s : State) : (s.setPow f).tel = s.tel := rfl
@[simp] theorem State.setPow_i3c (f : Power → Power) (s : State) : (s.setPow f).i3c = s.i3c := rfl
@[simp] theorem State.setPow_fingerprint (f : Power → Power) (s : State) : (s.setPow f).fingerprint = s.fingerprint := rfl
@[simp] theorem State.setPow_ptns (f : Power → Power) (s : State) : (s.setPow f).ptns = s.ptns := rfl
@[simp] theorem State.setPow_ptnGen (f : Power → Power) (s : State) : (s.setPow f).ptnGen = s.ptnGen := rfl
@[simp] theorem State.setPow_host (f : Power → Power) (s : State) : (s.setPow f).host = s.host := rfl
@[simp] theorem State.setPow_trust (f : Power → Power) (s : State) : (s.setPow f).trust = s.trust := rfl
@[simp] theorem State.setPow_store (f : Power → Power) (s : State) : (s.setPow f).store = s.store := rfl
@[simp] theorem State.setPow_hbm (f : Power → Power) (s : State) : (s.setPow f).hbm = s.hbm := rfl
@[simp] theorem State.setPow_flash (f : Power → Power) (s : State) : (s.setPow f).flash = s.flash := rfl
@[simp] theorem State.setPow_staging (f : Power → Power) (s : State) : (s.setPow f).staging = s.staging := rfl
@[simp] theorem State.setPow_eng (f : Power → Power) (s : State) : (s.setPow f).eng = s.eng := rfl
@[simp] theorem State.setPow_slots (f : Power → Power) (s : State) : (s.setPow f).slots = s.slots := rfl
@[simp] theorem State.setPow_rcl (f : Power → Power) (s : State) : (s.setPow f).rcl = s.rcl := rfl
@[simp] theorem State.setPow_cmds (f : Power → Power) (s : State) : (s.setPow f).cmds = s.cmds := rfl
@[simp] theorem State.setPow_map (f : Power → Power) (s : State) : (s.setPow f).map = s.map := rfl
@[simp] theorem State.setPow_fab (f : Power → Power) (s : State) : (s.setPow f).fab = s.fab := rfl
@[simp] theorem State.setPow_out (f : Power → Power) (s : State) : (s.setPow f).out = s.out := rfl
@[simp] theorem State.setPow_freeCtr (f : Power → Power) (s : State) : (s.setPow f).freeCtr = s.freeCtr := rfl
@[simp] theorem State.setPow_pending (f : Power → Power) (s : State) : (s.setPow f).pending = s.pending := rfl

/-! ### `State.updDie'` -/

@[simp] theorem State.updDie'_boot (d : Die) (f : DieClk → DieClk) (s : State) : (s.updDie' d f).boot = s.boot := rfl
@[simp] theorem State.updDie'_regs (d : Die) (f : DieClk → DieClk) (s : State) : (s.updDie' d f).regs = s.regs := rfl
@[simp] theorem State.updDie'_log (d : Die) (f : DieClk → DieClk) (s : State) : (s.updDie' d f).log = s.log := rfl
@[simp] theorem State.updDie'_tel (d : Die) (f : DieClk → DieClk) (s : State) : (s.updDie' d f).tel = s.tel := rfl
@[simp] theorem State.updDie'_i3c (d : Die) (f : DieClk → DieClk) (s : State) : (s.updDie' d f).i3c = s.i3c := rfl
@[simp] theorem State.updDie'_fingerprint (d : Die) (f : DieClk → DieClk) (s : State) : (s.updDie' d f).fingerprint = s.fingerprint := rfl
@[simp] theorem State.updDie'_ptns (d : Die) (f : DieClk → DieClk) (s : State) : (s.updDie' d f).ptns = s.ptns := rfl
@[simp] theorem State.updDie'_ptnGen (d : Die) (f : DieClk → DieClk) (s : State) : (s.updDie' d f).ptnGen = s.ptnGen := rfl
@[simp] theorem State.updDie'_host (d : Die) (f : DieClk → DieClk) (s : State) : (s.updDie' d f).host = s.host := rfl
@[simp] theorem State.updDie'_trust (d : Die) (f : DieClk → DieClk) (s : State) : (s.updDie' d f).trust = s.trust := rfl
@[simp] theorem State.updDie'_store (d : Die) (f : DieClk → DieClk) (s : State) : (s.updDie' d f).store = s.store := rfl
@[simp] theorem State.updDie'_hbm (d : Die) (f : DieClk → DieClk) (s : State) : (s.updDie' d f).hbm = s.hbm := rfl
@[simp] theorem State.updDie'_flash (d : Die) (f : DieClk → DieClk) (s : State) : (s.updDie' d f).flash = s.flash := rfl
@[simp] theorem State.updDie'_staging (d : Die) (f : DieClk → DieClk) (s : State) : (s.updDie' d f).staging = s.staging := rfl
@[simp] theorem State.updDie'_eng (d : Die) (f : DieClk → DieClk) (s : State) : (s.updDie' d f).eng = s.eng := rfl
@[simp] theorem State.updDie'_slots (d : Die) (f : DieClk → DieClk) (s : State) : (s.updDie' d f).slots = s.slots := rfl
@[simp] theorem State.updDie'_rcl (d : Die) (f : DieClk → DieClk) (s : State) : (s.updDie' d f).rcl = s.rcl := rfl
@[simp] theorem State.updDie'_cmds (d : Die) (f : DieClk → DieClk) (s : State) : (s.updDie' d f).cmds = s.cmds := rfl
@[simp] theorem State.updDie'_map (d : Die) (f : DieClk → DieClk) (s : State) : (s.updDie' d f).map = s.map := rfl
@[simp] theorem State.updDie'_fab (d : Die) (f : DieClk → DieClk) (s : State) : (s.updDie' d f).fab = s.fab := rfl
@[simp] theorem State.updDie'_out (d : Die) (f : DieClk → DieClk) (s : State) : (s.updDie' d f).out = s.out := rfl
@[simp] theorem State.updDie'_freeCtr (d : Die) (f : DieClk → DieClk) (s : State) : (s.updDie' d f).freeCtr = s.freeCtr := rfl
@[simp] theorem State.updDie'_pending (d : Die) (f : DieClk → DieClk) (s : State) : (s.updDie' d f).pending = s.pending := rfl

/-! ### `State.setFw` -/

@[simp] theorem State.setFw_pow (f : FwUpdate → FwUpdate) (s : State) : (s.setFw f).pow = s.pow := rfl
@[simp] theorem State.setFw_boot (f : FwUpdate → FwUpdate) (s : State) : (s.setFw f).boot = s.boot := rfl
@[simp] theorem State.setFw_regs (f : FwUpdate → FwUpdate) (s : State) : (s.setFw f).regs = s.regs := rfl
@[simp] theorem State.setFw_log (f : FwUpdate → FwUpdate) (s : State) : (s.setFw f).log = s.log := rfl
@[simp] theorem State.setFw_tel (f : FwUpdate → FwUpdate) (s : State) : (s.setFw f).tel = s.tel := rfl
@[simp] theorem State.setFw_i3c (f : FwUpdate → FwUpdate) (s : State) : (s.setFw f).i3c = s.i3c := rfl
@[simp] theorem State.setFw_fingerprint (f : FwUpdate → FwUpdate) (s : State) : (s.setFw f).fingerprint = s.fingerprint := rfl
@[simp] theorem State.setFw_ptns (f : FwUpdate → FwUpdate) (s : State) : (s.setFw f).ptns = s.ptns := rfl
@[simp] theorem State.setFw_ptnGen (f : FwUpdate → FwUpdate) (s : State) : (s.setFw f).ptnGen = s.ptnGen := rfl
@[simp] theorem State.setFw_host (f : FwUpdate → FwUpdate) (s : State) : (s.setFw f).host = s.host := rfl
@[simp] theorem State.setFw_trust_jtagLock (f : FwUpdate → FwUpdate) (s : State) : (s.setFw f).trust.jtagLock = s.trust.jtagLock := rfl
@[simp] theorem State.setFw_trust_svnAdvances (f : FwUpdate → FwUpdate) (s : State) : (s.setFw f).trust.svnAdvances = s.trust.svnAdvances := rfl
@[simp] theorem State.setFw_trust_svnMin (f : FwUpdate → FwUpdate) (s : State) : (s.setFw f).trust.svnMin = s.trust.svnMin := rfl
@[simp] theorem State.setFw_trust_svnRun (f : FwUpdate → FwUpdate) (s : State) : (s.setFw f).trust.svnRun = s.trust.svnRun := rfl
@[simp] theorem State.setFw_trust_fwDigest (f : FwUpdate → FwUpdate) (s : State) : (s.setFw f).trust.fwDigest = s.trust.fwDigest := rfl
@[simp] theorem State.setFw_trust_romDigest (f : FwUpdate → FwUpdate) (s : State) : (s.setFw f).trust.romDigest = s.trust.romDigest := rfl
@[simp] theorem State.setFw_trust_cfgDigest (f : FwUpdate → FwUpdate) (s : State) : (s.setFw f).trust.cfgDigest = s.trust.cfgDigest := rfl
@[simp] theorem State.setFw_trust_nodeId (f : FwUpdate → FwUpdate) (s : State) : (s.setFw f).trust.nodeId = s.trust.nodeId := rfl
@[simp] theorem State.setFw_trust_idxNext (f : FwUpdate → FwUpdate) (s : State) : (s.setFw f).trust.idxNext = s.trust.idxNext := rfl
@[simp] theorem State.setFw_trust_idxLimit (f : FwUpdate → FwUpdate) (s : State) : (s.setFw f).trust.idxLimit = s.trust.idxLimit := rfl
@[simp] theorem State.setFw_trust_idxOk (f : FwUpdate → FwUpdate) (s : State) : (s.setFw f).trust.idxOk = s.trust.idxOk := rfl
@[simp] theorem State.setFw_trust_idxLost (f : FwUpdate → FwUpdate) (s : State) : (s.setFw f).trust.idxLost = s.trust.idxLost := rfl
@[simp] theorem State.setFw_trust_attReady (f : FwUpdate → FwUpdate) (s : State) : (s.setFw f).trust.attReady = s.trust.attReady := rfl
@[simp] theorem State.setFw_trust_attSerial (f : FwUpdate → FwUpdate) (s : State) : (s.setFw f).trust.attSerial = s.trust.attSerial := rfl
@[simp] theorem State.setFw_trust_attLeft (f : FwUpdate → FwUpdate) (s : State) : (s.setFw f).trust.attLeft = s.trust.attLeft := rfl
@[simp] theorem State.setFw_trust_attSuccessor (f : FwUpdate → FwUpdate) (s : State) : (s.setFw f).trust.attSuccessor = s.trust.attSuccessor := rfl
@[simp] theorem State.setFw_trust_sessionKey (f : FwUpdate → FwUpdate) (s : State) : (s.setFw f).trust.sessionKey = s.trust.sessionKey := rfl
@[simp] theorem State.setFw_trust_nextKey (f : FwUpdate → FwUpdate) (s : State) : (s.setFw f).trust.nextKey = s.trust.nextKey := rfl
@[simp] theorem State.setFw_store (f : FwUpdate → FwUpdate) (s : State) : (s.setFw f).store = s.store := rfl
@[simp] theorem State.setFw_hbm (f : FwUpdate → FwUpdate) (s : State) : (s.setFw f).hbm = s.hbm := rfl
@[simp] theorem State.setFw_flash (f : FwUpdate → FwUpdate) (s : State) : (s.setFw f).flash = s.flash := rfl
@[simp] theorem State.setFw_staging (f : FwUpdate → FwUpdate) (s : State) : (s.setFw f).staging = s.staging := rfl
@[simp] theorem State.setFw_eng (f : FwUpdate → FwUpdate) (s : State) : (s.setFw f).eng = s.eng := rfl
@[simp] theorem State.setFw_slots (f : FwUpdate → FwUpdate) (s : State) : (s.setFw f).slots = s.slots := rfl
@[simp] theorem State.setFw_rcl (f : FwUpdate → FwUpdate) (s : State) : (s.setFw f).rcl = s.rcl := rfl
@[simp] theorem State.setFw_cmds (f : FwUpdate → FwUpdate) (s : State) : (s.setFw f).cmds = s.cmds := rfl
@[simp] theorem State.setFw_map (f : FwUpdate → FwUpdate) (s : State) : (s.setFw f).map = s.map := rfl
@[simp] theorem State.setFw_fab (f : FwUpdate → FwUpdate) (s : State) : (s.setFw f).fab = s.fab := rfl
@[simp] theorem State.setFw_out (f : FwUpdate → FwUpdate) (s : State) : (s.setFw f).out = s.out := rfl
@[simp] theorem State.setFw_freeCtr (f : FwUpdate → FwUpdate) (s : State) : (s.setFw f).freeCtr = s.freeCtr := rfl
@[simp] theorem State.setFw_pending (f : FwUpdate → FwUpdate) (s : State) : (s.setFw f).pending = s.pending := rfl

/-! ### `State.updSlot` -/

@[simp] theorem State.updSlot_pow (k : Nat) (f : FwSlot → FwSlot) (s : State) : (s.updSlot k f).pow = s.pow := by unfold State.updSlot; split <;> rfl
@[simp] theorem State.updSlot_boot_selA (k : Nat) (f : FwSlot → FwSlot) (s : State) : (s.updSlot k f).boot.selA = s.boot.selA := by unfold State.updSlot; split <;> rfl
@[simp] theorem State.updSlot_boot_selB (k : Nat) (f : FwSlot → FwSlot) (s : State) : (s.updSlot k f).boot.selB = s.boot.selB := by unfold State.updSlot; split <;> rfl
@[simp] theorem State.updSlot_boot_active (k : Nat) (f : FwSlot → FwSlot) (s : State) : (s.updSlot k f).boot.active = s.boot.active := by unfold State.updSlot; split <;> rfl
@[simp] theorem State.updSlot_boot_config (k : Nat) (f : FwSlot → FwSlot) (s : State) : (s.updSlot k f).boot.config = s.boot.config := by unfold State.updSlot; split <;> rfl
@[simp] theorem State.updSlot_regs (k : Nat) (f : FwSlot → FwSlot) (s : State) : (s.updSlot k f).regs = s.regs := by unfold State.updSlot; split <;> rfl
@[simp] theorem State.updSlot_log (k : Nat) (f : FwSlot → FwSlot) (s : State) : (s.updSlot k f).log = s.log := by unfold State.updSlot; split <;> rfl
@[simp] theorem State.updSlot_tel (k : Nat) (f : FwSlot → FwSlot) (s : State) : (s.updSlot k f).tel = s.tel := by unfold State.updSlot; split <;> rfl
@[simp] theorem State.updSlot_i3c (k : Nat) (f : FwSlot → FwSlot) (s : State) : (s.updSlot k f).i3c = s.i3c := by unfold State.updSlot; split <;> rfl
@[simp] theorem State.updSlot_fingerprint (k : Nat) (f : FwSlot → FwSlot) (s : State) : (s.updSlot k f).fingerprint = s.fingerprint := by unfold State.updSlot; split <;> rfl
@[simp] theorem State.updSlot_ptns (k : Nat) (f : FwSlot → FwSlot) (s : State) : (s.updSlot k f).ptns = s.ptns := by unfold State.updSlot; split <;> rfl
@[simp] theorem State.updSlot_ptnGen (k : Nat) (f : FwSlot → FwSlot) (s : State) : (s.updSlot k f).ptnGen = s.ptnGen := by unfold State.updSlot; split <;> rfl
@[simp] theorem State.updSlot_host (k : Nat) (f : FwSlot → FwSlot) (s : State) : (s.updSlot k f).host = s.host := by unfold State.updSlot; split <;> rfl
@[simp] theorem State.updSlot_trust (k : Nat) (f : FwSlot → FwSlot) (s : State) : (s.updSlot k f).trust = s.trust := by unfold State.updSlot; split <;> rfl
@[simp] theorem State.updSlot_store (k : Nat) (f : FwSlot → FwSlot) (s : State) : (s.updSlot k f).store = s.store := by unfold State.updSlot; split <;> rfl
@[simp] theorem State.updSlot_hbm (k : Nat) (f : FwSlot → FwSlot) (s : State) : (s.updSlot k f).hbm = s.hbm := by unfold State.updSlot; split <;> rfl
@[simp] theorem State.updSlot_flash (k : Nat) (f : FwSlot → FwSlot) (s : State) : (s.updSlot k f).flash = s.flash := by unfold State.updSlot; split <;> rfl
@[simp] theorem State.updSlot_staging (k : Nat) (f : FwSlot → FwSlot) (s : State) : (s.updSlot k f).staging = s.staging := by unfold State.updSlot; split <;> rfl
@[simp] theorem State.updSlot_eng (k : Nat) (f : FwSlot → FwSlot) (s : State) : (s.updSlot k f).eng = s.eng := by unfold State.updSlot; split <;> rfl
@[simp] theorem State.updSlot_slots (k : Nat) (f : FwSlot → FwSlot) (s : State) : (s.updSlot k f).slots = s.slots := by unfold State.updSlot; split <;> rfl
@[simp] theorem State.updSlot_rcl (k : Nat) (f : FwSlot → FwSlot) (s : State) : (s.updSlot k f).rcl = s.rcl := by unfold State.updSlot; split <;> rfl
@[simp] theorem State.updSlot_cmds (k : Nat) (f : FwSlot → FwSlot) (s : State) : (s.updSlot k f).cmds = s.cmds := by unfold State.updSlot; split <;> rfl
@[simp] theorem State.updSlot_map (k : Nat) (f : FwSlot → FwSlot) (s : State) : (s.updSlot k f).map = s.map := by unfold State.updSlot; split <;> rfl
@[simp] theorem State.updSlot_fab (k : Nat) (f : FwSlot → FwSlot) (s : State) : (s.updSlot k f).fab = s.fab := by unfold State.updSlot; split <;> rfl
@[simp] theorem State.updSlot_out (k : Nat) (f : FwSlot → FwSlot) (s : State) : (s.updSlot k f).out = s.out := by unfold State.updSlot; split <;> rfl
@[simp] theorem State.updSlot_freeCtr (k : Nat) (f : FwSlot → FwSlot) (s : State) : (s.updSlot k f).freeCtr = s.freeCtr := by unfold State.updSlot; split <;> rfl
@[simp] theorem State.updSlot_pending (k : Nat) (f : FwSlot → FwSlot) (s : State) : (s.updSlot k f).pending = s.pending := by unfold State.updSlot; split <;> rfl

/-! ### `State.updPtn` -/

@[simp] theorem State.updPtn_pow (n : Nat) (f : Ptn → Ptn) (s : State) : (s.updPtn n f).pow = s.pow := rfl
@[simp] theorem State.updPtn_boot (n : Nat) (f : Ptn → Ptn) (s : State) : (s.updPtn n f).boot = s.boot := rfl
@[simp] theorem State.updPtn_regs (n : Nat) (f : Ptn → Ptn) (s : State) : (s.updPtn n f).regs = s.regs := rfl
@[simp] theorem State.updPtn_log (n : Nat) (f : Ptn → Ptn) (s : State) : (s.updPtn n f).log = s.log := rfl
@[simp] theorem State.updPtn_tel (n : Nat) (f : Ptn → Ptn) (s : State) : (s.updPtn n f).tel = s.tel := rfl
@[simp] theorem State.updPtn_i3c (n : Nat) (f : Ptn → Ptn) (s : State) : (s.updPtn n f).i3c = s.i3c := rfl
@[simp] theorem State.updPtn_fingerprint (n : Nat) (f : Ptn → Ptn) (s : State) : (s.updPtn n f).fingerprint = s.fingerprint := rfl
@[simp] theorem State.updPtn_ptnGen (n : Nat) (f : Ptn → Ptn) (s : State) : (s.updPtn n f).ptnGen = s.ptnGen := rfl
@[simp] theorem State.updPtn_host (n : Nat) (f : Ptn → Ptn) (s : State) : (s.updPtn n f).host = s.host := rfl
@[simp] theorem State.updPtn_trust (n : Nat) (f : Ptn → Ptn) (s : State) : (s.updPtn n f).trust = s.trust := rfl
@[simp] theorem State.updPtn_store (n : Nat) (f : Ptn → Ptn) (s : State) : (s.updPtn n f).store = s.store := rfl
@[simp] theorem State.updPtn_hbm (n : Nat) (f : Ptn → Ptn) (s : State) : (s.updPtn n f).hbm = s.hbm := rfl
@[simp] theorem State.updPtn_flash (n : Nat) (f : Ptn → Ptn) (s : State) : (s.updPtn n f).flash = s.flash := rfl
@[simp] theorem State.updPtn_staging (n : Nat) (f : Ptn → Ptn) (s : State) : (s.updPtn n f).staging = s.staging := rfl
@[simp] theorem State.updPtn_eng (n : Nat) (f : Ptn → Ptn) (s : State) : (s.updPtn n f).eng = s.eng := rfl
@[simp] theorem State.updPtn_slots (n : Nat) (f : Ptn → Ptn) (s : State) : (s.updPtn n f).slots = s.slots := rfl
@[simp] theorem State.updPtn_rcl (n : Nat) (f : Ptn → Ptn) (s : State) : (s.updPtn n f).rcl = s.rcl := rfl
@[simp] theorem State.updPtn_cmds (n : Nat) (f : Ptn → Ptn) (s : State) : (s.updPtn n f).cmds = s.cmds := rfl
@[simp] theorem State.updPtn_map (n : Nat) (f : Ptn → Ptn) (s : State) : (s.updPtn n f).map = s.map := rfl
@[simp] theorem State.updPtn_fab (n : Nat) (f : Ptn → Ptn) (s : State) : (s.updPtn n f).fab = s.fab := rfl
@[simp] theorem State.updPtn_out (n : Nat) (f : Ptn → Ptn) (s : State) : (s.updPtn n f).out = s.out := rfl
@[simp] theorem State.updPtn_freeCtr (n : Nat) (f : Ptn → Ptn) (s : State) : (s.updPtn n f).freeCtr = s.freeCtr := rfl
@[simp] theorem State.updPtn_pending (n : Nat) (f : Ptn → Ptn) (s : State) : (s.updPtn n f).pending = s.pending := rfl

/-! ### `State.updCtx` -/

@[simp] theorem State.updCtx_pow (n : Nat) (f : Ctx → Ctx) (s : State) : (s.updCtx n f).pow = s.pow := rfl
@[simp] theorem State.updCtx_boot (n : Nat) (f : Ctx → Ctx) (s : State) : (s.updCtx n f).boot = s.boot := rfl
@[simp] theorem State.updCtx_regs (n : Nat) (f : Ctx → Ctx) (s : State) : (s.updCtx n f).regs = s.regs := rfl
@[simp] theorem State.updCtx_log (n : Nat) (f : Ctx → Ctx) (s : State) : (s.updCtx n f).log = s.log := rfl
@[simp] theorem State.updCtx_tel (n : Nat) (f : Ctx → Ctx) (s : State) : (s.updCtx n f).tel = s.tel := rfl
@[simp] theorem State.updCtx_i3c (n : Nat) (f : Ctx → Ctx) (s : State) : (s.updCtx n f).i3c = s.i3c := rfl
@[simp] theorem State.updCtx_fingerprint (n : Nat) (f : Ctx → Ctx) (s : State) : (s.updCtx n f).fingerprint = s.fingerprint := rfl
@[simp] theorem State.updCtx_ptns (n : Nat) (f : Ctx → Ctx) (s : State) : (s.updCtx n f).ptns = s.ptns := rfl
@[simp] theorem State.updCtx_ptnGen (n : Nat) (f : Ctx → Ctx) (s : State) : (s.updCtx n f).ptnGen = s.ptnGen := rfl
@[simp] theorem State.updCtx_host_queues (n : Nat) (f : Ctx → Ctx) (s : State) : (s.updCtx n f).host.queues = s.host.queues := rfl
@[simp] theorem State.updCtx_host_chains (n : Nat) (f : Ctx → Ctx) (s : State) : (s.updCtx n f).host.chains = s.host.chains := rfl
@[simp] theorem State.updCtx_host_sessions (n : Nat) (f : Ctx → Ctx) (s : State) : (s.updCtx n f).host.sessions = s.host.sessions := rfl
@[simp] theorem State.updCtx_host_ports (n : Nat) (f : Ctx → Ctx) (s : State) : (s.updCtx n f).host.ports = s.host.ports := rfl
@[simp] theorem State.updCtx_host_mportUp (n : Nat) (f : Ctx → Ctx) (s : State) : (s.updCtx n f).host.mportUp = s.host.mportUp := rfl
@[simp] theorem State.updCtx_host_keySerials (n : Nat) (f : Ctx → Ctx) (s : State) : (s.updCtx n f).host.keySerials = s.host.keySerials := rfl
@[simp] theorem State.updCtx_trust (n : Nat) (f : Ctx → Ctx) (s : State) : (s.updCtx n f).trust = s.trust := rfl
@[simp] theorem State.updCtx_store (n : Nat) (f : Ctx → Ctx) (s : State) : (s.updCtx n f).store = s.store := rfl
@[simp] theorem State.updCtx_hbm (n : Nat) (f : Ctx → Ctx) (s : State) : (s.updCtx n f).hbm = s.hbm := rfl
@[simp] theorem State.updCtx_flash (n : Nat) (f : Ctx → Ctx) (s : State) : (s.updCtx n f).flash = s.flash := rfl
@[simp] theorem State.updCtx_staging (n : Nat) (f : Ctx → Ctx) (s : State) : (s.updCtx n f).staging = s.staging := rfl
@[simp] theorem State.updCtx_eng (n : Nat) (f : Ctx → Ctx) (s : State) : (s.updCtx n f).eng = s.eng := rfl
@[simp] theorem State.updCtx_slots (n : Nat) (f : Ctx → Ctx) (s : State) : (s.updCtx n f).slots = s.slots := rfl
@[simp] theorem State.updCtx_rcl (n : Nat) (f : Ctx → Ctx) (s : State) : (s.updCtx n f).rcl = s.rcl := rfl
@[simp] theorem State.updCtx_cmds (n : Nat) (f : Ctx → Ctx) (s : State) : (s.updCtx n f).cmds = s.cmds := rfl
@[simp] theorem State.updCtx_map (n : Nat) (f : Ctx → Ctx) (s : State) : (s.updCtx n f).map = s.map := rfl
@[simp] theorem State.updCtx_fab (n : Nat) (f : Ctx → Ctx) (s : State) : (s.updCtx n f).fab = s.fab := rfl
@[simp] theorem State.updCtx_out (n : Nat) (f : Ctx → Ctx) (s : State) : (s.updCtx n f).out = s.out := rfl
@[simp] theorem State.updCtx_freeCtr (n : Nat) (f : Ctx → Ctx) (s : State) : (s.updCtx n f).freeCtr = s.freeCtr := rfl
@[simp] theorem State.updCtx_pending (n : Nat) (f : Ctx → Ctx) (s : State) : (s.updCtx n f).pending = s.pending := rfl

/-! ### `State.updQueue` -/

@[simp] theorem State.updQueue_pow (n : Nat) (f : Queue → Queue) (s : State) : (s.updQueue n f).pow = s.pow := rfl
@[simp] theorem State.updQueue_boot (n : Nat) (f : Queue → Queue) (s : State) : (s.updQueue n f).boot = s.boot := rfl
@[simp] theorem State.updQueue_regs (n : Nat) (f : Queue → Queue) (s : State) : (s.updQueue n f).regs = s.regs := rfl
@[simp] theorem State.updQueue_log (n : Nat) (f : Queue → Queue) (s : State) : (s.updQueue n f).log = s.log := rfl
@[simp] theorem State.updQueue_tel (n : Nat) (f : Queue → Queue) (s : State) : (s.updQueue n f).tel = s.tel := rfl
@[simp] theorem State.updQueue_i3c (n : Nat) (f : Queue → Queue) (s : State) : (s.updQueue n f).i3c = s.i3c := rfl
@[simp] theorem State.updQueue_fingerprint (n : Nat) (f : Queue → Queue) (s : State) : (s.updQueue n f).fingerprint = s.fingerprint := rfl
@[simp] theorem State.updQueue_ptns (n : Nat) (f : Queue → Queue) (s : State) : (s.updQueue n f).ptns = s.ptns := rfl
@[simp] theorem State.updQueue_ptnGen (n : Nat) (f : Queue → Queue) (s : State) : (s.updQueue n f).ptnGen = s.ptnGen := rfl
@[simp] theorem State.updQueue_host_ctxs (n : Nat) (f : Queue → Queue) (s : State) : (s.updQueue n f).host.ctxs = s.host.ctxs := rfl
@[simp] theorem State.updQueue_host_chains (n : Nat) (f : Queue → Queue) (s : State) : (s.updQueue n f).host.chains = s.host.chains := rfl
@[simp] theorem State.updQueue_host_sessions (n : Nat) (f : Queue → Queue) (s : State) : (s.updQueue n f).host.sessions = s.host.sessions := rfl
@[simp] theorem State.updQueue_host_ports (n : Nat) (f : Queue → Queue) (s : State) : (s.updQueue n f).host.ports = s.host.ports := rfl
@[simp] theorem State.updQueue_host_mportUp (n : Nat) (f : Queue → Queue) (s : State) : (s.updQueue n f).host.mportUp = s.host.mportUp := rfl
@[simp] theorem State.updQueue_host_keySerials (n : Nat) (f : Queue → Queue) (s : State) : (s.updQueue n f).host.keySerials = s.host.keySerials := rfl
@[simp] theorem State.updQueue_trust (n : Nat) (f : Queue → Queue) (s : State) : (s.updQueue n f).trust = s.trust := rfl
@[simp] theorem State.updQueue_store (n : Nat) (f : Queue → Queue) (s : State) : (s.updQueue n f).store = s.store := rfl
@[simp] theorem State.updQueue_hbm (n : Nat) (f : Queue → Queue) (s : State) : (s.updQueue n f).hbm = s.hbm := rfl
@[simp] theorem State.updQueue_flash (n : Nat) (f : Queue → Queue) (s : State) : (s.updQueue n f).flash = s.flash := rfl
@[simp] theorem State.updQueue_staging (n : Nat) (f : Queue → Queue) (s : State) : (s.updQueue n f).staging = s.staging := rfl
@[simp] theorem State.updQueue_eng (n : Nat) (f : Queue → Queue) (s : State) : (s.updQueue n f).eng = s.eng := rfl
@[simp] theorem State.updQueue_slots (n : Nat) (f : Queue → Queue) (s : State) : (s.updQueue n f).slots = s.slots := rfl
@[simp] theorem State.updQueue_rcl (n : Nat) (f : Queue → Queue) (s : State) : (s.updQueue n f).rcl = s.rcl := rfl
@[simp] theorem State.updQueue_cmds (n : Nat) (f : Queue → Queue) (s : State) : (s.updQueue n f).cmds = s.cmds := rfl
@[simp] theorem State.updQueue_map (n : Nat) (f : Queue → Queue) (s : State) : (s.updQueue n f).map = s.map := rfl
@[simp] theorem State.updQueue_fab (n : Nat) (f : Queue → Queue) (s : State) : (s.updQueue n f).fab = s.fab := rfl
@[simp] theorem State.updQueue_out (n : Nat) (f : Queue → Queue) (s : State) : (s.updQueue n f).out = s.out := rfl
@[simp] theorem State.updQueue_freeCtr (n : Nat) (f : Queue → Queue) (s : State) : (s.updQueue n f).freeCtr = s.freeCtr := rfl
@[simp] theorem State.updQueue_pending (n : Nat) (f : Queue → Queue) (s : State) : (s.updQueue n f).pending = s.pending := rfl

/-! ### `State.updSession` -/

@[simp] theorem State.updSession_pow (n : Nat) (f : Session → Session) (s : State) : (s.updSession n f).pow = s.pow := rfl
@[simp] theorem State.updSession_boot (n : Nat) (f : Session → Session) (s : State) : (s.updSession n f).boot = s.boot := rfl
@[simp] theorem State.updSession_regs (n : Nat) (f : Session → Session) (s : State) : (s.updSession n f).regs = s.regs := rfl
@[simp] theorem State.updSession_log (n : Nat) (f : Session → Session) (s : State) : (s.updSession n f).log = s.log := rfl
@[simp] theorem State.updSession_tel (n : Nat) (f : Session → Session) (s : State) : (s.updSession n f).tel = s.tel := rfl
@[simp] theorem State.updSession_i3c (n : Nat) (f : Session → Session) (s : State) : (s.updSession n f).i3c = s.i3c := rfl
@[simp] theorem State.updSession_fingerprint (n : Nat) (f : Session → Session) (s : State) : (s.updSession n f).fingerprint = s.fingerprint := rfl
@[simp] theorem State.updSession_ptns (n : Nat) (f : Session → Session) (s : State) : (s.updSession n f).ptns = s.ptns := rfl
@[simp] theorem State.updSession_ptnGen (n : Nat) (f : Session → Session) (s : State) : (s.updSession n f).ptnGen = s.ptnGen := rfl
@[simp] theorem State.updSession_host_ctxs (n : Nat) (f : Session → Session) (s : State) : (s.updSession n f).host.ctxs = s.host.ctxs := rfl
@[simp] theorem State.updSession_host_queues (n : Nat) (f : Session → Session) (s : State) : (s.updSession n f).host.queues = s.host.queues := rfl
@[simp] theorem State.updSession_host_chains (n : Nat) (f : Session → Session) (s : State) : (s.updSession n f).host.chains = s.host.chains := rfl
@[simp] theorem State.updSession_host_ports (n : Nat) (f : Session → Session) (s : State) : (s.updSession n f).host.ports = s.host.ports := rfl
@[simp] theorem State.updSession_host_mportUp (n : Nat) (f : Session → Session) (s : State) : (s.updSession n f).host.mportUp = s.host.mportUp := rfl
@[simp] theorem State.updSession_host_keySerials (n : Nat) (f : Session → Session) (s : State) : (s.updSession n f).host.keySerials = s.host.keySerials := rfl
@[simp] theorem State.updSession_trust (n : Nat) (f : Session → Session) (s : State) : (s.updSession n f).trust = s.trust := rfl
@[simp] theorem State.updSession_store (n : Nat) (f : Session → Session) (s : State) : (s.updSession n f).store = s.store := rfl
@[simp] theorem State.updSession_hbm (n : Nat) (f : Session → Session) (s : State) : (s.updSession n f).hbm = s.hbm := rfl
@[simp] theorem State.updSession_flash (n : Nat) (f : Session → Session) (s : State) : (s.updSession n f).flash = s.flash := rfl
@[simp] theorem State.updSession_staging (n : Nat) (f : Session → Session) (s : State) : (s.updSession n f).staging = s.staging := rfl
@[simp] theorem State.updSession_eng (n : Nat) (f : Session → Session) (s : State) : (s.updSession n f).eng = s.eng := rfl
@[simp] theorem State.updSession_slots (n : Nat) (f : Session → Session) (s : State) : (s.updSession n f).slots = s.slots := rfl
@[simp] theorem State.updSession_rcl (n : Nat) (f : Session → Session) (s : State) : (s.updSession n f).rcl = s.rcl := rfl
@[simp] theorem State.updSession_cmds (n : Nat) (f : Session → Session) (s : State) : (s.updSession n f).cmds = s.cmds := rfl
@[simp] theorem State.updSession_map (n : Nat) (f : Session → Session) (s : State) : (s.updSession n f).map = s.map := rfl
@[simp] theorem State.updSession_fab (n : Nat) (f : Session → Session) (s : State) : (s.updSession n f).fab = s.fab := rfl
@[simp] theorem State.updSession_out (n : Nat) (f : Session → Session) (s : State) : (s.updSession n f).out = s.out := rfl
@[simp] theorem State.updSession_freeCtr (n : Nat) (f : Session → Session) (s : State) : (s.updSession n f).freeCtr = s.freeCtr := rfl
@[simp] theorem State.updSession_pending (n : Nat) (f : Session → Session) (s : State) : (s.updSession n f).pending = s.pending := rfl

/-! ### `State.updPort` -/

@[simp] theorem State.updPort_pow (n : Nat) (f : Port → Port) (s : State) : (s.updPort n f).pow = s.pow := rfl
@[simp] theorem State.updPort_boot (n : Nat) (f : Port → Port) (s : State) : (s.updPort n f).boot = s.boot := rfl
@[simp] theorem State.updPort_regs (n : Nat) (f : Port → Port) (s : State) : (s.updPort n f).regs = s.regs := rfl
@[simp] theorem State.updPort_log (n : Nat) (f : Port → Port) (s : State) : (s.updPort n f).log = s.log := rfl
@[simp] theorem State.updPort_tel (n : Nat) (f : Port → Port) (s : State) : (s.updPort n f).tel = s.tel := rfl
@[simp] theorem State.updPort_i3c (n : Nat) (f : Port → Port) (s : State) : (s.updPort n f).i3c = s.i3c := rfl
@[simp] theorem State.updPort_fingerprint (n : Nat) (f : Port → Port) (s : State) : (s.updPort n f).fingerprint = s.fingerprint := rfl
@[simp] theorem State.updPort_ptns (n : Nat) (f : Port → Port) (s : State) : (s.updPort n f).ptns = s.ptns := rfl
@[simp] theorem State.updPort_ptnGen (n : Nat) (f : Port → Port) (s : State) : (s.updPort n f).ptnGen = s.ptnGen := rfl
@[simp] theorem State.updPort_host_ctxs (n : Nat) (f : Port → Port) (s : State) : (s.updPort n f).host.ctxs = s.host.ctxs := rfl
@[simp] theorem State.updPort_host_queues (n : Nat) (f : Port → Port) (s : State) : (s.updPort n f).host.queues = s.host.queues := rfl
@[simp] theorem State.updPort_host_chains (n : Nat) (f : Port → Port) (s : State) : (s.updPort n f).host.chains = s.host.chains := rfl
@[simp] theorem State.updPort_host_sessions (n : Nat) (f : Port → Port) (s : State) : (s.updPort n f).host.sessions = s.host.sessions := rfl
@[simp] theorem State.updPort_host_mportUp (n : Nat) (f : Port → Port) (s : State) : (s.updPort n f).host.mportUp = s.host.mportUp := rfl
@[simp] theorem State.updPort_host_keySerials (n : Nat) (f : Port → Port) (s : State) : (s.updPort n f).host.keySerials = s.host.keySerials := rfl
@[simp] theorem State.updPort_trust (n : Nat) (f : Port → Port) (s : State) : (s.updPort n f).trust = s.trust := rfl
@[simp] theorem State.updPort_store (n : Nat) (f : Port → Port) (s : State) : (s.updPort n f).store = s.store := rfl
@[simp] theorem State.updPort_hbm (n : Nat) (f : Port → Port) (s : State) : (s.updPort n f).hbm = s.hbm := rfl
@[simp] theorem State.updPort_flash (n : Nat) (f : Port → Port) (s : State) : (s.updPort n f).flash = s.flash := rfl
@[simp] theorem State.updPort_staging (n : Nat) (f : Port → Port) (s : State) : (s.updPort n f).staging = s.staging := rfl
@[simp] theorem State.updPort_eng (n : Nat) (f : Port → Port) (s : State) : (s.updPort n f).eng = s.eng := rfl
@[simp] theorem State.updPort_slots (n : Nat) (f : Port → Port) (s : State) : (s.updPort n f).slots = s.slots := rfl
@[simp] theorem State.updPort_rcl (n : Nat) (f : Port → Port) (s : State) : (s.updPort n f).rcl = s.rcl := rfl
@[simp] theorem State.updPort_cmds (n : Nat) (f : Port → Port) (s : State) : (s.updPort n f).cmds = s.cmds := rfl
@[simp] theorem State.updPort_map (n : Nat) (f : Port → Port) (s : State) : (s.updPort n f).map = s.map := rfl
@[simp] theorem State.updPort_fab (n : Nat) (f : Port → Port) (s : State) : (s.updPort n f).fab = s.fab := rfl
@[simp] theorem State.updPort_out (n : Nat) (f : Port → Port) (s : State) : (s.updPort n f).out = s.out := rfl
@[simp] theorem State.updPort_freeCtr (n : Nat) (f : Port → Port) (s : State) : (s.updPort n f).freeCtr = s.freeCtr := rfl
@[simp] theorem State.updPort_pending (n : Nat) (f : Port → Port) (s : State) : (s.updPort n f).pending = s.pending := rfl

/-! ### `State.updChain` -/

@[simp] theorem State.updChain_pow (p n : Nat) (f : Chain → Chain) (s : State) : (s.updChain p n f).pow = s.pow := rfl
@[simp] theorem State.updChain_boot (p n : Nat) (f : Chain → Chain) (s : State) : (s.updChain p n f).boot = s.boot := rfl
@[simp] theorem State.updChain_regs (p n : Nat) (f : Chain → Chain) (s : State) : (s.updChain p n f).regs = s.regs := rfl
@[simp] theorem State.updChain_log (p n : Nat) (f : Chain → Chain) (s : State) : (s.updChain p n f).log = s.log := rfl
@[simp] theorem State.updChain_tel (p n : Nat) (f : Chain → Chain) (s : State) : (s.updChain p n f).tel = s.tel := rfl
@[simp] theorem State.updChain_i3c (p n : Nat) (f : Chain → Chain) (s : State) : (s.updChain p n f).i3c = s.i3c := rfl
@[simp] theorem State.updChain_fingerprint (p n : Nat) (f : Chain → Chain) (s : State) : (s.updChain p n f).fingerprint = s.fingerprint := rfl
@[simp] theorem State.updChain_ptns (p n : Nat) (f : Chain → Chain) (s : State) : (s.updChain p n f).ptns = s.ptns := rfl
@[simp] theorem State.updChain_ptnGen (p n : Nat) (f : Chain → Chain) (s : State) : (s.updChain p n f).ptnGen = s.ptnGen := rfl
@[simp] theorem State.updChain_host_ctxs (p n : Nat) (f : Chain → Chain) (s : State) : (s.updChain p n f).host.ctxs = s.host.ctxs := rfl
@[simp] theorem State.updChain_host_queues (p n : Nat) (f : Chain → Chain) (s : State) : (s.updChain p n f).host.queues = s.host.queues := rfl
@[simp] theorem State.updChain_host_sessions (p n : Nat) (f : Chain → Chain) (s : State) : (s.updChain p n f).host.sessions = s.host.sessions := rfl
@[simp] theorem State.updChain_host_ports (p n : Nat) (f : Chain → Chain) (s : State) : (s.updChain p n f).host.ports = s.host.ports := rfl
@[simp] theorem State.updChain_host_mportUp (p n : Nat) (f : Chain → Chain) (s : State) : (s.updChain p n f).host.mportUp = s.host.mportUp := rfl
@[simp] theorem State.updChain_host_keySerials (p n : Nat) (f : Chain → Chain) (s : State) : (s.updChain p n f).host.keySerials = s.host.keySerials := rfl
@[simp] theorem State.updChain_trust (p n : Nat) (f : Chain → Chain) (s : State) : (s.updChain p n f).trust = s.trust := rfl
@[simp] theorem State.updChain_store (p n : Nat) (f : Chain → Chain) (s : State) : (s.updChain p n f).store = s.store := rfl
@[simp] theorem State.updChain_hbm (p n : Nat) (f : Chain → Chain) (s : State) : (s.updChain p n f).hbm = s.hbm := rfl
@[simp] theorem State.updChain_flash (p n : Nat) (f : Chain → Chain) (s : State) : (s.updChain p n f).flash = s.flash := rfl
@[simp] theorem State.updChain_staging (p n : Nat) (f : Chain → Chain) (s : State) : (s.updChain p n f).staging = s.staging := rfl
@[simp] theorem State.updChain_eng (p n : Nat) (f : Chain → Chain) (s : State) : (s.updChain p n f).eng = s.eng := rfl
@[simp] theorem State.updChain_slots (p n : Nat) (f : Chain → Chain) (s : State) : (s.updChain p n f).slots = s.slots := rfl
@[simp] theorem State.updChain_rcl (p n : Nat) (f : Chain → Chain) (s : State) : (s.updChain p n f).rcl = s.rcl := rfl
@[simp] theorem State.updChain_cmds (p n : Nat) (f : Chain → Chain) (s : State) : (s.updChain p n f).cmds = s.cmds := rfl
@[simp] theorem State.updChain_map (p n : Nat) (f : Chain → Chain) (s : State) : (s.updChain p n f).map = s.map := rfl
@[simp] theorem State.updChain_fab (p n : Nat) (f : Chain → Chain) (s : State) : (s.updChain p n f).fab = s.fab := rfl
@[simp] theorem State.updChain_out (p n : Nat) (f : Chain → Chain) (s : State) : (s.updChain p n f).out = s.out := rfl
@[simp] theorem State.updChain_freeCtr (p n : Nat) (f : Chain → Chain) (s : State) : (s.updChain p n f).freeCtr = s.freeCtr := rfl
@[simp] theorem State.updChain_pending (p n : Nat) (f : Chain → Chain) (s : State) : (s.updChain p n f).pending = s.pending := rfl

/-! ### `State.setSeq` -/

@[simp] theorem State.setSeq_pow (q : Seq) (s : State) : (s.setSeq q).pow = s.pow := rfl
@[simp] theorem State.setSeq_boot (q : Seq) (s : State) : (s.setSeq q).boot = s.boot := rfl
@[simp] theorem State.setSeq_regs (q : Seq) (s : State) : (s.setSeq q).regs = s.regs := rfl
@[simp] theorem State.setSeq_log (q : Seq) (s : State) : (s.setSeq q).log = s.log := rfl
@[simp] theorem State.setSeq_tel (q : Seq) (s : State) : (s.setSeq q).tel = s.tel := rfl
@[simp] theorem State.setSeq_i3c (q : Seq) (s : State) : (s.setSeq q).i3c = s.i3c := rfl
@[simp] theorem State.setSeq_fingerprint (q : Seq) (s : State) : (s.setSeq q).fingerprint = s.fingerprint := rfl
@[simp] theorem State.setSeq_ptns (q : Seq) (s : State) : (s.setSeq q).ptns = s.ptns := rfl
@[simp] theorem State.setSeq_ptnGen (q : Seq) (s : State) : (s.setSeq q).ptnGen = s.ptnGen := rfl
@[simp] theorem State.setSeq_host (q : Seq) (s : State) : (s.setSeq q).host = s.host := rfl
@[simp] theorem State.setSeq_trust (q : Seq) (s : State) : (s.setSeq q).trust = s.trust := rfl
@[simp] theorem State.setSeq_store_nss (q : Seq) (s : State) : (s.setSeq q).store.nss = s.store.nss := rfl
@[simp] theorem State.setSeq_store_pages (q : Seq) (s : State) : (s.setSeq q).store.pages = s.store.pages := rfl
@[simp] theorem State.setSeq_store_gens (q : Seq) (s : State) : (s.setSeq q).store.gens = s.store.gens := rfl
@[simp] theorem State.setSeq_store_journal (q : Seq) (s : State) : (s.setSeq q).store.journal = s.store.journal := rfl
@[simp] theorem State.setSeq_store_appendRecs (q : Seq) (s : State) : (s.setSeq q).store.appendRecs = s.store.appendRecs := rfl
@[simp] theorem State.setSeq_store_cmdRecs (q : Seq) (s : State) : (s.setSeq q).store.cmdRecs = s.store.cmdRecs := rfl
@[simp] theorem State.setSeq_store_grads (q : Seq) (s : State) : (s.setSeq q).store.grads = s.store.grads := rfl
@[simp] theorem State.setSeq_store_remoteRefs (q : Seq) (s : State) : (s.setSeq q).store.remoteRefs = s.store.remoteRefs := rfl
@[simp] theorem State.setSeq_store_fetches (q : Seq) (s : State) : (s.setSeq q).store.fetches = s.store.fetches := rfl
@[simp] theorem State.setSeq_store_gradSeen (q : Seq) (s : State) : (s.setSeq q).store.gradSeen = s.store.gradSeen := rfl
@[simp] theorem State.setSeq_hbm (q : Seq) (s : State) : (s.setSeq q).hbm = s.hbm := rfl
@[simp] theorem State.setSeq_flash (q : Seq) (s : State) : (s.setSeq q).flash = s.flash := rfl
@[simp] theorem State.setSeq_staging (q : Seq) (s : State) : (s.setSeq q).staging = s.staging := rfl
@[simp] theorem State.setSeq_eng (q : Seq) (s : State) : (s.setSeq q).eng = s.eng := rfl
@[simp] theorem State.setSeq_slots (q : Seq) (s : State) : (s.setSeq q).slots = s.slots := rfl
@[simp] theorem State.setSeq_rcl (q : Seq) (s : State) : (s.setSeq q).rcl = s.rcl := rfl
@[simp] theorem State.setSeq_cmds (q : Seq) (s : State) : (s.setSeq q).cmds = s.cmds := rfl
@[simp] theorem State.setSeq_map (q : Seq) (s : State) : (s.setSeq q).map = s.map := rfl
@[simp] theorem State.setSeq_fab (q : Seq) (s : State) : (s.setSeq q).fab = s.fab := rfl
@[simp] theorem State.setSeq_out (q : Seq) (s : State) : (s.setSeq q).out = s.out := rfl
@[simp] theorem State.setSeq_freeCtr (q : Seq) (s : State) : (s.setSeq q).freeCtr = s.freeCtr := rfl
@[simp] theorem State.setSeq_pending (q : Seq) (s : State) : (s.setSeq q).pending = s.pending := rfl

/-! ### `State.updSeq` -/

@[simp] theorem State.updSeq_pow (h : Handle) (f : Seq → Seq) (s : State) : (s.updSeq h f).pow = s.pow := rfl
@[simp] theorem State.updSeq_boot (h : Handle) (f : Seq → Seq) (s : State) : (s.updSeq h f).boot = s.boot := rfl
@[simp] theorem State.updSeq_regs (h : Handle) (f : Seq → Seq) (s : State) : (s.updSeq h f).regs = s.regs := rfl
@[simp] theorem State.updSeq_log (h : Handle) (f : Seq → Seq) (s : State) : (s.updSeq h f).log = s.log := rfl
@[simp] theorem State.updSeq_tel (h : Handle) (f : Seq → Seq) (s : State) : (s.updSeq h f).tel = s.tel := rfl
@[simp] theorem State.updSeq_i3c (h : Handle) (f : Seq → Seq) (s : State) : (s.updSeq h f).i3c = s.i3c := rfl
@[simp] theorem State.updSeq_fingerprint (h : Handle) (f : Seq → Seq) (s : State) : (s.updSeq h f).fingerprint = s.fingerprint := rfl
@[simp] theorem State.updSeq_ptns (h : Handle) (f : Seq → Seq) (s : State) : (s.updSeq h f).ptns = s.ptns := rfl
@[simp] theorem State.updSeq_ptnGen (h : Handle) (f : Seq → Seq) (s : State) : (s.updSeq h f).ptnGen = s.ptnGen := rfl
@[simp] theorem State.updSeq_host (h : Handle) (f : Seq → Seq) (s : State) : (s.updSeq h f).host = s.host := rfl
@[simp] theorem State.updSeq_trust (h : Handle) (f : Seq → Seq) (s : State) : (s.updSeq h f).trust = s.trust := rfl
@[simp] theorem State.updSeq_store_nss (h : Handle) (f : Seq → Seq) (s : State) : (s.updSeq h f).store.nss = s.store.nss := rfl
@[simp] theorem State.updSeq_store_pages (h : Handle) (f : Seq → Seq) (s : State) : (s.updSeq h f).store.pages = s.store.pages := rfl
@[simp] theorem State.updSeq_store_gens (h : Handle) (f : Seq → Seq) (s : State) : (s.updSeq h f).store.gens = s.store.gens := rfl
@[simp] theorem State.updSeq_store_journal (h : Handle) (f : Seq → Seq) (s : State) : (s.updSeq h f).store.journal = s.store.journal := rfl
@[simp] theorem State.updSeq_store_appendRecs (h : Handle) (f : Seq → Seq) (s : State) : (s.updSeq h f).store.appendRecs = s.store.appendRecs := rfl
@[simp] theorem State.updSeq_store_cmdRecs (h : Handle) (f : Seq → Seq) (s : State) : (s.updSeq h f).store.cmdRecs = s.store.cmdRecs := rfl
@[simp] theorem State.updSeq_store_grads (h : Handle) (f : Seq → Seq) (s : State) : (s.updSeq h f).store.grads = s.store.grads := rfl
@[simp] theorem State.updSeq_store_remoteRefs (h : Handle) (f : Seq → Seq) (s : State) : (s.updSeq h f).store.remoteRefs = s.store.remoteRefs := rfl
@[simp] theorem State.updSeq_store_fetches (h : Handle) (f : Seq → Seq) (s : State) : (s.updSeq h f).store.fetches = s.store.fetches := rfl
@[simp] theorem State.updSeq_store_gradSeen (h : Handle) (f : Seq → Seq) (s : State) : (s.updSeq h f).store.gradSeen = s.store.gradSeen := rfl
@[simp] theorem State.updSeq_hbm (h : Handle) (f : Seq → Seq) (s : State) : (s.updSeq h f).hbm = s.hbm := rfl
@[simp] theorem State.updSeq_flash (h : Handle) (f : Seq → Seq) (s : State) : (s.updSeq h f).flash = s.flash := rfl
@[simp] theorem State.updSeq_staging (h : Handle) (f : Seq → Seq) (s : State) : (s.updSeq h f).staging = s.staging := rfl
@[simp] theorem State.updSeq_eng (h : Handle) (f : Seq → Seq) (s : State) : (s.updSeq h f).eng = s.eng := rfl
@[simp] theorem State.updSeq_slots (h : Handle) (f : Seq → Seq) (s : State) : (s.updSeq h f).slots = s.slots := rfl
@[simp] theorem State.updSeq_rcl (h : Handle) (f : Seq → Seq) (s : State) : (s.updSeq h f).rcl = s.rcl := rfl
@[simp] theorem State.updSeq_cmds (h : Handle) (f : Seq → Seq) (s : State) : (s.updSeq h f).cmds = s.cmds := rfl
@[simp] theorem State.updSeq_map (h : Handle) (f : Seq → Seq) (s : State) : (s.updSeq h f).map = s.map := rfl
@[simp] theorem State.updSeq_fab (h : Handle) (f : Seq → Seq) (s : State) : (s.updSeq h f).fab = s.fab := rfl
@[simp] theorem State.updSeq_out (h : Handle) (f : Seq → Seq) (s : State) : (s.updSeq h f).out = s.out := rfl
@[simp] theorem State.updSeq_freeCtr (h : Handle) (f : Seq → Seq) (s : State) : (s.updSeq h f).freeCtr = s.freeCtr := rfl
@[simp] theorem State.updSeq_pending (h : Handle) (f : Seq → Seq) (s : State) : (s.updSeq h f).pending = s.pending := rfl

/-! ### `State.updLayer` -/

@[simp] theorem State.updLayer_pow (h : Handle) (l : Nat) (f : Layer → Layer) (s : State) : (s.updLayer h l f).pow = s.pow := rfl
@[simp] theorem State.updLayer_boot (h : Handle) (l : Nat) (f : Layer → Layer) (s : State) : (s.updLayer h l f).boot = s.boot := rfl
@[simp] theorem State.updLayer_regs (h : Handle) (l : Nat) (f : Layer → Layer) (s : State) : (s.updLayer h l f).regs = s.regs := rfl
@[simp] theorem State.updLayer_log (h : Handle) (l : Nat) (f : Layer → Layer) (s : State) : (s.updLayer h l f).log = s.log := rfl
@[simp] theorem State.updLayer_tel (h : Handle) (l : Nat) (f : Layer → Layer) (s : State) : (s.updLayer h l f).tel = s.tel := rfl
@[simp] theorem State.updLayer_i3c (h : Handle) (l : Nat) (f : Layer → Layer) (s : State) : (s.updLayer h l f).i3c = s.i3c := rfl
@[simp] theorem State.updLayer_fingerprint (h : Handle) (l : Nat) (f : Layer → Layer) (s : State) : (s.updLayer h l f).fingerprint = s.fingerprint := rfl
@[simp] theorem State.updLayer_ptns (h : Handle) (l : Nat) (f : Layer → Layer) (s : State) : (s.updLayer h l f).ptns = s.ptns := rfl
@[simp] theorem State.updLayer_ptnGen (h : Handle) (l : Nat) (f : Layer → Layer) (s : State) : (s.updLayer h l f).ptnGen = s.ptnGen := rfl
@[simp] theorem State.updLayer_host (h : Handle) (l : Nat) (f : Layer → Layer) (s : State) : (s.updLayer h l f).host = s.host := rfl
@[simp] theorem State.updLayer_trust (h : Handle) (l : Nat) (f : Layer → Layer) (s : State) : (s.updLayer h l f).trust = s.trust := rfl
@[simp] theorem State.updLayer_store_nss (h : Handle) (l : Nat) (f : Layer → Layer) (s : State) : (s.updLayer h l f).store.nss = s.store.nss := rfl
@[simp] theorem State.updLayer_store_pages (h : Handle) (l : Nat) (f : Layer → Layer) (s : State) : (s.updLayer h l f).store.pages = s.store.pages := rfl
@[simp] theorem State.updLayer_store_gens (h : Handle) (l : Nat) (f : Layer → Layer) (s : State) : (s.updLayer h l f).store.gens = s.store.gens := rfl
@[simp] theorem State.updLayer_store_journal (h : Handle) (l : Nat) (f : Layer → Layer) (s : State) : (s.updLayer h l f).store.journal = s.store.journal := rfl
@[simp] theorem State.updLayer_store_appendRecs (h : Handle) (l : Nat) (f : Layer → Layer) (s : State) : (s.updLayer h l f).store.appendRecs = s.store.appendRecs := rfl
@[simp] theorem State.updLayer_store_cmdRecs (h : Handle) (l : Nat) (f : Layer → Layer) (s : State) : (s.updLayer h l f).store.cmdRecs = s.store.cmdRecs := rfl
@[simp] theorem State.updLayer_store_grads (h : Handle) (l : Nat) (f : Layer → Layer) (s : State) : (s.updLayer h l f).store.grads = s.store.grads := rfl
@[simp] theorem State.updLayer_store_remoteRefs (h : Handle) (l : Nat) (f : Layer → Layer) (s : State) : (s.updLayer h l f).store.remoteRefs = s.store.remoteRefs := rfl
@[simp] theorem State.updLayer_store_fetches (h : Handle) (l : Nat) (f : Layer → Layer) (s : State) : (s.updLayer h l f).store.fetches = s.store.fetches := rfl
@[simp] theorem State.updLayer_store_gradSeen (h : Handle) (l : Nat) (f : Layer → Layer) (s : State) : (s.updLayer h l f).store.gradSeen = s.store.gradSeen := rfl
@[simp] theorem State.updLayer_hbm (h : Handle) (l : Nat) (f : Layer → Layer) (s : State) : (s.updLayer h l f).hbm = s.hbm := rfl
@[simp] theorem State.updLayer_flash (h : Handle) (l : Nat) (f : Layer → Layer) (s : State) : (s.updLayer h l f).flash = s.flash := rfl
@[simp] theorem State.updLayer_staging (h : Handle) (l : Nat) (f : Layer → Layer) (s : State) : (s.updLayer h l f).staging = s.staging := rfl
@[simp] theorem State.updLayer_eng (h : Handle) (l : Nat) (f : Layer → Layer) (s : State) : (s.updLayer h l f).eng = s.eng := rfl
@[simp] theorem State.updLayer_slots (h : Handle) (l : Nat) (f : Layer → Layer) (s : State) : (s.updLayer h l f).slots = s.slots := rfl
@[simp] theorem State.updLayer_rcl (h : Handle) (l : Nat) (f : Layer → Layer) (s : State) : (s.updLayer h l f).rcl = s.rcl := rfl
@[simp] theorem State.updLayer_cmds (h : Handle) (l : Nat) (f : Layer → Layer) (s : State) : (s.updLayer h l f).cmds = s.cmds := rfl
@[simp] theorem State.updLayer_map (h : Handle) (l : Nat) (f : Layer → Layer) (s : State) : (s.updLayer h l f).map = s.map := rfl
@[simp] theorem State.updLayer_fab (h : Handle) (l : Nat) (f : Layer → Layer) (s : State) : (s.updLayer h l f).fab = s.fab := rfl
@[simp] theorem State.updLayer_out (h : Handle) (l : Nat) (f : Layer → Layer) (s : State) : (s.updLayer h l f).out = s.out := rfl
@[simp] theorem State.updLayer_freeCtr (h : Handle) (l : Nat) (f : Layer → Layer) (s : State) : (s.updLayer h l f).freeCtr = s.freeCtr := rfl
@[simp] theorem State.updLayer_pending (h : Handle) (l : Nat) (f : Layer → Layer) (s : State) : (s.updLayer h l f).pending = s.pending := rfl

/-! ### `State.updPage` -/

@[simp] theorem State.updPage_pow (h : Handle) (f : Page → Page) (s : State) : (s.updPage h f).pow = s.pow := rfl
@[simp] theorem State.updPage_boot (h : Handle) (f : Page → Page) (s : State) : (s.updPage h f).boot = s.boot := rfl
@[simp] theorem State.updPage_regs (h : Handle) (f : Page → Page) (s : State) : (s.updPage h f).regs = s.regs := rfl
@[simp] theorem State.updPage_log (h : Handle) (f : Page → Page) (s : State) : (s.updPage h f).log = s.log := rfl
@[simp] theorem State.updPage_tel (h : Handle) (f : Page → Page) (s : State) : (s.updPage h f).tel = s.tel := rfl
@[simp] theorem State.updPage_i3c (h : Handle) (f : Page → Page) (s : State) : (s.updPage h f).i3c = s.i3c := rfl
@[simp] theorem State.updPage_fingerprint (h : Handle) (f : Page → Page) (s : State) : (s.updPage h f).fingerprint = s.fingerprint := rfl
@[simp] theorem State.updPage_ptns (h : Handle) (f : Page → Page) (s : State) : (s.updPage h f).ptns = s.ptns := rfl
@[simp] theorem State.updPage_ptnGen (h : Handle) (f : Page → Page) (s : State) : (s.updPage h f).ptnGen = s.ptnGen := rfl
@[simp] theorem State.updPage_host (h : Handle) (f : Page → Page) (s : State) : (s.updPage h f).host = s.host := rfl
@[simp] theorem State.updPage_trust (h : Handle) (f : Page → Page) (s : State) : (s.updPage h f).trust = s.trust := rfl
@[simp] theorem State.updPage_store_nss (h : Handle) (f : Page → Page) (s : State) : (s.updPage h f).store.nss = s.store.nss := rfl
@[simp] theorem State.updPage_store_seqs (h : Handle) (f : Page → Page) (s : State) : (s.updPage h f).store.seqs = s.store.seqs := rfl
@[simp] theorem State.updPage_store_gens (h : Handle) (f : Page → Page) (s : State) : (s.updPage h f).store.gens = s.store.gens := rfl
@[simp] theorem State.updPage_store_journal (h : Handle) (f : Page → Page) (s : State) : (s.updPage h f).store.journal = s.store.journal := rfl
@[simp] theorem State.updPage_store_appendRecs (h : Handle) (f : Page → Page) (s : State) : (s.updPage h f).store.appendRecs = s.store.appendRecs := rfl
@[simp] theorem State.updPage_store_cmdRecs (h : Handle) (f : Page → Page) (s : State) : (s.updPage h f).store.cmdRecs = s.store.cmdRecs := rfl
@[simp] theorem State.updPage_store_grads (h : Handle) (f : Page → Page) (s : State) : (s.updPage h f).store.grads = s.store.grads := rfl
@[simp] theorem State.updPage_store_remoteRefs (h : Handle) (f : Page → Page) (s : State) : (s.updPage h f).store.remoteRefs = s.store.remoteRefs := rfl
@[simp] theorem State.updPage_store_fetches (h : Handle) (f : Page → Page) (s : State) : (s.updPage h f).store.fetches = s.store.fetches := rfl
@[simp] theorem State.updPage_store_gradSeen (h : Handle) (f : Page → Page) (s : State) : (s.updPage h f).store.gradSeen = s.store.gradSeen := rfl
@[simp] theorem State.updPage_hbm (h : Handle) (f : Page → Page) (s : State) : (s.updPage h f).hbm = s.hbm := rfl
@[simp] theorem State.updPage_flash (h : Handle) (f : Page → Page) (s : State) : (s.updPage h f).flash = s.flash := rfl
@[simp] theorem State.updPage_staging (h : Handle) (f : Page → Page) (s : State) : (s.updPage h f).staging = s.staging := rfl
@[simp] theorem State.updPage_eng (h : Handle) (f : Page → Page) (s : State) : (s.updPage h f).eng = s.eng := rfl
@[simp] theorem State.updPage_slots (h : Handle) (f : Page → Page) (s : State) : (s.updPage h f).slots = s.slots := rfl
@[simp] theorem State.updPage_rcl (h : Handle) (f : Page → Page) (s : State) : (s.updPage h f).rcl = s.rcl := rfl
@[simp] theorem State.updPage_cmds (h : Handle) (f : Page → Page) (s : State) : (s.updPage h f).cmds = s.cmds := rfl
@[simp] theorem State.updPage_map (h : Handle) (f : Page → Page) (s : State) : (s.updPage h f).map = s.map := rfl
@[simp] theorem State.updPage_fab (h : Handle) (f : Page → Page) (s : State) : (s.updPage h f).fab = s.fab := rfl
@[simp] theorem State.updPage_out (h : Handle) (f : Page → Page) (s : State) : (s.updPage h f).out = s.out := rfl
@[simp] theorem State.updPage_freeCtr (h : Handle) (f : Page → Page) (s : State) : (s.updPage h f).freeCtr = s.freeCtr := rfl
@[simp] theorem State.updPage_pending (h : Handle) (f : Page → Page) (s : State) : (s.updPage h f).pending = s.pending := rfl

/-! ### `State.updSegment` -/

@[simp] theorem State.updSegment_pow (n : SegName) (f : Segment → Segment) (s : State) : (s.updSegment n f).pow = s.pow := rfl
@[simp] theorem State.updSegment_boot (n : SegName) (f : Segment → Segment) (s : State) : (s.updSegment n f).boot = s.boot := rfl
@[simp] theorem State.updSegment_regs (n : SegName) (f : Segment → Segment) (s : State) : (s.updSegment n f).regs = s.regs := rfl
@[simp] theorem State.updSegment_log (n : SegName) (f : Segment → Segment) (s : State) : (s.updSegment n f).log = s.log := rfl
@[simp] theorem State.updSegment_tel (n : SegName) (f : Segment → Segment) (s : State) : (s.updSegment n f).tel = s.tel := rfl
@[simp] theorem State.updSegment_i3c (n : SegName) (f : Segment → Segment) (s : State) : (s.updSegment n f).i3c = s.i3c := rfl
@[simp] theorem State.updSegment_fingerprint (n : SegName) (f : Segment → Segment) (s : State) : (s.updSegment n f).fingerprint = s.fingerprint := rfl
@[simp] theorem State.updSegment_ptns (n : SegName) (f : Segment → Segment) (s : State) : (s.updSegment n f).ptns = s.ptns := rfl
@[simp] theorem State.updSegment_ptnGen (n : SegName) (f : Segment → Segment) (s : State) : (s.updSegment n f).ptnGen = s.ptnGen := rfl
@[simp] theorem State.updSegment_host (n : SegName) (f : Segment → Segment) (s : State) : (s.updSegment n f).host = s.host := rfl
@[simp] theorem State.updSegment_trust (n : SegName) (f : Segment → Segment) (s : State) : (s.updSegment n f).trust = s.trust := rfl
@[simp] theorem State.updSegment_store (n : SegName) (f : Segment → Segment) (s : State) : (s.updSegment n f).store = s.store := rfl
@[simp] theorem State.updSegment_hbm (n : SegName) (f : Segment → Segment) (s : State) : (s.updSegment n f).hbm = s.hbm := rfl
@[simp] theorem State.updSegment_flash (n : SegName) (f : Segment → Segment) (s : State) : (s.updSegment n f).flash = s.flash := rfl
@[simp] theorem State.updSegment_staging (n : SegName) (f : Segment → Segment) (s : State) : (s.updSegment n f).staging = s.staging := rfl
@[simp] theorem State.updSegment_eng (n : SegName) (f : Segment → Segment) (s : State) : (s.updSegment n f).eng = s.eng := rfl
@[simp] theorem State.updSegment_slots (n : SegName) (f : Segment → Segment) (s : State) : (s.updSegment n f).slots = s.slots := rfl
@[simp] theorem State.updSegment_rcl_jobs (n : SegName) (f : Segment → Segment) (s : State) : (s.updSegment n f).rcl.jobs = s.rcl.jobs := rfl
@[simp] theorem State.updSegment_cmds (n : SegName) (f : Segment → Segment) (s : State) : (s.updSegment n f).cmds = s.cmds := rfl
@[simp] theorem State.updSegment_map (n : SegName) (f : Segment → Segment) (s : State) : (s.updSegment n f).map = s.map := rfl
@[simp] theorem State.updSegment_fab (n : SegName) (f : Segment → Segment) (s : State) : (s.updSegment n f).fab = s.fab := rfl
@[simp] theorem State.updSegment_out (n : SegName) (f : Segment → Segment) (s : State) : (s.updSegment n f).out = s.out := rfl
@[simp] theorem State.updSegment_freeCtr (n : SegName) (f : Segment → Segment) (s : State) : (s.updSegment n f).freeCtr = s.freeCtr := rfl
@[simp] theorem State.updSegment_pending (n : SegName) (f : Segment → Segment) (s : State) : (s.updSegment n f).pending = s.pending := rfl

/-! ### `State.updStack` -/

@[simp] theorem State.updStack_pow (n : Nat) (f : Stack → Stack) (s : State) : (s.updStack n f).pow = s.pow := rfl
@[simp] theorem State.updStack_boot (n : Nat) (f : Stack → Stack) (s : State) : (s.updStack n f).boot = s.boot := rfl
@[simp] theorem State.updStack_regs (n : Nat) (f : Stack → Stack) (s : State) : (s.updStack n f).regs = s.regs := rfl
@[simp] theorem State.updStack_log (n : Nat) (f : Stack → Stack) (s : State) : (s.updStack n f).log = s.log := rfl
@[simp] theorem State.updStack_tel (n : Nat) (f : Stack → Stack) (s : State) : (s.updStack n f).tel = s.tel := rfl
@[simp] theorem State.updStack_i3c (n : Nat) (f : Stack → Stack) (s : State) : (s.updStack n f).i3c = s.i3c := rfl
@[simp] theorem State.updStack_fingerprint (n : Nat) (f : Stack → Stack) (s : State) : (s.updStack n f).fingerprint = s.fingerprint := rfl
@[simp] theorem State.updStack_ptns (n : Nat) (f : Stack → Stack) (s : State) : (s.updStack n f).ptns = s.ptns := rfl
@[simp] theorem State.updStack_ptnGen (n : Nat) (f : Stack → Stack) (s : State) : (s.updStack n f).ptnGen = s.ptnGen := rfl
@[simp] theorem State.updStack_host (n : Nat) (f : Stack → Stack) (s : State) : (s.updStack n f).host = s.host := rfl
@[simp] theorem State.updStack_trust (n : Nat) (f : Stack → Stack) (s : State) : (s.updStack n f).trust = s.trust := rfl
@[simp] theorem State.updStack_store (n : Nat) (f : Stack → Stack) (s : State) : (s.updStack n f).store = s.store := rfl
@[simp] theorem State.updStack_flash (n : Nat) (f : Stack → Stack) (s : State) : (s.updStack n f).flash = s.flash := rfl
@[simp] theorem State.updStack_staging (n : Nat) (f : Stack → Stack) (s : State) : (s.updStack n f).staging = s.staging := rfl
@[simp] theorem State.updStack_eng (n : Nat) (f : Stack → Stack) (s : State) : (s.updStack n f).eng = s.eng := rfl
@[simp] theorem State.updStack_slots (n : Nat) (f : Stack → Stack) (s : State) : (s.updStack n f).slots = s.slots := rfl
@[simp] theorem State.updStack_rcl (n : Nat) (f : Stack → Stack) (s : State) : (s.updStack n f).rcl = s.rcl := rfl
@[simp] theorem State.updStack_cmds (n : Nat) (f : Stack → Stack) (s : State) : (s.updStack n f).cmds = s.cmds := rfl
@[simp] theorem State.updStack_map (n : Nat) (f : Stack → Stack) (s : State) : (s.updStack n f).map = s.map := rfl
@[simp] theorem State.updStack_fab (n : Nat) (f : Stack → Stack) (s : State) : (s.updStack n f).fab = s.fab := rfl
@[simp] theorem State.updStack_out (n : Nat) (f : Stack → Stack) (s : State) : (s.updStack n f).out = s.out := rfl
@[simp] theorem State.updStack_freeCtr (n : Nat) (f : Stack → Stack) (s : State) : (s.updStack n f).freeCtr = s.freeCtr := rfl
@[simp] theorem State.updStack_pending (n : Nat) (f : Stack → Stack) (s : State) : (s.updStack n f).pending = s.pending := rfl

/-! ### `State.updDie` -/

@[simp] theorem State.updDie_pow (d : DieId) (f : FDie → FDie) (s : State) : (s.updDie d f).pow = s.pow := rfl
@[simp] theorem State.updDie_boot (d : DieId) (f : FDie → FDie) (s : State) : (s.updDie d f).boot = s.boot := rfl
@[simp] theorem State.updDie_regs (d : DieId) (f : FDie → FDie) (s : State) : (s.updDie d f).regs = s.regs := rfl
@[simp] theorem State.updDie_log (d : DieId) (f : FDie → FDie) (s : State) : (s.updDie d f).log = s.log := rfl
@[simp] theorem State.updDie_tel (d : DieId) (f : FDie → FDie) (s : State) : (s.updDie d f).tel = s.tel := rfl
@[simp] theorem State.updDie_i3c (d : DieId) (f : FDie → FDie) (s : State) : (s.updDie d f).i3c = s.i3c := rfl
@[simp] theorem State.updDie_fingerprint (d : DieId) (f : FDie → FDie) (s : State) : (s.updDie d f).fingerprint = s.fingerprint := rfl
@[simp] theorem State.updDie_ptns (d : DieId) (f : FDie → FDie) (s : State) : (s.updDie d f).ptns = s.ptns := rfl
@[simp] theorem State.updDie_ptnGen (d : DieId) (f : FDie → FDie) (s : State) : (s.updDie d f).ptnGen = s.ptnGen := rfl
@[simp] theorem State.updDie_host (d : DieId) (f : FDie → FDie) (s : State) : (s.updDie d f).host = s.host := rfl
@[simp] theorem State.updDie_trust (d : DieId) (f : FDie → FDie) (s : State) : (s.updDie d f).trust = s.trust := rfl
@[simp] theorem State.updDie_store (d : DieId) (f : FDie → FDie) (s : State) : (s.updDie d f).store = s.store := rfl
@[simp] theorem State.updDie_hbm (d : DieId) (f : FDie → FDie) (s : State) : (s.updDie d f).hbm = s.hbm := rfl
@[simp] theorem State.updDie_flash_state (d : DieId) (f : FDie → FDie) (s : State) : (s.updDie d f).flash.state = s.flash.state := rfl
@[simp] theorem State.updDie_flash_chans (d : DieId) (f : FDie → FDie) (s : State) : (s.updDie d f).flash.chans = s.flash.chans := rfl
@[simp] theorem State.updDie_flash_blocks (d : DieId) (f : FDie → FDie) (s : State) : (s.updDie d f).flash.blocks = s.flash.blocks := rfl
@[simp] theorem State.updDie_flash_map (d : DieId) (f : FDie → FDie) (s : State) : (s.updDie d f).flash.map = s.flash.map := rfl
@[simp] theorem State.updDie_flash_dir (d : DieId) (f : FDie → FDie) (s : State) : (s.updDie d f).flash.dir = s.flash.dir := rfl
@[simp] theorem State.updDie_flash_leaves (d : DieId) (f : FDie → FDie) (s : State) : (s.updDie d f).flash.leaves = s.flash.leaves := rfl
@[simp] theorem State.updDie_flash_wseq (d : DieId) (f : FDie → FDie) (s : State) : (s.updDie d f).flash.wseq = s.flash.wseq := rfl
@[simp] theorem State.updDie_flash_unwritten (d : DieId) (f : FDie → FDie) (s : State) : (s.updDie d f).flash.unwritten = s.flash.unwritten := rfl
@[simp] theorem State.updDie_flash_unretired (d : DieId) (f : FDie → FDie) (s : State) : (s.updDie d f).flash.unretired = s.flash.unretired := rfl
@[simp] theorem State.updDie_flash_deltaTotal (d : DieId) (f : FDie → FDie) (s : State) : (s.updDie d f).flash.deltaTotal = s.flash.deltaTotal := rfl
@[simp] theorem State.updDie_flash_logged (d : DieId) (f : FDie → FDie) (s : State) : (s.updDie d f).flash.logged = s.flash.logged := rfl
@[simp] theorem State.updDie_flash_checkpoint (d : DieId) (f : FDie → FDie) (s : State) : (s.updDie d f).flash.checkpoint = s.flash.checkpoint := rfl
@[simp] theorem State.updDie_flash_anchorSeq (d : DieId) (f : FDie → FDie) (s : State) : (s.updDie d f).flash.anchorSeq = s.flash.anchorSeq := rfl
@[simp] theorem State.updDie_flash_consumed (d : DieId) (f : FDie → FDie) (s : State) : (s.updDie d f).flash.consumed = s.flash.consumed := rfl
@[simp] theorem State.updDie_flash_setA (d : DieId) (f : FDie → FDie) (s : State) : (s.updDie d f).flash.setA = s.flash.setA := rfl
@[simp] theorem State.updDie_flash_setB (d : DieId) (f : FDie → FDie) (s : State) : (s.updDie d f).flash.setB = s.flash.setB := rfl
@[simp] theorem State.updDie_flash_copying (d : DieId) (f : FDie → FDie) (s : State) : (s.updDie d f).flash.copying = s.flash.copying := rfl
@[simp] theorem State.updDie_flash_drafting (d : DieId) (f : FDie → FDie) (s : State) : (s.updDie d f).flash.drafting = s.flash.drafting := rfl
@[simp] theorem State.updDie_flash_draftQueue (d : DieId) (f : FDie → FDie) (s : State) : (s.updDie d f).flash.draftQueue = s.flash.draftQueue := rfl
@[simp] theorem State.updDie_flash_health (d : DieId) (f : FDie → FDie) (s : State) : (s.updDie d f).flash.health = s.flash.health := rfl
@[simp] theorem State.updDie_flash_stalled (d : DieId) (f : FDie → FDie) (s : State) : (s.updDie d f).flash.stalled = s.flash.stalled := rfl
@[simp] theorem State.updDie_flash_chanDrains (d : DieId) (f : FDie → FDie) (s : State) : (s.updDie d f).flash.chanDrains = s.flash.chanDrains := rfl
@[simp] theorem State.updDie_staging (d : DieId) (f : FDie → FDie) (s : State) : (s.updDie d f).staging = s.staging := rfl
@[simp] theorem State.updDie_eng (d : DieId) (f : FDie → FDie) (s : State) : (s.updDie d f).eng = s.eng := rfl
@[simp] theorem State.updDie_slots (d : DieId) (f : FDie → FDie) (s : State) : (s.updDie d f).slots = s.slots := rfl
@[simp] theorem State.updDie_rcl (d : DieId) (f : FDie → FDie) (s : State) : (s.updDie d f).rcl = s.rcl := rfl
@[simp] theorem State.updDie_cmds (d : DieId) (f : FDie → FDie) (s : State) : (s.updDie d f).cmds = s.cmds := rfl
@[simp] theorem State.updDie_map (d : DieId) (f : FDie → FDie) (s : State) : (s.updDie d f).map = s.map := rfl
@[simp] theorem State.updDie_fab (d : DieId) (f : FDie → FDie) (s : State) : (s.updDie d f).fab = s.fab := rfl
@[simp] theorem State.updDie_out (d : DieId) (f : FDie → FDie) (s : State) : (s.updDie d f).out = s.out := rfl
@[simp] theorem State.updDie_freeCtr (d : DieId) (f : FDie → FDie) (s : State) : (s.updDie d f).freeCtr = s.freeCtr := rfl
@[simp] theorem State.updDie_pending (d : DieId) (f : FDie → FDie) (s : State) : (s.updDie d f).pending = s.pending := rfl

/-! ### `State.updBlock` -/

@[simp] theorem State.updBlock_pow (d : DieId) (b : Nat) (f : FBlock → FBlock) (s : State) : (s.updBlock d b f).pow = s.pow := rfl
@[simp] theorem State.updBlock_boot (d : DieId) (b : Nat) (f : FBlock → FBlock) (s : State) : (s.updBlock d b f).boot = s.boot := rfl
@[simp] theorem State.updBlock_regs (d : DieId) (b : Nat) (f : FBlock → FBlock) (s : State) : (s.updBlock d b f).regs = s.regs := rfl
@[simp] theorem State.updBlock_log (d : DieId) (b : Nat) (f : FBlock → FBlock) (s : State) : (s.updBlock d b f).log = s.log := rfl
@[simp] theorem State.updBlock_tel (d : DieId) (b : Nat) (f : FBlock → FBlock) (s : State) : (s.updBlock d b f).tel = s.tel := rfl
@[simp] theorem State.updBlock_i3c (d : DieId) (b : Nat) (f : FBlock → FBlock) (s : State) : (s.updBlock d b f).i3c = s.i3c := rfl
@[simp] theorem State.updBlock_fingerprint (d : DieId) (b : Nat) (f : FBlock → FBlock) (s : State) : (s.updBlock d b f).fingerprint = s.fingerprint := rfl
@[simp] theorem State.updBlock_ptns (d : DieId) (b : Nat) (f : FBlock → FBlock) (s : State) : (s.updBlock d b f).ptns = s.ptns := rfl
@[simp] theorem State.updBlock_ptnGen (d : DieId) (b : Nat) (f : FBlock → FBlock) (s : State) : (s.updBlock d b f).ptnGen = s.ptnGen := rfl
@[simp] theorem State.updBlock_host (d : DieId) (b : Nat) (f : FBlock → FBlock) (s : State) : (s.updBlock d b f).host = s.host := rfl
@[simp] theorem State.updBlock_trust (d : DieId) (b : Nat) (f : FBlock → FBlock) (s : State) : (s.updBlock d b f).trust = s.trust := rfl
@[simp] theorem State.updBlock_store (d : DieId) (b : Nat) (f : FBlock → FBlock) (s : State) : (s.updBlock d b f).store = s.store := rfl
@[simp] theorem State.updBlock_hbm (d : DieId) (b : Nat) (f : FBlock → FBlock) (s : State) : (s.updBlock d b f).hbm = s.hbm := rfl
@[simp] theorem State.updBlock_flash_state (d : DieId) (b : Nat) (f : FBlock → FBlock) (s : State) : (s.updBlock d b f).flash.state = s.flash.state := rfl
@[simp] theorem State.updBlock_flash_chans (d : DieId) (b : Nat) (f : FBlock → FBlock) (s : State) : (s.updBlock d b f).flash.chans = s.flash.chans := rfl
@[simp] theorem State.updBlock_flash_dies (d : DieId) (b : Nat) (f : FBlock → FBlock) (s : State) : (s.updBlock d b f).flash.dies = s.flash.dies := rfl
@[simp] theorem State.updBlock_flash_map (d : DieId) (b : Nat) (f : FBlock → FBlock) (s : State) : (s.updBlock d b f).flash.map = s.flash.map := rfl
@[simp] theorem State.updBlock_flash_dir (d : DieId) (b : Nat) (f : FBlock → FBlock) (s : State) : (s.updBlock d b f).flash.dir = s.flash.dir := rfl
@[simp] theorem State.updBlock_flash_leaves (d : DieId) (b : Nat) (f : FBlock → FBlock) (s : State) : (s.updBlock d b f).flash.leaves = s.flash.leaves := rfl
@[simp] theorem State.updBlock_flash_wseq (d : DieId) (b : Nat) (f : FBlock → FBlock) (s : State) : (s.updBlock d b f).flash.wseq = s.flash.wseq := rfl
@[simp] theorem State.updBlock_flash_unwritten (d : DieId) (b : Nat) (f : FBlock → FBlock) (s : State) : (s.updBlock d b f).flash.unwritten = s.flash.unwritten := rfl
@[simp] theorem State.updBlock_flash_unretired (d : DieId) (b : Nat) (f : FBlock → FBlock) (s : State) : (s.updBlock d b f).flash.unretired = s.flash.unretired := rfl
@[simp] theorem State.updBlock_flash_deltaTotal (d : DieId) (b : Nat) (f : FBlock → FBlock) (s : State) : (s.updBlock d b f).flash.deltaTotal = s.flash.deltaTotal := rfl
@[simp] theorem State.updBlock_flash_logged (d : DieId) (b : Nat) (f : FBlock → FBlock) (s : State) : (s.updBlock d b f).flash.logged = s.flash.logged := rfl
@[simp] theorem State.updBlock_flash_checkpoint (d : DieId) (b : Nat) (f : FBlock → FBlock) (s : State) : (s.updBlock d b f).flash.checkpoint = s.flash.checkpoint := rfl
@[simp] theorem State.updBlock_flash_anchorSeq (d : DieId) (b : Nat) (f : FBlock → FBlock) (s : State) : (s.updBlock d b f).flash.anchorSeq = s.flash.anchorSeq := rfl
@[simp] theorem State.updBlock_flash_consumed (d : DieId) (b : Nat) (f : FBlock → FBlock) (s : State) : (s.updBlock d b f).flash.consumed = s.flash.consumed := rfl
@[simp] theorem State.updBlock_flash_setA (d : DieId) (b : Nat) (f : FBlock → FBlock) (s : State) : (s.updBlock d b f).flash.setA = s.flash.setA := rfl
@[simp] theorem State.updBlock_flash_setB (d : DieId) (b : Nat) (f : FBlock → FBlock) (s : State) : (s.updBlock d b f).flash.setB = s.flash.setB := rfl
@[simp] theorem State.updBlock_flash_copying (d : DieId) (b : Nat) (f : FBlock → FBlock) (s : State) : (s.updBlock d b f).flash.copying = s.flash.copying := rfl
@[simp] theorem State.updBlock_flash_drafting (d : DieId) (b : Nat) (f : FBlock → FBlock) (s : State) : (s.updBlock d b f).flash.drafting = s.flash.drafting := rfl
@[simp] theorem State.updBlock_flash_draftQueue (d : DieId) (b : Nat) (f : FBlock → FBlock) (s : State) : (s.updBlock d b f).flash.draftQueue = s.flash.draftQueue := rfl
@[simp] theorem State.updBlock_flash_health (d : DieId) (b : Nat) (f : FBlock → FBlock) (s : State) : (s.updBlock d b f).flash.health = s.flash.health := rfl
@[simp] theorem State.updBlock_flash_stalled (d : DieId) (b : Nat) (f : FBlock → FBlock) (s : State) : (s.updBlock d b f).flash.stalled = s.flash.stalled := rfl
@[simp] theorem State.updBlock_flash_chanDrains (d : DieId) (b : Nat) (f : FBlock → FBlock) (s : State) : (s.updBlock d b f).flash.chanDrains = s.flash.chanDrains := rfl
@[simp] theorem State.updBlock_staging (d : DieId) (b : Nat) (f : FBlock → FBlock) (s : State) : (s.updBlock d b f).staging = s.staging := rfl
@[simp] theorem State.updBlock_eng (d : DieId) (b : Nat) (f : FBlock → FBlock) (s : State) : (s.updBlock d b f).eng = s.eng := rfl
@[simp] theorem State.updBlock_slots (d : DieId) (b : Nat) (f : FBlock → FBlock) (s : State) : (s.updBlock d b f).slots = s.slots := rfl
@[simp] theorem State.updBlock_rcl (d : DieId) (b : Nat) (f : FBlock → FBlock) (s : State) : (s.updBlock d b f).rcl = s.rcl := rfl
@[simp] theorem State.updBlock_cmds (d : DieId) (b : Nat) (f : FBlock → FBlock) (s : State) : (s.updBlock d b f).cmds = s.cmds := rfl
@[simp] theorem State.updBlock_map (d : DieId) (b : Nat) (f : FBlock → FBlock) (s : State) : (s.updBlock d b f).map = s.map := rfl
@[simp] theorem State.updBlock_fab (d : DieId) (b : Nat) (f : FBlock → FBlock) (s : State) : (s.updBlock d b f).fab = s.fab := rfl
@[simp] theorem State.updBlock_out (d : DieId) (b : Nat) (f : FBlock → FBlock) (s : State) : (s.updBlock d b f).out = s.out := rfl
@[simp] theorem State.updBlock_freeCtr (d : DieId) (b : Nat) (f : FBlock → FBlock) (s : State) : (s.updBlock d b f).freeCtr = s.freeCtr := rfl
@[simp] theorem State.updBlock_pending (d : DieId) (b : Nat) (f : FBlock → FBlock) (s : State) : (s.updBlock d b f).pending = s.pending := rfl

/-! ### `State.updChan` -/

@[simp] theorem State.updChan_pow (n : Nat) (f : Chan → Chan) (s : State) : (s.updChan n f).pow = s.pow := rfl
@[simp] theorem State.updChan_boot (n : Nat) (f : Chan → Chan) (s : State) : (s.updChan n f).boot = s.boot := rfl
@[simp] theorem State.updChan_regs (n : Nat) (f : Chan → Chan) (s : State) : (s.updChan n f).regs = s.regs := rfl
@[simp] theorem State.updChan_log (n : Nat) (f : Chan → Chan) (s : State) : (s.updChan n f).log = s.log := rfl
@[simp] theorem State.updChan_tel (n : Nat) (f : Chan → Chan) (s : State) : (s.updChan n f).tel = s.tel := rfl
@[simp] theorem State.updChan_i3c (n : Nat) (f : Chan → Chan) (s : State) : (s.updChan n f).i3c = s.i3c := rfl
@[simp] theorem State.updChan_fingerprint (n : Nat) (f : Chan → Chan) (s : State) : (s.updChan n f).fingerprint = s.fingerprint := rfl
@[simp] theorem State.updChan_ptns (n : Nat) (f : Chan → Chan) (s : State) : (s.updChan n f).ptns = s.ptns := rfl
@[simp] theorem State.updChan_ptnGen (n : Nat) (f : Chan → Chan) (s : State) : (s.updChan n f).ptnGen = s.ptnGen := rfl
@[simp] theorem State.updChan_host (n : Nat) (f : Chan → Chan) (s : State) : (s.updChan n f).host = s.host := rfl
@[simp] theorem State.updChan_trust (n : Nat) (f : Chan → Chan) (s : State) : (s.updChan n f).trust = s.trust := rfl
@[simp] theorem State.updChan_store (n : Nat) (f : Chan → Chan) (s : State) : (s.updChan n f).store = s.store := rfl
@[simp] theorem State.updChan_hbm (n : Nat) (f : Chan → Chan) (s : State) : (s.updChan n f).hbm = s.hbm := rfl
@[simp] theorem State.updChan_flash_state (n : Nat) (f : Chan → Chan) (s : State) : (s.updChan n f).flash.state = s.flash.state := rfl
@[simp] theorem State.updChan_flash_dies (n : Nat) (f : Chan → Chan) (s : State) : (s.updChan n f).flash.dies = s.flash.dies := rfl
@[simp] theorem State.updChan_flash_blocks (n : Nat) (f : Chan → Chan) (s : State) : (s.updChan n f).flash.blocks = s.flash.blocks := rfl
@[simp] theorem State.updChan_flash_map (n : Nat) (f : Chan → Chan) (s : State) : (s.updChan n f).flash.map = s.flash.map := rfl
@[simp] theorem State.updChan_flash_dir (n : Nat) (f : Chan → Chan) (s : State) : (s.updChan n f).flash.dir = s.flash.dir := rfl
@[simp] theorem State.updChan_flash_leaves (n : Nat) (f : Chan → Chan) (s : State) : (s.updChan n f).flash.leaves = s.flash.leaves := rfl
@[simp] theorem State.updChan_flash_wseq (n : Nat) (f : Chan → Chan) (s : State) : (s.updChan n f).flash.wseq = s.flash.wseq := rfl
@[simp] theorem State.updChan_flash_unwritten (n : Nat) (f : Chan → Chan) (s : State) : (s.updChan n f).flash.unwritten = s.flash.unwritten := rfl
@[simp] theorem State.updChan_flash_unretired (n : Nat) (f : Chan → Chan) (s : State) : (s.updChan n f).flash.unretired = s.flash.unretired := rfl
@[simp] theorem State.updChan_flash_deltaTotal (n : Nat) (f : Chan → Chan) (s : State) : (s.updChan n f).flash.deltaTotal = s.flash.deltaTotal := rfl
@[simp] theorem State.updChan_flash_logged (n : Nat) (f : Chan → Chan) (s : State) : (s.updChan n f).flash.logged = s.flash.logged := rfl
@[simp] theorem State.updChan_flash_checkpoint (n : Nat) (f : Chan → Chan) (s : State) : (s.updChan n f).flash.checkpoint = s.flash.checkpoint := rfl
@[simp] theorem State.updChan_flash_anchorSeq (n : Nat) (f : Chan → Chan) (s : State) : (s.updChan n f).flash.anchorSeq = s.flash.anchorSeq := rfl
@[simp] theorem State.updChan_flash_consumed (n : Nat) (f : Chan → Chan) (s : State) : (s.updChan n f).flash.consumed = s.flash.consumed := rfl
@[simp] theorem State.updChan_flash_setA (n : Nat) (f : Chan → Chan) (s : State) : (s.updChan n f).flash.setA = s.flash.setA := rfl
@[simp] theorem State.updChan_flash_setB (n : Nat) (f : Chan → Chan) (s : State) : (s.updChan n f).flash.setB = s.flash.setB := rfl
@[simp] theorem State.updChan_flash_copying (n : Nat) (f : Chan → Chan) (s : State) : (s.updChan n f).flash.copying = s.flash.copying := rfl
@[simp] theorem State.updChan_flash_drafting (n : Nat) (f : Chan → Chan) (s : State) : (s.updChan n f).flash.drafting = s.flash.drafting := rfl
@[simp] theorem State.updChan_flash_draftQueue (n : Nat) (f : Chan → Chan) (s : State) : (s.updChan n f).flash.draftQueue = s.flash.draftQueue := rfl
@[simp] theorem State.updChan_flash_health (n : Nat) (f : Chan → Chan) (s : State) : (s.updChan n f).flash.health = s.flash.health := rfl
@[simp] theorem State.updChan_flash_stalled (n : Nat) (f : Chan → Chan) (s : State) : (s.updChan n f).flash.stalled = s.flash.stalled := rfl
@[simp] theorem State.updChan_flash_chanDrains (n : Nat) (f : Chan → Chan) (s : State) : (s.updChan n f).flash.chanDrains = s.flash.chanDrains := rfl
@[simp] theorem State.updChan_staging (n : Nat) (f : Chan → Chan) (s : State) : (s.updChan n f).staging = s.staging := rfl
@[simp] theorem State.updChan_eng (n : Nat) (f : Chan → Chan) (s : State) : (s.updChan n f).eng = s.eng := rfl
@[simp] theorem State.updChan_slots (n : Nat) (f : Chan → Chan) (s : State) : (s.updChan n f).slots = s.slots := rfl
@[simp] theorem State.updChan_rcl (n : Nat) (f : Chan → Chan) (s : State) : (s.updChan n f).rcl = s.rcl := rfl
@[simp] theorem State.updChan_cmds (n : Nat) (f : Chan → Chan) (s : State) : (s.updChan n f).cmds = s.cmds := rfl
@[simp] theorem State.updChan_map (n : Nat) (f : Chan → Chan) (s : State) : (s.updChan n f).map = s.map := rfl
@[simp] theorem State.updChan_fab (n : Nat) (f : Chan → Chan) (s : State) : (s.updChan n f).fab = s.fab := rfl
@[simp] theorem State.updChan_out (n : Nat) (f : Chan → Chan) (s : State) : (s.updChan n f).out = s.out := rfl
@[simp] theorem State.updChan_freeCtr (n : Nat) (f : Chan → Chan) (s : State) : (s.updChan n f).freeCtr = s.freeCtr := rfl
@[simp] theorem State.updChan_pending (n : Nat) (f : Chan → Chan) (s : State) : (s.updChan n f).pending = s.pending := rfl

/-! ### `State.updHealth` -/

@[simp] theorem State.updHealth_pow (f : Health → Health) (s : State) : (s.updHealth f).pow = s.pow := rfl
@[simp] theorem State.updHealth_boot (f : Health → Health) (s : State) : (s.updHealth f).boot = s.boot := rfl
@[simp] theorem State.updHealth_regs (f : Health → Health) (s : State) : (s.updHealth f).regs = s.regs := rfl
@[simp] theorem State.updHealth_log (f : Health → Health) (s : State) : (s.updHealth f).log = s.log := rfl
@[simp] theorem State.updHealth_tel (f : Health → Health) (s : State) : (s.updHealth f).tel = s.tel := rfl
@[simp] theorem State.updHealth_i3c (f : Health → Health) (s : State) : (s.updHealth f).i3c = s.i3c := rfl
@[simp] theorem State.updHealth_fingerprint (f : Health → Health) (s : State) : (s.updHealth f).fingerprint = s.fingerprint := rfl
@[simp] theorem State.updHealth_ptns (f : Health → Health) (s : State) : (s.updHealth f).ptns = s.ptns := rfl
@[simp] theorem State.updHealth_ptnGen (f : Health → Health) (s : State) : (s.updHealth f).ptnGen = s.ptnGen := rfl
@[simp] theorem State.updHealth_host (f : Health → Health) (s : State) : (s.updHealth f).host = s.host := rfl
@[simp] theorem State.updHealth_trust (f : Health → Health) (s : State) : (s.updHealth f).trust = s.trust := rfl
@[simp] theorem State.updHealth_store (f : Health → Health) (s : State) : (s.updHealth f).store = s.store := rfl
@[simp] theorem State.updHealth_hbm (f : Health → Health) (s : State) : (s.updHealth f).hbm = s.hbm := rfl
@[simp] theorem State.updHealth_flash_state (f : Health → Health) (s : State) : (s.updHealth f).flash.state = s.flash.state := rfl
@[simp] theorem State.updHealth_flash_chans (f : Health → Health) (s : State) : (s.updHealth f).flash.chans = s.flash.chans := rfl
@[simp] theorem State.updHealth_flash_dies (f : Health → Health) (s : State) : (s.updHealth f).flash.dies = s.flash.dies := rfl
@[simp] theorem State.updHealth_flash_blocks (f : Health → Health) (s : State) : (s.updHealth f).flash.blocks = s.flash.blocks := rfl
@[simp] theorem State.updHealth_flash_map (f : Health → Health) (s : State) : (s.updHealth f).flash.map = s.flash.map := rfl
@[simp] theorem State.updHealth_flash_dir (f : Health → Health) (s : State) : (s.updHealth f).flash.dir = s.flash.dir := rfl
@[simp] theorem State.updHealth_flash_leaves (f : Health → Health) (s : State) : (s.updHealth f).flash.leaves = s.flash.leaves := rfl
@[simp] theorem State.updHealth_flash_wseq (f : Health → Health) (s : State) : (s.updHealth f).flash.wseq = s.flash.wseq := rfl
@[simp] theorem State.updHealth_flash_unwritten (f : Health → Health) (s : State) : (s.updHealth f).flash.unwritten = s.flash.unwritten := rfl
@[simp] theorem State.updHealth_flash_unretired (f : Health → Health) (s : State) : (s.updHealth f).flash.unretired = s.flash.unretired := rfl
@[simp] theorem State.updHealth_flash_deltaTotal (f : Health → Health) (s : State) : (s.updHealth f).flash.deltaTotal = s.flash.deltaTotal := rfl
@[simp] theorem State.updHealth_flash_logged (f : Health → Health) (s : State) : (s.updHealth f).flash.logged = s.flash.logged := rfl
@[simp] theorem State.updHealth_flash_checkpoint (f : Health → Health) (s : State) : (s.updHealth f).flash.checkpoint = s.flash.checkpoint := rfl
@[simp] theorem State.updHealth_flash_anchorSeq (f : Health → Health) (s : State) : (s.updHealth f).flash.anchorSeq = s.flash.anchorSeq := rfl
@[simp] theorem State.updHealth_flash_consumed (f : Health → Health) (s : State) : (s.updHealth f).flash.consumed = s.flash.consumed := rfl
@[simp] theorem State.updHealth_flash_setA (f : Health → Health) (s : State) : (s.updHealth f).flash.setA = s.flash.setA := rfl
@[simp] theorem State.updHealth_flash_setB (f : Health → Health) (s : State) : (s.updHealth f).flash.setB = s.flash.setB := rfl
@[simp] theorem State.updHealth_flash_copying (f : Health → Health) (s : State) : (s.updHealth f).flash.copying = s.flash.copying := rfl
@[simp] theorem State.updHealth_flash_drafting (f : Health → Health) (s : State) : (s.updHealth f).flash.drafting = s.flash.drafting := rfl
@[simp] theorem State.updHealth_flash_draftQueue (f : Health → Health) (s : State) : (s.updHealth f).flash.draftQueue = s.flash.draftQueue := rfl
@[simp] theorem State.updHealth_flash_stalled (f : Health → Health) (s : State) : (s.updHealth f).flash.stalled = s.flash.stalled := rfl
@[simp] theorem State.updHealth_flash_chanDrains (f : Health → Health) (s : State) : (s.updHealth f).flash.chanDrains = s.flash.chanDrains := rfl
@[simp] theorem State.updHealth_staging (f : Health → Health) (s : State) : (s.updHealth f).staging = s.staging := rfl
@[simp] theorem State.updHealth_eng (f : Health → Health) (s : State) : (s.updHealth f).eng = s.eng := rfl
@[simp] theorem State.updHealth_slots (f : Health → Health) (s : State) : (s.updHealth f).slots = s.slots := rfl
@[simp] theorem State.updHealth_rcl (f : Health → Health) (s : State) : (s.updHealth f).rcl = s.rcl := rfl
@[simp] theorem State.updHealth_cmds (f : Health → Health) (s : State) : (s.updHealth f).cmds = s.cmds := rfl
@[simp] theorem State.updHealth_map (f : Health → Health) (s : State) : (s.updHealth f).map = s.map := rfl
@[simp] theorem State.updHealth_fab (f : Health → Health) (s : State) : (s.updHealth f).fab = s.fab := rfl
@[simp] theorem State.updHealth_out (f : Health → Health) (s : State) : (s.updHealth f).out = s.out := rfl
@[simp] theorem State.updHealth_freeCtr (f : Health → Health) (s : State) : (s.updHealth f).freeCtr = s.freeCtr := rfl
@[simp] theorem State.updHealth_pending (f : Health → Health) (s : State) : (s.updHealth f).pending = s.pending := rfl

/-! ### `State.updEngine` -/

@[simp] theorem State.updEngine_pow (n : Nat) (f : Engine → Engine) (s : State) : (s.updEngine n f).pow = s.pow := rfl
@[simp] theorem State.updEngine_boot (n : Nat) (f : Engine → Engine) (s : State) : (s.updEngine n f).boot = s.boot := rfl
@[simp] theorem State.updEngine_regs (n : Nat) (f : Engine → Engine) (s : State) : (s.updEngine n f).regs = s.regs := rfl
@[simp] theorem State.updEngine_log (n : Nat) (f : Engine → Engine) (s : State) : (s.updEngine n f).log = s.log := rfl
@[simp] theorem State.updEngine_tel (n : Nat) (f : Engine → Engine) (s : State) : (s.updEngine n f).tel = s.tel := rfl
@[simp] theorem State.updEngine_i3c (n : Nat) (f : Engine → Engine) (s : State) : (s.updEngine n f).i3c = s.i3c := rfl
@[simp] theorem State.updEngine_fingerprint (n : Nat) (f : Engine → Engine) (s : State) : (s.updEngine n f).fingerprint = s.fingerprint := rfl
@[simp] theorem State.updEngine_ptns (n : Nat) (f : Engine → Engine) (s : State) : (s.updEngine n f).ptns = s.ptns := rfl
@[simp] theorem State.updEngine_ptnGen (n : Nat) (f : Engine → Engine) (s : State) : (s.updEngine n f).ptnGen = s.ptnGen := rfl
@[simp] theorem State.updEngine_host (n : Nat) (f : Engine → Engine) (s : State) : (s.updEngine n f).host = s.host := rfl
@[simp] theorem State.updEngine_trust (n : Nat) (f : Engine → Engine) (s : State) : (s.updEngine n f).trust = s.trust := rfl
@[simp] theorem State.updEngine_store (n : Nat) (f : Engine → Engine) (s : State) : (s.updEngine n f).store = s.store := rfl
@[simp] theorem State.updEngine_hbm (n : Nat) (f : Engine → Engine) (s : State) : (s.updEngine n f).hbm = s.hbm := rfl
@[simp] theorem State.updEngine_flash (n : Nat) (f : Engine → Engine) (s : State) : (s.updEngine n f).flash = s.flash := rfl
@[simp] theorem State.updEngine_staging (n : Nat) (f : Engine → Engine) (s : State) : (s.updEngine n f).staging = s.staging := rfl
@[simp] theorem State.updEngine_eng_held (n : Nat) (f : Engine → Engine) (s : State) : (s.updEngine n f).eng.held = s.eng.held := rfl
@[simp] theorem State.updEngine_slots (n : Nat) (f : Engine → Engine) (s : State) : (s.updEngine n f).slots = s.slots := rfl
@[simp] theorem State.updEngine_rcl (n : Nat) (f : Engine → Engine) (s : State) : (s.updEngine n f).rcl = s.rcl := rfl
@[simp] theorem State.updEngine_cmds (n : Nat) (f : Engine → Engine) (s : State) : (s.updEngine n f).cmds = s.cmds := rfl
@[simp] theorem State.updEngine_map (n : Nat) (f : Engine → Engine) (s : State) : (s.updEngine n f).map = s.map := rfl
@[simp] theorem State.updEngine_fab (n : Nat) (f : Engine → Engine) (s : State) : (s.updEngine n f).fab = s.fab := rfl
@[simp] theorem State.updEngine_out (n : Nat) (f : Engine → Engine) (s : State) : (s.updEngine n f).out = s.out := rfl
@[simp] theorem State.updEngine_freeCtr (n : Nat) (f : Engine → Engine) (s : State) : (s.updEngine n f).freeCtr = s.freeCtr := rfl
@[simp] theorem State.updEngine_pending (n : Nat) (f : Engine → Engine) (s : State) : (s.updEngine n f).pending = s.pending := rfl

/-! ### `State.updPeer` -/

@[simp] theorem State.updPeer_pow (n : NodeId) (f : Peer → Peer) (s : State) : (s.updPeer n f).pow = s.pow := rfl
@[simp] theorem State.updPeer_boot (n : NodeId) (f : Peer → Peer) (s : State) : (s.updPeer n f).boot = s.boot := rfl
@[simp] theorem State.updPeer_regs (n : NodeId) (f : Peer → Peer) (s : State) : (s.updPeer n f).regs = s.regs := rfl
@[simp] theorem State.updPeer_log (n : NodeId) (f : Peer → Peer) (s : State) : (s.updPeer n f).log = s.log := rfl
@[simp] theorem State.updPeer_tel (n : NodeId) (f : Peer → Peer) (s : State) : (s.updPeer n f).tel = s.tel := rfl
@[simp] theorem State.updPeer_i3c (n : NodeId) (f : Peer → Peer) (s : State) : (s.updPeer n f).i3c = s.i3c := rfl
@[simp] theorem State.updPeer_fingerprint (n : NodeId) (f : Peer → Peer) (s : State) : (s.updPeer n f).fingerprint = s.fingerprint := rfl
@[simp] theorem State.updPeer_ptns (n : NodeId) (f : Peer → Peer) (s : State) : (s.updPeer n f).ptns = s.ptns := rfl
@[simp] theorem State.updPeer_ptnGen (n : NodeId) (f : Peer → Peer) (s : State) : (s.updPeer n f).ptnGen = s.ptnGen := rfl
@[simp] theorem State.updPeer_host (n : NodeId) (f : Peer → Peer) (s : State) : (s.updPeer n f).host = s.host := rfl
@[simp] theorem State.updPeer_trust (n : NodeId) (f : Peer → Peer) (s : State) : (s.updPeer n f).trust = s.trust := rfl
@[simp] theorem State.updPeer_store (n : NodeId) (f : Peer → Peer) (s : State) : (s.updPeer n f).store = s.store := rfl
@[simp] theorem State.updPeer_hbm (n : NodeId) (f : Peer → Peer) (s : State) : (s.updPeer n f).hbm = s.hbm := rfl
@[simp] theorem State.updPeer_flash (n : NodeId) (f : Peer → Peer) (s : State) : (s.updPeer n f).flash = s.flash := rfl
@[simp] theorem State.updPeer_staging (n : NodeId) (f : Peer → Peer) (s : State) : (s.updPeer n f).staging = s.staging := rfl
@[simp] theorem State.updPeer_eng (n : NodeId) (f : Peer → Peer) (s : State) : (s.updPeer n f).eng = s.eng := rfl
@[simp] theorem State.updPeer_slots (n : NodeId) (f : Peer → Peer) (s : State) : (s.updPeer n f).slots = s.slots := rfl
@[simp] theorem State.updPeer_rcl (n : NodeId) (f : Peer → Peer) (s : State) : (s.updPeer n f).rcl = s.rcl := rfl
@[simp] theorem State.updPeer_cmds (n : NodeId) (f : Peer → Peer) (s : State) : (s.updPeer n f).cmds = s.cmds := rfl
@[simp] theorem State.updPeer_map (n : NodeId) (f : Peer → Peer) (s : State) : (s.updPeer n f).map = s.map := rfl
@[simp] theorem State.updPeer_fab_links (n : NodeId) (f : Peer → Peer) (s : State) : (s.updPeer n f).fab.links = s.fab.links := rfl
@[simp] theorem State.updPeer_fab_reassembly (n : NodeId) (f : Peer → Peer) (s : State) : (s.updPeer n f).fab.reassembly = s.fab.reassembly := rfl
@[simp] theorem State.updPeer_fab_gateEntry (n : NodeId) (f : Peer → Peer) (s : State) : (s.updPeer n f).fab.gateEntry = s.fab.gateEntry := rfl
@[simp] theorem State.updPeer_fab_gateAt (n : NodeId) (f : Peer → Peer) (s : State) : (s.updPeer n f).fab.gateAt = s.fab.gateAt := rfl
@[simp] theorem State.updPeer_fab_gateRunning (n : NodeId) (f : Peer → Peer) (s : State) : (s.updPeer n f).fab.gateRunning = s.fab.gateRunning := rfl
@[simp] theorem State.updPeer_out (n : NodeId) (f : Peer → Peer) (s : State) : (s.updPeer n f).out = s.out := rfl
@[simp] theorem State.updPeer_freeCtr (n : NodeId) (f : Peer → Peer) (s : State) : (s.updPeer n f).freeCtr = s.freeCtr := rfl
@[simp] theorem State.updPeer_pending (n : NodeId) (f : Peer → Peer) (s : State) : (s.updPeer n f).pending = s.pending := rfl

/-! ### `State.updLink` -/

@[simp] theorem State.updLink_pow (n : Nat) (f : Link → Link) (s : State) : (s.updLink n f).pow = s.pow := rfl
@[simp] theorem State.updLink_boot (n : Nat) (f : Link → Link) (s : State) : (s.updLink n f).boot = s.boot := rfl
@[simp] theorem State.updLink_regs (n : Nat) (f : Link → Link) (s : State) : (s.updLink n f).regs = s.regs := rfl
@[simp] theorem State.updLink_log (n : Nat) (f : Link → Link) (s : State) : (s.updLink n f).log = s.log := rfl
@[simp] theorem State.updLink_tel (n : Nat) (f : Link → Link) (s : State) : (s.updLink n f).tel = s.tel := rfl
@[simp] theorem State.updLink_i3c (n : Nat) (f : Link → Link) (s : State) : (s.updLink n f).i3c = s.i3c := rfl
@[simp] theorem State.updLink_fingerprint (n : Nat) (f : Link → Link) (s : State) : (s.updLink n f).fingerprint = s.fingerprint := rfl
@[simp] theorem State.updLink_ptns (n : Nat) (f : Link → Link) (s : State) : (s.updLink n f).ptns = s.ptns := rfl
@[simp] theorem State.updLink_ptnGen (n : Nat) (f : Link → Link) (s : State) : (s.updLink n f).ptnGen = s.ptnGen := rfl
@[simp] theorem State.updLink_host (n : Nat) (f : Link → Link) (s : State) : (s.updLink n f).host = s.host := rfl
@[simp] theorem State.updLink_trust (n : Nat) (f : Link → Link) (s : State) : (s.updLink n f).trust = s.trust := rfl
@[simp] theorem State.updLink_store (n : Nat) (f : Link → Link) (s : State) : (s.updLink n f).store = s.store := rfl
@[simp] theorem State.updLink_hbm (n : Nat) (f : Link → Link) (s : State) : (s.updLink n f).hbm = s.hbm := rfl
@[simp] theorem State.updLink_flash (n : Nat) (f : Link → Link) (s : State) : (s.updLink n f).flash = s.flash := rfl
@[simp] theorem State.updLink_staging (n : Nat) (f : Link → Link) (s : State) : (s.updLink n f).staging = s.staging := rfl
@[simp] theorem State.updLink_eng (n : Nat) (f : Link → Link) (s : State) : (s.updLink n f).eng = s.eng := rfl
@[simp] theorem State.updLink_slots (n : Nat) (f : Link → Link) (s : State) : (s.updLink n f).slots = s.slots := rfl
@[simp] theorem State.updLink_rcl (n : Nat) (f : Link → Link) (s : State) : (s.updLink n f).rcl = s.rcl := rfl
@[simp] theorem State.updLink_cmds (n : Nat) (f : Link → Link) (s : State) : (s.updLink n f).cmds = s.cmds := rfl
@[simp] theorem State.updLink_map (n : Nat) (f : Link → Link) (s : State) : (s.updLink n f).map = s.map := rfl
@[simp] theorem State.updLink_fab_peers (n : Nat) (f : Link → Link) (s : State) : (s.updLink n f).fab.peers = s.fab.peers := rfl
@[simp] theorem State.updLink_fab_reassembly (n : Nat) (f : Link → Link) (s : State) : (s.updLink n f).fab.reassembly = s.fab.reassembly := rfl
@[simp] theorem State.updLink_fab_gateEntry (n : Nat) (f : Link → Link) (s : State) : (s.updLink n f).fab.gateEntry = s.fab.gateEntry := rfl
@[simp] theorem State.updLink_fab_gateAt (n : Nat) (f : Link → Link) (s : State) : (s.updLink n f).fab.gateAt = s.fab.gateAt := rfl
@[simp] theorem State.updLink_fab_gateRunning (n : Nat) (f : Link → Link) (s : State) : (s.updLink n f).fab.gateRunning = s.fab.gateRunning := rfl
@[simp] theorem State.updLink_out (n : Nat) (f : Link → Link) (s : State) : (s.updLink n f).out = s.out := rfl
@[simp] theorem State.updLink_freeCtr (n : Nat) (f : Link → Link) (s : State) : (s.updLink n f).freeCtr = s.freeCtr := rfl
@[simp] theorem State.updLink_pending (n : Nat) (f : Link → Link) (s : State) : (s.updLink n f).pending = s.pending := rfl

/-! ### `State.updInflight` -/

@[simp] theorem State.updInflight_pow (i : Nat) (f : Inflight → Inflight) (s : State) : (s.updInflight i f).pow = s.pow := rfl
@[simp] theorem State.updInflight_boot (i : Nat) (f : Inflight → Inflight) (s : State) : (s.updInflight i f).boot = s.boot := rfl
@[simp] theorem State.updInflight_regs (i : Nat) (f : Inflight → Inflight) (s : State) : (s.updInflight i f).regs = s.regs := rfl
@[simp] theorem State.updInflight_log (i : Nat) (f : Inflight → Inflight) (s : State) : (s.updInflight i f).log = s.log := rfl
@[simp] theorem State.updInflight_tel (i : Nat) (f : Inflight → Inflight) (s : State) : (s.updInflight i f).tel = s.tel := rfl
@[simp] theorem State.updInflight_i3c (i : Nat) (f : Inflight → Inflight) (s : State) : (s.updInflight i f).i3c = s.i3c := rfl
@[simp] theorem State.updInflight_fingerprint (i : Nat) (f : Inflight → Inflight) (s : State) : (s.updInflight i f).fingerprint = s.fingerprint := rfl
@[simp] theorem State.updInflight_ptns (i : Nat) (f : Inflight → Inflight) (s : State) : (s.updInflight i f).ptns = s.ptns := rfl
@[simp] theorem State.updInflight_ptnGen (i : Nat) (f : Inflight → Inflight) (s : State) : (s.updInflight i f).ptnGen = s.ptnGen := rfl
@[simp] theorem State.updInflight_host (i : Nat) (f : Inflight → Inflight) (s : State) : (s.updInflight i f).host = s.host := rfl
@[simp] theorem State.updInflight_trust (i : Nat) (f : Inflight → Inflight) (s : State) : (s.updInflight i f).trust = s.trust := rfl
@[simp] theorem State.updInflight_store (i : Nat) (f : Inflight → Inflight) (s : State) : (s.updInflight i f).store = s.store := rfl
@[simp] theorem State.updInflight_hbm (i : Nat) (f : Inflight → Inflight) (s : State) : (s.updInflight i f).hbm = s.hbm := rfl
@[simp] theorem State.updInflight_flash (i : Nat) (f : Inflight → Inflight) (s : State) : (s.updInflight i f).flash = s.flash := rfl
@[simp] theorem State.updInflight_staging (i : Nat) (f : Inflight → Inflight) (s : State) : (s.updInflight i f).staging = s.staging := rfl
@[simp] theorem State.updInflight_eng (i : Nat) (f : Inflight → Inflight) (s : State) : (s.updInflight i f).eng = s.eng := rfl
@[simp] theorem State.updInflight_slots (i : Nat) (f : Inflight → Inflight) (s : State) : (s.updInflight i f).slots = s.slots := rfl
@[simp] theorem State.updInflight_rcl (i : Nat) (f : Inflight → Inflight) (s : State) : (s.updInflight i f).rcl = s.rcl := rfl
@[simp] theorem State.updInflight_cmds_nextId (i : Nat) (f : Inflight → Inflight) (s : State) : (s.updInflight i f).cmds.nextId = s.cmds.nextId := rfl
@[simp] theorem State.updInflight_cmds_parts (i : Nat) (f : Inflight → Inflight) (s : State) : (s.updInflight i f).cmds.parts = s.cmds.parts := rfl
@[simp] theorem State.updInflight_cmds_grads (i : Nat) (f : Inflight → Inflight) (s : State) : (s.updInflight i f).cmds.grads = s.cmds.grads := rfl
@[simp] theorem State.updInflight_cmds_turns (i : Nat) (f : Inflight → Inflight) (s : State) : (s.updInflight i f).cmds.turns = s.cmds.turns := rfl
@[simp] theorem State.updInflight_map (i : Nat) (f : Inflight → Inflight) (s : State) : (s.updInflight i f).map = s.map := rfl
@[simp] theorem State.updInflight_fab (i : Nat) (f : Inflight → Inflight) (s : State) : (s.updInflight i f).fab = s.fab := rfl
@[simp] theorem State.updInflight_out (i : Nat) (f : Inflight → Inflight) (s : State) : (s.updInflight i f).out = s.out := rfl
@[simp] theorem State.updInflight_freeCtr (i : Nat) (f : Inflight → Inflight) (s : State) : (s.updInflight i f).freeCtr = s.freeCtr := rfl
@[simp] theorem State.updInflight_pending (i : Nat) (f : Inflight → Inflight) (s : State) : (s.updInflight i f).pending = s.pending := rfl

/-! ### `State.dropInflight` -/

@[simp] theorem State.dropInflight_pow (i : Nat) (s : State) : (s.dropInflight i).pow = s.pow := rfl
@[simp] theorem State.dropInflight_boot (i : Nat) (s : State) : (s.dropInflight i).boot = s.boot := rfl
@[simp] theorem State.dropInflight_regs (i : Nat) (s : State) : (s.dropInflight i).regs = s.regs := rfl
@[simp] theorem State.dropInflight_log (i : Nat) (s : State) : (s.dropInflight i).log = s.log := rfl
@[simp] theorem State.dropInflight_tel (i : Nat) (s : State) : (s.dropInflight i).tel = s.tel := rfl
@[simp] theorem State.dropInflight_i3c (i : Nat) (s : State) : (s.dropInflight i).i3c = s.i3c := rfl
@[simp] theorem State.dropInflight_fingerprint (i : Nat) (s : State) : (s.dropInflight i).fingerprint = s.fingerprint := rfl
@[simp] theorem State.dropInflight_ptns (i : Nat) (s : State) : (s.dropInflight i).ptns = s.ptns := rfl
@[simp] theorem State.dropInflight_ptnGen (i : Nat) (s : State) : (s.dropInflight i).ptnGen = s.ptnGen := rfl
@[simp] theorem State.dropInflight_host (i : Nat) (s : State) : (s.dropInflight i).host = s.host := rfl
@[simp] theorem State.dropInflight_trust (i : Nat) (s : State) : (s.dropInflight i).trust = s.trust := rfl
@[simp] theorem State.dropInflight_store (i : Nat) (s : State) : (s.dropInflight i).store = s.store := rfl
@[simp] theorem State.dropInflight_hbm (i : Nat) (s : State) : (s.dropInflight i).hbm = s.hbm := rfl
@[simp] theorem State.dropInflight_flash (i : Nat) (s : State) : (s.dropInflight i).flash = s.flash := rfl
@[simp] theorem State.dropInflight_staging (i : Nat) (s : State) : (s.dropInflight i).staging = s.staging := rfl
@[simp] theorem State.dropInflight_eng (i : Nat) (s : State) : (s.dropInflight i).eng = s.eng := rfl
@[simp] theorem State.dropInflight_slots (i : Nat) (s : State) : (s.dropInflight i).slots = s.slots := rfl
@[simp] theorem State.dropInflight_rcl (i : Nat) (s : State) : (s.dropInflight i).rcl = s.rcl := rfl
@[simp] theorem State.dropInflight_cmds_nextId (i : Nat) (s : State) : (s.dropInflight i).cmds.nextId = s.cmds.nextId := rfl
@[simp] theorem State.dropInflight_cmds_parts (i : Nat) (s : State) : (s.dropInflight i).cmds.parts = s.cmds.parts := rfl
@[simp] theorem State.dropInflight_cmds_grads (i : Nat) (s : State) : (s.dropInflight i).cmds.grads = s.cmds.grads := rfl
@[simp] theorem State.dropInflight_cmds_turns (i : Nat) (s : State) : (s.dropInflight i).cmds.turns = s.cmds.turns := rfl
@[simp] theorem State.dropInflight_map (i : Nat) (s : State) : (s.dropInflight i).map = s.map := rfl
@[simp] theorem State.dropInflight_fab (i : Nat) (s : State) : (s.dropInflight i).fab = s.fab := rfl
@[simp] theorem State.dropInflight_out (i : Nat) (s : State) : (s.dropInflight i).out = s.out := rfl
@[simp] theorem State.dropInflight_freeCtr (i : Nat) (s : State) : (s.dropInflight i).freeCtr = s.freeCtr := rfl
@[simp] theorem State.dropInflight_pending (i : Nat) (s : State) : (s.dropInflight i).pending = s.pending := rfl

/-! ### `State.setRun` -/

@[simp] theorem State.setRun_pow (i : Nat) (r : AttendRun) (s : State) : (s.setRun i r).pow = s.pow := rfl
@[simp] theorem State.setRun_boot (i : Nat) (r : AttendRun) (s : State) : (s.setRun i r).boot = s.boot := rfl
@[simp] theorem State.setRun_regs (i : Nat) (r : AttendRun) (s : State) : (s.setRun i r).regs = s.regs := rfl
@[simp] theorem State.setRun_log (i : Nat) (r : AttendRun) (s : State) : (s.setRun i r).log = s.log := rfl
@[simp] theorem State.setRun_tel (i : Nat) (r : AttendRun) (s : State) : (s.setRun i r).tel = s.tel := rfl
@[simp] theorem State.setRun_i3c (i : Nat) (r : AttendRun) (s : State) : (s.setRun i r).i3c = s.i3c := rfl
@[simp] theorem State.setRun_fingerprint (i : Nat) (r : AttendRun) (s : State) : (s.setRun i r).fingerprint = s.fingerprint := rfl
@[simp] theorem State.setRun_ptns (i : Nat) (r : AttendRun) (s : State) : (s.setRun i r).ptns = s.ptns := rfl
@[simp] theorem State.setRun_ptnGen (i : Nat) (r : AttendRun) (s : State) : (s.setRun i r).ptnGen = s.ptnGen := rfl
@[simp] theorem State.setRun_host (i : Nat) (r : AttendRun) (s : State) : (s.setRun i r).host = s.host := rfl
@[simp] theorem State.setRun_trust (i : Nat) (r : AttendRun) (s : State) : (s.setRun i r).trust = s.trust := rfl
@[simp] theorem State.setRun_store (i : Nat) (r : AttendRun) (s : State) : (s.setRun i r).store = s.store := rfl
@[simp] theorem State.setRun_hbm (i : Nat) (r : AttendRun) (s : State) : (s.setRun i r).hbm = s.hbm := rfl
@[simp] theorem State.setRun_flash (i : Nat) (r : AttendRun) (s : State) : (s.setRun i r).flash = s.flash := rfl
@[simp] theorem State.setRun_staging (i : Nat) (r : AttendRun) (s : State) : (s.setRun i r).staging = s.staging := rfl
@[simp] theorem State.setRun_eng (i : Nat) (r : AttendRun) (s : State) : (s.setRun i r).eng = s.eng := rfl
@[simp] theorem State.setRun_slots (i : Nat) (r : AttendRun) (s : State) : (s.setRun i r).slots = s.slots := rfl
@[simp] theorem State.setRun_rcl (i : Nat) (r : AttendRun) (s : State) : (s.setRun i r).rcl = s.rcl := rfl
@[simp] theorem State.setRun_cmds_nextId (i : Nat) (r : AttendRun) (s : State) : (s.setRun i r).cmds.nextId = s.cmds.nextId := rfl
@[simp] theorem State.setRun_cmds_parts (i : Nat) (r : AttendRun) (s : State) : (s.setRun i r).cmds.parts = s.cmds.parts := rfl
@[simp] theorem State.setRun_cmds_grads (i : Nat) (r : AttendRun) (s : State) : (s.setRun i r).cmds.grads = s.cmds.grads := rfl
@[simp] theorem State.setRun_cmds_turns (i : Nat) (r : AttendRun) (s : State) : (s.setRun i r).cmds.turns = s.cmds.turns := rfl
@[simp] theorem State.setRun_map (i : Nat) (r : AttendRun) (s : State) : (s.setRun i r).map = s.map := rfl
@[simp] theorem State.setRun_fab (i : Nat) (r : AttendRun) (s : State) : (s.setRun i r).fab = s.fab := rfl
@[simp] theorem State.setRun_out (i : Nat) (r : AttendRun) (s : State) : (s.setRun i r).out = s.out := rfl
@[simp] theorem State.setRun_freeCtr (i : Nat) (r : AttendRun) (s : State) : (s.setRun i r).freeCtr = s.freeCtr := rfl
@[simp] theorem State.setRun_pending (i : Nat) (r : AttendRun) (s : State) : (s.setRun i r).pending = s.pending := rfl

/-! ### `State.setGrad` -/

@[simp] theorem State.setGrad_pow (i : Nat) (r : GradRun) (s : State) : (s.setGrad i r).pow = s.pow := rfl
@[simp] theorem State.setGrad_boot (i : Nat) (r : GradRun) (s : State) : (s.setGrad i r).boot = s.boot := rfl
@[simp] theorem State.setGrad_regs (i : Nat) (r : GradRun) (s : State) : (s.setGrad i r).regs = s.regs := rfl
@[simp] theorem State.setGrad_log (i : Nat) (r : GradRun) (s : State) : (s.setGrad i r).log = s.log := rfl
@[simp] theorem State.setGrad_tel (i : Nat) (r : GradRun) (s : State) : (s.setGrad i r).tel = s.tel := rfl
@[simp] theorem State.setGrad_i3c (i : Nat) (r : GradRun) (s : State) : (s.setGrad i r).i3c = s.i3c := rfl
@[simp] theorem State.setGrad_fingerprint (i : Nat) (r : GradRun) (s : State) : (s.setGrad i r).fingerprint = s.fingerprint := rfl
@[simp] theorem State.setGrad_ptns (i : Nat) (r : GradRun) (s : State) : (s.setGrad i r).ptns = s.ptns := rfl
@[simp] theorem State.setGrad_ptnGen (i : Nat) (r : GradRun) (s : State) : (s.setGrad i r).ptnGen = s.ptnGen := rfl
@[simp] theorem State.setGrad_host (i : Nat) (r : GradRun) (s : State) : (s.setGrad i r).host = s.host := rfl
@[simp] theorem State.setGrad_trust (i : Nat) (r : GradRun) (s : State) : (s.setGrad i r).trust = s.trust := rfl
@[simp] theorem State.setGrad_store (i : Nat) (r : GradRun) (s : State) : (s.setGrad i r).store = s.store := rfl
@[simp] theorem State.setGrad_hbm (i : Nat) (r : GradRun) (s : State) : (s.setGrad i r).hbm = s.hbm := rfl
@[simp] theorem State.setGrad_flash (i : Nat) (r : GradRun) (s : State) : (s.setGrad i r).flash = s.flash := rfl
@[simp] theorem State.setGrad_staging (i : Nat) (r : GradRun) (s : State) : (s.setGrad i r).staging = s.staging := rfl
@[simp] theorem State.setGrad_eng (i : Nat) (r : GradRun) (s : State) : (s.setGrad i r).eng = s.eng := rfl
@[simp] theorem State.setGrad_slots (i : Nat) (r : GradRun) (s : State) : (s.setGrad i r).slots = s.slots := rfl
@[simp] theorem State.setGrad_rcl (i : Nat) (r : GradRun) (s : State) : (s.setGrad i r).rcl = s.rcl := rfl
@[simp] theorem State.setGrad_cmds_nextId (i : Nat) (r : GradRun) (s : State) : (s.setGrad i r).cmds.nextId = s.cmds.nextId := rfl
@[simp] theorem State.setGrad_cmds_parts (i : Nat) (r : GradRun) (s : State) : (s.setGrad i r).cmds.parts = s.cmds.parts := rfl
@[simp] theorem State.setGrad_cmds_grads (i : Nat) (r : GradRun) (s : State) : (s.setGrad i r).cmds.grads = s.cmds.grads := rfl
@[simp] theorem State.setGrad_cmds_turns (i : Nat) (r : GradRun) (s : State) : (s.setGrad i r).cmds.turns = s.cmds.turns := rfl
@[simp] theorem State.setGrad_map (i : Nat) (r : GradRun) (s : State) : (s.setGrad i r).map = s.map := rfl
@[simp] theorem State.setGrad_fab (i : Nat) (r : GradRun) (s : State) : (s.setGrad i r).fab = s.fab := rfl
@[simp] theorem State.setGrad_out (i : Nat) (r : GradRun) (s : State) : (s.setGrad i r).out = s.out := rfl
@[simp] theorem State.setGrad_freeCtr (i : Nat) (r : GradRun) (s : State) : (s.setGrad i r).freeCtr = s.freeCtr := rfl
@[simp] theorem State.setGrad_pending (i : Nat) (r : GradRun) (s : State) : (s.setGrad i r).pending = s.pending := rfl

/-! ### `State.setRecall` -/

@[simp] theorem State.setRecall_pow (i : Nat) (r : RecallRun) (s : State) : (s.setRecall i r).pow = s.pow := rfl
@[simp] theorem State.setRecall_boot (i : Nat) (r : RecallRun) (s : State) : (s.setRecall i r).boot = s.boot := rfl
@[simp] theorem State.setRecall_regs (i : Nat) (r : RecallRun) (s : State) : (s.setRecall i r).regs = s.regs := rfl
@[simp] theorem State.setRecall_log (i : Nat) (r : RecallRun) (s : State) : (s.setRecall i r).log = s.log := rfl
@[simp] theorem State.setRecall_tel (i : Nat) (r : RecallRun) (s : State) : (s.setRecall i r).tel = s.tel := rfl
@[simp] theorem State.setRecall_i3c (i : Nat) (r : RecallRun) (s : State) : (s.setRecall i r).i3c = s.i3c := rfl
@[simp] theorem State.setRecall_fingerprint (i : Nat) (r : RecallRun) (s : State) : (s.setRecall i r).fingerprint = s.fingerprint := rfl
@[simp] theorem State.setRecall_ptns (i : Nat) (r : RecallRun) (s : State) : (s.setRecall i r).ptns = s.ptns := rfl
@[simp] theorem State.setRecall_ptnGen (i : Nat) (r : RecallRun) (s : State) : (s.setRecall i r).ptnGen = s.ptnGen := rfl
@[simp] theorem State.setRecall_host (i : Nat) (r : RecallRun) (s : State) : (s.setRecall i r).host = s.host := rfl
@[simp] theorem State.setRecall_trust (i : Nat) (r : RecallRun) (s : State) : (s.setRecall i r).trust = s.trust := rfl
@[simp] theorem State.setRecall_store (i : Nat) (r : RecallRun) (s : State) : (s.setRecall i r).store = s.store := rfl
@[simp] theorem State.setRecall_hbm (i : Nat) (r : RecallRun) (s : State) : (s.setRecall i r).hbm = s.hbm := rfl
@[simp] theorem State.setRecall_flash (i : Nat) (r : RecallRun) (s : State) : (s.setRecall i r).flash = s.flash := rfl
@[simp] theorem State.setRecall_staging (i : Nat) (r : RecallRun) (s : State) : (s.setRecall i r).staging = s.staging := rfl
@[simp] theorem State.setRecall_eng (i : Nat) (r : RecallRun) (s : State) : (s.setRecall i r).eng = s.eng := rfl
@[simp] theorem State.setRecall_slots (i : Nat) (r : RecallRun) (s : State) : (s.setRecall i r).slots = s.slots := rfl
@[simp] theorem State.setRecall_rcl (i : Nat) (r : RecallRun) (s : State) : (s.setRecall i r).rcl = s.rcl := rfl
@[simp] theorem State.setRecall_cmds_nextId (i : Nat) (r : RecallRun) (s : State) : (s.setRecall i r).cmds.nextId = s.cmds.nextId := rfl
@[simp] theorem State.setRecall_cmds_parts (i : Nat) (r : RecallRun) (s : State) : (s.setRecall i r).cmds.parts = s.cmds.parts := rfl
@[simp] theorem State.setRecall_cmds_grads (i : Nat) (r : RecallRun) (s : State) : (s.setRecall i r).cmds.grads = s.cmds.grads := rfl
@[simp] theorem State.setRecall_cmds_turns (i : Nat) (r : RecallRun) (s : State) : (s.setRecall i r).cmds.turns = s.cmds.turns := rfl
@[simp] theorem State.setRecall_map (i : Nat) (r : RecallRun) (s : State) : (s.setRecall i r).map = s.map := rfl
@[simp] theorem State.setRecall_fab (i : Nat) (r : RecallRun) (s : State) : (s.setRecall i r).fab = s.fab := rfl
@[simp] theorem State.setRecall_out (i : Nat) (r : RecallRun) (s : State) : (s.setRecall i r).out = s.out := rfl
@[simp] theorem State.setRecall_freeCtr (i : Nat) (r : RecallRun) (s : State) : (s.setRecall i r).freeCtr = s.freeCtr := rfl
@[simp] theorem State.setRecall_pending (i : Nat) (r : RecallRun) (s : State) : (s.setRecall i r).pending = s.pending := rfl

/-! ### `State.updPart` -/

@[simp] theorem State.updPart_pow (i : Nat) (f : HeldPart → HeldPart) (s : State) : (s.updPart i f).pow = s.pow := rfl
@[simp] theorem State.updPart_boot (i : Nat) (f : HeldPart → HeldPart) (s : State) : (s.updPart i f).boot = s.boot := rfl
@[simp] theorem State.updPart_regs (i : Nat) (f : HeldPart → HeldPart) (s : State) : (s.updPart i f).regs = s.regs := rfl
@[simp] theorem State.updPart_log (i : Nat) (f : HeldPart → HeldPart) (s : State) : (s.updPart i f).log = s.log := rfl
@[simp] theorem State.updPart_tel (i : Nat) (f : HeldPart → HeldPart) (s : State) : (s.updPart i f).tel = s.tel := rfl
@[simp] theorem State.updPart_i3c (i : Nat) (f : HeldPart → HeldPart) (s : State) : (s.updPart i f).i3c = s.i3c := rfl
@[simp] theorem State.updPart_fingerprint (i : Nat) (f : HeldPart → HeldPart) (s : State) : (s.updPart i f).fingerprint = s.fingerprint := rfl
@[simp] theorem State.updPart_ptns (i : Nat) (f : HeldPart → HeldPart) (s : State) : (s.updPart i f).ptns = s.ptns := rfl
@[simp] theorem State.updPart_ptnGen (i : Nat) (f : HeldPart → HeldPart) (s : State) : (s.updPart i f).ptnGen = s.ptnGen := rfl
@[simp] theorem State.updPart_host (i : Nat) (f : HeldPart → HeldPart) (s : State) : (s.updPart i f).host = s.host := rfl
@[simp] theorem State.updPart_trust (i : Nat) (f : HeldPart → HeldPart) (s : State) : (s.updPart i f).trust = s.trust := rfl
@[simp] theorem State.updPart_store (i : Nat) (f : HeldPart → HeldPart) (s : State) : (s.updPart i f).store = s.store := rfl
@[simp] theorem State.updPart_hbm (i : Nat) (f : HeldPart → HeldPart) (s : State) : (s.updPart i f).hbm = s.hbm := rfl
@[simp] theorem State.updPart_flash (i : Nat) (f : HeldPart → HeldPart) (s : State) : (s.updPart i f).flash = s.flash := rfl
@[simp] theorem State.updPart_staging (i : Nat) (f : HeldPart → HeldPart) (s : State) : (s.updPart i f).staging = s.staging := rfl
@[simp] theorem State.updPart_eng (i : Nat) (f : HeldPart → HeldPart) (s : State) : (s.updPart i f).eng = s.eng := rfl
@[simp] theorem State.updPart_slots (i : Nat) (f : HeldPart → HeldPart) (s : State) : (s.updPart i f).slots = s.slots := rfl
@[simp] theorem State.updPart_rcl (i : Nat) (f : HeldPart → HeldPart) (s : State) : (s.updPart i f).rcl = s.rcl := rfl
@[simp] theorem State.updPart_cmds_list (i : Nat) (f : HeldPart → HeldPart) (s : State) : (s.updPart i f).cmds.list = s.cmds.list := rfl
@[simp] theorem State.updPart_cmds_nextId (i : Nat) (f : HeldPart → HeldPart) (s : State) : (s.updPart i f).cmds.nextId = s.cmds.nextId := rfl
@[simp] theorem State.updPart_cmds_grads (i : Nat) (f : HeldPart → HeldPart) (s : State) : (s.updPart i f).cmds.grads = s.cmds.grads := rfl
@[simp] theorem State.updPart_cmds_turns (i : Nat) (f : HeldPart → HeldPart) (s : State) : (s.updPart i f).cmds.turns = s.cmds.turns := rfl
@[simp] theorem State.updPart_map (i : Nat) (f : HeldPart → HeldPart) (s : State) : (s.updPart i f).map = s.map := rfl
@[simp] theorem State.updPart_fab (i : Nat) (f : HeldPart → HeldPart) (s : State) : (s.updPart i f).fab = s.fab := rfl
@[simp] theorem State.updPart_out (i : Nat) (f : HeldPart → HeldPart) (s : State) : (s.updPart i f).out = s.out := rfl
@[simp] theorem State.updPart_freeCtr (i : Nat) (f : HeldPart → HeldPart) (s : State) : (s.updPart i f).freeCtr = s.freeCtr := rfl
@[simp] theorem State.updPart_pending (i : Nat) (f : HeldPart → HeldPart) (s : State) : (s.updPart i f).pending = s.pending := rfl

/-! ### `State.setPat` -/

@[simp] theorem State.setPat_pow (p : PatSlot) (s : State) : (s.setPat p).pow = s.pow := rfl
@[simp] theorem State.setPat_boot (p : PatSlot) (s : State) : (s.setPat p).boot = s.boot := rfl
@[simp] theorem State.setPat_regs (p : PatSlot) (s : State) : (s.setPat p).regs = s.regs := rfl
@[simp] theorem State.setPat_log (p : PatSlot) (s : State) : (s.setPat p).log = s.log := rfl
@[simp] theorem State.setPat_tel (p : PatSlot) (s : State) : (s.setPat p).tel = s.tel := rfl
@[simp] theorem State.setPat_i3c (p : PatSlot) (s : State) : (s.setPat p).i3c = s.i3c := rfl
@[simp] theorem State.setPat_fingerprint (p : PatSlot) (s : State) : (s.setPat p).fingerprint = s.fingerprint := rfl
@[simp] theorem State.setPat_ptns (p : PatSlot) (s : State) : (s.setPat p).ptns = s.ptns := rfl
@[simp] theorem State.setPat_ptnGen (p : PatSlot) (s : State) : (s.setPat p).ptnGen = s.ptnGen := rfl
@[simp] theorem State.setPat_host (p : PatSlot) (s : State) : (s.setPat p).host = s.host := rfl
@[simp] theorem State.setPat_trust (p : PatSlot) (s : State) : (s.setPat p).trust = s.trust := rfl
@[simp] theorem State.setPat_store (p : PatSlot) (s : State) : (s.setPat p).store = s.store := rfl
@[simp] theorem State.setPat_hbm (p : PatSlot) (s : State) : (s.setPat p).hbm = s.hbm := rfl
@[simp] theorem State.setPat_flash (p : PatSlot) (s : State) : (s.setPat p).flash = s.flash := rfl
@[simp] theorem State.setPat_staging (p : PatSlot) (s : State) : (s.setPat p).staging = s.staging := rfl
@[simp] theorem State.setPat_eng (p : PatSlot) (s : State) : (s.setPat p).eng = s.eng := rfl
@[simp] theorem State.setPat_slots_progs (p : PatSlot) (s : State) : (s.setPat p).slots.progs = s.slots.progs := rfl
@[simp] theorem State.setPat_slots_nextVer (p : PatSlot) (s : State) : (s.setPat p).slots.nextVer = s.slots.nextVer := rfl
@[simp] theorem State.setPat_rcl (p : PatSlot) (s : State) : (s.setPat p).rcl = s.rcl := rfl
@[simp] theorem State.setPat_cmds (p : PatSlot) (s : State) : (s.setPat p).cmds = s.cmds := rfl
@[simp] theorem State.setPat_map (p : PatSlot) (s : State) : (s.setPat p).map = s.map := rfl
@[simp] theorem State.setPat_fab (p : PatSlot) (s : State) : (s.setPat p).fab = s.fab := rfl
@[simp] theorem State.setPat_out (p : PatSlot) (s : State) : (s.setPat p).out = s.out := rfl
@[simp] theorem State.setPat_freeCtr (p : PatSlot) (s : State) : (s.setPat p).freeCtr = s.freeCtr := rfl
@[simp] theorem State.setPat_pending (p : PatSlot) (s : State) : (s.setPat p).pending = s.pending := rfl

/-! ### `State.setProg` -/

@[simp] theorem State.setProg_pow (p : ProgSlot) (s : State) : (s.setProg p).pow = s.pow := rfl
@[simp] theorem State.setProg_boot (p : ProgSlot) (s : State) : (s.setProg p).boot = s.boot := rfl
@[simp] theorem State.setProg_regs (p : ProgSlot) (s : State) : (s.setProg p).regs = s.regs := rfl
@[simp] theorem State.setProg_log (p : ProgSlot) (s : State) : (s.setProg p).log = s.log := rfl
@[simp] theorem State.setProg_tel (p : ProgSlot) (s : State) : (s.setProg p).tel = s.tel := rfl
@[simp] theorem State.setProg_i3c (p : ProgSlot) (s : State) : (s.setProg p).i3c = s.i3c := rfl
@[simp] theorem State.setProg_fingerprint (p : ProgSlot) (s : State) : (s.setProg p).fingerprint = s.fingerprint := rfl
@[simp] theorem State.setProg_ptns (p : ProgSlot) (s : State) : (s.setProg p).ptns = s.ptns := rfl
@[simp] theorem State.setProg_ptnGen (p : ProgSlot) (s : State) : (s.setProg p).ptnGen = s.ptnGen := rfl
@[simp] theorem State.setProg_host (p : ProgSlot) (s : State) : (s.setProg p).host = s.host := rfl
@[simp] theorem State.setProg_trust (p : ProgSlot) (s : State) : (s.setProg p).trust = s.trust := rfl
@[simp] theorem State.setProg_store (p : ProgSlot) (s : State) : (s.setProg p).store = s.store := rfl
@[simp] theorem State.setProg_hbm (p : ProgSlot) (s : State) : (s.setProg p).hbm = s.hbm := rfl
@[simp] theorem State.setProg_flash (p : ProgSlot) (s : State) : (s.setProg p).flash = s.flash := rfl
@[simp] theorem State.setProg_staging (p : ProgSlot) (s : State) : (s.setProg p).staging = s.staging := rfl
@[simp] theorem State.setProg_eng (p : ProgSlot) (s : State) : (s.setProg p).eng = s.eng := rfl
@[simp] theorem State.setProg_slots_pats (p : ProgSlot) (s : State) : (s.setProg p).slots.pats = s.slots.pats := rfl
@[simp] theorem State.setProg_slots_nextVer (p : ProgSlot) (s : State) : (s.setProg p).slots.nextVer = s.slots.nextVer := rfl
@[simp] theorem State.setProg_rcl (p : ProgSlot) (s : State) : (s.setProg p).rcl = s.rcl := rfl
@[simp] theorem State.setProg_cmds (p : ProgSlot) (s : State) : (s.setProg p).cmds = s.cmds := rfl
@[simp] theorem State.setProg_map (p : ProgSlot) (s : State) : (s.setProg p).map = s.map := rfl
@[simp] theorem State.setProg_fab (p : ProgSlot) (s : State) : (s.setProg p).fab = s.fab := rfl
@[simp] theorem State.setProg_out (p : ProgSlot) (s : State) : (s.setProg p).out = s.out := rfl
@[simp] theorem State.setProg_freeCtr (p : ProgSlot) (s : State) : (s.setProg p).freeCtr = s.freeCtr := rfl
@[simp] theorem State.setProg_pending (p : ProgSlot) (s : State) : (s.setProg p).pending = s.pending := rfl

end Sys2Proof.Machine
end

