-- ==== Sys2Proof/Laws/Commands.lean ====
section
/-! SUPPORT. The path of a command through the steps of 10_ndox_protocol.md R274: what each shared operation does, once for
all opcodes. -/

namespace Sys2Proof.Machine

/-! ## Arrival (R272, R275) -/

/-- A command on a queue that can be taken at once is taken in. -/
theorem State.arriveHost_taken (op : Op) (d : OpDef) (p : Packet) (x n : Nat) (s : State) (q y : Queue)
    (hq : s.ctxQueue? x n = some q) (he : q.err = false) (hp : (s.port q.port).state = 2) (hd : q.backlog.length < q.qdepth)
    (hy : (((s.ringSpace q.qpn p.ringHead.toNat).count 5 nodeScope (hostTel q.port 1)).queue? q.qpn).getD q = y)
    (hb : y.backlog = []) (ht : ((s.ringSpace q.qpn p.ringHead.toNat).count 5 nodeScope (hostTel q.port 1)).takes op y = true) :
    s.arriveHost op d p x n = ((s.ringSpace q.qpn p.ringHead.toNat).count 5 nodeScope (hostTel q.port 1)).takeIn op d p := by
  unfold State.arriveHost
  simp only [hq, he, hp, Bool.false_eq_true, false_or, ne_eq, not_true_eq_false, if_false, Nat.not_le.mpr hd, hy, hb, ht, and_self, if_true]

/-- A command on a queue that holds QDEPTH others draws an RNR NAK (R262). -/
theorem State.arriveHost_full (op : Op) (d : OpDef) (p : Packet) (x n : Nat) (s : State) (q : Queue)
    (hq : s.ctxQueue? x n = some q) (he : q.err = false) (hp : (s.port q.port).state = 2) (hd : q.qdepth ≤ q.backlog.length) :
    s.arriveHost op d p x n = s.emit (.rnrNak q.qpn) := by
  unfold State.arriveHost
  simp [hq, he, hp, hd]

/-- A command in a record of an open session that can be taken at once is taken in. -/
theorem State.arrive_session (op : Op) (d : OpDef) (p : Packet) (n : Nat) (s : State) (x : Session) (hp : p.src = .mgmt n)
    (hx : s.session? n = some x) (ho : x.isOpen = true) (hb : x.backlog = []) (ht : s.takesSession x = true) :
    s.arrive op d p = (s.updSession n fun y => { y with outstanding := y.outstanding + 1 }).takeIn op d p := by
  unfold State.arrive
  simp [hp, hx, ho, hb, ht]

/-- A command over I3C that can be taken at once is taken in. -/
theorem State.arrive_i3c (op : Op) (d : OpDef) (p : Packet) (s : State) (hp : p.src = .i3c) (hs : s.pow.phase = .service)
    (ho : s.pow.state ≠ .off) (hb : s.i3c.backlog = []) (hn : s.i3cBusy = false) : s.arrive op d p = s.takeIn op d p := by
  unfold State.arrive
  simp [hp, hs, ho, hb, hn]

/-! ## Steps 6 to 9 -/

/-- The command's counters of step 9. -/
def State.admitted (c : Cmd) (s : State) : State :=
  match c.pkt.src with
  | .host x _ => (s.countPtn c.ptn 0 0).count 7 nodeScope (4 * x)
  | _ => s.countPtn c.ptn 0 0

/-- Where steps 6 to 8 pass, the command is counted and runs. -/
theorem State.sixToNine_pass (d : OpDef) (c : Cmd) (s : State) (h1 : s.sixRecorded d c = none) (h2 : d.six c s = none)
    (h3 : d.seven c s = none) (h4 : s.replyFits c (d.maxReply c s) = true) :
    s.sixToNine d c = (s.admitted c).settle c (d.run c (s.admitted c)) := by
  unfold State.sixToNine State.admitted
  simp only [h1, h2, h3, h4, not_true_eq_false, if_false]
  all_goals cases c.pkt.src <;> rfl

/-- A failing step 7 gives its status. -/
theorem State.sixToNine_seven (d : OpDef) (c : Cmd) (s : State) (st : Status) (h1 : s.sixRecorded d c = none) (h2 : d.six c s = none)
    (h3 : d.seven c s = some st) : s.sixToNine d c = s.settle c (.no st) := by
  unfold State.sixToNine
  simp only [h1, h2, h3]

/-- A reply that does not fit the ring is refused at step 8 (R273). -/
theorem State.sixToNine_long (d : OpDef) (c : Cmd) (s : State) (h1 : s.sixRecorded d c = none) (h2 : d.six c s = none)
    (h3 : d.seven c s = none) (h4 : s.replyFits c (d.maxReply c s) = false) : s.sixToNine d c = s.settle c (.no .badParam) := by
  unfold State.sixToNine
  simp only [h1, h2, h3, h4]
  rfl

/-! ## Step 5 -/

/-- A command that step 5 refuses. -/
theorem State.fiveToNine_refuse (d : OpDef) (c : Cmd) (s : State) (st : Status) (hint : Option NodeId)
    (h : s.five (d.named c.data) c.pkt.epoch.toNat (s.srcPriv c.pkt.src) = .refuse st hint) :
    s.fiveToNine d c = s.settle c (.refuse st hint 0) := by
  unfold State.fiveToNine
  simp only [h]

/-- A command that names nothing to wait for goes on. -/
theorem State.fiveToNine_free (d : OpDef) (c : Cmd) (s : State)
    (h : s.five (d.named c.data) c.pkt.epoch.toNat (s.srcPriv c.pkt.src) = .pass) (hn : (d.named c.data).seq? = none) :
    s.fiveToNine d c = s.sixToNine d c := by
  unfold State.fiveToNine
  simp only [h, hn]

/-- A command on a sequence that is here, settled and with its descriptor goes on. -/
theorem State.fiveToNine_here (d : OpDef) (c : Cmd) (s : State) (k : Handle) (q : Seq)
    (h : s.five (d.named c.data) c.pkt.epoch.toNat (s.srcPriv c.pkt.src) = .pass) (hn : (d.named c.data).seq? = some k)
    (hq : s.seq? k = some q) (hl : s.unready k = false) (hr : q.resident = true) : s.fiveToNine d c = s.sixToNine d c := by
  unfold State.fiveToNine
  simp only [h, hn, hl, hq, hr, Bool.false_eq_true, if_false, if_true]
  split <;> rfl

/-- A missing descriptor holds an append or an attend (R17). -/
theorem State.fiveToNine_descriptor (d : OpDef) (c : Cmd) (s : State) (k : Handle) (q : Seq)
    (h : s.five (d.named c.data) c.pkt.epoch.toNat (s.srcPriv c.pkt.src) = .pass) (hn : (d.named c.data).seq? = some k)
    (hq : s.seq? k = some q) (hl : s.unready k = false) (hr : q.resident = false) (hc : c.op.cls = .positional ∨ c.op = .attend) :
    s.fiveToNine d c = (s.countPtn c.ptn 0 4).hold c (.descriptor k) [] := by
  unfold State.fiveToNine
  simp [h, hn, hl, hq, hr, hc]

/-! ## What a handler answers -/

@[simp] theorem State.settle_refuse (c : Cmd) (st : Status) (hint : Option NodeId) (r : Nat) (s : State) :
    s.settle c (.refuse st hint r) = s.refuse c.op c.pkt c.ptn st hint r := rfl
@[simp] theorem State.settle_done (c : Cmd) (st : Status) (b : List Byte) (s t : State) :
    s.settle c (.done st b t) = t.finish c st none 0 b := rfl
@[simp] theorem State.settle_wait (c : Cmd) (w : Wait) (l : List Handle) (s t : State) :
    s.settle c (.wait w l t) = (t.pin l).hold c w l := rfl
@[simp] theorem State.settle_held (c : Cmd) (s t : State) : s.settle c (.held t) = t := rfl

end Sys2Proof.Machine
end

