-- ==== Sys2Proof/Laws/Mem.lean ====
section
/-! SUPPORT. Memory keeps its canonical form, a byte written is the byte read, and a write leaves every other byte alone
(12_host_ports.md R338, R341). -/

namespace Sys2Proof.Machine

/-! ## The canonical form -/

theorem Mem.above_cons (lo : Option Nat) (a : Nat) (b : Byte) (m : Mem) :
    Mem.above lo ((a, b) :: m) = true ↔ (∀ x, lo = some x → x < a) ∧ b ≠ 0#8 ∧ Mem.above (some a) m = true := by
  cases lo <;> simp [Mem.above, and_assoc]

theorem Mem.above_write (a : Nat) (b : Byte) (m : Mem) (lo : Option Nat) (h : Mem.above lo m = true)
    (ha : ∀ x, lo = some x → x < a) : Mem.above lo (Mem.write a b m) = true := by
  induction m generalizing lo with
  | nil =>
    by_cases hb : b = 0#8
    · simp [Mem.write, hb, Mem.above]
    · rw [show Mem.write a b [] = [(a, b)] by simp [Mem.write, hb], Mem.above_cons]
      exact ⟨ha, hb, rfl⟩
  | cons e m ih =>
    obtain ⟨x, c⟩ := e
    obtain ⟨h1, h2, h3⟩ := (Mem.above_cons lo x c m).mp h
    by_cases hlt : a < x
    · by_cases hb : b = 0#8
      · simpa [Mem.write, hlt, hb] using h
      · rw [show Mem.write a b ((x, c) :: m) = (a, b) :: (x, c) :: m by simp [Mem.write, hlt, hb], Mem.above_cons, Mem.above_cons]
        exact ⟨ha, hb, by intro y hy; cases hy; exact hlt, h2, h3⟩
    · by_cases heq : a = x
      · subst heq
        by_cases hb : b = 0#8
        · rw [show Mem.write a b ((a, c) :: m) = m by simp [Mem.write, hb]]
          cases m with
          | nil => rfl
          | cons e m =>
            obtain ⟨h4, h5⟩ := (Mem.above_cons (some a) e.1 e.2 m).mp h3
            exact (Mem.above_cons lo e.1 e.2 m).mpr ⟨fun y hy => Nat.lt_trans (ha y hy) (h4 a rfl), h5⟩
        · rw [show Mem.write a b ((a, c) :: m) = (a, b) :: m by simp [Mem.write, hb], Mem.above_cons]
          exact ⟨ha, hb, h3⟩
      · rw [show Mem.write a b ((x, c) :: m) = (x, c) :: Mem.write a b m by simp [Mem.write, hlt, heq], Mem.above_cons]
        exact ⟨h1, h2, ih (some x) h3 (by intro y hy; cases hy; omega)⟩

/-- A write keeps the canonical form. -/
theorem Mem.wf_write (a : Nat) (b : Byte) (m : Mem) (h : m.wf = true) : (Mem.write a b m).wf = true :=
  Mem.above_write a b m none h (by simp)

/-- So do writes of many bytes. -/
theorem Mem.wf_writeList (l : List Byte) (m : Mem) (a : Nat) (h : m.wf = true) : (Mem.writeList m a l).wf = true := by
  induction l generalizing m a with
  | nil => exact h
  | cons b l ih => exact ih _ _ (Mem.wf_write a b m h)

/-! ## Reads and writes -/

@[simp] theorem Mem.read_nil (a : Nat) : Mem.read [] a = 0 := rfl

theorem Mem.read_cons (x : Nat) (c : Byte) (m : Mem) (a : Nat) :
    Mem.read ((x, c) :: m) a = if x = a then c else Mem.read m a := by
  unfold Mem.read assoc
  by_cases h : x = a <;> simp [h]

/-- Below its first address a memory in canonical form reads zero. -/
theorem Mem.read_below (m : Mem) (x a : Nat) (h : Mem.above (some x) m = true) (ha : a ≤ x) : Mem.read m a = 0 := by
  induction m generalizing x with
  | nil => rfl
  | cons e m ih =>
    obtain ⟨y, c⟩ := e
    obtain ⟨h1, -, h3⟩ := (Mem.above_cons (some x) y c m).mp h
    have hy : x < y := h1 x rfl
    rw [Mem.read_cons, if_neg (by omega)]
    exact ih y h3 (by omega)

/-- A byte written is the byte read. -/
theorem Mem.read_write_same (a : Nat) (b : Byte) (m : Mem) (lo : Option Nat) (h : Mem.above lo m = true) :
    Mem.read (Mem.write a b m) a = b := by
  induction m generalizing lo with
  | nil => by_cases hb : b = 0#8 <;> simp [Mem.write, hb, Mem.read_cons]
  | cons e m ih =>
    obtain ⟨x, c⟩ := e
    obtain ⟨-, -, h3⟩ := (Mem.above_cons lo x c m).mp h
    by_cases hlt : a < x
    · by_cases hb : b = 0#8
      · rw [show Mem.write a b ((x, c) :: m) = (x, c) :: m by simp [Mem.write, hlt, hb], Mem.read_cons,
          if_neg (Nat.ne_of_gt hlt), Mem.read_below m x a h3 (by omega), hb]
        rfl
      · simp [Mem.write, hlt, hb, Mem.read_cons]
    · by_cases heq : a = x
      · subst heq
        by_cases hb : b = 0#8
        · simpa [Mem.write, hb] using Mem.read_below m a a h3 (Nat.le_refl a)
        · simp [Mem.write, hb, Mem.read_cons]
      · simp only [Mem.write, hlt, heq, if_false, Mem.read_cons, if_neg (Ne.symm heq)]
        exact ih (some x) h3

/-- A write leaves every other byte alone. -/
theorem Mem.read_write_other (a x : Nat) (b : Byte) (m : Mem) (h : x ≠ a) : Mem.read (Mem.write a b m) x = Mem.read m x := by
  induction m with
  | nil => by_cases hb : b = 0#8 <;> simp [Mem.write, hb, Mem.read_cons, Ne.symm h]
  | cons e m ih =>
    obtain ⟨y, c⟩ := e
    by_cases hlt : a < y
    · by_cases hb : b = 0#8 <;> simp [Mem.write, hlt, hb, Mem.read_cons, Ne.symm h]
    · by_cases heq : a = y
      · subst heq
        by_cases hb : b = 0#8 <;> simp [Mem.write, hb, Mem.read_cons, Ne.symm h]
      · simp [Mem.write, hlt, heq, Mem.read_cons, ih]

/-- Bytes written from `a` on leave the bytes outside them alone. -/
theorem Mem.read_writeList_outside (l : List Byte) (m : Mem) (a x : Nat) (h : x < a ∨ a + l.length ≤ x) :
    Mem.read (Mem.writeList m a l) x = Mem.read m x := by
  induction l generalizing m a with
  | nil => rfl
  | cons b l ih =>
    simp only [List.length_cons] at h
    rw [Mem.writeList, ih _ _ (by omega), Mem.read_write_other _ _ _ _ (by omega)]

/-- The byte at offset `i` of the bytes written is the byte read there. -/
theorem Mem.read_writeList_inside (l : List Byte) (m : Mem) (a i : Nat) (hm : m.wf = true) (h : i < l.length) :
    Mem.read (Mem.writeList m a l) (a + i) = l[i] := by
  induction l generalizing m a i with
  | nil => simp at h
  | cons b l ih =>
    cases i with
    | zero =>
      rw [Mem.writeList, Mem.read_writeList_outside _ _ _ _ (by omega)]
      exact Mem.read_write_same _ _ _ none hm
    | succ i =>
      have := ih (Mem.write a b m) (a + 1) i (Mem.wf_write a b m hm) (by simpa using h)
      rw [Mem.writeList, show a + (i + 1) = a + 1 + i by omega, this]
      rfl

/-- Bytes written read back whole. -/
theorem Mem.readList_writeList (l : List Byte) (m : Mem) (a : Nat) (hm : m.wf = true) :
    Mem.readList (Mem.writeList m a l) a l.length = l := by
  apply List.ext_getElem
  · simp [Mem.readList]
  · intro i h1 h2
    simp only [Mem.readList, List.getElem_map, List.getElem_range]
    exact Mem.read_writeList_inside l m a i hm h2

end Sys2Proof.Machine
end

