-- ==== Sys2Proof/Laws/Regs.lean ====
section
/-! SUPPORT. The register file: a register kept is the register read, others stay, and a status bit raised reads 1
(17_configuration_space.md R504). -/

namespace Sys2Proof.Machine

theorem assoc_nil {β : Type} (k : Nat) : assoc k ([] : List (Nat × β)) = none := rfl

theorem assoc_cons {β : Type} (k x : Nat) (v : β) (l : List (Nat × β)) :
    assoc k ((x, v) :: l) = if x = k then some v else assoc k l := by
  unfold assoc
  by_cases h : x = k <;> simp [h]

theorem assoc_regPut_same (o : Nat) (v : Word32) (l : List (Nat × Word32)) : assoc o (regPut o v l) = some v := by
  induction l with
  | nil => simp [regPut, assoc_cons]
  | cons e l ih =>
    obtain ⟨x, u⟩ := e
    by_cases h1 : o < x
    · simp [regPut, h1, assoc_cons]
    · by_cases h2 : o = x
      · simp [regPut, h2, assoc_cons]
      · simp [regPut, h1, h2, assoc_cons, Ne.symm h2, ih]

theorem assoc_regPut_other (o k : Nat) (v : Word32) (l : List (Nat × Word32)) (h : k ≠ o) :
    assoc k (regPut o v l) = assoc k l := by
  induction l with
  | nil => simp [regPut, assoc_cons, Ne.symm h]
  | cons e l ih =>
    obtain ⟨x, u⟩ := e
    by_cases h1 : o < x
    · simp [regPut, h1, assoc_cons, Ne.symm h]
    · by_cases h2 : o = x
      · subst h2; simp [regPut, assoc_cons, Ne.symm h]
      · simp [regPut, h1, h2, assoc_cons, ih]

theorem assoc_filter_same (o : Nat) (l : List (Nat × Word32)) : assoc o (l.filter fun p => !(p.1 == o)) = none := by
  induction l with
  | nil => rfl
  | cons e l ih =>
    obtain ⟨x, u⟩ := e
    by_cases h : x = o
    · simpa [h] using ih
    · simpa [h, assoc_cons] using ih

theorem assoc_filter_other (o k : Nat) (l : List (Nat × Word32)) (h : k ≠ o) :
    assoc k (l.filter fun p => !(p.1 == o)) = assoc k l := by
  induction l with
  | nil => rfl
  | cons e l ih =>
    obtain ⟨x, u⟩ := e
    by_cases hx : x = o
    · subst hx; simpa [assoc_cons, Ne.symm h] using ih
    · simp [hx, assoc_cons, ih]

/-- The kept bits depend on the register file alone. -/
theorem State.kept_congr {s t : State} (h : t.regs = s.regs) (r : Reg) : t.kept r = s.kept r := by
  unfold State.kept; rw [h]

theorem State.rf_congr {s t : State} (h : t.regs = s.regs) (r : Reg) (lo w : Nat) : t.rf r lo w = s.rf r lo w := by
  unfold State.rf; rw [State.kept_congr h]

/-- What is kept is what is read. -/
@[simp] theorem State.kept_keep_same (r : Reg) (v : Nat) (s : State) (h : v < 2 ^ 32) : (s.keep r v).kept r = v := by
  unfold State.kept State.keep
  by_cases hv : v = r.rst
  · simp [hv, assoc_filter_same]
  · simp only [hv, if_false, assoc_regPut_same, BitVec.toNat_ofNat]
    exact Nat.mod_eq_of_lt h

/-- Any value is kept modulo the register's width, but for a reset value, which is kept as it is. -/
theorem State.kept_keep_mod (r : Reg) (v : Nat) (s : State) : (s.keep r v).kept r % 2 ^ 32 = v % 2 ^ 32 := by
  unfold State.kept State.keep
  by_cases hv : v = r.rst
  · simp [hv, assoc_filter_same]
  · simp only [hv, if_false, assoc_regPut_same, BitVec.toNat_ofNat, Nat.mod_mod]

/-- A register at another offset stays. -/
@[simp] theorem State.kept_keep_other (r q : Reg) (v : Nat) (s : State) (h : q.offset ≠ r.offset) :
    (s.keep r v).kept q = s.kept q := by
  unfold State.kept State.keep
  by_cases hv : v = r.rst
  · simp [hv, assoc_filter_other _ _ _ h]
  · simp [hv, assoc_regPut_other _ _ _ _ h]

/-! ## Fields -/

theorem bits_setBits (n lo w v : Nat) : bits (setBits n lo w v) lo w = v % 2 ^ w := by
  have h1 : n = n % 2 ^ lo + 2 ^ lo * (n / 2 ^ lo % 2 ^ w + 2 ^ w * (n / 2 ^ lo / 2 ^ w)) := by
    rw [Nat.mod_add_div, Nat.mod_add_div]
  have h2 : setBits n lo w v = n % 2 ^ lo + 2 ^ lo * (v % 2 ^ w + 2 ^ w * (n / 2 ^ lo / 2 ^ w)) := by
    unfold setBits bits
    conv => lhs; lhs; lhs; rw [h1]
    rw [Nat.mul_add, Nat.mul_add, Nat.mul_comm (2 ^ lo) (n / 2 ^ lo % 2 ^ w), Nat.mul_comm (2 ^ lo) (v % 2 ^ w)]
    omega
  unfold bits
  rw [h2, Nat.add_mul_div_left _ _ (Nat.two_pow_pos lo), Nat.div_eq_of_lt (Nat.mod_lt _ (Nat.two_pow_pos lo)), Nat.zero_add,
    Nat.add_mul_mod_self_left, Nat.mod_mod]

/-- Bits below 2^32 are those of the value modulo 2^32. -/
theorem bits_mod (n lo w : Nat) (h : lo + w ≤ 32) : bits (n % 2 ^ 32) lo w = bits n lo w := by
  unfold bits
  have h32 : (2 : Nat) ^ 32 = 2 ^ lo * 2 ^ (32 - lo) := by rw [← Nat.pow_add]; congr 1; omega
  rw [h32, Nat.mod_mul_right_div_self]
  exact Nat.mod_mod_of_dvd _ (Nat.pow_dvd_pow 2 (by omega))

/-- A field set is the field read. -/
theorem State.rf_setRf_same (r : Reg) (lo w v : Nat) (s : State) (h : lo + w ≤ 32) : (s.setRf r lo w v).rf r lo w = v % 2 ^ w := by
  unfold State.rf State.setRf
  rw [← bits_mod _ lo w h, State.kept_keep_mod, bits_mod _ lo w h, bits_setBits]

theorem State.rf_setRf_other (r q : Reg) (lo w v lo' w' : Nat) (s : State) (h : q.offset ≠ r.offset) :
    (s.setRf r lo w v).rf q lo' w' = s.rf q lo' w' := by
  unfold State.rf State.setRf
  rw [State.kept_keep_other r q _ _ h]

/-! ## Records and status bits -/

/-- A record changes no register but the log's own status. -/
theorem State.rf_logRec (c : Rec) (reg mask : Nat) (q : Reg) (lo w : Nat) (s : State) (h : q.offset ≠ Reg.logSts.offset) :
    (s.logRec c reg mask).rf q lo w = s.rf q lo w := by
  unfold State.logRec
  dsimp only
  split
  · rw [State.rf_congr (State.ibiCheck_regs _), State.rf_congr (State.putRec_regs _ _ _ _), State.rf_setRf_other _ _ _ _ _ _ _ _ h,
      State.rf_congr (State.putRec_regs _ _ _ _)]
  · rw [State.rf_congr (State.putRec_regs _ _ _ _)]

/-- A status bit raised reads 1. -/
theorem State.rf_raise (r : Reg) (k : Nat) (c : Rec) (s : State) (hk : k < 32) (h : r.offset ≠ Reg.logSts.offset) :
    (s.raise r k c).rf r k 1 = 1 := by
  unfold State.raise
  rw [State.rf_congr (State.ibiCheck_regs _), State.rf_logRec _ _ _ _ _ _ _ h, State.rf_setRf_same _ _ _ _ _ (by omega)]
  rfl

/-- A raise leaves the other registers, but the log's own status. -/
theorem State.rf_raise_other (r q : Reg) (k lo w : Nat) (c : Rec) (s : State) (h : q.offset ≠ r.offset)
    (hl : q.offset ≠ Reg.logSts.offset) : (s.raise r k c).rf q lo w = s.rf q lo w := by
  unfold State.raise
  rw [State.rf_congr (State.ibiCheck_regs _), State.rf_logRec _ _ _ _ _ _ _ hl, State.rf_setRf_other _ _ _ _ _ _ _ _ h]

end Sys2Proof.Machine
end

