-- ==== Sys2Proof/WellFormed.lean ====
section
/-! DEFINITION. The commands that the outside can send: field widths and sizes that the spec's formats give. -/

namespace Sys2Proof

def fitsIn (bits n : Nat) : Bool := decide (n < 2 ^ bits)

/-- A packet as a SEND, a session record or I3C can carry it (10_ndox_protocol.md R264, R265): a SEND takes at most
65,504 B of payload after the header. -/
def Packet.wf (p : Packet) : Bool :=
  match p.src with
  | .host c q => decide (p.body.length ≤ 65504) && fitsIn 12 c && fitsIn 16 q
  | .mgmt n => decide (p.body.length ≤ 16777248) && fitsIn 2 n
  | .i3c => decide (p.body.length ≤ 65504)

/-- Keys that rise, below 65,536. -/
def risingBelow : Nat → List (Nat × (NodeId × NodeId)) → Bool
  | _, [] => true
  | lo, x :: l => decide (lo ≤ x.1) && fitsIn 16 x.1 && risingBelow (x.1 + 1) l

/-- A map names each shard once (R323). -/
def MapBody.wf (m : MapBody) : Bool := risingBelow 0 m.shards && m.nodes.all fun n => fitsIn 16 n.2.1 && fitsIn 16 n.2.2

/-- An append's lists agree: a row of every layer for each position (R308, R309). -/
def AppendReq.wf (a : AppendReq) : Bool :=
  fitsIn 32 a.pos && decide (a.rows.length = a.layers.length) && (a.layers.all (fitsIn 16)) && decide (a.level < 4) &&
  a.rows.all fun l => decide (l.length = a.tokens.length)

def HsBody.wf (b : HsBody) : Bool := decide (b.nonce.length = 32) && decide (b.kem.length = 1568)

/-- The fields of R361. -/
def LinkFrame.wf (f : LinkFrame) : Bool :=
  fitsIn 4 f.vc && fitsIn 4 f.kind && fitsIn 4 f.creditVc && fitsIn 12 f.credits && fitsIn 16 f.body.length

def TrainInfo.wf (t : TrainInfo) : Bool := fitsIn 6 t.plane && fitsIn 16 t.port && decide (t.credits.length = 5)

def ForkReq.wf (f : ForkReq) : Bool := fitsIn 32 f.f && decide (f.replicas.length ≤ 8)
def SeqCreateReq.wf (r : SeqCreateReq) : Bool := decide (r.replicas.length ≤ 8) && decide (r.groups.length ≤ 255)
def PartialReq.wf (b : PartialReq) : Bool := fitsIn 16 b.layer && fitsIn 32 b.vis && fitsIn 32 b.tokenBudget && fitsIn 16 b.pages.length
def GradReq.wf (b : GradReq) : Bool := fitsIn 16 b.layer && b.rows.all fun r => fitsIn 32 r.vis
def ScanReq.wf (b : ScanReq) : Bool := fitsIn 16 b.ns && fitsIn 16 b.k && fitsIn 32 b.budget
def Heartbeat.wf (b : Heartbeat) : Bool := decide (b.health ≤ 1000) && decide (b.role < 4)
def PageName.wf (n : PageName) : Bool := fitsIn 16 n.layer && fitsIn 32 n.block
def SegName.wf (n : SegName) : Bool := fitsIn 16 n.ns && fitsIn 32 n.list

/-- Every operand lies in the range that its field has. -/
def Instr.wf (i : Instr) : Bool :=
  match i with
  | .ctxCreate p | .ctxDestroy p | .queueCreate p | .queueDestroy p | .nsCreate p | .nsModify p | .nsDelete p | .seqCreate p
  | .seqDelete p | .fork p | .truncate p | .seqTag p | .seqDescribe p | .append p | .appendBulk p | .pageList p | .attend p
  | .attendBatch p | .gradAttend p | .gradRead p | .gradClear p | .recall p | .recallAttend p | .patInvalidate p | .patWrite p
  | .patValidate p | .patUnload p | .patDescribe p | .progLoad p | .progUnload p | .progDescribe p | .modelInstall p
  | .modelDescribe p | .windowRekey p | .windowDescribe p | .trigPost p | .trigCancel p | .trigDescribe p | .mapPush p
  | .mapDescribe p | .ptnCreate p | .ptnModify p | .ptnReset p | .ptnDestroy p | .ptnDescribe p | .fwStage p | .fwCheck p
  | .fwActivate p | .fwAbort p | .fwDescribe p | .attest p | .certRead p | .keyInstall p | .keyRevoke p | .nodeDescribe p
  | .regRead p | .regWrite p | .logRead p | .telRead p | .healthRead p | .stackState p => Packet.wf p
  | .sendLengthError queue len => fitsIn 24 queue && fitsIn 32 len
  | .sendNoBuffer queue | .replyRingSpace queue _ => fitsIn 24 queue
  | .scoreboardEntriesFreed | .descriptorInstall _ | .epochHoldRelease _ | .epochHoldExpiry _ | .attendPositionsLanded _
  | .attendWaitExpiry _ | .appendGapFilled _ | .appendGapExpiry _ | .journalSpaceFreed _ | .journalWaitExpiry _
  | .duplicateHeldRelease _ | .recordExpiry _ _ | .recordSpaceFreed _ => true
  | .sealStart _ page | .sealPriorityRaise page | .sealCommit page _ => PageName.wf page
  | .persistedPageWritten _ | .engineStepCommit _ | .fanoutTimeout _ _ => true
  | .partialReq _ b => PartialReq.wf b
  | .partialReply _ _ status _ _ => fitsIn 16 status
  | .partialDecline _ _ reason => fitsIn 8 reason
  | .gradReq _ b => GradReq.wf b
  | .gradReply _ _ _ => true
  | .draftHint _ _ layer _ => fitsIn 16 layer
  | .draftingReadComplete _ | .flashReadComplete _ _ | .stagingLineExpiry _ | .nearBankSequenceDone _ _ _
  | .nearBankRefreshSuspend _ _ | .nearBankResume _ _ | .pageReclaim _ | .demotion | .promotion _ | .migrationCopyComplete _ _
  | .placementMove _ _ | .openRegionPromotion _ | .openRegionDemotion _ | .reclamationStart _ => true
  | .reclaimCopyComplete _ frame _ => fitsIn 36 frame
  | .blockCloseCheck _ block _ | .blockErase _ block | .programFailure _ block | .eraseFailure _ block => fitsIn 32 block
  | .wearLevelMove _ => true
  | .flashPatrolRead _ block frame _ correctedPct => fitsIn 32 block && fitsIn 36 frame && decide (correctedPct ≤ 100)
  | .flashTempRead _ _ | .deltaFlush | .deltaBufferSpace => true
  | .leafWriteback leaf => fitsIn 27 leaf
  | .directoryCheckpoint | .mapRebuildComplete | .flushConsumed => true
  | .indexCompaction seg | .indexRebuild seg | .recallBatchStart seg | .scanPassComplete seg _ => SegName.wf seg
  | .recallDeadlineExpiry _ => true
  | .scanReq _ b => ScanReq.wf b
  | .scanResult _ _ _ _ | .scanDecline _ _ => true
  | .patternCheck _ _ block slot _ => fitsIn 32 block && fitsIn 8 slot
  | .patternResult _ _ answer => fitsIn 8 answer
  | .patternCheckTimeout _ _ => true
  | .handleQuery _ _ layer block => fitsIn 16 layer && fitsIn 32 block
  | .handleReply _ _ _ _ => true
  | .forkCreate _ f _ _ _ _ => ForkReq.wf f
  | .forkAccept _ _ status => fitsIn 16 status
  | .forkAcceptTimeout _ | .pendingChildTimeout _ => true
  | .mirrorWrite _ a => AppendReq.wf a
  | .mirrorAck _ _ layer status mirrored => fitsIn 16 layer && fitsIn 16 status && fitsIn 32 mirrored
  | .mirrorStepCreate _ r => SeqCreateReq.wf r
  | .mirrorStepDelete _ _ => true
  | .mirrorStepFork _ f => ForkReq.wf f
  | .mirrorStepTruncate _ _ t => fitsIn 32 t
  | .mirrorStepTag _ _ _ => true
  | .mirrorStepSealCommit _ page list _ => PageName.wf page && fitsIn 32 list
  | .mirrorStepPersisted _ _ layer persisted => fitsIn 16 layer && fitsIn 32 persisted
  | .mirrorStepTailImage _ _ layer _ _ => fitsIn 16 layer
  | .mirrorStepLayerLoss _ _ layer first fin => fitsIn 16 layer && fitsIn 32 first && fitsIn 32 fin
  | .mirrorStepRestoredLengths _ _ _ lengths => (lengths.all fun n => fitsIn 32 n)
  | .mirrorStepTransferDone _ shard count => fitsIn 16 shard && fitsIn 32 count
  | .pageCopy _ purpose _ layer _ => fitsIn 8 purpose && fitsIn 16 layer
  | .pageCopyAck _ _ _ status => fitsIn 16 status
  | .pageRelease _ _ count => fitsIn 32 count
  | .pageFetch _ _ _ layer block => fitsIn 16 layer && fitsIn 32 block
  | .engineFault _ _ | .engineWatchdogExpiry _ | .spareEngineReady _ | .partitionFence _ | .partitionFenceLift _ _ => true
  | .controlCoreFault _ cause => fitsIn 8 cause
  | .automataEngineFault _ | .healthScoreRecompute | .expulsionRequestSend _ => true
  | .expel _ _ _ reason _ healthSeen failed => fitsIn 8 reason && fitsIn 16 healthSeen && fitsIn 16 failed
  | .transferHoldExpiry _ | .drainWindowExpiry | .mapFetch _ _ => true
  | .mapBody _ b => MapBody.wf b
  | .heartbeat _ b => Heartbeat.wf b
  | .heartbeatFastSend | .heartbeatSlowSend | .peerSuspect _ | .e2eAck _ _ | .e2eAckTimer _ | .orderedRtoExpiry _
  | .messageReassemblyTimeout _ _ | .segmentReassemblyTimeout _ _ => true
  | .handshakeHello _ b | .handshakeReply _ b | .handshakeFinish _ b => HsBody.wf b
  | .handshakeAbort _ _ reason => fitsIn 8 reason
  | .handshakeRetry _ | .handshakeBackoffExpiry _ | .initiatorHoldExpiry _ | .rekeyDue _ | .oldKeyErase _ => true
  | .trainFrame _ t => TrainInfo.wf t
  | .spareLockTimeout _ => true
  | .dataFrame _ f => LinkFrame.wf f
  | .linkNak _ _ | .linkReplayTimeout _ | .idleAckTimer _ => true
  | .laneFault _ _ _ cause => fitsIn 8 cause
  | .spareReq _ _ | .laneMark _ _ | .linkLanesReturn _ | .bulkGateEntryExpiry => true
  | .windowRdmaWrite queue _ _ => fitsIn 24 queue
  | .windowRdmaRead queue _ len => fitsIn 24 queue && fitsIn 32 len
  | .fetchAndAdd queue _ _ | .compareAndSwap queue _ _ _ | .rdmaWriteImmReceived queue => fitsIn 24 queue
  | .revocationComplete ctx => fitsIn 12 ctx
  | .transportAck queue _ delayNs => fitsIn 24 queue && fitsIn 64 delayNs
  | .ackTimeout queue | .rnrNakReceived queue => fitsIn 24 queue
  | .triggerWrComplete _ chain _ => fitsIn 16 chain
  | .cnpReceived queue | .cePacketReceived queue | .ccUpdatePeriod queue | .qpIdleReset queue => fitsIn 24 queue
  | .frameDeparture _ | .gateEntryExpiry _ => true
  | .pfcFrameReceived _ _ quanta => fitsIn 16 quanta
  | .pfcPauseExpiry _ _ | .hostLinkChange _ _ | .mgmtConnect => true
  | .mgmtHello session b => fitsIn 2 session && HsBody.wf b
  | .sessionRecord session _ _ p => fitsIn 2 session && Packet.wf p
  | .sessionIdleTimeout session | .sessionRekeyClose session => fitsIn 2 session
  | .pwrWarnAssert | .freewheelFlushComplete | .pwrWarnDeassert | .resumeComplete | .droop _ | .droopRecover _ | .droopLong _
  | .droopLongEnd _ | .supplyFault _ | .supplyReturn _ | .thermalSensorRead _ | .thermalResume | .resetN | .pkgRst _
  | .fwRestart _ | .supervisorWatchdog | .fwRestartComplete | .rootPllLoss | .serdesPllLoss _ | .coldPowerOn | .attKeyReady
  | .attKeyRoll | .coreGroupReady _ | .ptnResetComplete _ | .parkRequest _ | .parkEntryComplete | .coastRequest _
  | .rideRequest _ | .autoCoastIdle _ | .stackEnable _ _ | .stackInitDone _ _ | .stackDisable _ _ | .stackFence _ _
  | .stackDrainComplete _ | .nbEnWrite _ _ _ | .hbmPatrolScrub _ _ | .stackTempRead _ _ | .flashTierEnable _ _
  | .flashWriteEnable _ => true
  | .channelEnable _ _ dies _ => fitsIn 5 dies
  | .channelFence _ _ | .channelDrainComplete _ | .hostPortEnable _ _ _ | .mportEnable _ _ | .hostGateEnable _ _ _
  | .shaperWrite _ _ _ _ | .linkEnable _ _ _ | .linkFence _ _ | .linkRestore _ _ _ | .fabricGateEnable _ _ | .nodeValidSet _ _
  | .glbLockSet _ | .secSvnCommit _ _ | .telFreeze _ _ | .telClear _ => true
  | .registerWrite _ offset _ => fitsIn 32 offset
  | .fingerprintRecompute | .logReadWake _ | .logReadWaitExpiry _ | .entdaa _ | .setEndpointId _ | .getEndpointId
  | .getMctpVersionSupport | .getMessageTypeSupport | .getVendorDefinedSupport => true
  | .i3cNdoxCommand _ p => Packet.wf p
  | .i3cSlotWrite _ offset _ => fitsIn 32 offset
  | .i3cSlotCheck _ | .i3cBootStatus | .railsDown | .resetNRelease _ => true
  | .mgmtDisconnect session => fitsIn 2 session
  | .keySlotFault _ _ | .serdesPllRelock _ | .healthLogHourly => true

end Sys2Proof
end

