-- ==== Sys2Proof/Tests/Slice0.lean ====
section
/-! SUPPORT. Tests: the spec's worked examples, ill-formed commands that `Instr.wf` refuses, single steps on small states, and for
every statement with hypotheses a witness of each of its clauses. A list of checks stands in one theorem; each check is a closed Bool.
Clauses that need a certificate, a signature or a key that passes rest on functions that Config leaves open, and have no witness
that evaluates; neither does a map body of 262,160 bytes. -/

namespace Sys2Proof.Tests

open Sys2Proof Sys2Proof.Machine

/-! ## Small states -/

/-- Firmware serves. -/
def awake : State := { State.reset with pow := { Power.reset with phase := .service, resetN := true } }

/-- Node 5 is the home of every sequence, node 6 the tandem. -/
def theMap : MapBody := ⟨1, (5, 6), [], [(5, 0, 0), (6, 0, 0)], true⟩

/-- A node with an ID and a map. -/
def node : State :=
  { (awake.setRf .fabNode 0 12 5).setRf .fabNode 12 1 1 with map := { MapState.reset with map := some theMap } }

/-- A partition with every privilege but SEAL_REQUIRED. -/
def ptnA : Ptn := ⟨0, false, 0x3DFF, 100000, 100000, 1000, 0, 4, 4, 4, false, false, 1⟩

def queueA : Queue where
  qpn := 2
  num := 0
  ctx := 0
  ptn := 0
  port := 0
  poll := false
  qdepth := 4
  ringLog2 := 17
  mtuLog2 := 3
  ringAddr := 0
  ringRkey := 0
  headOff := 0
  tailAddr := 0
  remoteGid := 0
  remoteQpn := 1
  remotePsn := 0
  localPsn := 0
  err := false
  backlog := []
  written := 0
  consumed := 0
  waiting := []
  posted := []
  rate := 1
  srtt := none
  minDelay := none
  cnpSeen := false
  cnpAt := none
  wheel := 0
  retries := 0
  rnrRetries := 0
  egress := []

def ctxA : Ctx := ⟨0, 0, 0, 20, 0, 1, [], List.replicate 4 none, 0, .west, none⟩

/-- A context with a command queue on a port that is up. -/
def host : State := { node with
  ptns := State.reset.ptns.set 0 (some ptnA)
  host := { HostSide.reset with
    ctxs := [ctxA]
    queues := [queueA]
    ports := { Port.reset with state := 2 } :: List.replicate 3 Port.reset } }

def packet (src : Src) (epoch : Nat) (body : List Byte) : Packet :=
  ⟨src, 1, 0, 0, 0, 7, BitVec.ofNat 32 epoch, BitVec.ofNat 32 body.length, 0, 0, body⟩
def hostCmd (b : List Byte) : Packet := packet (.host 0 0) 1 b
def i3cCmd (b : List Byte) : Packet := packet .i3c 0 b
def mgmtCmd (b : List Byte) : Packet := packet (.mgmt 0) 0 b

/-- The command is admitted, and `f` holds of it. -/
def meets (op : Op) (p : Packet) (s : State) (f : Cmd → State → Bool := fun _ _ => true) : Bool :=
  match admission op p s with
  | some (c, u) => f c u
  | none => false

/-- A sequence of namespace 3 with one joint layer of 32 channels that holds three tokens in a tail page. -/
def groupA : LayerGroup := ⟨.joint, none, 1, 1, 1, 32, 0⟩
def seqA : Handle := BitVec.ofNat 64 (3 * 2 ^ 48 + 1)
def pageA : Handle := mkHandle 5 8 1
def imageA : Image := ⟨.joint, true, false, seqA, 0, 0, [], List.replicate 3 (List.replicate 32 0), none, [], 0, 3, none, pageMagic, pageVersion⟩
def thePage : Page := { Page.fresh pageA 0 ⟨seqA, 0, 0⟩ imageA 1 0 with refs := 1, hbm := some ⟨2, none, 0⟩ }
def theNs : Ns := ⟨3, 0, true, true, 1, 9, [5, 6], [], none, none, []⟩
def theSeq : Seq := ⟨seqA, [groupA], false, [], 0, [⟨3, 3, 0, [⟨0, pageA, [], 0⟩], none, []⟩], [], .live, true, []⟩
def store : State := { host with
  store := { Store.reset with nss := [theNs], seqs := [theSeq], pages := [thePage] }
  hbm := { Hbm.reset with stk := List.replicate 8 { Stack.reset with state := .service } } }

/-- A command of the node's list, with its wait. -/
def held (op : Op) (w : Wait) : Inflight := ⟨9, op, hostCmd [], [], 0, 7, [], w⟩
def holding (op : Op) (w : Wait) (s : State) : State := { s with cmds := { s.cmds with list := [held op w], nextId := 10 } }

/-! ## Hosts, messages, runs -/

def queueBody (num : Nat) : List Byte :=
  zeroBytes 2 ++ leBytes 2 16 ++ leBytes 1 16 ++ leBytes 1 8 ++ leBytes 2 num ++ zeroBytes 40 ++ leBytes 4 1 ++ zeroBytes 12
def hostWith (f : HostSide → HostSide) : State := { host with host := f host.host }
def chainA (st : ChainState) : Chain := ⟨0, 1, 0, 2, 5, [⟨1, 0, 0, 0, 0, 0, 0⟩], st, none⟩
def chained (st : ChainState) : State := hostWith fun x => { x with chains := [chainA st] }
def queued (f : Queue → Queue) : State := hostWith fun x => { x with queues := [f queueA] }

/-- A message of node 6 over link 0. -/
def hdr (seq : Nat := 1) : MsgHdr := ⟨0, 6, 1, 0, 7, BitVec.ofNat 32 seq, true⟩
def keyed (s : State) : State := { s with fab := { s.fab with peers := [{ Peer.fresh 6 with keyed := true }] } }
/-- The same node as the tandem of node 6. -/
def tandem (s : State) : State := keyed { s with map := { s.map with map := some { theMap with dflt := (6, 5) } } }
def oneF : Word32 := 0x3F800000

def attendBody : List Byte :=
  leBytes 8 seqA.toNat ++ zeroBytes 4 ++ leBytes 4 3 ++ leBytes 4 oneF.toNat ++ zeroBytes 92 ++ zeroBytes 64
def attendA (vis : Nat) : AttendReq := ⟨seqA, 0, false, false, false, none, none, vis, oneF, oneF, 0x41400000, 0, 0, 5, 0, [], [List.replicate 32 0]⟩
def runA (vis : Nat) : AttendRun := freshRun theSeq (attendA vis) none none
def remoteA (resent : Bool) : Remote := ⟨6, 4, [pageA], resent, none, false, false, false⟩
def remoteRun (resent : Bool) : State := keyed (holding .attend (.attend { runA 3 with remotes := [remoteA resent] }) store)
def running : State :=
  let s := holding .attend (.attend (runA 3)) store
  { s with eng := { s.eng with engines := ⟨true, false, false, some (0, .attend 9), none⟩ :: s.eng.engines.tail } }
def partialA (vis : Nat) : PartialReq := ⟨seqA, 0, false, false, vis, oneF, oneF, 0, 1, 0, 32, 0, [], [pageA], none, none, [List.replicate 32 0]⟩

/-- As `store`, with an exact layer, and a page of it with gradient planes. -/
def groupG : LayerGroup := ⟨.exact, none, 1, 1, 1, 32, 0⟩
def imageG : Image := { imageA with layout := .exact, rows := List.replicate 3 (List.replicate 64 0) }
def exactStore (s : State := store) : State := { s with store := { s.store with
  seqs := [{ theSeq with groups := [groupG] }]
  pages := [{ thePage with img := imageG }]
  grads := [⟨seqA, 0, 0, 0, 2, []⟩] } }
def gradBody : List Byte :=
  leBytes 8 seqA.toNat ++ zeroBytes 4 ++ leBytes 2 1 ++ zeroBytes 2 ++ leBytes 4 oneF.toNat ++ zeroBytes 12 ++
  (zeroBytes 20 ++ leBytes 4 oneF.toNat ++ zeroBytes 8 ++ zeroBytes 64 ++ zeroBytes 128 ++ zeroBytes 32)
def gradRunA : GradRun := ⟨seqA, 0, groupG, oneF, 5, [⟨0, [0], [oneF], [0], [List.replicate 32 0], [List.replicate 32 0]⟩], none, none, [],
  [⟨6, 4, [0], [pageA], false⟩], [], false, [], 3, []⟩

/-- A namespace with a model of one list, one recall and one segment. -/
def modelA : Model := ⟨1, 0, 0, [], [], [[]], []⟩
def segA : SegName := ⟨3, 1, 0⟩
def scanA : ScanReq := ⟨3, 1, 0, [0], [], 1, 0, 0, 0, 0, 0, 0, false, 0⟩
def candA : Cand := ⟨pageA, seqA, 0, 0, 1, false, 0, zeroBytes 32, 0⟩
def queryA : ScanQuery := ⟨6, 7, 1, scanA⟩
def segmentA : Segment := ⟨segA, 0, [], [], [queryA], [([queryA], [[]])], false, false, false, []⟩
def recalls (index : List NodeId) : State := keyed { store with
  store := { store.store with nss := [{ theNs with recallOn := true, selfPlaced := false, nodes := [], index := index, current := some modelA }] }
  rcl := ⟨[segmentA], []⟩ }
def recallA (stage : RecallStage) : RecallRun :=
  ⟨scanA, some ⟨0, 1, 0⟩, 1, 1, stage, [(6, 4)], 0, [], 0, false, [], [(4, candA)], [], 0, some ⟨oneF, oneF, 0, false, groupA, []⟩, [], [(5, candA)], false, 1000⟩
def recalling (stage : RecallStage) : State := holding .recall (.recall (recallA stage)) (recalls [6])
def recallBody : List Byte := leBytes 2 3 ++ zeroBytes 2 ++ leBytes 2 1 ++ zeroBytes 1098
def recallAttendBody : List Byte :=
  recallBody ++ leBytes 4 oneF.toNat ++ zeroBytes 12 ++ groupA.bytes ++ zeroBytes 64

/-! ## Waits, faults, copies, maps, slots -/

def appA (pos : Nat) : AppendReq := ⟨seqA, false, [0], 0, pos, [77], [[List.replicate 32 0]], 0, 0⟩
def sealing (st : SealState) : State := { store with store := { store.store with pages := [{ thePage with sealing := st }] } }
def d00 : DieId := ⟨0, 0⟩
def block (n : Nat) (u : BlockUse) (frames : List Frame) (sources : List (DieId × Nat)) : FBlock := ⟨d00, n, false, u, .migration, 0, 0, frames, sources, false⟩
def frame8 : Frame := ⟨8, 1, .page, 0, 0, 1, true⟩
/-- The tier in service with one die; block 17 holds the page's frame. -/
def flashy (s : State) : State := { s.setRf .flsCtl 1 1 1 with flash := { Flash.reset with
  state := .service
  chans := List.replicate 32 { Chan.reset with state := .service, dies := 16 }
  dies := [{ FDie.fresh d00 with free := 1, spare := 5, reserve := 5 }]
  blocks := [block 16 .opened [] [], block 17 .full [frame8] [], block 18 .opened [] [(d00, 17)]]
  map := [⟨8, d00, 17, 0, 1, 0⟩] } }
def paged (f : Page → Page) (s : State := store) : State := { s with store := { s.store with pages := [f thePage] } }
def sealedPage (p : Page) : Page := { p with img := { p.img with tail := false, layout := .split }, flash := true }
def engines (f : List Engine → List Engine) (s : State := store) : State := { s with eng := { s.eng with engines := f s.eng.engines } }
def forkA : ForkReq := ⟨seqA, BitVec.ofNat 64 (3 * 2 ^ 48 + 2), 2, false, 0, []⟩
def noSeqs (s : State) : State := { s with store := { s.store with seqs := [] } }
def withChild (st : SeqState) (s : State) : State := { s with store := { s.store with seqs := s.store.seqs ++ [{ theSeq with handle := forkA.child, state := st }] } }
def mapA (epoch : Nat) : MapBody := ⟨BitVec.ofNat 32 epoch, (5, 6), [], [(5, 1, 0), (6, 2, 0)], true⟩
def beatA : Heartbeat := ⟨0, 0, 0, 1000, 0, false, false, false, 1⟩
def patBytes : List Byte :=
  leBytes 4 0x50415431 ++ leBytes 1 1 ++ leBytes 1 1 ++ leBytes 2 1 ++ leBytes 4 1 ++ zeroBytes 4 ++ leBytes 4 1 ++ zeroBytes 154
def patVer : PatVer := ⟨1, 1, 1, 0, 0, [], [(0, 0)], [0], [0], 5, 0, 1, 1⟩
def pats (owner : Nat) (v : Option PatVer) (staging : List Byte) : State :=
  { host with slots := ⟨[], [⟨0, owner, v, [], Mem.writeList [] 0 staging, staging.length⟩], 9⟩ }
/-- SHAKE256 of the image, as another implementation gives it. -/
def patDigest : Nat := 0xd77a06fab84d04f062870de87ea4c983314dae0724aade3dbf83ad14e663b902
def progs (v : Option ProgVer) (old : List ProgVer) (s : State := host) : State := { s with slots := ⟨[⟨0, 0, v, old⟩], [], 9⟩ }
def progBytes : List Byte := zeroBytes 8 ++ leBytes 2 0x5350 ++ leBytes 1 1 ++ leBytes 1 1 ++ zeroBytes 4 ++ leBytes 4 0xFC000000
def ptnBytes (n first hbm : Nat) : List Byte :=
  leBytes 1 n ++ zeroBytes 3 ++ leBytes 4 1 ++ leBytes 4 hbm ++ zeroBytes 4 ++ leBytes 2 1 ++ leBytes 2 first ++ leBytes 2 4 ++ zeroBytes 2 ++
  leBytes 4 4 ++ zeroBytes 4
def poor (s : State) : State := { s with ptns := s.ptns.set 0 (some { ptnA with enginePm := 500, hbmQuota := 0, flashQuota := 0 }) }

def nsBody (n : Nat) : List Byte := leBytes 2 n ++ zeroBytes 2 ++ leBytes 1 1 ++ zeroBytes 3 ++ leBytes 4 9 ++ zeroBytes 4
/-- A row of zeros with a token ID; the digests in front are SHAKE256 of these bytes as another implementation gives it. -/
def rowBytes (pad : Nat) : List Byte := leBytes 4 77 ++ zeroBytes pad ++ zeroBytes 64
def appendBody (pos : Nat) : List Byte :=
  leBytes 8 seqA.toNat ++ zeroBytes 4 ++ leBytes 4 pos ++ leBytes 2 1 ++ zeroBytes 6 ++ leBytes 8 0x718D25D88392C5F ++ rowBytes 28
def bulkBody (pos : Nat) : List Byte :=
  leBytes 8 seqA.toNat ++ zeroBytes 2 ++ leBytes 2 1 ++ leBytes 4 pos ++ leBytes 4 1 ++ zeroBytes 4 ++ leBytes 8 0x90E3DF8DE07F1DE3 ++
  leBytes 1 1 ++ zeroBytes 31 ++ rowBytes 60

/-! ## Firmware, keys, stacks, links, sessions, power -/

/-- A node with an established session. -/
def mgmt : State := hostWith fun x => { x with mportUp := true, sessions := [⟨0, true, 0, 0, 0, []⟩] }
def fwAt (st : Nat) (groups : Nat := 0) : State := mgmt.setFw fun f => { f with state := st, groupsDone := groups }
def fwCheckBody (n d : Nat) : List Byte := leBytes 4 n ++ zeroBytes 4 ++ leBytes 32 d
/-- SHAKE256 of no byte, as another implementation gives it. -/
def emptyDigest : Nat := 0x2f76d56e64270cb5821bb862ea52cd3f24eb3e74eb3f3b23138da80b2bddb946
def trusted (f : Trust → Trust) : State := { mgmt with boot := { mgmt.boot with resA := some ⟨1024, 1⟩ }, trust := f { Trust.reset with idxOk := true, idxLimit := 1024, attSerial := 1, attLeft := 9, attReady := true } }
def logged : State := mgmt.note ⟨1, 4, 0, 0xFF, 0, []⟩
def logWait (s : State) : State := { s with cmds := { s.cmds with list := [{ held .logRead (.log 0 4 0xFFFFFFFF) with pkt := mgmtCmd [] }], nextId := 10 } }
def stacked (k : Nat) (f : Stack → Stack) (s : State := store) : State := s.updStack k f
def nearBank (suspended : Bool) : State := stacked 3 fun x => { x with running := [⟨pageA, 1, 0, 1, [], false, 9, suspended⟩] }
/-- Stack 3 with an open region of 1 GiB. -/
def opened (f : Page → Page) : State := stacked 3 (fun x => { x with openGib := 1 }) (paged f ((store.setRf (.memStkCtl 3) 2 1 1).setRf .memNb 0 8 1))
def hot (f : Page → Page) : State := flashy (paged (fun p => f { sealedPage p with hbm := none, recentSel := [(0, 1)] }) ((store.setRf .flsPromo 8 16 1).setRf .flsPromo 0 8 1))
/-- HBM without room. -/
def full (s : State) : State := { s with hbm := Hbm.reset }
def linked (f : Link → Link) (s : State := keyed store) : State :=
  ({ s with host := s.host }.setRf (.fabLinkCtl 0) 0 1 1).updLink 0 fun l => f { l with state := .up, rx := ⟨none, [], true⟩, tx := ⟨none, [], true⟩ }
def trainA (sw lanes spare : Bool) : TrainInfo := ⟨sw, 1, 0, 0, List.replicate 5 9, lanes, spare⟩
def frameA (lseq kind : Nat) (dst : NodeId) (ok : Bool := true) : LinkFrame :=
  let f : LinkFrame := ⟨1, kind, 0, BitVec.ofNat 16 lseq, 0, 0, 0, 6, dst, 1, 0, [], 0, true⟩
  { f with crc := if ok then f.check else f.check + 1 }
def hsA (sig : List Byte := []) : HsBody := ⟨true, 3, zeroBytes 32, 0, 0, zeroBytes 1568, [5], sig⟩
def hsRun (initiator : Bool) (sent : Msg) : State := (keyed store).updPeer 6 fun p => { p with hs := some ⟨3, initiator, 9, 1, sent, 0, [], [], [7], []⟩ }
def sessionAt (up isOpen : Bool) : State := hostWith fun x => { x with mportUp := up, sessions := [⟨0, isOpen, 0, 0, 0, []⟩] }
def powered (f : Power → Power) (s : State := awake) : State := { s with pow := f s.pow }
def parked : State := powered (fun p => { p with state := .park, freewheel := some .warn })
def nextIs (o : Host.Outcome State Fault Refusal) (f : State → Bool) : Bool := match o with | .next t => f t | _ => false
def needsPage (w : Wait) (h : Handle) : Bool := match w.inner with | .attend r => r.needs.contains h | _ => false
def acceptAwaited (w : Wait) (u : State) : Bool := match w with | .forkAccept f j => j == 4 && u.homeOf f.child == some 6 | _ => false
def isSeal (x : Step) : Bool := match x with | .seal _ => true | _ => false
/-- A page whose one copy lies on flash. -/
def cold (f : Page → Page := id) : State := flashy (paged (fun p => f { sealedPage p with hbm := none }))
/-- A sealed page of an exact layer of one channel whose check words hold (each CRC-32C as another implementation gives it), on flash alone. -/
def groupT : LayerGroup := ⟨.exact, none, 1, 1, 1, 1, 0⟩
def imageT : Image :=
  { imageA with
    segCrc := List.replicate 16 63499111, pageCrc := 1696003208, layout := .exact, tail := false, fill := 256, rows := List.replicate 256 (List.replicate groupT.ctot 0)
    planes := groupT.planes.map fun p => ⟨p.1, p.2.1, p.2.2, 0, [], [], [], [], List.replicate p.2.2 (0, 0)⟩ }
def coldT : State :=
  let s := cold fun p => { p with img := imageT }
  { s with store := { s.store with seqs := [{ theSeq with groups := [groupT] }] } }
/-- The child's shard lies on node 6. -/
def otherHome (s : State) : State := { s with map := { s.map with map := some { theMap with shards := [(shardOf forkA.child, 6, 5)] } } }
/-- Both ends are clear of the loop: the attend of engine 0 ends with its step (R133). -/
def loopEnds (s : State) : Bool :=
  (s.eng.engines[0]?.any fun y => y.step == some (0, .attend 9)) && match s.inflight? 9 with
  | some i => match i.wait with
    | .attend r =>
      let v := (s.updEngine 0 fun y => { y with step := none }).countStep 0 0 1
      let w := v.setHeld (v.eng.held.filter fun h => h.step != .attend 9)
      let nb := fun (sel : List Handle) (h : Handle) =>
        !r.req.lowlat && !r.nearBank.contains h && [3, 4].any fun k => (w.nbMine r.group.layout [h] ((w.batchPages i ++ sel).eraseDups) k).contains h
      match (r.work w.freeCtr).loop r.remotes (fun sel h => w.readable h && !nb sel h) w.groupHere (r.work w.freeCtr).fuel
          ⟨r.selected, r.refined, r.budgetLeft⟩ with
      | .done st => w.asksFurther r st == []
      | _ => false
    | _ => false
  | none => false
/-- What the node does with a partial request once its descriptor is here. -/
def partState (b : PartialReq) (s : State) : Option State :=
  (asked hdr s).map fun u =>
    let v := u.install b.seq
    let w := b.pages.foldl (fun s p => s.verify p) (v.pin b.pages)
    let need := b.pages.filter fun p => match w.page? p with | some x => x.sealed? && !x.recovering && !w.readable p | none => false
    let z := need.foldl (fun s p => s.readFlash p) w
    let id := z.cmds.nextId
    let x := z.routeNear id (match b.pages.findSome? z.page? with | some p => p.img.layout | none => .exact) b.exhaustive b.pages b.pages
    { x.2 with cmds := { x.2.cmds with nextId := id + 1, parts := x.2.cmds.parts ++ [⟨id, hdr, b, (need ++ x.1).eraseDups, []⟩] } }
def isReply (m : Msg) : Bool := match m with | .partialReply .. => true | _ => false
/-- A request of the gradients of a page of this node. -/
def gradReqA : GradReq := ⟨seqA, 0, oneF, [⟨0, [0], [oneF], [0], [List.replicate 32 0], [List.replicate 32 0]⟩], none, [pageA]⟩
def longVis (timeout : Nat) : List Byte :=
  leBytes 8 seqA.toNat ++ zeroBytes 4 ++ leBytes 4 9 ++ leBytes 4 oneF.toNat ++ zeroBytes 16 ++ leBytes 2 timeout ++ zeroBytes 74 ++ zeroBytes 64
def recallNode (f : Recall → Recall) : State := { recalls [6] with rcl := f (recalls [6]).rcl }
def idxA : IdxEntry := ⟨pageA, seqA, 0, 0, 1, false, 1, 0, zeroBytes 32⟩
def segmentB (opened : List IdxEntry) (f : Segment → Segment := id) : State :=
  recallNode fun r => { r with segments := [f { segmentA with window := [], passes := [], opened := opened }] }
def flashWith (f : Flash → Flash) (s : State := flashy store) : State := { s with flash := f s.flash }
def blocksOf (l : List FBlock) : State := flashWith fun x => { x with blocks := l }
/-- A draining stack that holds the page, and one with the room to take it. -/
def draining (f : Page → Page) : State := stacked 2 (fun x => { x with state := .draining }) (paged f)
def hsOf (b : HsBody) (initiator : Bool) (running : Bool) (s : State := keyed store) : State :=
  s.updPeer 6 fun p => { p with hs := some ⟨b.hsId, initiator, 9, 1, if running then .hsHello b else .hsFinish b, 0, [], [], [7], []⟩ }
/-- Two versions of slot 0 that running attends still use, none of them current. -/
def twoBound (_n : Nat) : State :=
  let v (k : Nat) : PatVer := { patVer with serial := k }
  let s := pats 0 none []
  { s with
    slots := ⟨[], [{ PatSlot.empty 0 with owner := 0, old := [v 1, v 2] }], 9⟩
    cmds := { s.cmds with list := [1, 2].map fun k => held .attend (.attend { runA 3 with filter := some (v k), req := { attendA 3 with filter := some ⟨0, 1, 0⟩ } }) } }
def progsBound : State :=
  let v (k : Nat) : ProgVer := ⟨[], 1, k⟩
  let s := progs none [v 1, v 2]
  { s with cmds := { s.cmds with list := [1, 2].map fun k => held .attend (.attend { runA 3 with program := some (v k), req := { attendA 3 with program := some 0 } }) } }
/-- Selections by enough commands, the thresholds being 1, within the windows of R220 and R255. -/
def often : List (Nat × Word64) := [(0, 1)]
/-- HBM nearly without room, long after the page was last selected. -/
def lowHbm (f : Page → Page) : State :=
  let s := (flashy (paged f)).setRf .flsMig 16 8 100
  { s with pow := { s.pow with tsc := 0xFFFFFFFFFFFFFFFF } }
/-- One full block never erased, and a die whose first free block has been erased 900 times. -/
def wornBlocks : State := flashWith fun x => { x with
  blocks := [block 17 .full [frame8] []], dies := [{ FDie.fresh d00 with free := 1, spare := 5, reserve := 5, erases := [(20, 900)] }] }

/-! ## The spec's worked examples -/

def biasProgram : List Word32 :=
  [0x38440000, 0x38880000, 0x30C40000, 0x0C88C000, 0x30C00000, 0x0488C000, 0x0C448000, 0x08004000, 0xFC000000]
def maskProgram : List Word32 :=
  [0x68000000, 0x3440FF80, 0x2C004000, 0x68440000, 0x30880000, 0x04C08000, 0x2C0C1000, 0xFC000000]
def pairPat : PatVer :=
  ⟨1, 3, 3, 0, 1, [0xA31], [(0, 0), (1000, 1), (1001, 0), (2000, 2), (2100, 0)], [0, 0, 1], [0, 1, 0, 0, 1, 2, 0, 1, 0], 0, 0, 1, 1⟩
def pairTokens (t : Nat) : Word32 := if t = 511 then 1000 else if t = 512 then 2050 else 5
def groupL : LayerGroup := ⟨.joint, none, 1, 1, 32, 448, 64⟩
def partialSetL : PartialSet := ⟨16300, 448, false, false, 0, 0, 0, 0, 16300, List.replicate 32 ⟨0, 0, ⟨0, 0⟩, 0, 0, 0, 0, []⟩⟩

set_option maxRecDepth 100000
set_option Elab.async false

/-! ## The spec's worked examples -/

/-- R77, R84: group 901 of an L-geometry page is channel 5 of token block 2; its pass 1 scales (the example after R90). -/
theorem test_seal_groups :
    ([(groupOf 0 448 64 5 == 901 && groupOf 0 448 95 5 == 901),
     (decide (scaleExp (mkRat 55 2) = -7) && fp32.encode (fp32.round .rn (pow2 (-7))) == 0x3C000000),
     (e4m3.encode (e4m3.round .ru (mkRat 99 32 / (14 * pow2 (-7)))) == 0x5F && decide ((e4m3.round .ru (mkRat 55 2 / (14 * pow2 (-7)))).rat = 256)),
     (decide (groupRange [mkRat (-23) 32, mkRat 19 8, 0] = (mkRat (-23) 32, mkRat 19 8)) && rneInt (mkRat 23 32 / mkRat 15 64) == 3)] : List Bool).all id = true := by decide +kernel

/-- The five tokens of the same example: base code and residual code. -/
theorem test_seal_elements :
    ([(encodeElem (mkRat 15 64) 3 (mkRat (-23) 32) == (0, BitVec.ofInt 4 (-2))),
     (encodeElem (mkRat 15 64) 3 (mkRat 19 8) == (13, 2)),
     (encodeElem (mkRat 15 64) 3 (mkRat 1 2) == (5, 2)),
     (encodeElem (mkRat 15 64) 3 (mkRat 75 64) == (8, 0)),
     (encodeElem (mkRat 15 64) 3 (mkRat (-15) 128) == (3, BitVec.ofInt 4 (-8)))] : List Bool).all id = true := by decide +kernel

/-- The truncation example of 03_page_encoding.md: the recorded bound, and the bounds of tokens 64 and 65. -/
theorem test_requantised_bound :
    ([(b16Of .ru (mkRat 15 64 / 32) == 0x3BF0),
     (decide (requantBound (mkRat 15 2048) (mkRat (-93) 128) = mkRat 19 2048) && decide (requantBound (mkRat 15 2048) (mkRat 19 8) = mkRat 31 2048))] : List Bool).all id = true := by decide +kernel

/-- The first program of 05_score_shaping.md on its page: the interval it returns; and its words pass the load checks. -/
theorem test_position_bias_program :
    ([(let r := runIv Units.plain biasProgram [0x3B800000, 0xB9000000] (ivRegs (.fin false (mkRat 5 4), .fin false (mkRat 15 4)) (1024, 1279) (15020, 15275) 5 17 0 0);
      decide (r.1.rat = -(mkRat 412425 8192 - mkRat 5 4)) && decide (r.2.rat = -(mkRat 405540 8192 - mkRat 15 4))),
     (biasProgram.all progWordOk && maskProgram.all progWordOk)] : List Bool).all id = true := by decide +kernel

/-- The third program of 05_score_shaping.md: one page that may pass, and one that cannot. -/
theorem test_tag_mask_program :
    ([(let r := runIv Units.plain maskProgram [4, 1, 0x40000000] (ivRegs (.fin true (mkRat 1 2), .fin false 4) (0, 255) (0, 255) 0 0 1 7);
      r.1.isInf && fp32.encode r.1 == 0xFF800000 && decide (r.2.rat = 6)),
     (let r := runIv Units.plain maskProgram [4, 1, 0x40000000] (ivRegs (.fin true (mkRat 1 2), .fin false 4) (0, 255) (0, 255) 0 0 1 3);
      fp32.encode r.1 == 0xFF800000 && fp32.encode r.2 == 0xFF800000)] : List Bool).all id = true := by decide +kernel

/-- The image of 07_token_patterns.md: its classes, and the scan that meets 1,000 at position 511 and 2,050 at 512, with and without a look back. -/
theorem test_pattern_scan :
    ([(pairPat.classOf 1000 == 1 && pairPat.classOf 1001 == 0 && pairPat.classOf 2050 == 2 && pairPat.classOf 2100 == 0),
     (pairPat.scan 0 [7, 1000, 2050, 9] == [0, 1, 2, 0] && (pairPat.acc.getD 2 0) == 1),
     ((pairPat.blockWords pairTokens 2).headD 0 == 1 &&
      (PatVer.blockWords { pairPat with lookback := 0 } pairTokens 2).take 1 == ([0] : List Word32))] : List Bool).all id = true := by decide +kernel

/-- The two commands of the same example: MODE 2 keeps position 512 alone, MODE 1 keeps all 88 positions of the tail block. -/
theorem test_pattern_filter :
    ([((filterBlock pairPat ⟨0, 2, 1⟩ pairTokens 2 (BitVec.ofNat 256 (2 ^ 88 - 1))).1 == 1),
     ((filterBlock pairPat ⟨0, 1, 1⟩ pairTokens 2 (BitVec.ofNat 256 (2 ^ 88 - 1))).1 == BitVec.ofNat 256 (2 ^ 88 - 1))] : List Bool).all id = true := by decide +kernel

/-- The example of 11_command_reference.md: an L-geometry reply, compact and not, with its record. -/
theorem test_attend_reply_size :
    ([(groupL.ctot == 512 && groupL.cv == 448 && groupL.ok),
     (PartialSet.size { partialSetL with compact := true } == 58400 &&
      roundUp 64 (32 + PartialSet.size { partialSetL with compact := true }) == 913 * 64),
     (32 + PartialSet.size partialSetL == 115776)] : List Bool).all id = true := by decide +kernel

/-- The example of 02_sequences_and_pages.md: generation 0x00C4 is followed by 0x00C5. -/
theorem test_released_page_example :
    ([(({ store with store := { store.store with gens := [(8, 0xC4)] } } : State).nextGen 8 == 0xC5)] : List Bool).all id = true := by decide +kernel

/-- The check value of CRC-32C over the digits 1 to 9, and SHAKE256 of no byte, both as published. -/
theorem test_codes :
    ([(crc32c ([49, 50, 51, 52, 53, 54, 55, 56, 57] : List Byte) == 0xE3069283),
     ((shake256 32 []).take 4 == ([0x46, 0xB9, 0xDD, 0x2B] : List Byte))] : List Bool).all id = true := by decide +kernel


/-! ## Well-formedness -/

/-- Ill-formed packets: too long for a SEND, a session and I3C; a context, queue and session number out of range. -/
theorem test_wf_packets :
    ([(!(Instr.attend { hostCmd (zeroBytes 65505) with body := zeroBytes 65505 }).wf && (Instr.attend (hostCmd (zeroBytes 65504))).wf),
     (!(Instr.nodeDescribe (packet (.host 4096 0) 1 [])).wf && !(Instr.nodeDescribe (packet (.host 0 65536) 1 [])).wf &&
      !(Instr.mapPush (packet (.mgmt 4) 0 [])).wf),
     (!(Instr.i3cNdoxCommand .regRead (i3cCmd (zeroBytes 65505))).wf && !(Instr.sessionRecord 4 true .regRead (mgmtCmd [])).wf &&
      !(Instr.sessionRecord 0 true .regRead (packet (.mgmt 9) 0 [])).wf)] : List Bool).all id = true := by decide +kernel

/-- Ill-formed message bodies, one for each check. -/
theorem test_wf_bodies :
    ([(!(Instr.mapBody hdr { theMap with shards := [(2, 5, 6), (1, 5, 6)] }).wf &&
      !(Instr.mapBody hdr { theMap with shards := [(65536, 5, 6)] }).wf && !(Instr.mapBody hdr { theMap with nodes := [(5, 65536, 0)] }).wf &&
      !(Instr.mapBody hdr { theMap with nodes := [(5, 0, 65536)] }).wf),
     (!(Instr.mirrorWrite hdr (appA (2 ^ 32))).wf && !(Instr.mirrorWrite hdr { appA 0 with rows := [] }).wf &&
      !(Instr.mirrorWrite hdr { appA 0 with layers := [65536] }).wf && !(Instr.mirrorWrite hdr { appA 0 with level := 4 }).wf &&
      !(Instr.mirrorWrite hdr { appA 0 with rows := [[]] }).wf),
     (!(Instr.handshakeHello hdr { hsA with nonce := [] }).wf && !(Instr.handshakeReply hdr { hsA with kem := [] }).wf &&
      !(Instr.mgmtHello 4 hsA).wf && !(Instr.mgmtHello 0 { hsA with nonce := [] }).wf),
     (!(Instr.dataFrame 0 { frameA 1 1 5 with vc := 16 }).wf && !(Instr.dataFrame 0 { frameA 1 1 5 with kind := 16 }).wf &&
      !(Instr.dataFrame 0 { frameA 1 1 5 with creditVc := 16 }).wf && !(Instr.dataFrame 0 { frameA 1 1 5 with credits := 4096 }).wf &&
      !(Instr.dataFrame 0 { frameA 1 1 5 with body := zeroBytes 65536 }).wf),
     (!(Instr.trainFrame 0 { trainA true true true with plane := 64 }).wf &&
      !(Instr.trainFrame 0 { trainA true true true with port := 65536 }).wf &&
      !(Instr.trainFrame 0 { trainA true true true with credits := [] }).wf),
     (!(Instr.forkCreate hdr { forkA with f := 2 ^ 32 } [] [] [] []).wf &&
      !(Instr.mirrorStepFork hdr { forkA with replicas := List.replicate 9 5 }).wf &&
      !(Instr.mirrorStepCreate hdr ⟨seqA, [], false, 0, List.replicate 9 5⟩).wf &&
      !(Instr.mirrorStepCreate hdr ⟨seqA, List.replicate 256 groupA, false, 0, []⟩).wf),
     (!(Instr.partialReq hdr { partialA 3 with layer := 65536 }).wf && !(Instr.partialReq hdr (partialA (2 ^ 32))).wf &&
      !(Instr.partialReq hdr { partialA 3 with tokenBudget := 2 ^ 32 }).wf &&
      !(Instr.partialReq hdr { partialA 3 with pages := List.replicate 65536 0 }).wf),
     (!(Instr.gradReq hdr ⟨seqA, 65536, 0, [], none, []⟩).wf && !(Instr.gradReq hdr ⟨seqA, 0, 0, [⟨2 ^ 32, [], [], [], [], []⟩], none, []⟩).wf),
     (!(Instr.scanReq hdr { scanA with ns := 65536 }).wf && !(Instr.scanReq hdr { scanA with k := 65536 }).wf &&
      !(Instr.scanReq hdr { scanA with budget := 2 ^ 32 }).wf),
     (!(Instr.heartbeat hdr { beatA with health := 1001 }).wf && !(Instr.heartbeat hdr { beatA with role := 4 }).wf),
     (!(Instr.sealStart 0 ⟨seqA, 65536, 0⟩).wf && !(Instr.sealCommit ⟨seqA, 0, 2 ^ 32⟩ true).wf && !(Instr.indexRebuild ⟨65536, 1, 0⟩).wf &&
      !(Instr.scanPassComplete ⟨3, 1, 2 ^ 32⟩ []).wf)] : List Bool).all id = true := by decide +kernel

/-- Ill-formed fields of messages and events, one for each width that Instr.wf gives. -/
theorem test_wf_fields :
    ([([Instr.sendLengthError (2 ^ 24) 0, .sendLengthError 0 (2 ^ 32), .sendNoBuffer (2 ^ 24), .replyRingSpace (2 ^ 24) 0, .partialReply hdr 0 65536 partialSetL [], .partialDecline hdr 0 256, .draftHint hdr seqA 65536 []].all fun i => !i.wf),
     ([Instr.reclaimCopyComplete d00 (2 ^ 36) true, .blockCloseCheck d00 (2 ^ 32) true, .blockErase d00 (2 ^ 32), .programFailure d00 (2 ^ 32), .eraseFailure d00 (2 ^ 32), .flashPatrolRead d00 (2 ^ 32) 0 .clean 0, .flashPatrolRead d00 0 (2 ^ 36) .clean 0, .flashPatrolRead d00 0 0 .clean 101, .leafWriteback (2 ^ 27)].all fun i => !i.wf),
     ([Instr.patternCheck hdr seqA (2 ^ 32) 0 0, .patternCheck hdr seqA 0 256 0, .patternResult hdr 0 256, .handleQuery hdr seqA 65536 0, .handleQuery hdr seqA 0 (2 ^ 32), .forkAccept hdr 0 65536, .mirrorAck hdr seqA 65536 0 0, .mirrorAck hdr seqA 0 65536 0, .mirrorAck hdr seqA 0 0 (2 ^ 32)].all fun i => !i.wf),
     ([Instr.mirrorStepTruncate hdr seqA (2 ^ 32), .mirrorStepSealCommit hdr ⟨seqA, 65536, 0⟩ 0 [], .mirrorStepSealCommit hdr ⟨seqA, 0, 0⟩ (2 ^ 32) [], .mirrorStepPersisted hdr seqA 65536 0, .mirrorStepPersisted hdr seqA 0 (2 ^ 32), .mirrorStepTailImage hdr seqA 65536 imageA [], .mirrorStepLayerLoss hdr seqA 65536 0 0, .mirrorStepLayerLoss hdr seqA 0 (2 ^ 32) 0, .mirrorStepLayerLoss hdr seqA 0 0 (2 ^ 32), .mirrorStepRestoredLengths hdr seqA true [2 ^ 32], .mirrorStepTransferDone hdr 65536 0, .mirrorStepTransferDone hdr 0 (2 ^ 32)].all fun i => !i.wf),
     ([Instr.pageCopy hdr 256 seqA 0 (.image imageA), .pageCopy hdr 0 seqA 65536 (.image imageA), .pageCopyAck hdr 0 pageA 65536, .pageRelease hdr pageA (2 ^ 32), .pageFetch hdr pageA seqA 65536 0, .pageFetch hdr pageA seqA 0 (2 ^ 32), .controlCoreFault 0 256, .expel hdr 5 0 256 0 0 0, .expel hdr 5 0 0 0 65536 0, .expel hdr 5 0 0 0 0 65536, .handshakeAbort hdr 0 256, .laneFault 0 .rx 0 256].all fun i => !i.wf),
     ([Instr.windowRdmaWrite (2 ^ 24) ⟨1, 0⟩ [], .windowRdmaRead (2 ^ 24) ⟨1, 0⟩ 1, .windowRdmaRead 0 ⟨1, 0⟩ (2 ^ 32), .fetchAndAdd (2 ^ 24) ⟨1, 0⟩ 1, .compareAndSwap (2 ^ 24) ⟨1, 0⟩ 1 1, .rdmaWriteImmReceived (2 ^ 24), .revocationComplete 4096, .transportAck (2 ^ 24) 0 0, .transportAck 0 0 (2 ^ 64), .ackTimeout (2 ^ 24), .rnrNakReceived (2 ^ 24), .triggerWrComplete 0 65536 true, .cnpReceived (2 ^ 24), .cePacketReceived (2 ^ 24), .ccUpdatePeriod (2 ^ 24), .qpIdleReset (2 ^ 24), .pfcFrameReceived 0 0 65536].all fun i => !i.wf),
     ([Instr.sessionIdleTimeout 4, .sessionRekeyClose 4, .mgmtDisconnect 4, .channelEnable .host 0 32 none, .registerWrite .host (2 ^ 32) 0, .i3cSlotWrite 0 (2 ^ 32) []].all fun i => !i.wf)] : List Bool).all id = true := by decide +kernel

/-- No row of the table has bits, so no word spells a command. -/
theorem test_no_word :
    ([((decodeTableWord 0 0).isNone && (decodeTableWord 32 0xFFFFFFFF).isNone)] : List Bool).all id = true := by decide +kernel

/-- Well-formed commands pass. -/
theorem test_wf_accepts :
    ([([Instr.mapBody hdr theMap, .mirrorWrite hdr (appA 3), .handshakeHello hdr hsA, .dataFrame 0 (frameA 1 1 5), .trainFrame 0 (trainA true true true), .heartbeat hdr beatA, .registerWrite .host 8 0, .demotion].all fun i => i.wf)] : List Bool).all id = true := by decide +kernel


/-! ## Single steps -/

/-- R300: the new namespace stands last, with its partition and MAX_SEQ, and nothing else is stored. -/
theorem test_step_ns_create :
    ([(nextIs (exec (.nsCreate (hostCmd (nsBody 4))) store) fun t => (t.store.nss.map fun x => (x.num, x.ptn, x.maxSeq)) == [(3, 0, 9), (4, 0, 9)] &&
      t.store.seqs == store.store.seqs)] : List Bool).all id = true := by decide +kernel

/-- R338: bytes written through the window read back at their place, least significant address first. -/
theorem test_step_window_write :
    ([(nextIs (exec (.windowRdmaWrite 2 ⟨1, 16⟩ [1, 2, 3]) host) fun t => (t.ctx? 0).any fun c => Mem.readList c.window 15 5 == [0, 1, 2, 3, 0])] : List Bool).all id = true := by decide +kernel

/-- R338: the sum wraps at 2^64 and the answer is the value before. -/
theorem test_step_fetch_and_add :
    ([(nextIs (exec (.windowRdmaWrite 2 ⟨1, 8⟩ (List.replicate 8 0xFF)) host) fun t => nextIs (exec (.fetchAndAdd 2 ⟨1, 8⟩ 3) t) fun v => ((v.ctx? 0).any fun c => Mem.readList c.window 8 8 == [2, 0, 0, 0, 0, 0, 0, 0]) &&
      v.out.any fun o => o == .atomicResponse 2 0xFFFFFFFFFFFFFFFF)] : List Bool).all id = true := by decide +kernel

/-- R11: GLB_LOCK stays set, and a locked register then keeps its bits. -/
theorem test_step_glb_lock :
    ([(nextIs (exec (.glbLockSet .host) awake) fun t => t.rf .glbLock 0 1 == 1 &&
      nextIs (exec (.registerWrite .host Reg.glbLock.offset 0) t) fun v => v.rf .glbLock 0 1 == 1)] : List Bool).all id = true := by decide +kernel

/-- R418: the running SVN becomes the minimum; a second commit is refused with a record. -/
theorem test_step_svn_commit :
    ([(let s := { awake with trust := { Trust.reset with svnRun := 7 } };
      nextIs (exec (.secSvnCommit .host 7) s) fun t => t.trust.svnMin == 7 && t.trust.svnAdvances == 1 &&
      nextIs (exec (.secSvnCommit .host 7) t) fun v => v.trust.svnAdvances == 1 && v.log.records.length == 1)] : List Bool).all id = true := by decide +kernel

/-- R465: a droop divides the west die's clock alone; a second one changes nothing. -/
theorem test_step_droop :
    ([(nextIs (exec (.droop .west) awake) fun t => (t.dieClk .west).div3 && !(t.dieClk .east).div3 && nextIs (exec (.droop .west) t) fun v => v == t)] : List Bool).all id = true := by decide +kernel

/-- R497: the dynamic address is taken. -/
theorem test_step_entdaa :
    ([(nextIs (exec (.entdaa 0x2A) awake) fun t => t.i3c.dynAddr == 0x2A)] : List Bool).all id = true := by decide +kernel

/-- R470: 125 °C trips the node, 124 °C does not. -/
theorem test_step_thermal_trip :
    ([(nextIs (exec (.thermalSensorRead ⟨125, 20, 20⟩) awake) fun t => t.pow.thermtrip && t.pow.phase == .tripped),
     (nextIs (exec (.thermalSensorRead ⟨124, 20, 20⟩) awake) fun t => !t.pow.thermtrip && t.pow.state == .freewheel)] : List Bool).all id = true := by decide +kernel

/-- R63: a released page goes; a page with a reference stays. -/
theorem test_step_reclaim :
    ([(nextIs (exec (.pageReclaim pageA) (paged fun p => { p with refs := 0 })) fun t => t.store.pages == []),
     (nextIs (exec (.pageReclaim pageA) store) fun t => t.store.pages == store.store.pages)] : List Bool).all id = true := by decide +kernel

/-- R481: RESET_N holds the node with its registers at reset values. -/
theorem test_step_reset_n :
    ([(nextIs (exec .resetN (awake.setRf .glbLock 0 1 1)) fun t => t.pow.phase == .held && t.regs == [] && t.pow.lastCause == 1)] : List Bool).all id = true := by decide +kernel

/-- R226: a stack that is OFF trains; one in service ignores EN. -/
theorem test_step_stack_enable :
    ([(nextIs (exec (.stackEnable .host 0) awake) fun t => (t.stack 0).state == .training && (t.stack 1).state == .off)] : List Bool).all id = true := by decide +kernel

/-- R361: the frame next in order is taken; one ahead of it is not. -/
theorem test_step_link_order :
    ([(nextIs (exec (.dataFrame 0 (frameA 1 1 5)) (linked id)) fun t => (t.link 0).lseqRx == 1),
     (nextIs (exec (.dataFrame 0 (frameA 2 1 5)) (linked id)) fun t => (t.link 0).lseqRx == 0 && (t.link 0).nakSent)] : List Bool).all id = true := by decide +kernel

/-- Log 1: an empty queue passes nothing while RESET_N is low. -/
theorem test_step_idle_step :
    ([(nextIs (step State.reset) fun t => t == State.reset)] : List Bool).all id = true := by decide +kernel

/-- R349: more than 160 KiB held for a selected priority draws an XOFF; less than 64 KiB after it an XON. -/
theorem test_step_xoff :
    ([(let s := (awake.setRf (.hptPortCtl 0) 8 8 8).updPort 0 fun p => { p with state := 2 };
      let t := s.passed (.held 0 3 163841);
      let u := t.passed (.held 0 3 65535);
      (s.passed (.held 0 3 163840)).out == s.out && t.out.contains (.xoff 0 3) && t.rf (.hptPortSts 0) 4 1 == 1 &&
      (t.passed (.held 0 3 65536)).out == t.out && u.out.contains (.xon 0 3))] : List Bool).all id = true := by decide +kernel

/-- R390: NODE_VALID records the ID, and another ID is then refused. -/
theorem test_step_nodeid_recorded :
    ([(nextIs (exec (.nodeValidSet .host 5) awake) fun t => t.trust.nodeId == some (5 : NodeId) && t.nodeValid && t.self == 5),
     (let s := { awake with trust := { Trust.reset with nodeId := some (5 : NodeId) } };
      nextIs (exec (.nodeValidSet .host 6) s) fun t => !t.nodeValid)] : List Bool).all id = true := by decide +kernel


/-! ## Witnesses of the statements -/

/-- Witness: a step of a state with a command in front. -/
theorem test_witness_StepRunsTheFrontCommand :
    ([(nextIs (step { awake with pending := [.healthScoreRecompute] }) fun t => t.pending == [])] : List Bool).all id = true := by decide +kernel

/-- Witness: a node that serves counts 2 ns, one held by RESET_N none. -/
theorem test_witness_IdleStepPassesOneCycle :
    ([(decide (awake.pending = [] ∧ awake.pow.phase ≠ .held ∧ awake.pow.phase ≠ .tripped)),
     (decide (State.reset.pending = [] ∧ State.reset.pow.phase = .held))] : List Bool).all id = true := by decide +kernel

/-- Witnesses: each namespace command is admitted, with and without the namespace. -/
theorem test_witness_NamespaceCommandsTakeEffect :
    ([(meets .nsCreate (hostCmd (nsBody 3)) host fun c u => (u.ns? (field c.data 0 2)).isNone),
     (meets .nsCreate (hostCmd (nsBody 3)) store fun c u => (u.ns? (field c.data 0 2)).isSome),
     (meets .nsModify (hostCmd (leBytes 2 3 ++ zeroBytes 2 ++ leBytes 4 5)) store),
     (meets .nsDelete (hostCmd (leBytes 2 3 ++ zeroBytes 6)) { store with store := { Store.reset with nss := [theNs] } } fun c u => !u.nsUsed (field c.data 0 2)),
     (meets .nsDelete (hostCmd (leBytes 2 3 ++ zeroBytes 6)) store fun c u => u.nsUsed (field c.data 0 2))] : List Bool).all id = true := by decide +kernel

/-- Witnesses: each sequence command is admitted with its premises; truncation and fork cut inside the tail page, and at a page's end. -/
theorem test_witness_SequenceCommandsTakeEffect :
    ([(meets .seqCreate (hostCmd (leBytes 8 (seqA.toNat + 1) ++ leBytes 2 1 ++ leBytes 1 1 ++ zeroBytes 29 ++ groupA.bytes)) { store with store := { Store.reset with nss := [theNs] } } fun c u => (parseSeqCreate c.data).any fun r => ((u.seq? r.seq).isNone &&
      u.seqRoom (nsOf r.seq))),
     (meets .seqTag (hostCmd (leBytes 8 seqA.toNat ++ leBytes 4 9 ++ zeroBytes 4)) store),
     (meets .seqDelete (hostCmd (leBytes 8 seqA.toNat)) store fun c u => (u.mirrorWait (seqAt0 c.data) c.pkt.reqId (.stepDelete (seqAt0 c.data))).1.isSome),
     ([2, 3].all fun t => meets .truncate (hostCmd (leBytes 8 seqA.toNat ++ leBytes 4 t ++ zeroBytes 4)) store fun c u => (u.seq? seqA).any fun q => (u.truncHome seqA t).any fun v => (decide (field c.data 8 4 ≤ q.tokLen) &&
      u.cutMissing q t == [] && (v.mirrorWait seqA c.pkt.reqId (.stepTruncate seqA t)).1.isSome && field c.data 8 4 == t)),
     (meets .fork (hostCmd (leBytes 8 seqA.toNat ++ leBytes 8 (seqA.toNat + 1) ++ leBytes 4 2 ++ zeroBytes 28)) store fun c u => (parseFork c.data).any fun r => (((u.seq? r.parent).any fun q => (u.forkHere r).any fun v => (v.seq? r.child).any fun x => ((u.seq? r.child).isNone &&
      q.covers r.f && u.cutMissing q r.f == [] && u.isHome r.child && u.refsOk q r.f && (v.tandemOf r.child).isSome &&
      ((if v.tandemOf r.child = v.tandemOf r.parent then v else v.resyncSeq 6 5 x).mirrorWait r.child c.pkt.reqId (.stepFork r)).1.isSome)))),
     (meets .fork (hostCmd (leBytes 8 seqA.toNat ++ leBytes 8 (seqA.toNat + 1) ++ leBytes 4 2 ++ zeroBytes 28)) (otherHome store) fun c u => (parseFork c.data).any fun r => (((u.seq? r.parent).any fun q => ((u.seq? r.child).isNone &&
      q.covers r.f && u.cutMissing q r.f == [] && !u.isHome r.child && u.homeOf r.child == some 6 && u.refsOk q r.f &&
      u.unsealedBelow q r.f == [])))),
     (meets .seqDescribe (hostCmd (leBytes 8 seqA.toNat ++ leBytes 2 0 ++ leBytes 2 1 ++ zeroBytes 4)) store fun c u => (u.seq? (seqAt0 c.data)).isSome),
     (meets .pageList (hostCmd (leBytes 8 seqA.toNat ++ zeroBytes 8 ++ leBytes 4 1 ++ zeroBytes 4)) store fun c u => (u.seq? (seqAt0 c.data)).isSome)] : List Bool).all id = true := by decide +kernel

/-- Witnesses: an append of a row at the end, in both forms, and one behind a gap. -/
theorem test_witness_AppendAtTheEndTakesEffect :
    ([(meets .append (hostCmd (appendBody 3)) store fun c u => (u.seq? seqA).any fun q => (((parseAppend q false c.data).any fun a => (u.fit a q == .apply &&
      tokensAgree q a.pos a.tokens && (u.applyRows true false a c.pkt.reqId c.ptn).isSome && u.levelOf a == 2 && (u.seq? a.seq == some q))))),
     (meets .appendBulk (hostCmd (bulkBody 3)) store fun c u => (u.seq? seqA).any fun q => (((parseAppend q true c.data).any fun a => (u.fit a q == .apply &&
      tokensAgree q a.pos a.tokens && (u.applyRows true false a c.pkt.reqId c.ptn).isSome && u.levelOf a == 2 && (u.seq? a.seq == some q))))),
     (meets .append (hostCmd (appendBody 7)) store fun c u => (u.seq? seqA).any fun q => (((parseAppend q false c.data).any fun a => (u.fit a q == .gap &&
      a.timeoutUs == 0 && u.levelOf a != 3))))] : List Bool).all id = true := by decide +kernel

/-- Witnesses: contexts, queues and windows; the two revocations. -/
theorem test_witness_ContextAndQueueCommandsTakeEffect :
    ([(meets .ctxCreate (hostCmd (leBytes 2 1 ++ zeroBytes 2 ++ leBytes 1 20 ++ zeroBytes 11 ++ queueBody 1)) host fun c u => u.windowDie.isSome &&
      u.queueRoom (field c.data 0 2) (field c.data 2 1) && (u.quotaRoom (field c.data 2 1) (windowFrames (field c.data 4 1))).isSome),
     (meets .queueCreate (hostCmd (queueBody 1)) host fun c u => u.queueRoom c.ctx c.ptn),
     (meets .queueDestroy (hostCmd (leBytes 2 1 ++ zeroBytes 6)) (hostWith fun x => { x with queues := [queueA, { queueA with qpn := 3, num := 1 }] }) fun c u => (u.ctxQueue? c.ctx (field c.data 0 2)).isSome),
     (meets .queueDestroy (hostCmd (leBytes 2 1 ++ zeroBytes 6)) host fun c u => (u.ctxQueue? c.ctx (field c.data 0 2)).isNone),
     (meets .ctxDestroy (hostCmd (zeroBytes 8)) host),
     (meets .windowRekey (hostCmd (zeroBytes 8)) host fun c u => (u.ctx? c.ctx).isSome),
     (meets .windowDescribe (hostCmd []) host fun c u => (u.ctx? c.ctx).isSome),
     ((hostWith fun x => { x with ctxs := [{ ctxA with revoking := some (some 9) }] }).ctx? 0 == some { ctxA with revoking := some (some 9) }),
     ((hostWith fun x => { x with ctxs := [{ ctxA with revoking := some none }] }).ctx? 0 == some { ctxA with revoking := some none })] : List Bool).all id = true := by decide +kernel

/-- Witnesses: a chain posted, cancelled in each state, described, and its last request ended. -/
theorem test_witness_TriggerChainsTakeEffect :
    ([(meets .trigPost (hostCmd (leBytes 2 1 ++ zeroBytes 2 ++ leBytes 1 1 ++ zeroBytes 11 ++ leBytes 1 1 ++ zeroBytes 31)) host fun c u => (u.ctxQueue? c.ctx (field c.data 2 2)).isSome &&
      (trigWrs c.data).isSome && decide ((u.dropChain c.ptn (field c.data 0 2)).host.chains.length < 65536)),
     (meets .trigCancel (hostCmd (leBytes 2 1 ++ zeroBytes 6)) (chained .armed) fun c u => (u.chain? c.ptn 1).any fun x => x.state == .armed),
     (meets .trigCancel (hostCmd (leBytes 2 1 ++ zeroBytes 6)) (chained .firing) fun c u => (u.chain? c.ptn 1).any fun x => x.state == .firing),
     (meets .trigCancel (hostCmd (leBytes 2 1 ++ zeroBytes 6)) (chained .fired) fun c u => (u.chain? c.ptn 1).any fun x => x.state == .fired),
     (meets .trigCancel (hostCmd (leBytes 2 1 ++ zeroBytes 6)) host fun c u => (u.chain? c.ptn 1).isNone),
     (meets .trigDescribe (hostCmd (leBytes 2 1 ++ zeroBytes 6)) (chained .fired) fun c u => (u.chain? c.ptn 1).isSome),
     (meets .trigDescribe (hostCmd (leBytes 2 1 ++ zeroBytes 6)) host fun c u => (u.chain? c.ptn 1).isNone),
     (((chained .firing).chain? (0 : Fin 32) 1).any fun x => x.state == .firing && x.reply.isNone && ((chained .firing).queue? x.queue).isSome)] : List Bool).all id = true := by decide +kernel

/-- Witness: the key, and the first and last bytes of the window. -/
theorem test_witness_WindowOperationsTakeEffect :
    ([((host.receives 2).any fun q => (host.windowAt q ⟨1, 0⟩ 4).isSome && (host.windowAt q ⟨1, 2 ^ 20 - 8⟩ 8).isSome)] : List Bool).all id = true := by decide +kernel

/-- Witness: four bytes at the end of an empty window. -/
theorem test_witness_WindowWriteReadsBack :
    ([((host.receives 2).any fun q => (host.windowAt q ⟨1, 2 ^ 20 - 4⟩ [1, 2, 3, 4].length).any fun x => Mem.wf x.1.window)] : List Bool).all id = true := by decide +kernel

/-- Witnesses: another key; one byte past the window. -/
theorem test_witness_WindowRefusesStrangers :
    ([((host.receives 2).any fun q => (host.ctx? q.ctx).any fun c => decide ((2 : Word32) ≠ c.rkey ∧ c.base.toNat + 2 ^ c.winLog2 < (2 ^ 20 - 3 : Nat) + [1, 2, 3, 4].length))] : List Bool).all id = true := by decide +kernel

/-- Witnesses: each clause on a queue that is up; the retry counts at and below their limits; a full backlog. -/
theorem test_witness_TransportErrorsTakeEffect :
    ([((host.receives 2).isSome),
     (((host.updQueue 2 fun q => { q with consumed := 64 }).flush 2).queue? 2 != none),
     (((queued fun q => { q with posted := [⟨[64], .tailWord⟩] }).queue? 2).any fun q => !q.err && q.posted != [] &&
      decide (q.retries < host.rf .hptRc 5 3 ∧ q.rnrRetries < host.rf .hptRc 8 3 ∨ host.rf .hptRc 8 3 = 7)),
     (((queued fun q => { q with posted := [⟨[64], .tailWord⟩], retries := 7, rnrRetries := 7 }).queue? 2).any fun q => decide (host.rf .hptRc 5 3 ≤ q.retries) &&
      decide ((host.setRf .hptRc 8 3 5).rf .hptRc 8 3 ≠ 7 ∧ (host.setRf .hptRc 8 3 5).rf .hptRc 8 3 ≤ q.rnrRetries)),
     (((queued fun q => { q with qdepth := 1, backlog := [(.nodeDescribe, hostCmd [])] }).ctxQueue? 0 0).any fun q => !q.err &&
      decide (q.qdepth ≤ q.backlog.length) && (host.port q.port).state == 2)] : List Bool).all id = true := by decide +kernel

/-- Witnesses: a queue with a post and a frame, CNP on and off, a running gate, PFC on a priority, a port in training. -/
theorem test_witness_HostPortEventsTakeEffect :
    ([((host.queue? 2).isSome && (host.receives 2).isSome),
     (decide ((host.setRf .hptCc2 17 1 1).rf .hptCc2 17 1 = 1 ∧ (host.setRf .hptCc2 17 1 0).rf .hptCc2 17 1 = 0)),
     ((((queued fun q => { q with egress := [100] }).accrue 0).chooseFrame 0).isSome),
     (((host.updPort 0 fun p => { p with gateRunning := true }).port 0).gateRunning),
     (bit ((host.setRf (.hptPortCtl 0) 8 8 4).rf (.hptPortCtl 0) 8 8) 2 && (host.port 0).state == 2),
     (decide (((host.updPort 1 fun p => { p with state := 1 }).port 1).state ≠ 0 ∧ ((host.updPort 1 fun p => { p with state := 1 }).port 1).state ≠ 2))] : List Bool).all id = true := by decide +kernel

/-- Witnesses: a bad tag, and a SEQ seen before. -/
theorem test_witness_UnfitMessagesStoreNothing :
    ([((heard { hdr with tagOk := false } (keyed store)).isNone),
     ((heard (hdr 4) ((keyed store).updPeer 6 fun p => { p with seen := [(4, 0)] })).isNone && (heard hdr (keyed store)).isSome)] : List Bool).all id = true := by decide +kernel

/-- Witness: SEQ 1 once two were delivered. -/
theorem test_witness_DeliveredSeqIsNotDeliveredAgain :
    ([(let u := ((tandem store).updPeer 6 fun p => { p with rxOrd := 2 }).gathered hdr true;
      (u.screen hdr).1 && decide (hdr.seq.toNat ≤ ((u.screen hdr).2.peer hdr.src).rxOrd) && (orderedMsg (.mirrorStepTag hdr seqA 3)).isSome)] : List Bool).all id = true := by decide +kernel

/-- Witnesses: an attend of nothing, of three positions, of nine with a wait and without, a batch, a wait that lands or is short, and an engine at the end of its step. -/
theorem test_witness_AttendsTakeEffect :
    ([(meets .attend (hostCmd (leBytes 8 seqA.toNat ++ zeroBytes 8 ++ leBytes 4 oneF.toNat ++ zeroBytes 92 ++ zeroBytes 64)) store fun c u => (u.seq? (seqAt0 c.data)).any fun q => (parseAttend q c.data).any fun r => r.vis == 0 &&
      (u.bindAll c.ptn r.program r.k r.filter).toOption.isSome),
     (meets .attend (hostCmd attendBody) store fun c u => (u.seq? (seqAt0 c.data)).any fun q => (parseAttend q c.data).any fun r => (u.bindAll c.ptn r.program r.k r.filter).toOption.any fun b => let v := (u.countPtn c.ptn 1 0).verifyTokens q (q.group r.layer) r.vis b.2; let x := (v.seq? q.handle).getD q; decide (0 < r.vis ∧ r.vis ≤ (x.layer r.layer).length) && !v.windowShort x r.layer r.vis),
     ([0, 5].all fun w => meets .attend (hostCmd (longVis w)) store fun c u => (u.seq? (seqAt0 c.data)).any fun q => (parseAttend q c.data).any fun r => (u.bindAll c.ptn r.program r.k r.filter).toOption.any fun b => let v := (u.countPtn c.ptn 1 0).verifyTokens q (q.group r.layer) r.vis b.2; let x := (v.seq? q.handle).getD q; decide ((x.layer r.layer).length < r.vis ∧ (x.layer r.layer).loss = none) && (r.timeoutUs == 0) == (w == 0)),
     (meets .attendBatch (hostCmd (leBytes 2 1 ++ zeroBytes 6 ++ leBytes 4 64 ++ leBytes 4 176 ++ zeroBytes 48 ++ attendBody)) store),
     (let s := holding .attend (.positions (runA 3)) store;
      (s.inflight? 9).isSome && (s.seq? (runA 3).req.seq == some theSeq) && s.landed theSeq (runA 3)),
     (let s := holding .attend (.positions (runA 9)) store;
      (s.inflight? 9).isSome && (s.seq? (runA 9).req.seq == some theSeq) && decide ((theSeq.layer (runA 9).req.layer).length < (runA 9).req.vis)),
     (loopEnds running)] : List Bool).all id = true := by decide +kernel

/-- Witnesses: a partial request that is served, one that waits for flash and one of a missing page; answers, declines and timeouts of a request sent once and twice. -/
theorem test_witness_PartialMessagesTakeEffect :
    ([((asked hdr (keyed store)).any fun u => let v := u.install seqA; hdr.src != u.self &&
      (v.declines hdr.epoch { partialA 3 with pages := [0] }).isSome),
     ((asked hdr (keyed coldT)).any fun u => let v := u.install seqA; v.declines hdr.epoch (partialA 3) == none &&
      (partState (partialA 3) (keyed coldT)).any fun y => y.cmds.parts.any fun x => x.needs == [pageA]),
     ((asked hdr (keyed store)).any fun u => let v := u.install seqA; v.declines hdr.epoch (partialA 3) == none &&
      (partState (partialA 3) (keyed store)).any fun y => (y.cmds.parts.all fun x => x.needs == []) && !y.tandemShort (partialA 3) &&
      (partialA 3).ofRecall == false && (y.holderPins (partialA 3) true).length == 1 &&
      isReply (y.holderAnswer (partialA 3) (y.holderPins (partialA 3) true) []).1),
     ((heard hdr (remoteRun false)).any fun u => (u.recallBy 7 fun r => (r.openReq 4 (· == (6 : NodeId))).isSome).isNone &&
      (u.remoteOf 7 6 4).any fun x => x.2.1.fits (emptyPartial 0 32 1 3 false) && !x.2.2.further),
     ([false, true].all fun b => (heard hdr (remoteRun b)).any fun u => (u.remoteOf hdr.reqId 6 4).isSome &&
      ((remoteRun b).inflight? 9).any fun i => i.wait == .attend { runA 3 with remotes := [remoteA b] } &&
      ([remoteA b].find? fun x => x.reqSeq == 4 && x.answer.isNone && !x.failed) == some (remoteA b) && !(remoteA b).further)] : List Bool).all id = true := by decide +kernel

/-- Witnesses: each gradient command, a request of a page with planes and of one on flash, and a reply that a pass waits for. -/
theorem test_witness_GradientsTakeEffect :
    ([(meets .gradAttend (hostCmd gradBody) (exactStore) fun c u => (u.seq? (seqAt0 c.data)).any fun q => (parseGrad q c.data).any fun r => (u.bindAll c.ptn none [] r.filter).toOption.any fun b => let run := { r with version := b.2, duplicate := false, ids := match b.2 with | some v => filterBlocks q r.group r.top v | none => [] }; let w := u.verifyTokens q r.group r.top b.2; let q' := (w.seq? q.handle).getD q; gradLanded q' run && ((w.countPtn c.ptn 1 10 r.rows.length).startGrad c.ptn c.pkt.reqId q' run).isSome),
     (meets .gradRead (hostCmd (leBytes 8 seqA.toNat ++ zeroBytes 8 ++ leBytes 4 1)) (exactStore)),
     (meets .gradClear (hostCmd (leBytes 8 seqA.toNat ++ zeroBytes 8 ++ leBytes 4 1)) (exactStore)),
     ((asked hdr (keyed (exactStore))).any fun u => let b := gradReqA; let v := b.pages.foldl (fun s p => s.verify p) (u.install b.seq); (b.pages.all fun p => match v.page? p with | some x => x.refs != 0 && !x.recovering | none => false) && decide (v.epoch ≤ hdr.epoch.toNat) && (b.pages.filter fun p => match v.page? p with | some x => x.sealed? && !v.readable p | none => false) == [] && (let w := v.pin b.pages; let x : State := { w with cmds := { w.cmds with grads := delAll ⟨hdr, b, []⟩ (w.cmds.grads ++ [⟨hdr, b, []⟩]) } }; let ps := b.pages.filterMap x.page?; !(ps.any (·.recovering)) && ps.length == b.pages.length && (x.allocGrads (x.seqPtn b.seq) (x.pageGroup b.seq b.layer (b.rows.headD ⟨0, [], [], [], [], []⟩).m.length (ps.headD (Page.fresh 0 0 ⟨0, 0, 0⟩ (emptyTail groupZero 0 0 0) 0 0))) b.seq b.layer (ps.map (·.name.block))).isSome)),
     ((asked hdr (keyed coldT)).any fun u => let b := gradReqA; let v := b.pages.foldl (fun s p => s.verify p) (u.install b.seq); (b.pages.all fun p => match v.page? p with | some x => x.refs != 0 && !x.recovering | none => false) && decide (v.epoch ≤ hdr.epoch.toNat) && (b.pages.filter fun p => match v.page? p with | some x => x.sealed? && !v.readable p | none => false) == [pageA]),
     ((heard hdr (keyed (holding .gradAttend (.grad gradRunA) (exactStore)))).any fun u => (u.gradOf 6 4).isSome)] : List Bool).all id = true := by decide +kernel

/-- Witnesses: recalls of both kinds, a scan under the model, results, checks and queries that a recall waits for, a segment with a window and a pass, one mostly dead and one to rebuild. -/
theorem test_witness_RecallsTakeEffect :
    ([(meets .recall (hostCmd recallBody) (recalls [6]) fun c u => (u.ns? (field c.data 0 2)).any fun x => (u.recallModel x c.data).toOption.any fun m => (nprobeOf c.data m.coarse.length).isSome),
     (meets .recallAttend (hostCmd recallAttendBody) (recalls [6]) fun c u => (u.ns? (field c.data 0 2)).any fun x => (u.recallModel x c.data).toOption.any fun m => (nprobeOf c.data m.coarse.length).isSome),
     ((asked hdr (recalls [6])).any fun u => u.scanMatches scanA && !u.scanMatches { scanA with model := 9 }),
     ((heard hdr (recalling .gather)).any fun u => (u.recallBy hdr.reqId fun r => r.stage == .gather &&
      r.waiting.contains (6, 4)).any fun x => x.2.stage == .gather && x.2.waiting.contains (6, 4)),
     (((recalls [6]).segment? segA).any fun g => g.window != [] && g.passes != []),
     (let s := segmentB [];
      (s.segment? segA).any fun g => !s.mostlyDead g && s.rcl.segments.all fun x => !x.removed),
     (let s := segmentB [{ idxA with page := 0 }];
      (s.segment? segA).any fun g => s.mostlyDead g && s.rcl.segments.all fun x => !x.removed),
     (let s := segmentB [] fun g => { g with rebuilding := true };
      (s.segment? segA).any fun g => g.rebuilding && s.flash.state != .readOnly),
     (((recalling .gather).recallOf 9).any fun x => x.2.stage == .gather),
     ((heard hdr (tandem (recalling .check))).any fun u => (u.recallBy hdr.reqId fun r => r.checking.any fun x => x.1 == 4 &&
      u.homeOf x.2.seq == some 6).isSome && (u.recallBy hdr.reqId fun r => r.queries.any fun x => x.1 == 5 && u.homeOf x.2.seq == some 6).isSome),
     ((asked hdr (recalls [6])).any fun u => u.isHome seqA)] : List Bool).all id = true := by decide +kernel

/-- Witnesses: a held command of each kind, and states with nothing held. -/
theorem test_witness_HeldCommandsGoOnOrExpire :
    ([(let s := holding .append (.gap (appA 3)) store;
      (s.inflight? 9).any fun i => i.wait == .gap (appA 3) && s.seq? (appA 3).seq == some theSeq && s.fit (appA 3) theSeq != .gap),
     (((holding .append (.journal (appA 3)) store).inflight? 9).any fun i => i.wait == .journal (appA 3)),
     (((holding .seqTag .epoch store).inflight? 9).any fun i => i.wait == .epoch && decide (i.pkt.epoch.toNat ≤ store.epoch)),
     (((holding .seqTag (.transfer seqA) store).inflight? 9).any fun i => i.wait == .transfer seqA),
     (store.cmds.list.all fun i => i.wait.inner != .descriptor seqA),
     (!(store.cmds.list.any fun i => i.ptn == 0 && i.reqId == 7) && !(store.host.queues.any fun q => q.ptn == 0 &&
      q.waiting.any fun r => r.reqId == 7)),
     (let s := holding .seqTag (.dup (some (0, []))) store;
      (s.inflight? 9).any fun i => i.wait == .dup (some (0, [])) && (s.sixRecorded (opDef i.op) i.cmd).isNone && ((opDef i.op).six i.cmd s).isNone),
     ((store.ptn? (0 : Fin 32)).isSome)] : List Bool).all id = true := by decide +kernel

/-- Witnesses: a queued seal and an idle engine; running seals at the first and second reading; a page written to flash. -/
theorem test_witness_SealsTakeEffect :
    ([(let s := sealing (.queued false);
      (s.sealPage ⟨seqA, 0, 0⟩).any fun p => (s.seq? p.name.seq).any fun q => p.sealing == .queued false &&
      (s.eng.engines[0]?.any fun y => y.idle) && s.sealMay p &&
      (let x := s.sealFull q p; (s.newPage p.ptn p.name x.1 (x.1.frames (q.group p.name.layer)) true).isSome)),
     (((sealing (.running 0 pageA 0)).sealPage ⟨seqA, 0, 0⟩).isSome && !(sealing (.running 0 pageA 0)).deltaFull),
     (((sealing (.running 0 pageA 1)).sealPage ⟨seqA, 0, 0⟩).isSome),
     ((store.seq? thePage.name.seq).isSome && (store.page? pageA).isSome),
     (let s := flashy (paged fun p => { p with job := .toFlash });
      (s.page? pageA).any fun p => p.job == .toFlash && (s.writePage p).isSome)] : List Bool).all id = true := by decide +kernel

/-- Witnesses: an idle engine with a spare, an unused spare, an engine that runs, a spare with a held step, a partition, a core and an automata engine with and without a fault. -/
theorem test_witness_FaultsFenceAndReplace :
    ([(store.eng.engines[0]?.any fun y => !y.fenced && y.inUse && y.step.isNone && (store.spareFor 0).isSome),
     (store.eng.engines[65]?.any fun y => !y.fenced && !y.inUse),
     (((running.eng.engines[(0 : Fin 68).val]?).bind (·.step)).isSome && !((store.eng.engines[(0 : Fin 68).val]?).bind (·.step)).isSome),
     (let s := { engines (fun l => l.set 64 ⟨true, false, false, none, some 0⟩) running with eng := { (engines (fun l => (l.set 64 ⟨true, false, false, none, some 0⟩).set 0 ⟨true, true, false, none, none⟩) running).eng with held := [⟨0, .attend 9, 1, 64⟩] } };
      s.eng.engines[64]?.any fun y => y.replacing == some 0 &&
      ((let v := s.updEngine 64 fun y => { y with replacing := none }; (v.eng.held.find? fun h => h.on == 64 && !v.onEngine h.step &&
      (h.faults == 2 || !isSeal h.step)).isSome))),
     ((store.ptn? (0 : Fin 32)).any fun p => !p.fenced),
     (decide (store.eng.held = [] ∧ store.eng.coresFenced.contains 0 = false ∧ store.eng.pasFenced.contains 0 = false ∧ store.eng.pasFaulted.contains 0 = false)),
     (({ store with eng := { store.eng with pasFaulted := [0] } } : State).eng.pasFaulted.contains 0)] : List Bool).all id = true := by decide +kernel

/-- Witness: engine 3 fenced. -/
theorem test_witness_FencedEnginesStayFenced :
    ([((engines fun l => l.set 3 ⟨true, true, false, none, none⟩).eng.engines[3]?.any fun y => y.fenced)] : List Bool).all id = true := by decide +kernel

/-- Witnesses: each step in its turn on the tandem, and one of an older epoch. -/
theorem test_witness_MirroredStepsTakeEffect :
    ([((inTurn (.mirrorStepCreate hdr ⟨seqA, [groupA], false, 0, []⟩) (noSeqs (tandem store))).any fun u => !u.stale hdr && (u.seq? seqA).isNone &&
      !u.isHome seqA),
     ((inTurn (.mirrorStepCreate hdr ⟨seqA, [groupA], false, 0, []⟩) (let s := noSeqs (keyed store); { s with map := { s.map with transfersIn := [⟨shardOf seqA, 0⟩] } })).any fun u => !u.stale hdr &&
      (u.seq? seqA).isNone && u.isHome seqA && u.map.transfersIn.any fun t => t.shard == shardOf seqA),
     ((inTurn (.mirrorStepDelete hdr seqA) (tandem store)).any fun u => !u.stale hdr),
     ((inTurn (.mirrorStepFork hdr forkA) (withChild (.pendingChild 7) (tandem store))).any fun u => !u.stale hdr &&
      (let v := u.stepRecord hdr forkA.parent .fork (ForkReq.bytes forkA); (v.seq? forkA.child).any fun q => q.state == .pendingChild 7)),
     ((inTurn (.mirrorStepFork hdr forkA) (tandem store)).any fun u => !u.stale hdr &&
      (let v := u.stepRecord hdr forkA.parent .fork (ForkReq.bytes forkA); (v.seq? forkA.child).isNone && (v.forkHere forkA).isSome)),
     ((inTurn (.mirrorStepTruncate hdr seqA 2) (tandem store)).any fun u => !u.stale hdr &&
      (u.seq? seqA).any fun q => ((u.stepRecord hdr seqA .truncate (leBytes 8 seqA.toNat ++ leBytes 4 2 ++ zeroBytes 4)).truncSeq false seqA (List.range q.layers.length) 2).isSome),
     ((inTurn (.mirrorStepTag hdr seqA 5) (tandem store)).any fun u => !u.stale hdr),
     ((inTurn (.mirrorStepPersisted hdr seqA 0 3) (tandem store)).any fun u => !u.stale hdr),
     ((inTurn (.mirrorStepLayerLoss hdr seqA 0 1 3) (tandem store)).any fun u => !u.stale hdr),
     ((inTurn (.mirrorWrite { hdr with reqId := 0 } (appA 3)) (tandem store)).any fun u => !u.stale hdr && (u.seq? seqA).isSome),
     ((inTurn (.mirrorStepTag { hdr with epoch := 0 } seqA 5) (tandem store)).any fun u => u.stale { hdr with epoch := 0 }),
     ((inTurn (.mirrorStepTailImage hdr seqA 0 imageA []) (tandem store)).any fun u => !u.stale hdr &&
      (u.seq? seqA).any fun x => (u.newPage (u.seqPtn seqA) ⟨seqA, 0, 0⟩ imageA (imageA.frames (x.group 0)) true).isSome)] : List Bool).all id = true := by decide +kernel

/-- Witnesses: a seal's step of both kinds of sequence, restored lengths, copies, releases, fetches with and without the page, and acknowledgements. -/
theorem test_witness_CopiesAndAcksTakeEffect :
    ([([false, true].all fun sh => (inTurn (.mirrorStepSealCommit hdr ⟨seqA, 0, 0⟩ 0 []) (tandem { store with store := { store.store with seqs := [{ theSeq with shared := sh }] } })).any fun u => !u.stale hdr &&
      (u.seq? seqA).any fun q => q.shared == sh && (u.blockPage q 0 0).any fun p => p.img.tail &&
      (let img := sealImage (q.group 0) p.img (some []); ((u.install seqA).newPage p.ptn ⟨seqA, 0, 0⟩ img (img.frames (q.group 0)) true).isSome)),
     ((inTurn (.mirrorStepRestoredLengths hdr seqA true [3]) (keyed { store with store := { store.store with seqs := [{ theSeq with state := .settling none }] } })).any fun u => !u.stale hdr &&
      u.isHome seqA && (u.seq? seqA).any fun q => q.state == .settling none),
     ((inTurn (.mirrorStepTransferDone hdr 3 1) (tandem store)).any fun u => !u.stale hdr && decide (hdr.epoch.toNat ≤ u.epoch)),
     ([1, 2, 4].all fun k => (inTurn (.pageCopy hdr k seqA 0 (.image imageA)) (tandem store)).any fun u => copyOk (u.groupFor seqA 0 imageA) 0 imageA &&
      !u.strayCopy hdr k seqA && (u.newPage (u.seqPtn seqA) ⟨seqA, 0, 0⟩ imageA (imageA.frames (u.groupFor seqA 0 imageA)) (k != 1)).isSome),
     ((inTurn (.pageRelease hdr pageA 1) (tandem store)).any fun u => u.isOwn pageA),
     ((heard hdr (tandem store)).any fun u => (u.fetched pageA seqA 0 0).isSome && (u.fetched 0 seqA 0 9).isNone),
     ((heard hdr ((keyed (paged fun p => { p with job := .place 6 })).updPeer 6 fun p => { p with copies := [⟨4, pageA, 1⟩] })).any fun u => ((u.peer 6).copies.find? fun c => c.seq == 4).any fun c => c.purpose == 1 &&
      (let v := u.updPeer 6 fun p => { p with copies := delAll c p.copies }; (v.placed? c.page).isNone &&
      (v.page? c.page).any fun y => y.job == .place 6 && y.refs != 0)),
     ([2, 4].all fun k => (heard hdr ((keyed (paged fun p => { p with awaiting := [6] })).updPeer 6 fun p => { p with copies := [⟨4, pageA, k⟩] })).any fun u => ((u.peer 6).copies.find? fun c => c.seq == 4).any fun c => c.purpose == k &&
      (u.page? c.page).isSome),
     ((heard hdr (keyed store)).any fun u => u.mirrorNode seqA == some 6)] : List Bool).all id = true := by decide +kernel

/-- Witnesses: a child made and refused, an awaited acceptance, a pending child, a page to place, and a stream that owes. -/
theorem test_witness_ForksAndStreamsTakeEffect :
    ([((asked hdr (keyed (noSeqs store))).any fun u => (u.forkVerdict 7 forkA).2 &&
      ((u.makeChild 6 7 forkA [groupA] [] [] []).any fun v => (v.seq? forkA.child).isSome && v.mirrorNode forkA.child == some 6)),
     ((asked hdr (tandem (noSeqs store))).any fun u => (u.forkVerdict 7 forkA).2 &&
      ((u.makeChild 6 7 forkA [groupA] [] [] []).any fun v => (v.seq? forkA.child).isSome && v.mirrorNode forkA.child == none)),
     ((asked hdr (keyed { noSeqs store with store := Store.reset })).any fun u => !(u.forkVerdict 7 forkA).2),
     ((heard hdr (tandem (holding .fork (.forkAccept forkA 4) store))).any fun u => (u.cmds.list.find? fun i => acceptAwaited i.wait u).any fun i => i.wait == .forkAccept forkA 4),
     (((withChild (.pendingChild 7) store).seq? forkA.child).any fun q => q.state == .pendingChild 7),
     (let s := { paged sealedPage with map := { store.map with map := some { theMap with nodes := [(5, 0, 0), (6, 1, 0), (7, 2, 0)] } }, store := { (paged sealedPage).store with nss := [{ theNs with nodes := [7] }] } };
      ((s.referrers pageA).find? fun r => s.isHome r.1.handle).any fun r => (s.ns? (nsOf r.1.handle)).any fun x => x.selfPlaced &&
      x.nodes.contains 7 && (7 : NodeId) != handleNode pageA && (7 : NodeId) != s.self && s.secondCopy r.1 7 && (s.placed? pageA).isNone &&
      (s.page? pageA).any fun p => p.sealed? && !p.img.ring && p.job == .none && !p.recovering && p.refs != 0),
     ((heard hdr (keyed store)).isSome),
     (let s := (keyed store).updPeer 6 fun p => { p with ackOwed := true };
      s.listens && (s.peer 6).ackOwed && (s.peer 6).keyed && !(s.peer 6).holdUntilFirst)] : List Bool).all id = true := by decide +kernel

/-- Witnesses: a newer, the same and no map described and told; both answers of the fingerprint. A pushed map has 262,160 bytes, too many for a test. -/
theorem test_witness_MapsTakeEffect :
    ([(meets .mapDescribe (hostCmd (leBytes 2 0 ++ leBytes 2 1 ++ zeroBytes 4)) host),
     ((heard hdr (keyed store)).any fun u => decide (u.epoch < (mapA 2).epoch.toNat) && MapBody.ok (mapA 2) &&
      decide ((mapA 1).epoch.toNat ≤ u.epoch) && u.map.map.isSome)] : List Bool).all id = true := by decide +kernel

/-- Witnesses: heartbeats of this and another map, peers to suspect and to expel, tokens, and a node below the threshold. -/
theorem test_witness_HealthTakesEffect :
    ([((heard hdr (keyed store) true).any fun u => decide (hdr.epoch.toNat = u.epoch) &&
      (({ beatA with mapDigest := u.mapDigest, fingerprint := u.fingerprint } : Heartbeat).fingerprint == u.fingerprint)),
     (store.beats && store.map.map.isSome && store.inMap 6 && decide ((6 : NodeId) ≠ store.self) && !(store.peer 6).suspect &&
      ((keyed store).updPeer 6 fun p => { p with suspect := true }).beats),
     ([0, 3].all fun n => let s := { ((keyed store).setRf .fabExpel 16 10 600).setRf .fabExpel 0 8 n with pow := { store.pow with tsc := 5000000000 } }; let s := s.updPeer 6 fun p => { p with healths := [(10, 0)] }; s.listens && s.lowFor (s.peer 6) && (s.peer 6).expelAt == none && (s.rf .fabExpel 0 8 == 0) == (n == 0)),
     ((heard hdr { keyed store with map := { store.map with leaveRaised := true } }).any fun u => decide ((u.peer 6).tokenSeen < 3) && u.self == 5),
     ((heard hdr { (keyed store).setRf .fabExpel 16 10 600 with map := { store.map with score := 10 } }).any fun u => decide (u.map.score < u.keepThr) &&
      u.map.role == 0),
     ((heard hdr { (keyed store).setRf .fabExpel 16 10 600 with map := { store.map with score := 600 } }).any fun u => decide (u.keepThr ≤ u.map.score))] : List Bool).all id = true := by decide +kernel

/-- Witnesses: a slot that is free, owned with and without staging, valid, and with two versions bound; an image of one state. -/
theorem test_witness_PatternSlotCommandsTakeEffect :
    ([(meets .patInvalidate (hostCmd (zeroBytes 8)) (pats 0 (some patVer) [])),
     (meets .patWrite (hostCmd (zeroBytes 8 ++ leBytes 4 2 ++ zeroBytes 6)) host fun c u => (u.patSlot (field c.data 0 2)).owner == noPtn),
     (meets .patWrite (hostCmd (zeroBytes 8 ++ leBytes 4 2 ++ zeroBytes 6)) { pats 0 none [] with hbm := store.hbm } fun c u => let x := u.patSlot 0; x.owner == 0 &&
      x.current.isNone &&
      (u.quotaRoom c.ptn (stagingFrames (max x.stagingLen (field c.data 4 4 + field c.data 8 4)) - stagingFrames x.stagingLen)).isSome),
     (meets .patWrite (hostCmd (zeroBytes 8 ++ leBytes 4 2 ++ zeroBytes 6)) (poor (pats 0 none [])) fun c u => let x := u.patSlot 0; x.owner != noPtn &&
      x.current.isNone &&
      (u.quotaRoom c.ptn (stagingFrames (max x.stagingLen (field c.data 4 4 + field c.data 8 4)) - stagingFrames x.stagingLen)).isNone),
     (meets .patValidate (hostCmd (zeroBytes 8 ++ leBytes 32 5)) (pats 0 (some patVer) []) fun _ u => (u.patSlot 0).current.any fun v => v.digest == 5),
     (meets .patValidate (hostCmd (zeroBytes 8 ++ leBytes 32 6)) (pats 0 (some patVer) []) fun _ u => (u.patSlot 0).current.any fun v => v.digest != 6),
     (meets .patValidate (hostCmd (zeroBytes 8 ++ leBytes 32 6)) (twoBound 0) fun _ u => let x := u.patSlot 0; x.current.isNone &&
      decide (2 ≤ (u.oldPats x).length)),
     (meets .patValidate (hostCmd (zeroBytes 4 ++ leBytes 4 174 ++ leBytes 32 6)) (pats 0 none patBytes) fun c u => let x := u.patSlot 0; x.current.isNone &&
      decide ((u.oldPats x).length < 2) && x.owner != noPtn &&
      decide (digest (Mem.readList x.staging 0 (field c.data 4 4)) ≠ BitVec.ofNat 256 (field c.data 8 32))),
     (meets .patValidate (hostCmd (zeroBytes 4 ++ leBytes 4 174 ++ leBytes 32 patDigest)) (pats 0 none patBytes) fun c u => let x := u.patSlot 0; let image := Mem.readList x.staging 0 (field c.data 4 4); x.current.isNone && decide ((u.oldPats x).length < 2) && x.owner != noPtn && decide (digest image = BitVec.ofNat 256 (field c.data 8 32)) && (parsePattern image).any fun v => (u.placeBanks v).isSome),
     (meets .patValidate (hostCmd (zeroBytes 8 ++ leBytes 32 emptyDigest)) (pats 0 none []) fun c u => let x := u.patSlot 0; let image := Mem.readList x.staging 0 (field c.data 4 4); x.current.isNone && x.owner != noPtn && decide (digest image = BitVec.ofNat 256 (field c.data 8 32)) && (parsePattern image).isNone),
     (meets .patUnload (hostCmd (zeroBytes 8)) (pats 0 (some patVer) [])),
     (meets .patDescribe (hostCmd (zeroBytes 8)) (pats 0 (some patVer) []) fun _ u => (u.patSlot 0).current.isSome),
     (meets .patDescribe (hostCmd (zeroBytes 8)) (pats 0 none []) fun _ u => (u.patSlot 0).current.isNone)] : List Bool).all id = true := by decide +kernel

/-- Witnesses: a program of one RET with fewer than two and with two versions bound; models described, and refused by a read-only tier. An image that unwraps depends on the key pairs, which Config leaves open. -/
theorem test_witness_ProgramAndModelCommandsTakeEffect :
    ([(meets .progLoad (hostCmd progBytes) (progs none []) fun c u => (parseProgram (c.data.drop 8)).isSome &&
      u.oldProgs (u.progSlot (field c.data 0 1)) == []),
     (meets .progLoad (hostCmd progBytes) (progsBound) fun c u => (parseProgram (c.data.drop 8)).isSome &&
      (u.progSlot (field c.data 0 1)).owner == c.ptn && decide (2 ≤ (u.oldProgs (u.progSlot (field c.data 0 1))).length)),
     (meets .progUnload (hostCmd (zeroBytes 8)) (progs (some ⟨[], 1, 1⟩) []) fun _ u => (u.progSlot 0).current.isSome),
     (meets .progUnload (hostCmd (zeroBytes 8)) (progs none []) fun _ u => (u.progSlot 0).current.isNone),
     (meets .progDescribe (hostCmd (zeroBytes 8)) (progs (some ⟨[], 1, 1⟩) []) fun _ u => (u.progSlot 0).current.isSome),
     (meets .progDescribe (hostCmd (zeroBytes 8)) (progs none []) fun _ u => (u.progSlot 0).current.isNone),
     (meets .modelInstall (hostCmd (leBytes 2 3 ++ zeroBytes 62)) { recalls [] with flash := { store.flash with state := .readOnly } } fun _ u => u.flash.state == .readOnly),
     (meets .modelInstall (hostCmd (leBytes 2 3 ++ zeroBytes 62)) (recalls []) fun c u => u.flash.state != .readOnly &&
      (u.ns? (field c.data 0 2)).isSome),
     (meets .modelDescribe (hostCmd (leBytes 2 3 ++ zeroBytes 6)) (recalls []) fun _ u => (u.ns? 3).isSome)] : List Bool).all id = true := by decide +kernel

/-- Witnesses: partitions with and without room, a reset that can complete, a key slot to revoke. A key that unwraps depends on the key pairs, which Config leaves open. -/
theorem test_witness_PartitionCommandsTakeEffect :
    ([(meets .ptnCreate (hostCmd (ptnBytes 1 8 0)) (poor host) fun c u => (parsePtn c.data).any fun x => u.ptnRoom x),
     (meets .ptnCreate (hostCmd (ptnBytes 1 8 0xFFFFFFFF)) (poor host) fun c u => (parsePtn c.data).any fun x => !u.ptnRoom x),
     (meets .ptnModify (hostCmd (ptnBytes 0 0 0)) (poor host) fun c u => (parsePtn c.data).any fun x => u.ptnRoom x),
     (meets .ptnReset (hostCmd (zeroBytes 8)) host),
     ((let s := host.updPtn 0 fun p => { p with resetting := true }; (s.ptn? (0 : Fin 32)).any fun y => y.resetting &&
      !(s.cmds.list.any fun i => i.ptn == 0 && i.wait != .ptnReset 0))),
     (decide (host.ptn? (3 : Fin 32) = none)),
     (meets .ptnDestroy (hostCmd (leBytes 1 1 ++ zeroBytes 7)) { host with ptns := host.ptns.set 1 (some ptnA) }),
     (meets .ptnDescribe (hostCmd (zeroBytes 8)) host fun _ u => (u.ptn? 0).isSome),
     (meets .ptnDescribe (hostCmd (leBytes 1 9 ++ zeroBytes 7)) host fun _ u => (u.ptn? 9).isNone),
     (meets .keyRevoke (hostCmd (zeroBytes 8)) (hostWith fun x => { x with ctxs := [{ ctxA with keys := [some ⟨1, false, 0⟩, none, none, none] }] }) fun c u => (u.ctx? c.ctx).isSome)] : List Bool).all id = true := by decide +kernel

/-- Witnesses: each firmware command with an activation running and without one, core groups that follow, and one of a node that activates nothing. -/
theorem test_witness_FirmwareUpdateTakesEffect :
    ([(meets .fwStage (mgmtCmd (zeroBytes 4 ++ leBytes 4 4 ++ zeroBytes 12)) (fwAt 0) fun _ u => u.trust.fw.state != 3),
     (meets .fwStage (mgmtCmd (zeroBytes 4 ++ leBytes 4 4 ++ zeroBytes 12)) (fwAt 3) fun _ u => u.trust.fw.state == 3),
     (meets .fwCheck (mgmtCmd (fwCheckBody 0 5)) (fwAt 1) fun c u => u.trust.fw.state != 3 &&
      decide (u.slotDigest u.otherSlot (field c.data 0 4) ≠ BitVec.ofNat 256 (field c.data 8 32))),
     (meets .fwCheck (mgmtCmd (fwCheckBody 0 emptyDigest)) (fwAt 1) fun c u => decide (u.slotDigest u.otherSlot (field c.data 0 4) = BitVec.ofNat 256 (field c.data 8 32)) &&
      (u.slotImage u.otherSlot).isNone),
     (meets .fwCheck (mgmtCmd (fwCheckBody 0 5)) (fwAt 3) fun _ u => u.trust.fw.state == 3),
     (meets .fwAbort (mgmtCmd []) (fwAt 2) fun _ u => u.trust.fw.state != 3),
     (meets .fwAbort (mgmtCmd []) (fwAt 3) fun _ u => u.trust.fw.state == 3),
     (meets .fwActivate (mgmtCmd (zeroBytes 8)) (fwAt 2)),
     ([fwAt 3 4, fwAt 3 5].all fun s => s.trust.fw.state == 3 && s.pow.phase == .service && s.pow.state == .ride &&
      decide (s.trust.fw.groupsDone < 5 ∨ 5 ≤ s.trust.fw.groupsDone)),
     ((fwAt 2).trust.fw.state != 3),
     (meets .fwDescribe (mgmtCmd []) (fwAt 2))] : List Bool).all id = true := by decide +kernel

/-- Witnesses: a key ready and not, an activation running, both certificates, each key event's premises. -/
theorem test_witness_AttestationTakesEffect :
    ([(meets .attest (mgmtCmd (zeroBytes 40)) (trusted id) fun _ u => u.trust.fw.state != 3 && u.trust.attReady),
     (meets .attest (mgmtCmd (zeroBytes 40)) (fwAt 3) fun _ u => u.trust.fw.state == 3),
     (meets .attest (mgmtCmd (zeroBytes 40)) mgmt fun _ u => u.trust.fw.state != 3 && !u.trust.attReady),
     (meets .certRead (mgmtCmd (zeroBytes 8)) mgmt),
     (meets .certRead (mgmtCmd (leBytes 1 1 ++ zeroBytes 7)) mgmt fun c u => field c.data 0 1 == 1 && u.trust.attSerial == 0),
     (meets .certRead (mgmtCmd (leBytes 1 1 ++ zeroBytes 7)) (trusted id) fun _ u => u.trust.attSerial != 0),
     (let s := trusted fun t => { t with attSerial := 0 };
      s.pow.phase == .service && s.trust.attSerial == 0 && s.identitySign.1),
     (let s := trusted fun t => { t with attLeft := 2 ^ 18 };
      decide (s.trust.attSerial ≠ 0 ∧ s.trust.attLeft ≤ 2 ^ 18 ∧ s.trust.attSuccessor = false) && s.identitySign.1),
     ((trusted fun t => { t with idxLost := true }).trust.idxLost && !mgmt.trust.idxOk),
     (let t := (trusted fun t => { t with attLeft := 0, attSuccessor := true }).trust;
      t.attLeft == 0 && t.attSuccessor),
     (decide ((trusted id).trust.attLeft ≠ 0))] : List Bool).all id = true := by decide +kernel

/-- Witnesses: a session's report, and a confidential partition that is not in reset. -/
theorem test_witness_ConfidentialMapsAreShortForSessions :
    ([(meets .attest (mgmtCmd (zeroBytes 40)) (trusted id) fun c u => u.trust.fw.state != 3 && u.trust.attReady && c.pkt.src == .mgmt 0 &&
      c.data.length == 40 && zeros (slice c.data 36 4)),
     ((({ mgmt with ptns := mgmt.ptns.set 0 (some { ptnA with confidential := true }) } : State).ptn? 0).any fun y => y.confidential &&
      !y.resetting)] : List Bool).all id = true := by decide +kernel

/-- Witnesses: each read is admitted; a log with and without a record, and a read that waits in each. -/
theorem test_witness_NodeReadsAnswer :
    ([(meets .nodeDescribe (hostCmd []) host),
     (meets .healthRead (mgmtCmd []) mgmt),
     (meets .stackState (mgmtCmd []) mgmt),
     (meets .telRead (mgmtCmd (zeroBytes 4 ++ leBytes 2 1 ++ zeroBytes 2)) mgmt),
     (meets .logRead (mgmtCmd (zeroBytes 8 ++ leBytes 2 4 ++ zeroBytes 2 ++ leBytes 4 0xFFFF)) logged fun _ u => u.log.records.any fun r => decide (0 < r.seqno) &&
      bit 0xFFFF r.cls),
     (meets .logRead (mgmtCmd (zeroBytes 8 ++ leBytes 2 4 ++ leBytes 2 9 ++ leBytes 4 0xFFFF)) mgmt fun c u => u.log.records == [] &&
      field c.data 10 2 != 0),
     (((logWait mgmt).inflight? 9).any fun i => i.wait == .log 0 4 0xFFFFFFFF && (logWait mgmt).logFrom 0 4 0xFFFFFFFF == []),
     (((logWait logged).inflight? 9).any fun i => i.wait == .log 0 4 0xFFFFFFFF && (logWait logged).logFrom 0 4 0xFFFFFFFF != [])] : List Bool).all id = true := by decide +kernel

/-- Witnesses: a read of one word, an offset without a register, and the pairs at reset. -/
theorem test_witness_RegisterWordsReadAndPair :
    ([(meets .regRead (mgmtCmd (leBytes 4 8 ++ leBytes 2 1 ++ zeroBytes 2)) mgmt),
     ((Reg.at? 2).isNone && (Reg.at? 0xFFFFFC).isNone),
     ([Reg.glbFpLo, .glbFpHi, .glbTsLo, .glbTsHi, .logHeadLo, .logHeadHi, .logTailLo, .logTailHi].all fun r => mgmt.kept r == 0)] : List Bool).all id = true := by decide +kernel

/-- Witness: 9 in a block size of a drafting register, above its range and other than what it holds. -/
theorem test_witness_OutOfRangeWritesAreIgnored :
    ([(Reg.glbLock.fields != [] && (Reg.engDraft 0).fields.any fun f => f.acc == .rw && decide (f.mx < 2 ^ f.w - 1) &&
      (let v := (f.mx + 1) * 2 ^ f.lo; decide (bits v f.lo f.w ≠ bits (mgmt.kept (.engDraft 0)) f.lo f.w) && decide (f.mx < bits v f.lo f.w)))] : List Bool).all id = true := by decide +kernel

/-- Witness: a serving node, and words in range for the registers with a range and without. -/
theorem test_witness_WrittenFieldsReadBack :
    ([(mgmt.pow.phase == .service &&
      ([Reg.hptPortVlan 0, .hptPortAddr 0 3, .fabSpare, .fabHb, .memScrub] : List Reg).all fun r => r.fields.all fun f => decide (f.mn ≤ bits (mgmt.kept r) f.lo f.w ∧ bits (mgmt.kept r) f.lo f.w ≤ f.mx))] : List Bool).all id = true := by decide +kernel

/-- Witnesses: a write of an RWL field under GLB_LOCK, and a REG_WRITE of one pair. -/
theorem test_witness_LockedFieldsStay :
    ([(let s := mgmt.setRf .glbLock 0 1 1;
      s.rf .glbLock 0 1 == 1 && Reg.at? (Reg.fabNode.offset) == some .fabNode && Reg.fabNode.fields.any fun f => f.acc == .rwl &&
      decide (bits 0xFFFFFFFF f.lo f.w ≠ bits (s.kept .fabNode) f.lo f.w)),
     (meets .regWrite (mgmtCmd (leBytes 2 1 ++ zeroBytes 6 ++ leBytes 4 8 ++ zeroBytes 4)) mgmt)] : List Bool).all id = true := by decide +kernel

/-- Witnesses: stacks off, in service, fenced, with and without room to drain; channels and the tier. -/
theorem test_witness_MemoryUnitsObeyTheirRegisters :
    ([(awake.takesWrites .mport && (awake.stack 0).state == .off && awake.rf (.memStkCtl 0) 0 1 == 0 && awake.rf (.memStkCtl 0) 1 1 == 0 &&
      (store.stack 2).state != .off && store.rf (.memStkCtl 2) 0 1 == 0),
     (let s := stacked 0 (fun x => { x with state := .fenced }) (store.setRf (.memStkCtl 0) 0 1 1);
      s.rf (.memStkCtl 0) 0 1 == 1 && (s.stack 0).state == .fenced && (let t := store.setRf (.memStkCtl 0) 0 1 1; t.rf (.memStkCtl 0) 0 1 == 1 &&
      (t.stack 0).state != .fenced)),
     ((store.stack 2).state == .service && store.rf (.memStkCtl 2) 1 1 == 0 && store.drainFits 2 &&
      (store.setRf (.memStkCtl 2) 1 1 1).rf (.memStkCtl 2) 1 1 == 1),
     (let s := { store with hbm := { Hbm.reset with stk := Hbm.reset.stk.set 2 { Stack.reset with state := .service } } };
      (s.stack 2).state == .service && s.drainFits 2 == false),
     (awake.rf (.memStkCtl 3) 2 1 == 0 && (awake.setRf (.memStkCtl 4) 2 1 1).rf (.memStkCtl 4) 2 1 == 1 && awake.rf .flsCtl 1 1 == 0 &&
      (flashy awake).rf .flsCtl 1 1 == 1),
     (let s := flashy store;
      (s.chan 0).state == .service && s.rf (.flsChCtl 0) 1 1 == 0 && s.chanFits 0 == false && (s.chan 1).state == .service && s.chanFits 1),
     (awake.rf (.flsChCtl 0) 0 1 == 0 && awake.rf (.flsChCtl 0) 1 1 == 0 && (awake.setRf (.flsChCtl 0) 0 1 1).rf (.flsChCtl 0) 0 1 == 1),
     (let s := { (List.range 32).foldl (fun (u : State) n => u.setRf (.flsChCtl n) 0 1 1) awake with flash := { Flash.reset with chans := (flashy awake).flash.chans } };
      s.rf .flsCtl 0 1 == 0 && s.flash.state == .off && ((List.range 32).all fun n => s.rf (.flsChCtl n) 0 1 == 1) &&
      !(s.flash.chans.any fun c => c.state == .training)),
     (awake.rf .flsCtl 0 1 == 0 && awake.flash.state == .off && !((List.range 32).all fun n => awake.rf (.flsChCtl n) 0 1 == 1))] : List Bool).all id = true := by decide +kernel

/-- Witnesses: EN clear and set of ports, gates and links; gate times of zero and not; a shaper in and above range; NODE_VALID clear with and without a recorded ID. -/
theorem test_witness_PortsAndLinksObeyTheirRegisters :
    ([(awake.rf (.hptPortCtl 0) 0 1 == 0 && (awake.setRf (.hptPortCtl 0) 0 1 1).rf (.hptPortCtl 0) 0 1 == 1 && awake.rf .hptMportCtl 0 1 == 0),
     (awake.rf (.hptPortGctl 0) 0 1 == 0 && !gateTimes awake (.hptPortGent 0) (awake.rf (.hptPortGctl 0) 4 5)),
     (let s := (List.range 9).foldl (fun (u : State) k => u.setRf (.hptPortGent 0 k) 0 24 100) awake;
      s.rf (.hptPortGctl 0) 0 1 == 0 && gateTimes s (.hptPortGent 0) (s.rf (.hptPortGctl 0) 4 5)),
     (let s := (List.range 9).foldl (fun (u : State) k => u.setRf (.fabGent k) 0 24 100) awake;
      s.rf .fabGctl 0 1 == 0 && gateTimes s .fabGent (s.rf .fabGctl 4 5) && (awake.setRf .fabGctl 0 1 1).rf .fabGctl 0 1 == 1),
     (decide (bits 0x00050001 0 16 ≤ modeRate (awake.rf (.hptPortCtl 0) 2 3) ∧ 5 ≤ bits 0x00050001 16 14) &&
      decide (modeRate (awake.rf (.hptPortCtl 0) 2 3) < 0xFFFF ∧ 0xFFFF ≠ awake.rf (.hptShp 0 0) 0 16)),
     (awake.rf (.fabLinkCtl 0) 0 1 == 0 && awake.rf (.fabLinkCtl 0) 1 1 == 0 && (awake.setRf (.fabLinkCtl 0) 1 1 1).rf (.fabLinkCtl 0) 1 1 == 1),
     (awake.rf .glbLock 0 1 == 0 && awake.rf .fabNode 12 1 == 0 && (awake.trust.nodeId).isNone &&
      (awake.setRf .fabNode 12 1 1).rf .fabNode 12 1 == 1),
     (let s := { awake with trust := { Trust.reset with nodeId := some (5 : NodeId) } };
      s.trust.nodeId == some (5 : NodeId) && s.rf .fabNode 12 1 == 0)] : List Bool).all id = true := by decide +kernel

/-- Witnesses: an SVN to commit and one not, FREEZE and REQ at other values and at the same, a node that serves and one that does not. -/
theorem test_witness_NodeControlsTakeEffect :
    ([(awake.takesWrites .mport && decide (awake.pow.phase = .service ∧ State.reset.pow.phase ≠ .service)),
     (let s := { awake with trust := { Trust.reset with svnRun := 7 } };
      decide (s.trust.svnMin.toNat < (7 : Word32).toNat ∧ s.trust.svnAdvances < 64 ∧ (8 : Word32) ≠ s.trust.svnRun)),
     ([0, 1].all fun k => (awake.setRf .telCtl 0 1 k).rf .telCtl 0 1 == k),
     ([0, 1, 2].all fun k => (awake.setRf .pwrCtl 0 2 k).rf .pwrCtl 0 2 == k)] : List Bool).all id = true := by decide +kernel

/-- Witnesses: a stack in each state that a clause names, with room to drain and without, with frames left and none; a marked row; a near-bank sequence that runs and one that is suspended. -/
theorem test_witness_StackEventsTakeEffect :
    ([(((stacked 0 fun x => { x with state := .training }).stack 0).state == .training && (store.stack 0).state == .service),
     (let s := draining fun p => { p with hbm := some ⟨3, none, 0⟩ };
      (s.stack 2).state == .draining && (s.moveOut 2).any fun v => !v.stackHeld 2),
     (let s := draining fun p => { p with pins := 1 };
      (s.stack 2).state == .draining && (s.moveOut 2).any fun v => v.stackHeld 2),
     (let s := { store with hbm := { Hbm.reset with stk := Hbm.reset.stk.set 2 { Stack.reset with state := .draining } } };
      (s.stack 2).state == .draining && (s.moveOut 2).isNone),
     (let s := stacked 2 fun x => { x with rowsMarked := [4] };
      (s.stack 2).state == .service && (s.stack 2).rowsMarked.contains 4 && !(s.stack 2).rowsMarked.contains 5 &&
      ScrubOutcome.row (.corrected 4) == some 4),
     (((stacked 2 fun x => { x with ueTimes := List.replicate 16 0 }).stack 2).ueTimes.length == 16 && decide ((store.stack 2).ueTimes.length < 16)),
     (((nearBank false).stack 3).running.find? (fun y => y.page == pageA && !y.suspended) == some ⟨pageA, 1, 0, 1, [], false, 9, false⟩),
     (((nearBank true).stack 3).running.find? (fun y => y.page == pageA && !y.suspended) == none)] : List Bool).all id = true := by decide +kernel

/-- Witness: a store with a page to promote, which the choice marks. -/
theorem test_witness_ChoosingMovesKeepsContents :
    ([((hot id).page? pageA != none && nextIs (exec (.promotion pageA) (hot id)) fun t => (t.page? pageA).any fun p => p.job == .toHbm)] : List Bool).all id = true := by decide +kernel

/-- Witnesses: a page on flash alone, one for an open region and one in it, copies of each kind with and without room, HBM below its target, drafted and wanted pages. -/
theorem test_witness_PageMovesTakeEffect :
    ([(let s := hot id;
      (s.page? pageA).any fun p => p.sealed? && p.flash && p.hbm.isNone && p.refs != 0 && p.job == .none && !p.recovering &&
      s.rf .flsPromo 0 8 != 0 && decide (s.rf .flsPromo 0 8 ≤ s.selections p (s.rf .flsPromo 8 16 * 1000000)) && !s.belowPct s.targetPct),
     (let s := opened fun p => { sealedPage p with recentSel := often };
      (s.page? pageA).any fun p => s.openPlace.any fun x => s.openable p && decide (s.rf .memNb 0 8 ≤ s.selections p 100000000) &&
      (s.openRun x.1 x.2 p.frames).isSome),
     (let s := opened fun p => { sealedPage p with recentSel := often, frames := 8000 };
      (s.page? pageA).any fun p => s.openPlace.any fun x => s.openable p && (s.openRun x.1 x.2 p.frames).isNone && (s.pchPages x.1 x.2) == []),
     (let s := opened fun p => { sealedPage p with hbm := some ⟨3, some 0, 0⟩ };
      (s.page? pageA).any fun p => p.job == .none && !p.recovering && decide (s.selections p 100000000 ≤ s.rf .memNb 8 8)),
     (let s := flashy (paged fun p => { sealedPage p with flash := false, job := .toFlash });
      (s.page? pageA).any fun p => p.job == .toFlash && !p.recovering && (s.writePage p).isSome),
     (let s := paged fun p => { sealedPage p with flash := false, job := .toFlash };
      (s.page? pageA).any fun p => p.job == .toFlash && (s.writePage p).isNone && !s.deltaFull),
     (let s := hot fun p => { p with job := .toHbm };
      !s.flash.drafting.contains pageA && (s.page? pageA).any fun p => p.job == .toHbm && decide (s.hbmUsed p.ptn + p.frames ≤ s.hbmQuota p.ptn) &&
      (s.chooseStack p.name.block p.name.layer (shardOf p.name.seq) p.frames).isSome),
     (let s := full (hot fun p => { p with job := .toHbm });
      (s.page? pageA).any fun p => p.job == .toHbm && (s.chooseStack p.name.block p.name.layer (shardOf p.name.seq) p.frames).isNone),
     (let s := opened fun p => { sealedPage p with job := .toOpen 3 0 0 };
      (s.page? pageA).any fun p => p.job == .toOpen 3 0 0 && s.serving 3 && !(full s).serving 3),
     (let s := opened fun p => { sealedPage p with hbm := some ⟨3, some 0, 0⟩, job := .fromOpen };
      (s.page? pageA).any fun p => p.job == .fromOpen && (s.chooseStack p.name.block p.name.layer (shardOf p.name.seq) p.frames).isSome &&
      ((full s).chooseStack p.name.block p.name.layer (shardOf p.name.seq) p.frames).isNone),
     ([true, false].all fun b => let s := lowHbm (fun p => { sealedPage p with flash := b }); s.belowPct s.targetPct &&
      (s.page? pageA).any fun p => s.coldest (fun x => decide (x.lastSel + s.rf .flsMig 0 16 * secondNs ≤ s.pow.tsc.toNat)) == [p] &&
      s.flashWritable),
     (let s := { awake with hbm := store.hbm };
      !s.belowPct s.targetPct && !s.belowPct s.lowPct && (List.range 32).all fun n => s.ptn? n == none),
     (!store.flash.drafting.contains pageA),
     ([0, 1].all fun k => let s := flashWith (fun x => { x with drafting := [pageA] }) (flashy (paged fun p => { sealedPage p with refs := k })); s.flash.drafting.contains pageA &&
      (s.page? pageA).any fun p => p.flash && !p.recovering && s.tierUp && decide (p.refs = k) && !s.wantsPage pageA),
     (let s := let u := flashy (paged sealedPage);
      { u with cmds := { u.cmds with list := [held .attend (.attend { runA 3 with needs := [pageA] })] } }; (s.page? pageA).any fun p => let t := s.doneWork .attend pageA; p.flash &&
      !p.recovering && t.tierUp && t.flashBusy p && t.wantsPage pageA),
     ((store.page? pageA).any fun p => !p.flash)] : List Bool).all id = true := by decide +kernel

/-- Witnesses: a released page with frames on flash, a pinned one, one with references, and none. -/
theorem test_witness_ReleasedPagesAreReclaimedOnce :
    ([(let s := flashy (paged fun p => { sealedPage p with refs := 0 });
      (s.page? pageA).any fun p => p.refs == 0 && p.pins == 0 && p.flash && (s.mapEntry? (handleFrame pageA)).isSome),
     ((store.page? pageA).any fun p => p.refs != 0),
     ((paged fun p => { p with refs := 0, pins := 1 }).page? pageA != none && host.page? pageA == none)] : List Bool).all id = true := by decide +kernel

/-- Witnesses: a block with a valid frame, and blocks in reclamation that may be erased, below the end of their endurance and at it. -/
theorem test_witness_EraseKeepsEveryValidFrame :
    ([(((flashy store).fblock? d00 17).any fun x => x.frames.any fun f => f.valid),
     (let s := blocksOf [{ block 17 .reclaiming [{ frame8 with valid := false }] [] with erases := 3599 }, { block 18 .full [] [(d00, 17)] with closed := true }];
      (s.fblock? d00 17).any fun x => s.eraseOk x && decide (x.erases < 3600) && (s.fdie? d00).isSome),
     (let s := blocksOf [{ block 17 .reclaiming [] [] with erases := 3600 }];
      (s.fblock? d00 17).any fun x => s.eraseOk x && decide (3600 ≤ x.erases))] : List Bool).all id = true := by decide +kernel

/-- Witnesses: a die below its mark with a victim and one without, a copy that ends, blocks to close, to fail and to erase, wear to level, reads to count, temperatures. -/
theorem test_witness_FlashMediaEventsTakeEffect :
    ([(let s := flashy store;
      (s.fdie? d00).any fun x => let on := x.worn || decide (x.free < s.rf .flsGc 0 8) || (x.gc && decide (x.free < s.rf .flsGc 8 8)); let t := s.updDie d00 fun y => { y with gc := on }; on && t.victims d00 != [] && t.mediaWrites 0),
     (let s := blocksOf [block 16 .opened [] []];
      (s.fdie? d00).isSome && (s.updDie d00 fun y => { y with gc := true }).victims d00 == []),
     (let s := flashWith fun x => { x with copying := [(d00, 8, 17)] };
      s.flash.copying.find? (fun x => x.1 == d00 && x.2.1 == 8) == some (d00, 8, 17) && s.mediaWrites 0 && !s.deltaFull &&
      (s.targetFor (d00, 17)).any fun y => !y.2.dieSuspended y.1.die && (y.2.fblock? y.1.die y.1.num).isSome &&
      (y.2.mapEntry? 8).any fun e => e.die == d00 && e.block == 17),
     (let s := flashWith fun x => { x with copying := [(d00, 9, 17)] };
      (s.targetFor (d00, 17)).any fun y => (y.2.mapEntry? 9).isNone),
     (let s := flashWith fun x => { x with copying := [(d00, 8, 16)], blocks := [block 18 .opened [] [(d00, 16)]] };
      (s.targetFor (d00, 16)).any fun y => (y.2.mapEntry? 8).any fun e => e.block != 16),
     (let s := flashWith fun x => { x with copying := [(d00, 8, 17)], blocks := [], dies := [] };
      s.targetFor (d00, 17) == none && s.mediaWrites 0),
     (let s := blocksOf [block 18 .full [] [(d00, 17)]];
      (s.fblock? d00 18).any fun x => !x.single && x.use == .full && !x.closed && x.sources != []),
     (((flashy store).fblock? d00 18).any fun x => !x.single && x.use == .opened && x.sources != []),
     (let s := blocksOf [block 17 .opened [frame8] []];
      (s.fblock? d00 17).any fun x => x.use == .opened && x.sources == [] && ((s.retireBlock d00 17).mapEntry? 8).any fun e => e.die == d00 &&
      e.block == 17),
     (let s := blocksOf [block 17 .opened [{ frame8 with num := 9 }] []];
      (s.fblock? d00 17).any fun x => x.use == .opened && x.sources == [] && ((s.retireBlock d00 17).mapEntry? 9).isNone &&
      ((s.retireBlock d00 17).fblock? d00 17).isSome),
     (let s := blocksOf [block 17 .reclaiming [{ frame8 with valid := false }] []];
      (s.fblock? d00 17).any fun x => s.eraseOk x),
     (((flashy store).flash.blocks.filter fun b => b.die == ⟨1, 0⟩ && b.use == .full && !b.single) == []),
     (let s := wornBlocks;
      (s.fdie? d00).any fun x => !x.worn && s.mediaWrites 0 && ((s.freeBlocks x).take 8).contains 20 &&
      decide (x.eraseCount 20 = 900 ∧ s.rf .flsGc 16 16 < 900) && s.flash.blocks.any fun b => b.die == d00 && b.use == .full && !b.single &&
      b.erases == 0),
     (((flashy store).fblock? d00 17).any fun x => x.use != .reclaiming && (flashy store).tierUp &&
      !(((flashy store).chan 0).queue.any fun w => decide (w.cls.rank ≤ 2))),
     (let s := flashy (paged fun p => { sealedPage p with flash := true });
      (s.mapEntry? 8).any fun e => e.die == d00 && e.block == 17 && (s.pageOfFrame 8).isSome),
     (decide (0 < (flashy store).flash.chans.length) && ((flashy store).chan 0).state != .off && ([70, 85] : List Int) != [])] : List Bool).all id = true := by decide +kernel

/-- Witnesses: records to flush, a dirty leaf, a checkpoint due, two flushes; a tier that is off, that rebuilds; a channel that drains with and without room. -/
theorem test_witness_FlashTierEventsTakeEffect :
    ([(let s := flashWith fun x => { x with unwritten := [⟨.leaf 9, none, none, none, none, none⟩, ⟨.frame 8, none, none, none, none, none⟩], deltaTotal := 2 ^ 20 };
      s.tierWrites && s.flash.unwritten != [] && decide (2 ^ 20 ≤ s.flash.deltaTotal) &&
      ((s.flash.unretired ++ s.flash.unwritten).any fun x => x.leaf == some (8 / 1024)) && (s.sysNext .leaves).1.isSome),
     ((flashy store).tierWrites && (flashy store).flash.unwritten == [] && !((flashy store).flash.unretired.any fun x => x.leaf == some 0) &&
      decide ((flashy store).flash.deltaTotal < 2 ^ 20)),
     (let x : Flush := ⟨true, 1, 1, [], []⟩;
      [1, 2].all fun k => let s := flashWith fun f => { f with setA := .holds x, setB := .holds { x with wseq := k } }; s.tierWrites &&
      s.flushSafe x && s.flash.setA == .holds x),
     (!store.tierWrites && !store.deltaFull && (flashy store).flash.setA == .armed && (flashy store).flash.setB == .armed),
     (({ store with flash := { store.flash with state := .rebuild } } : State).flash.state == .rebuild && store.flash.state != .rebuild),
     (let s := (flashy store).updChan 1 fun c => { c with state := .draining };
      (s.chan 1).state == .draining && (s.moveValid []).isSome && s.flash.chanDrains == []),
     (let s := (flashWith fun x => { x with chanDrains := [3] }).updChan 1 fun c => { c with state := .draining };
      s.flash.chanDrains == [3]),
     (let s := (flashy store).updChan 0 fun c => { c with state := .draining };
      (s.chan 0).state == .draining && (s.moveValid [(d00, 17, 8)]).isNone),
     (store.pow.state != .off && (powered fun p => { p with state := .off }).pow.state == .off)] : List Bool).all id = true := by decide +kernel

/-- Witnesses: links that train, that are up and that are down; frames that fail, that come in order, again and ahead; lanes free to move, on the spare and lost; a gate that runs and one that does not. -/
theorem test_witness_LinksTakeEffect :
    ([([(true, true), (true, false)].all fun x => let s := linked fun l => { l with state := .training, trained := some (trainA true x.1 x.2) }; (s.link 0).state == .training &&
      (s.link 0).trained == some (trainA true x.1 x.2)),
     (((linked id).link 0).state != .training && ((linked fun l => { l with state := .training }).link 0).state == .training),
     (((linked fun l => { l with state := .training }).link 0).state.live == false),
     (let s := linked id;
      (s.link 0).state.live && (!(frameA 1 1 5 false).fecOk || (frameA 1 1 5 false).crc != (frameA 1 1 5 false).check)),
     (let s := linked id;
      (s.link 0).state.live && [frameA 1 1 5, frameA 1 1 9, frameA 3 2 5, frameA 0 1 5, frameA 1 4 5].all fun f => f.fecOk && f.crc == f.check),
     (let u := linked id;
      lseqDist (u.link 0).lseqRx 1 == 1 && decide (1 < lseqDist (u.link 0).lseqRx 3) && lseqDist (u.link 0).lseqRx 0 == 0 && u.self == 5),
     (let s := linked fun l => { l with replay := [(1, frameA 1 1 6)], ackOwed := true };
      (s.link 0).replay != [] && (s.link 0).ackOwed && ((linked id).link 0).replay == [] && !((linked id).link 0).ackOwed &&
      !((linked id).link 0).owed.any (· != 0)),
     (let s := linked id;
      s.autoSpare && (s.link 0).rx.spareLocked && (s.link 0).rx.spareFor == none && (s.link 0).rx.lost == [] && !(s.link 0).tx.lost.contains 1 &&
      ((s.link 0).rx.lose s.autoSpare 1).spareFor == some 1),
     (let s := (linked fun l => l).updLink 0 fun l => { l with rx := { l.rx with spareFor := some 0, lost := [] }, tx := { l.tx with lost := [1] } };
      (s.link 0).state.live && (s.link 0).tx.lost.contains 1 && (s.link 0).rx.spareFor == some 0 &&
      ((s.link 0).rx.lose s.autoSpare 1).spareFor != some 1),
     (let s := (linked fun l => l).updLink 0 fun l => { l with rx := { l.rx with lost := [1] } };
      (s.link 0).state.live && (s.link 0).rx.lost.contains 1),
     (let s := linked fun l => { l with state := .down };
      let s := s.updLink 0 fun l => { l with state := .down };
      (s.link 0).state == .down && s.linkOn 0 && s.nodeValid && ((linked id).link 0).state != .down),
     (({ store with fab := { store.fab with gateRunning := true } } : State).fab.gateRunning && !store.fab.gateRunning)] : List Bool).all id = true := by decide +kernel

/-- Witnesses: a screened and a discarded message, handshakes of each side, timers of a peer, sessions free, open and not, stations unknown. A certificate or a signature that passes depends on Config. -/
theorem test_witness_HandshakesAndSessionsTakeEffect :
    ([(!((State.reset.screenHs hdr).1) && ((keyed store).screenHs hdr).1),
     (let s := keyed store;
      let u := (s.screenHs hdr).2;
      (u.peer 6).hs == none && !u.trust.attReady && (({ s with trust := { s.trust with attReady := true } } : State).screenHs hdr).2.trust.attReady),
     (let s := hsRun true (.hsHello (hsA []));
      (s.screenHs hdr).1 && (s.screenHs hdr).2.self == 5 && ((s.screenHs hdr).2.peer 6).hs.any fun y => y.initiator && y.running &&
      decide ((5 : Nat) < 6)),
     ([hsRun true (.hsHello (hsA [])), hsRun false (.hsReply (hsA []))].all fun s => (s.screenHs hdr).1 &&
      ((s.screenHs hdr).2.peer 6).hs.any fun y => y.hsId == (hsA []).hsId && y.conf != (hsA []).sig && y.conf == (hsA [7]).sig),
     ([hsRun false (.hsReply (hsA []))].all fun s => let u := (s.screenHs hdr).2; (u.peer 6).incarn == hdr.incarn &&
      ((s.screenHs { hdr with incarn := 9 }).2.peer 6).incarn != 9),
     ((((hsRun true (.hsHello (hsA []))).peer? 6).bind (·.hs)).any fun y => y.initiator && y.running),
     ((((hsRun true (.hsFinish (hsA []))).peer? 6).bind (·.hs)).any fun y => y.initiator && !y.running),
     (((keyed store).peer? 6).isSome && ((keyed store).peer? 9).isNone && (((keyed store).peer? 6).bind (·.hs)).isNone),
     (let s := (keyed store).updPeer 6 fun p => { p with holdUntilFirst := true };
      (s.peer? 6).isSome && (s.peer 6).holdUntilFirst && (s.peer 6).keyed && s.listens),
     (!host.host.mportUp && (sessionAt true true).host.mportUp && ((sessionAt true true).session? 1).isNone &&
      ((sessionAt true true).session? 0).isSome),
     (let s := hostWith fun x => { x with mportUp := true, sessions := (List.range 4).map fun n => ⟨n, true, 0, 0, 0, []⟩ };
      (List.range 4).all fun n => (s.session? n).isSome),
     (((sessionAt true false).session? 0).any fun x => !x.isOpen && !(sessionAt true false).stationKnown [5]),
     (((sessionAt true true).session? 0).any fun x => x.isOpen && decide (32 + (mgmtCmd []).body.length + 16 ≤ 16777280 ∧ x.rxCount < 2 ^ 32) &&
      x.outstanding == 0),
     (((hostWith fun x => { x with mportUp := true, sessions := [⟨0, true, 0, 0, 2, []⟩] }).session? 0).any fun x => x.outstanding != 0)] : List Bool).all id = true := by decide +kernel

/-- Witnesses: a node in each power state that a clause names; a die with and without division; a PLL lost and not; temperatures of each band. -/
theorem test_witness_PowerEventsTakeEffect :
    ([(decide (awake.pow.state = .ride ∧ awake.pow.phase = .service ∧ awake.pow.freewheel = none) && !awake.pow.railsOut.contains 3 &&
      (powered fun p => { p with railsOut := [3] }).pow.railsOut.contains 3),
     (decide ((powered fun p => { p with state := .off }).pow.state = .off) &&
      (powered fun p => { p with state := .freewheel }).pow.state == .freewheel && !(powered fun p => { p with state := .freewheel }).flushes?),
     (let s := powered (fun p => { p with state := .freewheel }) (flashy store);
      s.pow.state == .freewheel && s.flushes? && !s.pow.resetAfter &&
      (powered (fun p => { p with state := .freewheel, resetAfter := true })).mayResume),
     (parked.pow.state == .park && parked.pow.freewheel != none && !parked.pow.resuming && parked.mayResume &&
      !({ parked with pow := { parked.pow with thermalHold := true } } : State).mayResume),
     ((powered fun p => { p with resuming := true }).pow.resuming && !awake.pow.resuming),
     (let s := powered fun p => { p with west := { p.west with div3 := true } };
      (s.dieClk .west).div3 && !(s.dieClk .east).div3),
     (let s := powered fun p => { p with pllsLost := [.fabric 0] };
      s.pow.pllsLost.contains (.fabric 0) && !awake.pow.pllsLost.contains (.fabric 0)),
     (let s := (linked id).updLink 0 fun l => { l with state := .down };
      (s.link 0).state == .down && decide (0 < s.fab.links.length) && s.linkOn 0 && s.nodeValid && (Pll.links (.fabric 0)).contains 0),
     (let s := powered fun p => { p with parkPending := true };
      s.pow.parkPending && !s.holdsRole && s.cmds.list == [] && !(s.store.pages.any fun p => p.sealing != .idle) &&
      !(s.hbm.stk.any fun k => !k.running.isEmpty)),
     (let s := powered (fun p => { p with parkPending := true }) (holding .attend .epoch awake);
      s.pow.parkPending && s.cmds.list != [] && !s.holdsRole),
     (let s := powered (fun p => { p with parkPending := true }) (keyed store);
      s.pow.parkPending && s.holdsRole),
     (let s := awake.setRf .pwrCtl 2 1 1;
      decide (s.rf .pwrCtl 2 1 = 1 ∧ s.pow.state = .ride ∧ (awake.setRf .pwrCtl 2 1 0).rf .pwrCtl 2 1 = 0) && s.eng.engines[3]?.isSome),
     (decide (awake.pow.state ≠ .off ∧ awake.pow.phase ≠ .held) && !awake.pow.thermtrip && State.reset.pow.phase == .held && !awake.pow.limited)] : List Bool).all id = true := by decide +kernel

/-- Witnesses: a node up, held, tripped and off; slots without an image; a firmware restart that runs. -/
theorem test_witness_ResetsKeepWhatTheSpecKeeps :
    ([(awake.pow.state != .off && awake.pow.resetN && Phase.clocked awake.pow.phase),
     (decide (State.reset.pow.state ≠ .off ∧ State.reset.pow.resetN = false ∧ State.reset.pow.thermtrip = false) &&
      (powered (fun p => { p with thermtrip := true }) State.reset).pow.thermtrip),
     (let s := { awake with boot := { Boot.reset with slotA := ⟨false, []⟩ } };
      s.bootSlot.isNone),
     (State.reset.boot.config.all fun b => b == 0xFF),
     ((powered fun p => { p with state := .off }).pow.state == .off && (powered fun p => { p with phase := .fwRestart }).pow.phase == .fwRestart)] : List Bool).all id = true := by decide +kernel

/-- Witnesses: rails down and up, ROM recovery and service, data of each length, a command over I3C. -/
theorem test_witness_I3cTakesEffect :
    ([(!(powered fun p => { p with state := .off }).i3cUp && awake.i3cUp && awake.pow.phase != .romRecovery &&
      (powered fun p => { p with phase := .romRecovery }).i3cUp),
     (decide (1024 < (zeroBytes 1025).length ∧ zeroBytes 4 ≠ [] ∧ (zeroBytes 4).length ≤ 1024 ∧ 67108864 - 4 + (zeroBytes 4).length ≤ 67108864 ∧ 67108864 < 67108864 - 3 + (zeroBytes 4).length)),
     (meets .nodeDescribe (i3cCmd []) awake)] : List Bool).all id = true := by decide +kernel

/-- Witnesses: commands of a host, of a session and over I3C that pass every step. -/
theorem test_witness_AdmittedCommandRunsItsMeaning :
    ([(meets .queueCreate (hostCmd (queueBody 1)) host && meets .fwAbort (mgmtCmd []) (fwAt 2))] : List Bool).all id = true := by decide +kernel

/-- Witnesses: a fenced partition, none, a bad header, a bad payload with and without a failed tag, no privilege. -/
theorem test_witness_FirstFailedStepGivesTheStatus :
    ([(let p := hostCmd (zeroBytes 8);
      (taken .windowRekey p (host.updPtn 0 fun q => { q with fenced := true })).any fun u => (u.ptn? (u.srcPtn p.src)).any fun q => q.fenced),
     (let p := hostCmd (zeroBytes 8);
      (taken .windowRekey p { host with ptns := State.reset.ptns }).any fun u => (u.ptn? (u.srcPtn p.src)).isNone),
     (let p := { hostCmd (zeroBytes 8) with reserved := 1 };
      (taken .windowRekey p host).any fun u => ptnTakes p u && !u.headerOk p),
     (let p := hostCmd [];
      (taken .fwAbort p (host.updPtn 0 fun q => { q with priv := 1 })).any fun u => ptnTakes p u && u.headerOk p &&
      (u.openPayload .fwAbort p (u.srcPriv p.src)).toOption == some [] && !Op.granted .fwAbort p.src (u.srcPriv p.src)),
     (let p := { hostCmd (zeroBytes 40) with flags := 1 };
      (taken .fwAbort p host).any fun u => ptnTakes p u && u.headerOk p && (u.openPayload .fwAbort p (u.srcPriv p.src)).toOption.isNone),
     (let p := hostCmd [];
      (taken .fwAbort p (host.updPtn 0 fun q => { q with priv := 0x200 })).any fun u => ptnTakes p u && u.headerOk p &&
      (u.openPayload .fwAbort p (u.srcPriv p.src)).toOption.isNone)] : List Bool).all id = true := by decide +kernel

/-- Witness: a state that keeps the index and the fuses, and a step of it. -/
theorem test_witness_EveryStepKeepsIndexAndFuses :
    ([(decide ((trusted id).trust.idxOk = true ∧ (trusted id).trust.idxNext ≤ (trusted id).trust.idxLimit ∧ (trusted id).trust.idxLimit = (trusted id).reserved ∧ (trusted id).trust.svnAdvances ≤ 64)),
     (let s := { (trusted fun t => { t with attSerial := 0 }) with pending := [.attKeyReady] };
      nextIs (step s) fun t => t.trust.idxNext == s.trust.idxNext + 1 && t.reserved == s.trust.idxLimit)] : List Bool).all id = true := by decide +kernel

/-- Witness: a commit of the running SVN, after which the minimum is higher. -/
theorem test_witness_NoStepTakesTrustBack :
    ([(let s := { awake with trust := { Trust.reset with svnRun := 7 }, pending := [.secSvnCommit .host 7] };
      nextIs (step s) fun t => t.trust.svnMin == 7)] : List Bool).all id = true := by decide +kernel

/-! ## Witnesses that rest on the vendor's image, whose SVN Config leaves open -/

/-- Witness of the last clauses of ResetsKeepWhatTheSpecKeeps: slot A as delivered boots, also in a firmware restart. -/
theorem test_witness_bootSlot :
    State.reset.bootSlot = some (0, Config.factoryDigest, Config.factorySvn, false) ∧
    (powered fun p => { p with phase := .fwRestart }).bootSlot = some (0, Config.factoryDigest, Config.factorySvn, false) := by
  constructor <;> simp [State.bootSlot, State.slotImage, State.selector, State.slot, State.reset, Boot.reset, Trust.reset, powered, awake]

/-- Witness of FirmwareUpdateTakesEffect's clause on a valid image: the other slot holds the image as delivered. -/
theorem test_witness_slotImage :
    let s : State := { awake with boot := { Boot.reset with slotB := ⟨true, []⟩ } }
    s.slotImage s.otherSlot = some (Config.factoryDigest, Config.factorySvn) ∧ s.slotDigest s.otherSlot 0 = Config.factoryDigest := by
  simp [State.slotImage, State.slotDigest, State.otherSlot, State.slot, awake, State.reset, Boot.reset, Trust.reset]

/-- SequenceCommandsTakeEffect's clause on a child of this home: there is room for it where a second descriptor fits. -/
theorem test_witness_forkRoom (h : 1 < Config.descriptorSpace) : store.seqRoom (nsOf forkA.child) = true := by
  have a : (store.ns? (nsOf forkA.child)).any (fun x => decide (store.nsCount (nsOf forkA.child) < x.maxSeq)) = true := by decide +kernel
  have b : store.store.seqs.length = 1 := by rfl
  unfold State.seqRoom
  rw [b]
  cases e : store.ns? (nsOf forkA.child) with
  | none => simp [e] at a
  | some x => simp_all

end Sys2Proof.Tests
end

section
/-! SUPPORT. Bits of a word: what a field set reads, and what it leaves to the fields beside it (17_configuration_space.md R494). -/

namespace Sys2Proof.Machine

/-! ## Bits and fields of a word -/

theorem testBit_bits (n lo w i : Nat) : (bits n lo w).testBit i = (decide (i < w) && n.testBit (lo + i)) := by
  rw [bits, Nat.testBit_mod_two_pow, Nat.testBit_div_two_pow, Nat.add_comm]

theorem testBit_setBits (n lo w v i : Nat) :
    (setBits n lo w v).testBit i = if lo ≤ i ∧ i < lo + w then v.testBit (i - lo) else n.testBit i := by
  have hn : n = 2 ^ lo * (2 ^ w * (n / 2 ^ lo / 2 ^ w) + n / 2 ^ lo % 2 ^ w) + n % 2 ^ lo := by
    rw [Nat.div_add_mod, Nat.div_add_mod]
  have hs : setBits n lo w v = 2 ^ lo * (2 ^ w * (n / 2 ^ lo / 2 ^ w) + v % 2 ^ w) + n % 2 ^ lo := by
    unfold setBits bits
    conv => lhs; lhs; lhs; rw [hn]
    rw [Nat.mul_add, Nat.mul_add, Nat.mul_comm _ (2 ^ lo), Nat.mul_comm _ (2 ^ lo)]
    omega
  have hlo : n % 2 ^ lo < 2 ^ lo := Nat.mod_lt _ (Nat.two_pow_pos lo)
  have hw (m : Nat) : m % 2 ^ w < 2 ^ w := Nat.mod_lt _ (Nat.two_pow_pos w)
  conv_rhs => rw [hn]
  rw [hs, Nat.testBit_two_pow_mul_add _ hlo, Nat.testBit_two_pow_mul_add _ hlo, Nat.testBit_two_pow_mul_add _ (hw v),
    Nat.testBit_two_pow_mul_add _ (hw _), Nat.testBit_mod_two_pow]
  by_cases h1 : i < lo
  · simp [h1, Nat.not_le.mpr h1]
  · by_cases h2 : i - lo < w
    · simp [h1, h2, Nat.not_lt.mp h1, show i < lo + w by omega]
    · simp [h1, h2, show ¬ i < lo + w by omega]

/-- A field written leaves a field beside it alone. -/
theorem bits_setBits_disjoint (n lo w v lo' w' : Nat) (h : lo + w ≤ lo' ∨ lo' + w' ≤ lo) :
    bits (setBits n lo w v) lo' w' = bits n lo' w' := by
  apply Nat.eq_of_testBit_eq
  intro i
  rw [testBit_bits, testBit_bits, testBit_setBits]
  by_cases hi : i < w'
  · rw [if_neg (by omega)]
  · simp [hi]

/-- A mask that is all ones in a field keeps the field. -/
theorem bits_and_of_full (n m lo w : Nat) (h : bits m lo w = 2 ^ w - 1) : bits (n &&& m) lo w = bits n lo w := by
  apply Nat.eq_of_testBit_eq
  intro i
  have hm : (bits m lo w).testBit i = decide (i < w) := by rw [h, Nat.testBit_two_pow_sub_one]
  rw [testBit_bits] at hm
  rw [testBit_bits, testBit_bits, Nat.testBit_and]
  by_cases hi : i < w
  · simpa [hi] using fun _ => by simpa [hi] using hm
  · simp [hi]

/-- A mask that is zero in a field clears the field. -/
theorem bits_and_of_zero (n m lo w : Nat) (h : bits m lo w = 0) : bits (n &&& m) lo w = 0 := by
  apply Nat.eq_of_testBit_eq
  intro i
  have hm : (bits m lo w).testBit i = false := by rw [h, Nat.zero_testBit]
  rw [testBit_bits] at hm
  rw [testBit_bits, Nat.testBit_and, Nat.zero_testBit, Bool.and_left_comm, hm, Bool.and_false]

theorem bits_lt (n lo w : Nat) : bits n lo w < 2 ^ w := Nat.mod_lt _ (Nat.two_pow_pos w)

/-! ## The registers and their fields -/

/-- The fields of a register are listed in rising order, do not overlap and lie in 32 bits. -/
theorem Reg.fields_rising (r : Reg) :
    r.fields.Pairwise (fun f g => f.lo + f.w ≤ g.lo) ∧ ∀ f ∈ r.fields, 0 < f.w ∧ f.lo + f.w ≤ 32 := by
  cases r
  case hptCls c =>
    by_cases h : c < 6
    · simp [Reg.fields, h, Fld.rw]
    · simp [Reg.fields, h, Fld.rw, Fld.ro]
  case memStkCtl n =>
    by_cases h : n = 3 ∨ n = 4
    · simp [Reg.fields, h, Fld.rw, Fld.ro, Fld.rwl, Fld.rwx]
    · simp [Reg.fields, h, Fld.ro, Fld.rwx]
  all_goals exact of_decide_eq_true rfl

theorem Reg.offset_rising : (Reg.all.map Reg.offset).Pairwise (· < ·) :=
  List.isChain_iff_pairwise.mp (by decide +kernel)

end Sys2Proof.Machine
end

section
/-! SUPPORT. The registers of R502: their fields share no bit, their masks, and the register at an offset (R495). -/

namespace Sys2Proof.Machine

theorem bits_zero (lo w : Nat) : bits 0 lo w = 0 := by simp [bits]

/-- A field that holds zero is set by an addition. -/
theorem setBits_of_bits_zero (n lo w v : Nat) (h : bits n lo w = 0) (hv : v < 2 ^ w) : setBits n lo w v = n + v * 2 ^ lo := by
  unfold setBits
  rw [h, Nat.mod_eq_of_lt hv, Nat.zero_mul, Nat.sub_zero]

/-! ## Several fields set -/

/-- `n` with each field of a list set to the value that `val` gives it. -/
def setAll (val : Fld → Nat) (l : List Fld) (n : Nat) : Nat := l.foldl (fun o f => setBits o f.lo f.w (val f)) n

/-- The fields of a list share no bit. -/
def Fld.Apart (f g : Fld) : Prop := f.lo + f.w ≤ g.lo ∨ g.lo + g.w ≤ f.lo

theorem bits_setAll_apart (val : Fld → Nat) (l : List Fld) (n : Nat) (f : Fld) (h : ∀ g ∈ l, Fld.Apart g f) :
    bits (setAll val l n) f.lo f.w = bits n f.lo f.w := by
  induction l generalizing n with
  | nil => rfl
  | cons g l ih =>
    rw [List.forall_mem_cons] at h
    exact (ih _ h.2).trans (bits_setBits_disjoint _ _ _ _ _ _ h.1)

theorem bits_setAll_mem (val : Fld → Nat) (l : List Fld) (n : Nat) (f : Fld) (hl : l.Pairwise Fld.Apart) (h : f ∈ l) :
    bits (setAll val l n) f.lo f.w = val f % 2 ^ f.w := by
  induction l generalizing n with
  | nil => cases h
  | cons g l ih =>
    obtain ⟨hg, hl⟩ := List.pairwise_cons.mp hl
    rcases List.mem_cons.mp h with rfl | hf
    · exact (bits_setAll_apart val l _ f fun x hx => (hg x hx).symm).trans (bits_setBits _ _ _ _)
    · exact ih _ hl hf

/-- Fields that hold zero are set by a sum. -/
theorem setAll_eq_sum (val : Fld → Nat) (l : List Fld) (n : Nat) (hl : l.Pairwise Fld.Apart)
    (hn : ∀ f ∈ l, bits n f.lo f.w = 0) (hv : ∀ f ∈ l, val f < 2 ^ f.w) :
    setAll val l n = (l.map fun f => val f * 2 ^ f.lo).foldl (· + ·) n := by
  induction l generalizing n with
  | nil => rfl
  | cons g l ih =>
    obtain ⟨hg, hl⟩ := List.pairwise_cons.mp hl
    rw [List.forall_mem_cons] at hn hv
    rw [List.map_cons, List.foldl_cons, ← setBits_of_bits_zero n g.lo g.w (val g) hn.1 hv.1]
    refine ih _ hl (fun f hf => ?_) hv.2
    rw [bits_setBits_disjoint _ _ _ _ _ _ (hg f hf), hn.2 f hf]

/-! ## The fields of a register -/

theorem Reg.fields_apart (r : Reg) : r.fields.Pairwise Fld.Apart := r.fields_rising.1.imp Or.inl

theorem Reg.width_pos {r : Reg} {f : Fld} (h : f ∈ r.fields) : 0 < f.w := (r.fields_rising.2 f h).1

theorem Reg.field_le_32 {r : Reg} {f : Fld} (h : f ∈ r.fields) : f.lo + f.w ≤ 32 := (r.fields_rising.2 f h).2

theorem Reg.fields_nodup (r : Reg) : r.fields.Nodup :=
  r.fields_rising.1.imp_of_mem fun hf _ h e => by
    subst e
    have := Reg.width_pos hf
    omega

theorem Reg.apart {r : Reg} {f g : Fld} (hf : f ∈ r.fields) (hg : g ∈ r.fields) (h : f ≠ g) : Fld.Apart f g :=
  haveI : Std.Symm Fld.Apart := ⟨fun _ _ => Or.symm⟩
  r.fields_apart.forall hf hg h

theorem Reg.bits_setAll (val : Fld → Nat) (p : Fld → Bool) (n : Nat) {r : Reg} {f : Fld} (hf : f ∈ r.fields) :
    bits (setAll val (r.fields.filter p) n) f.lo f.w = if p f then val f % 2 ^ f.w else bits n f.lo f.w := by
  split
  · next h => exact bits_setAll_mem val _ n f (r.fields_apart.sublist List.filter_sublist) (List.mem_filter.mpr ⟨hf, h⟩)
  · next h =>
    refine bits_setAll_apart val _ n f fun g hg => ?_
    obtain ⟨hm, hp⟩ := List.mem_filter.mp hg
    exact Reg.apart hm hf fun e => h (e ▸ hp)

/-- A mask is all ones in the fields that it takes, and zero in the others. -/
theorem Reg.bits_mask (p : Fld → Bool) {r : Reg} {f : Fld} (hf : f ∈ r.fields) :
    bits (r.mask p) f.lo f.w = if p f then 2 ^ f.w - 1 else 0 := by
  have hlt (g : Fld) : 2 ^ g.w - 1 < 2 ^ g.w := Nat.sub_lt (Nat.two_pow_pos _) Nat.one_pos
  have hm : r.mask p = setAll (fun g => 2 ^ g.w - 1) (r.fields.filter p) 0 :=
    (setAll_eq_sum _ _ 0 (r.fields_apart.sublist List.filter_sublist) (fun _ _ => bits_zero _ _) fun g _ => hlt g).symm
  rw [hm, Reg.bits_setAll _ _ _ hf, Nat.mod_eq_of_lt (hlt f), bits_zero]

/-! ## Offsets -/

theorem Reg.offset_inj {r q : Reg} (hr : r ∈ Reg.all) (hq : q ∈ Reg.all) (h : r.offset = q.offset) : r = q :=
  List.inj_on_of_nodup_map (Reg.offset_rising.imp Nat.ne_of_lt) hr hq h

/-- A register is found at its offset. -/
theorem Reg.at?_offset {r : Reg} (hr : r ∈ Reg.all) : Reg.at? r.offset = some r := by
  unfold Reg.at?
  cases h : Reg.all.find? fun q => q.offset == r.offset with
  | none => simpa using List.find?_eq_none.mp h r hr
  | some q => rw [Reg.offset_inj (List.mem_of_find?_eq_some h) hr (by simpa using List.find?_some h)]

/-- The indices that the registers of R502 take. -/
def Reg.inRange : Reg → Bool
  | .hptPortCtl n | .hptPortSts n | .hptPortVlan n | .hptPortGctl n => n < 4
  | .hptPortAddr n k => n < 4 && k < 4
  | .hptPortGent n k => n < 4 && k < 16
  | .hptShp n c => n < 4 && c < 8
  | .hptCls c => c < 8
  | .hptMportAddr k | .engDraft k => k < 4
  | .fabGent k => k < 16
  | .fabLinkCtl n | .fabLinkSts n => n < 48
  | .memStkCtl n | .memStkSts n => n < 8
  | .flsChCtl n | .ptnCfg n | .ptnPriv n | .ptnHbm n | .ptnFlash n | .ptnShare n | .ptnCtx n | .ptnGen n | .ptnSts n => n < 32
  | .secMkey k w => k < 8 && w < 8
  | _ => true

theorem Reg.mem_all_of_inRange {r : Reg} (h : r.inRange = true) : r ∈ Reg.all := by
  cases r with
  | hptPortAddr n k =>
    obtain ⟨hn, hk⟩ : n < 4 ∧ k < 4 := by simpa [Reg.inRange] using h
    have hk : k = 0 ∨ k = 1 ∨ k = 2 ∨ k = 3 := by omega
    rcases hk with rfl | rfl | rfl | rfl <;> simpa [Reg.all, Reg.blocks, Reg.ofPort, Reg.ofPtn] using hn
  | _ => simp_all [Reg.inRange, Reg.all, Reg.blocks, Reg.ofPort, Reg.ofPtn]

end Sys2Proof.Machine
end

section
/-! SUPPORT. A register write (00_scope.md R11; 17_configuration_space.md R503, R528): what the rules make of it, and what it leaves. -/

namespace Sys2Proof.Machine

/-! ## What the rules make of a write -/

/-- The kept bits `old` with the fields that a write of `v` sets. -/
def Reg.merged (r : Reg) (old v : Nat) : Nat := setAll (fun f => bits v f.lo f.w) (setFields r old v) old

theorem State.judge_eq (s : State) (r : Reg) (v : Nat) :
    s.judge r v =
      let set := setFields r (s.kept r) v
      if set = [] then .nothing
      else if s.locked = true ∧ set.any (fun f => f.acc == .rwl) = true then .locked
      else if set.any (fun f => decide (bits v f.lo f.w < f.mn ∨ f.mx < bits v f.lo f.w)) = true then .ignored
      else if s.blockOk r (s.kept r) (r.merged (s.kept r) v) = true then .ok (r.merged (s.kept r) v) else .ignored := rfl

theorem mem_setFields {r : Reg} {old v : Nat} {f : Fld} :
    f ∈ setFields r old v ↔ f ∈ r.fields ∧ f.settable = true ∧ bits v f.lo f.w ≠ bits old f.lo f.w := by
  simp [setFields]

/-- Each RW and RWL field takes the value written, the others stay. -/
theorem Reg.bits_merged (r : Reg) (old v : Nat) {f : Fld} (hf : f ∈ r.fields) :
    bits (r.merged old v) f.lo f.w = if f.settable then bits v f.lo f.w else bits old f.lo f.w := by
  unfold Reg.merged setFields
  rw [Reg.bits_setAll _ _ _ hf, Nat.mod_eq_of_lt (bits_lt v f.lo f.w)]
  by_cases hs : f.settable = true
  · by_cases he : bits v f.lo f.w = bits old f.lo f.w <;> simp [hs, he]
  · simp [hs]

theorem State.judge_nothing {s : State} {r : Reg} {v : Nat} (h : ∀ f ∈ r.fields, f.settable = true → bits v f.lo f.w = bits (s.kept r) f.lo f.w) :
    s.judge r v = .nothing := by
  have hs : setFields r (s.kept r) v = [] := List.eq_nil_iff_forall_not_mem.mpr fun f hf => by
    obtain ⟨hm, hs, hne⟩ := mem_setFields.mp hf
    exact hne (h f hm hs)
  simp only [State.judge_eq, hs, if_true]

/-- A write that sets a field, in range and by the rules of its block, gives the fields it sets. -/
theorem State.judge_ok {s : State} {r : Reg} {v : Nat} (hset : setFields r (s.kept r) v ≠ [])
    (hlock : s.locked = true → ∀ f ∈ setFields r (s.kept r) v, f.acc ≠ .rwl)
    (hrange : ∀ f ∈ setFields r (s.kept r) v, f.mn ≤ bits v f.lo f.w ∧ bits v f.lo f.w ≤ f.mx)
    (hblock : s.blockOk r (s.kept r) (r.merged (s.kept r) v) = true) : s.judge r v = .ok (r.merged (s.kept r) v) := by
  have hl : ¬ (s.locked = true ∧ (setFields r (s.kept r) v).any (fun f => f.acc == .rwl) = true) := by
    rintro ⟨h, ha⟩
    obtain ⟨f, hf, he⟩ := List.any_eq_true.mp ha
    exact hlock h f hf (by simpa using he)
  have hr : ¬ (setFields r (s.kept r) v).any (fun f => decide (bits v f.lo f.w < f.mn ∨ f.mx < bits v f.lo f.w)) = true := by
    intro ha
    obtain ⟨f, hf, he⟩ := List.any_eq_true.mp ha
    have := hrange f hf
    have := of_decide_eq_true he
    omega
  simp only [State.judge_eq, if_neg hset, if_neg hl, if_neg hr, if_pos hblock]

theorem State.judge_locked {s : State} {r : Reg} {v : Nat} {f : Fld} (hl : s.locked = true) (hf : f ∈ setFields r (s.kept r) v)
    (ha : f.acc = .rwl) : s.judge r v = .locked := by
  have hset : setFields r (s.kept r) v ≠ [] := List.ne_nil_of_mem hf
  have hany : (setFields r (s.kept r) v).any (fun f => f.acc == .rwl) = true := List.any_eq_true.mpr ⟨f, hf, by simp [ha]⟩
  simp only [State.judge_eq, if_neg hset, hl, hany, and_self, if_true]

/-! ## A write of RW and RWL fields -/

theorem State.writeFields_nothing {s : State} {r : Reg} {v : Nat} (path : Path) (h : s.judge r v = .nothing) :
    s.writeFields path r v = (.nothing, s) := by
  unfold State.writeFields; rw [h]

theorem State.writeFields_locked {s : State} {r : Reg} {v : Nat} (path : Path) (h : s.judge r v = .locked) :
    s.writeFields path r v = (.ignored, s.raise .glbSts 2 ⟨1, 1, 0, 0xFF, 0, leBytes 4 v ++ leBytes 1 (Path.code path)⟩) := by
  unfold State.writeFields; rw [h]

/-- The registers of drains, of the node's ID and of shapers, whose writes do more than set bits and act on their units. -/
def Reg.guarded : Reg → Bool
  | .fabNode | .memStkCtl _ | .flsChCtl _ | .hptShp _ _ => true
  | _ => false

theorem State.writeFields_ok {s : State} {r : Reg} {v new : Nat} (path : Path) (hg : r.guarded = false) (h : s.judge r v = .ok new) :
    s.writeFields path r v = (.applied, (s.keep r new).effects r (s.kept r) new) := by
  unfold State.writeFields
  rw [h]
  cases r
  case fabNode => cases hg
  case memStkCtl n => cases hg
  case flsChCtl n => cases hg
  case hptShp n c => cases hg
  all_goals rfl

/-! ## A register write -/

/-- A register without RW1C fields has no bit to clear. -/
theorem State.clearBits_none {r : Reg} (h : r.mask (fun f => f.acc == .rw1c) = 0) (v : Nat) (s : State) :
    s.clearBits r v = (.nothing, s) := by
  unfold State.clearBits
  simp [h]

/-- A write to a register without RW1C fields: its RW and RWL fields, and where they are not refused its WO fields. -/
theorem State.writeReg_state {r : Reg} (hat : Reg.at? r.offset = some r) (hro : r.readOnly = false)
    (hc : r.mask (fun f => f.acc == .rw1c) = 0) (path : Path) (v : Nat) (s : State) (locked : Bool) :
    (s.writeReg path r.offset v locked).2 =
      if (s.writeFields path r v).1 = .ignored then (s.writeFields path r v).2
      else ((s.writeFields path r v).2.writeOnly r v locked).2 := by
  unfold State.writeReg
  simp only [hat, hro, Bool.false_eq_true, if_false, State.clearBits_none hc]
  split
  · rfl
  · split <;> rfl

/-- A write that sets no RW or RWL field acts by its WO fields alone. -/
theorem State.writeReg_nothing {s : State} {r : Reg} {v : Nat} (hat : Reg.at? r.offset = some r) (hro : r.readOnly = false)
    (hc : r.mask (fun f => f.acc == .rw1c) = 0) (hj : s.judge r v = .nothing) (path : Path) (locked : Bool) :
    (s.writeReg path r.offset v locked).2 = (s.writeOnly r v locked).2 := by
  rw [State.writeReg_state hat hro hc, State.writeFields_nothing path hj, if_neg (by simp)]

/-- A write that sets fields keeps them, acts on the units, and then acts by its WO fields. -/
theorem State.writeReg_ok {s : State} {r : Reg} {v new : Nat} (hat : Reg.at? r.offset = some r) (hro : r.readOnly = false)
    (hc : r.mask (fun f => f.acc == .rw1c) = 0) (hg : r.guarded = false) (hj : s.judge r v = .ok new) (path : Path) (locked : Bool) :
    (s.writeReg path r.offset v locked).2 = (((s.keep r new).effects r (s.kept r) new).writeOnly r v locked).2 := by
  rw [State.writeReg_state hat hro hc, State.writeFields_ok path hg hj, if_neg (by simp)]

theorem State.regArrives_of_takes {s : State} {path : Path} (h : s.takesWrites path = true) (o v : Nat) (locked : Bool) :
    s.regArrives path o v locked = (s.writeReg path o v locked).2 := by
  unfold State.regArrives
  rw [if_pos (by simpa [State.takesWrites] using h)]

/-! ## A write of one field -/

/-- The word that `writeField` writes: the register's RW and RWL bits with one field replaced. -/
def State.fieldWord (s : State) (r : Reg) (lo w v : Nat) : Nat := setBits (s.kept r &&& r.mask Fld.settable) lo w v

theorem State.writeField_of_takes {s : State} {path : Path} (h : s.takesWrites path = true) (r : Reg) (lo w v : Nat) (locked : Bool) :
    s.writeField path r lo w v locked = (s.writeReg path r.offset (s.fieldWord r lo w v) locked).2 :=
  State.regArrives_of_takes h _ _ _

/-- The field written has its new value. -/
theorem State.bits_fieldWord_same (s : State) (r : Reg) (lo w v : Nat) : bits (s.fieldWord r lo w v) lo w = v % 2 ^ w :=
  bits_setBits _ _ _ _

/-- The other RW and RWL fields have the value that the register keeps, other fields are zero. -/
theorem State.bits_fieldWord_other (s : State) {r : Reg} {f g : Fld} (hf : f ∈ r.fields) (hg : g ∈ r.fields) (h : f ≠ g) (v : Nat) :
    bits (s.fieldWord r f.lo f.w v) g.lo g.w = if g.settable then bits (s.kept r) g.lo g.w else 0 := by
  unfold State.fieldWord
  rw [bits_setBits_disjoint _ _ _ _ _ _ (Reg.apart hf hg h)]
  have hm := Reg.bits_mask Fld.settable hg
  by_cases hs : g.settable = true
  · rw [if_pos hs] at hm ⊢
    exact bits_and_of_full _ _ _ _ hm
  · rw [if_neg hs] at hm ⊢
    exact bits_and_of_zero _ _ _ _ hm

/-- A field that has the value already is not set. -/
theorem State.judge_fieldWord_same {s : State} {r : Reg} {f : Fld} {v : Nat} (hf : f ∈ r.fields) (h : bits (s.kept r) f.lo f.w = v) :
    s.judge r (s.fieldWord r f.lo f.w v) = .nothing := by
  refine State.judge_nothing fun g hg hs => ?_
  by_cases e : f = g
  · rw [← e, State.bits_fieldWord_same, h, Nat.mod_eq_of_lt (h ▸ bits_lt _ _ _)]
  · rw [State.bits_fieldWord_other s hf hg e, if_pos hs]

/-- A field that the write does not set leaves the kept RW and RWL fields as they are. -/
theorem State.judge_fieldWord_wo {s : State} {r : Reg} {f : Fld} {v : Nat} (hf : f ∈ r.fields) (h : f.settable = false) :
    s.judge r (s.fieldWord r f.lo f.w v) = .nothing :=
  State.judge_nothing fun g hg hs => by
    rw [State.bits_fieldWord_other s hf hg (fun e => by simp [← e, h] at hs), if_pos hs]

/-- A field that changes is the only one set. -/
theorem State.setFields_fieldWord {s : State} {r : Reg} {f : Fld} {v : Nat} (hf : f ∈ r.fields) (hs : f.settable = true)
    (hv : v < 2 ^ f.w) (h : bits (s.kept r) f.lo f.w ≠ v) : setFields r (s.kept r) (s.fieldWord r f.lo f.w v) = [f] := by
  have hp (g : Fld) (hg : g ∈ r.fields) :
      (g.settable && bits (s.fieldWord r f.lo f.w v) g.lo g.w != bits (s.kept r) g.lo g.w) = (g == f) := by
    by_cases e : f = g
    · subst e
      simp [hs, State.bits_fieldWord_same, Nat.mod_eq_of_lt hv, Ne.symm h]
    · cases hg' : g.settable <;> simp [State.bits_fieldWord_other s hf hg e, hg', Ne.symm e]
  unfold setFields
  rw [List.filter_congr hp, List.filter_beq, List.count_eq_one_of_mem r.fields_nodup hf]
  rfl

theorem State.judge_fieldWord_ok {s : State} {r : Reg} {f : Fld} {v : Nat} (hf : f ∈ r.fields) (hs : f.settable = true)
    (hv : v < 2 ^ f.w) (h : bits (s.kept r) f.lo f.w ≠ v) (hlock : f.acc = .rw ∨ s.locked = false) (hrange : f.mn ≤ v ∧ v ≤ f.mx)
    (hblock : s.blockOk r (s.kept r) (setBits (s.kept r) f.lo f.w v) = true) :
    s.judge r (s.fieldWord r f.lo f.w v) = .ok (setBits (s.kept r) f.lo f.w v) := by
  have hset := State.setFields_fieldWord hf hs hv h
  have hb : bits (s.fieldWord r f.lo f.w v) f.lo f.w = v := (State.bits_fieldWord_same _ _ _ _ _).trans (Nat.mod_eq_of_lt hv)
  have hm : r.merged (s.kept r) (s.fieldWord r f.lo f.w v) = setBits (s.kept r) f.lo f.w v := by
    simp only [Reg.merged, hset, setAll, List.foldl_cons, List.foldl_nil, hb]
  rw [← hm] at hblock ⊢
  refine State.judge_ok (by simp [hset]) ?_ ?_ hblock
  · rw [hset]
    intro hl g hg
    rw [List.mem_singleton.mp hg]
    rcases hlock with ha | ha
    · simp [ha]
    · simp [ha] at hl
  · rw [hset]
    intro g hg
    rw [List.mem_singleton.mp hg, hb]
    exact hrange

theorem Reg.readOnly_of_settable {r : Reg} {f : Fld} (hf : f ∈ r.fields) (hs : f.settable = true) : r.readOnly = false :=
  List.all_eq_false.mpr ⟨f, hf, by cases h : f.acc <;> simp_all [Fld.settable]⟩

/-- A field written to what it holds: only the WO fields of the word can act. -/
theorem State.writeField_same {s : State} {path : Path} {r : Reg} {f : Fld} {v : Nat} (ht : s.takesWrites path = true)
    (hr : r.inRange = true) (hc : r.mask (fun f => f.acc == .rw1c) = 0) (hf : f ∈ r.fields) (hs : f.settable = true)
    (h : s.rf r f.lo f.w = v) : s.writeField path r f.lo f.w v = (s.writeOnly r (s.fieldWord r f.lo f.w v) false).2 := by
  rw [State.writeField_of_takes ht, State.writeReg_nothing (Reg.at?_offset (Reg.mem_all_of_inRange hr))
    (Reg.readOnly_of_settable hf hs) hc (State.judge_fieldWord_same hf h)]

/-- A field written to another value, where the rules take it: the field is set, its effects follow, and then the WO fields of the
word act. -/
theorem State.writeField_set {s : State} {path : Path} {r : Reg} {f : Fld} {v : Nat} (ht : s.takesWrites path = true)
    (hr : r.inRange = true) (hc : r.mask (fun f => f.acc == .rw1c) = 0) (hg : r.guarded = false) (hf : f ∈ r.fields)
    (hs : f.settable = true) (hv : v < 2 ^ f.w) (h : s.rf r f.lo f.w ≠ v) (hlock : f.acc = .rw ∨ s.locked = false)
    (hrange : f.mn ≤ v ∧ v ≤ f.mx) (hblock : s.blockOk r (s.kept r) (setBits (s.kept r) f.lo f.w v) = true) :
    s.writeField path r f.lo f.w v =
      (((s.setRf r f.lo f.w v).effects r (s.kept r) (setBits (s.kept r) f.lo f.w v)).writeOnly r (s.fieldWord r f.lo f.w v) false).2 := by
  rw [State.writeField_of_takes ht, State.writeReg_ok (Reg.at?_offset (Reg.mem_all_of_inRange hr))
    (Reg.readOnly_of_settable hf hs) hc hg (State.judge_fieldWord_ok hf hs hv h hlock hrange hblock)]
  rfl

end Sys2Proof.Machine
end

section
/-! SUPPORT. A command that passes steps 1 to 8 of R274 runs its definition (10_ndox_protocol.md R263, R274, R275). -/

namespace Sys2Proof.Machine

/-- A command that is taken at once goes to the steps of R274. -/
theorem State.arrive_of_taken {op : Op} {d : OpDef} {p : Packet} {s u : State} (h : taken op p s = some u) :
    s.arrive op d p = u.takeIn op d p := by
  unfold taken at h
  cases hp : p.src with
  | host x n =>
    rw [hp] at h
    dsimp only at h
    cases hq : s.ctxQueue? x n with
    | none => simp [hq] at h
    | some q =>
      simp only [hq, Option.ite_none_right_eq_some, Option.some.injEq] at h
      obtain ⟨⟨he, hport, hd, hb, ht⟩, rfl⟩ := h
      unfold State.arrive
      rw [hp]
      exact State.arriveHost_taken op d p x n s q _ hq he hport hd rfl hb ht
  | mgmt n =>
    rw [hp] at h
    dsimp only at h
    cases hx : s.session? n with
    | none => simp [hx] at h
    | some x =>
      simp only [hx, Option.ite_none_right_eq_some, Option.some.injEq] at h
      obtain ⟨⟨ho, hb, ht⟩, rfl⟩ := h
      exact State.arrive_session op d p n s x hp hx ho hb ht
  | i3c =>
    simp only [hp, Option.ite_none_right_eq_some, Option.some.injEq] at h
    obtain ⟨⟨hs, ho, hb, hn⟩, rfl⟩ := h
    exact State.arrive_i3c op d p s hp hs ho hb hn

/-- Steps 1 to 4 pass. -/
theorem State.takeIn_pass {op : Op} {d : OpDef} {p : Packet} {u : State} {data : List Byte} (hp : ptnTakes p u = true)
    (hh : u.headerOk p = true) (ho : u.openPayload op p (u.srcPriv p.src) = .ok data) (hg : op.granted p.src (u.srcPriv p.src) = true) :
    u.takeIn op d p = u.fiveToNine d ⟨op, { p with body := u.payloadRead p }, data, u.srcPtn p.src⟩ := by
  unfold State.takeIn
  unfold ptnTakes at hp
  cases hs : p.src with
  | host x n =>
    rw [hs] at hp ho hg
    dsimp only at hp
    cases hq : u.ptn? (u.srcPtn (.host x n)) with
    | none => simp [hq] at hp
    | some q =>
      have hf : (q.fenced || q.resetting) = false := by simpa [hq] using hp
      simp [hq, hf, hh, ho, hg]
  | mgmt n =>
    rw [hs] at ho hg
    simp [hh, ho, hg]
  | i3c =>
    rw [hs] at ho hg
    simp [hh, ho, hg]

/-- Step 5 passes, and the sequence that the command names, if any, is here. -/
theorem State.fiveToNine_pass {d : OpDef} {c : Cmd} {u : State}
    (h : u.five (d.named c.data) c.pkt.epoch.toNat (u.srcPriv c.pkt.src) = .pass) (hw : mustWait c.op (d.named c.data) u = false) :
    u.fiveToNine d c = u.sixToNine d c := by
  unfold State.fiveToNine
  unfold mustWait at hw
  simp only [h]
  cases hn : (d.named c.data).seq? with
  | none => rfl
  | some k =>
    simp only [hn, Bool.or_eq_false_iff, Bool.and_eq_false_imp, Bool.or_eq_true, beq_iff_eq] at hw
    obtain ⟨hl, hr⟩ := hw
    simp only [hl, Bool.false_eq_true, if_false]
    split
    · next hc =>
      have hr := hr hc
      split
      · next q hq =>
        rw [hq] at hr
        exact if_pos (by simpa using hr)
      · rfl
    · rfl

/-- Where steps 1 to 8 pass, the command runs on the state in which it is counted, and appends that can answer do. -/
theorem State.arriveAll_of_admission {op : Op} {p : Packet} {s u : State} {c : Cmd} (h : admission op p s = some (c, u)) :
    s.arriveAll op (opDef op) p = (u.settle c ((opDef op).run c u)).progress := by
  unfold admission at h
  cases ht : taken op p s with
  | none => simp [ht] at h
  | some x =>
    simp only [ht, Option.ite_none_left_eq_some, not_or] at h
    obtain ⟨⟨hp, hh⟩, h⟩ := h
    cases ho : x.openPayload op p (x.srcPriv p.src) with
    | error e => simp [ho] at h
    | ok data =>
      simp only [ho, Option.ite_none_left_eq_some, not_or, Option.some.injEq, Prod.mk.injEq] at h
      obtain ⟨⟨hg, h5, hw⟩, ⟨h6r, h6, h7, h8⟩, rfl, rfl⟩ := h
      unfold State.arriveAll
      rw [State.arrive_of_taken ht, State.takeIn_pass (by simpa using hp) (by simpa using hh) ho (by simpa using hg),
        State.fiveToNine_pass (by simpa using h5) (by simpa using hw),
        State.sixToNine_pass _ _ _ (by simpa using h6r) (by simpa using h6) (by simpa using h7) (by simpa using h8)]
      rfl

end Sys2Proof.Machine
end

section
/-! SUPPORT. What a reset and the loss of the rails leave as it was: what flash gives back touches neither the map, the partitions'
grants, the boot flash, the fuses nor the log (09_flash_tier.md R242 to R244; 16_power_clocks_reset.md R483). -/

namespace Sys2Proof.Machine

/-- What outlasts the loss of the store and of the flash tier's work: power, boot flash, log, map, partition numbers and grants,
fuses and the recorded node ID. -/
structure State.Outlasts (s t : State) : Prop where
  pow : t.pow = s.pow
  boot : t.boot = s.boot
  log : t.log = s.log
  map : t.map = s.map
  ptnGen : t.ptnGen = s.ptnGen
  svnMin : t.trust.svnMin = s.trust.svnMin
  svnAdvances : t.trust.svnAdvances = s.trust.svnAdvances
  nodeId : t.trust.nodeId = s.trust.nodeId
  grants : ∀ n y, t.ptn? n = some y → ∃ z, s.ptn? n = some z ∧ z.priv = y.priv ∧ z.keyMode = y.keyMode

namespace State.Outlasts

theorem refl (s : State) : s.Outlasts s := ⟨rfl, rfl, rfl, rfl, rfl, rfl, rfl, rfl, fun _ y h => ⟨y, h, rfl, rfl⟩⟩

theorem trans {s t u : State} (h : s.Outlasts t) (g : t.Outlasts u) : s.Outlasts u where
  pow := g.pow.trans h.pow
  boot := g.boot.trans h.boot
  log := g.log.trans h.log
  map := g.map.trans h.map
  ptnGen := g.ptnGen.trans h.ptnGen
  svnMin := g.svnMin.trans h.svnMin
  svnAdvances := g.svnAdvances.trans h.svnAdvances
  nodeId := g.nodeId.trans h.nodeId
  grants n y hy := by
    obtain ⟨x, hx, hp, hk⟩ := g.grants n y hy
    obtain ⟨z, hz, hp', hk'⟩ := h.grants n x hx
    exact ⟨z, hz, hp'.trans hp, hk'.trans hk⟩

/-- A change of the store, flash, telemetry, engines, recall segments, outputs and free values alone. -/
theorem of_frame {s t : State} (h : { t with
    store := s.store, flash := s.flash, tel := s.tel, eng := s.eng, rcl := s.rcl, out := s.out, freeCtr := s.freeCtr } = s) :
    s.Outlasts t where
  pow := (congrArg State.pow h :)
  boot := (congrArg State.boot h :)
  log := (congrArg State.log h :)
  map := (congrArg State.map h :)
  ptnGen := (congrArg State.ptnGen h :)
  svnMin := (congrArg (·.trust.svnMin) h :)
  svnAdvances := (congrArg (·.trust.svnAdvances) h :)
  nodeId := (congrArg (·.trust.nodeId) h :)
  grants n y hy := ⟨y, (congrArg (·.ptn? n) h :).symm.trans hy, rfl, rfl⟩

theorem foldl {α : Type} {f : State → α → State} {s t : State} (h : s.Outlasts t) (hf : ∀ (u : State) a, u.Outlasts (f u a)) (l : List α) :
    s.Outlasts (l.foldl f t) := by
  induction l generalizing t with
  | nil => exact h
  | cons a l ih => exact ih (h.trans (hf t a))

theorem ite {c : Prop} [Decidable c] {s t u : State} (h : s.Outlasts t) (g : s.Outlasts u) : s.Outlasts (if c then t else u) := by
  split <;> assumption

variable {s t : State}

theorem count (h : s.Outlasts t) (g scope i n : Nat) : s.Outlasts (State.count g scope i n t) := h.trans (of_frame rfl)

theorem emit (h : s.Outlasts t) (o : Output) : s.Outlasts (t.emit o) := h.trans (of_frame rfl)

theorem setFlash (h : s.Outlasts t) (f : Flash) : s.Outlasts { t with flash := f } := h.trans (of_frame rfl)

/-! ### Flushes -/

theorem putFlush (h : s.Outlasts t) (committed : Bool) : s.Outlasts (t.putFlush committed) := by
  refine h.trans ?_
  unfold State.putFlush
  dsimp only
  generalize hu : List.foldl _ _ (List.range 32) = u
  have h : t.Outlasts u := by
    rw [← hu]
    have hd : t.Outlasts (if committed = true then t else t.drawn) := .ite (.refl t) (of_frame rfl)
    exact (hd.setFlash _).foldl (fun u c => (refl u).count _ _ _ _) _
  exact .ite (h.setFlash _) (h.setFlash _)

theorem stopFlush (h : s.Outlasts t) : s.Outlasts t.stopFlush := .ite (h.putFlush false) h

theorem loadFlash (h : s.Outlasts t) : s.Outlasts t.loadFlash := by
  refine h.trans ?_
  unfold State.loadFlash
  split <;> exact of_frame rfl

/-! ### References and pages -/

theorem delta (h : s.Outlasts t) (l : List DeltaRec) : s.Outlasts (t.delta l) :=
  .ite (h.foldl (f := State.addDelta) (fun _ _ => of_frame rfl) l) h

theorem touchLeaf (h : s.Outlasts t) (n : Nat) : s.Outlasts (t.touchLeaf n) := by
  refine h.trans ?_
  unfold State.touchLeaf
  dsimp only
  split <;> exact of_frame rfl

theorem freeFlash (h : s.Outlasts t) (first n : Nat) : s.Outlasts (t.freeFlash first n) := by
  refine h.foldl (fun u i => ?_) _
  dsimp only
  split
  · exact .refl u
  · exact (touchLeaf (of_frame rfl) _).delta _

theorem dropImage (h : s.Outlasts t) (p : Page) : s.Outlasts (t.dropImage p) := by
  refine h.trans ?_
  unfold State.dropImage
  split
  · exact delta (of_frame rfl) _
  · exact .refl t

theorem cancelSeal (h : s.Outlasts t) (p : Page) : s.Outlasts (t.cancelSeal p) := h.trans (dropImage (of_frame rfl) p)

theorem inheritSeal (h : s.Outlasts t) (p : Page) : s.Outlasts (t.inheritSeal p) := by
  unfold State.inheritSeal
  dsimp only
  split
  · exact h
  · split
    · exact h
    · exact (h.cancelSeal p).trans (of_frame rfl)

theorem dropLocal (h : s.Outlasts t) (k : Handle) (n : Nat) : s.Outlasts (t.dropLocal k n) := h.trans (delta (of_frame rfl) _)

/-- A reference dropped by a node that is not the home, which sends no release. -/
theorem dropRef (h : s.Outlasts t) (k : Handle) : s.Outlasts (t.dropRef false k) := by
  refine h.trans ?_
  unfold State.dropRef
  split
  · unfold State.dropPlaced
    split
    · exact delta (of_frame rfl) _
    · exact delta (of_frame rfl) _
  · split
    · exact .refl t
    · have hl := (refl t).dropLocal k 1
      simp only [Bool.false_eq_true, if_false]
      split
      · exact .ite (hl.inheritSeal _) hl
      · exact .ite (hl.cancelSeal _) hl

theorem dropEntries (h : s.Outlasts t) (k : Handle) (l : Nat) (p : Entry → Bool) : s.Outlasts (t.dropEntries false k l p) := by
  refine h.trans ?_
  unfold State.dropEntries
  split
  · exact .refl t
  · exact foldl (delta (of_frame rfl) _) (fun u (e : Entry) => (refl u).dropRef e.page) _

/-! ### What flash gives back -/

theorem restoreLayer (h : s.Outlasts t) (j : List JEntry) (k : Handle) (len l : Nat) : s.Outlasts (t.restoreLayer j k len l) := by
  have hd := h.dropEntries k l fun e => decide (len ≤ 256 * e.block)
  unfold State.restoreLayer
  dsimp only
  split
  · exact hd
  · next q _ => exact (hd.foldl (f := fun u e => u.rebuildTail j q l len e) (fun _ _ => of_frame rfl) _).trans (of_frame rfl)

theorem restoreSeq (h : s.Outlasts t) (j : List JEntry) (q : Seq) (lens : List Nat) : s.Outlasts (t.restoreSeq j q lens) :=
  (h.foldl (f := fun u (x : Nat × Nat) => u.restoreLayer j q.handle x.2 x.1) (fun u x => (refl u).restoreLayer j q.handle x.2 x.1)
    (enumFrom 0 lens)).trans (of_frame rfl)

theorem restoreStore (h : s.Outlasts t) : s.Outlasts t.restoreStore := by
  unfold State.restoreStore
  dsimp only
  generalize hu : List.foldl _ t _ = u
  have hs : s.Outlasts u := hu ▸ h.foldl (fun u (x : Seq × List Nat) => (refl u).restoreSeq _ x.1 x.2) _
  exact hs.trans (of_frame rfl)

/-! ### The storage keys -/

/-- A new storage key changes its serial alone. -/
theorem keySerial (h : s.Outlasts t) (n k : Nat) : s.Outlasts (t.updPtn n fun p => { p with keySerial := k }) := by
  refine h.trans ⟨rfl, rfl, rfl, rfl, rfl, rfl, rfl, rfl, fun m y hy => ?_⟩
  have hm : ((t.ptns.modify n fun p => p.map fun p => { p with keySerial := k })[m]?).join = some y := hy
  rw [List.getElem?_modify] at hm
  split at hm
  · next e =>
    subst e
    cases hx : t.ptns[n]? with
    | none => simp [hx] at hm
    | some x =>
      cases x with
      | none => simp [hx] at hm
      | some x =>
        have he : { x with keySerial := k } = y := by simpa [hx] using hm
        exact ⟨x, by simp [State.ptn?, hx], by rw [← he], by rw [← he]⟩
  · exact ⟨y, by simpa [State.ptn?] using hm, rfl, rfl⟩

theorem rekeyOnchip (h : s.Outlasts t) (n : Nat) : s.Outlasts (t.rekeyOnchip n) := by
  unfold State.rekeyOnchip
  split
  · exact h
  · refine .ite h (keySerial ?_ _ _)
    dsimp only
    generalize hu : List.foldl _ t _ = u
    have hs : s.Outlasts u := by
      rw [← hu]
      exact h.foldl (fun v x => ((refl v).freeFlash (handleFrame x.handle) x.frames).trans (of_frame rfl)) _
    exact hs.trans ⟨rfl, rfl, rfl, rfl, rfl, rfl, rfl, rfl, fun _ y hy => ⟨y, hy, rfl, rfl⟩⟩

end State.Outlasts

end Sys2Proof.Machine
end

section
/-! PROOFS. The registers that act on the node as a whole: GLB_LOCK, SEC_SVN_COMMIT, TEL_CTL, PWR_RST and PWR_CTL (R11, R418, R477,
R481, R482, R507), and the firmware restart. -/

namespace Sys2Proof.Machine

/-! ## GLB_LOCK -/

/-- The state with GLB_LOCK set. -/
def State.withLock (s : State) : State := if s.rf .glbLock 0 1 = 1 then s else s.setRf .glbLock 0 1 1

theorem State.locked_withLock (s : State) : s.withLock.locked = true := by
  unfold State.withLock State.locked
  split
  · next h => exact beq_iff_eq.mpr h
  · exact beq_iff_eq.mpr (State.rf_setRf_same _ _ _ _ _ (by decide))

theorem State.withLock_frame (s : State) : { s.withLock with regs := s.regs } = s := by
  unfold State.withLock
  split <;> rfl

theorem State.writeField_glbLock {s : State} {path : Path} (ht : s.takesWrites path = true) :
    s.writeField path .glbLock 0 1 1 = s.withLock := by
  unfold State.withLock
  split
  · next h => exact State.writeField_same (f := Fld.rw 0 1) ht rfl rfl (by decide) rfl h
  · next h =>
    exact State.writeField_set (f := Fld.rw 0 1) ht rfl rfl rfl (by decide) rfl (by decide) h (.inl rfl) (by decide)
      (decide_eq_true (bits_setBits _ 0 1 1))

/-! ## TEL_CTL: FREEZE and CLEAR (R507) -/

/-- A word that writes FREEZE alone has CLEAR at 0. -/
theorem State.freezeWord_clear (s : State) (v : Nat) : bit (s.fieldWord .telCtl 0 1 v) 1 = false := by
  have h := State.bits_fieldWord_other s (r := .telCtl) (f := Fld.rwx 0 1) (g := Fld.wo 1 1) (by decide) (by decide) (by decide) v
  have h : s.fieldWord .telCtl 0 1 v / 2 ^ 1 % 2 ^ 1 = 0 := h
  unfold bit
  rw [decide_eq_false_iff_not]
  omega

theorem State.writeOnly_telCtl_none (s : State) {v : Nat} (h : bit v 1 = false) (locked : Bool) :
    s.writeOnly .telCtl v locked = (.nothing, s) := by
  simp [State.writeOnly, h]

theorem State.writeField_freeze_same {s : State} {path : Path} {v : Nat} (ht : s.takesWrites path = true) (h : s.rf .telCtl 0 1 = v) :
    s.writeField path .telCtl 0 1 v = s :=
  (State.writeField_same (f := Fld.rwx 0 1) ht rfl rfl (by decide) rfl h).trans
    (congrArg Prod.snd (s.writeOnly_telCtl_none (s.freezeWord_clear v) false))

/-- FREEZE set takes a snapshot of the counters, cleared it drops it. -/
theorem State.effects_telCtl (s : State) (old v : Nat) (hv : v < 2) (h : bits old 0 1 ≠ v) :
    s.effects .telCtl old (setBits old 0 1 v) = { s with tel := ⟨s.tel.counters, if v = 1 then some s.tel.counters else none⟩ } := by
  have hold : bits old 0 1 < 2 := bits_lt old 0 1
  have hnew : bits (setBits old 0 1 v) 0 1 = v := (bits_setBits old 0 1 v).trans (Nat.mod_eq_of_lt hv)
  have hcase : (bits old 0 1 = 0 ∧ v = 1) ∨ (bits old 0 1 = 1 ∧ v = 0) := by omega
  rcases hcase with ⟨ho, rfl⟩ | ⟨ho, rfl⟩ <;> simp [State.effects, went, fell, ho, hnew]

theorem State.writeField_freeze_set {s : State} {path : Path} {v : Nat} (ht : s.takesWrites path = true) (hv : v < 2)
    (h : s.rf .telCtl 0 1 ≠ v) :
    s.writeField path .telCtl 0 1 v =
      { s.setRf .telCtl 0 1 v with tel := ⟨s.tel.counters, if v = 1 then some s.tel.counters else none⟩ } :=
  calc s.writeField path .telCtl 0 1 v
    _ = (s.setRf .telCtl 0 1 v).effects .telCtl (s.kept .telCtl) (setBits (s.kept .telCtl) 0 1 v) :=
      (State.writeField_set (f := Fld.rwx 0 1) ht rfl rfl rfl (by decide) rfl hv h (.inl rfl) ⟨Nat.zero_le _, Nat.le_of_lt_succ hv⟩
        rfl).trans (congrArg Prod.snd (State.writeOnly_telCtl_none _ (s.freezeWord_clear v) false))
    _ = _ := State.effects_telCtl _ _ v hv h

theorem State.writeField_clear {s : State} {path : Path} (ht : s.takesWrites path = true) :
    s.writeField path .telCtl 1 1 1 = { s with tel := ⟨[], s.tel.snapshot.map fun _ => []⟩ } := by
  have hj : s.judge .telCtl (s.fieldWord .telCtl 1 1 1) = .nothing := State.judge_fieldWord_wo (f := Fld.wo 1 1) (by decide) rfl
  have hb : bit (s.fieldWord .telCtl 1 1 1) 1 = true := decide_eq_true (State.bits_fieldWord_same s .telCtl 1 1 1)
  rw [State.writeField_of_takes ht, State.writeReg_nothing (Reg.at?_offset (Reg.mem_all_of_inRange rfl)) rfl rfl hj]
  simp only [State.writeOnly, hb, if_true]

/-! ## The keyed writes and SEC_SVN_COMMIT -/

/-- Registers of WO fields alone act by them. -/
theorem State.regArrives_writeOnly {s : State} {path : Path} {r : Reg} (ht : s.takesWrites path = true) (hr : r.inRange = true)
    (hw : ∀ f ∈ r.fields, f.acc = .wo) (hne : r.readOnly = false) (hc : r.mask (fun f => f.acc == .rw1c) = 0) (v : Nat) :
    s.regArrives path r.offset v = (s.writeOnly r v false).2 := by
  rw [State.regArrives_of_takes ht, State.writeReg_nothing (Reg.at?_offset (Reg.mem_all_of_inRange hr)) hne hc]
  exact State.judge_nothing fun f hf hs => by simp [Fld.settable, hw f hf] at hs

theorem State.regArrives_pwrRst {s : State} {path : Path} (ht : s.takesWrites path = true) (v : Nat) :
    s.regArrives path Reg.pwrRst.offset v = (s.writeOnly .pwrRst v false).2 :=
  State.regArrives_writeOnly ht rfl (by decide) rfl rfl v

theorem State.regArrives_secSvnCommit {s : State} {path : Path} (ht : s.takesWrites path = true) (v : Nat) :
    s.regArrives path Reg.secSvnCommit.offset v = (s.writeOnly .secSvnCommit v false).2 :=
  State.regArrives_writeOnly ht rfl (by decide) rfl rfl v

/-- A running SVN above the minimum, with fuses left, becomes the minimum. -/
theorem State.svnCommit_taken {s : State} {v : Word32} (hv : v = s.trust.svnRun) (hm : s.trust.svnMin.toNat < v.toNat)
    (ha : s.trust.svnAdvances < 64) :
    (s.writeOnly .secSvnCommit v.toNat false).2 =
      ({ s with trust := { s.trust with svnMin := v, svnAdvances := s.trust.svnAdvances + 1 } } : State).securityChanged := by
  have hc : v.toNat = s.trust.svnRun.toNat ∧ s.trust.svnMin.toNat < v.toNat ∧ s.trust.svnAdvances < 64 := ⟨by rw [hv], hm, ha⟩
  simp only [State.writeOnly, if_pos hc, BitVec.ofNat_toNat, BitVec.setWidth_eq]

theorem State.svnCommit_ignored {s : State} {v : Word32}
    (h : v ≠ s.trust.svnRun ∨ v.toNat ≤ s.trust.svnMin.toNat ∨ 64 ≤ s.trust.svnAdvances) :
    (s.writeOnly .secSvnCommit v.toNat false).2 = s.note ⟨9, 4, 0, 0xFF, 0, []⟩ := by
  have hc : ¬ (v.toNat = s.trust.svnRun.toNat ∧ s.trust.svnMin.toNat < v.toNat ∧ s.trust.svnAdvances < 64) := by
    rintro ⟨hr, hm, ha⟩
    rcases h with h | h | h
    · exact h (BitVec.eq_of_toNat_eq hr)
    · omega
    · omega
  simp only [State.writeOnly, if_neg hc]

/-! ## PWR_CTL: REQ (R477, R478) -/

theorem State.writeField_req_same {s : State} {path : Path} {v : Nat} (ht : s.takesWrites path = true) (h : s.rf .pwrCtl 0 2 = v) :
    s.writeField path .pwrCtl 0 2 v = s :=
  State.writeField_same (f := Fld.rwx 0 2 0 0 2) ht rfl rfl (by decide) rfl h

/-- REQ set to another value asks for it. -/
theorem State.writeField_req_set {s : State} {path : Path} {v : Nat} (ht : s.takesWrites path = true) (hv : v ≤ 2)
    (h : s.rf .pwrCtl 0 2 ≠ v) :
    s.writeField path .pwrCtl 0 2 v =
      if v = 2 then (s.setRf .pwrCtl 0 2 v).parkRequest else (s.setRf .pwrCtl 0 2 v).rideRequest (v == 1) := by
  have hv4 : v < 4 := by omega
  have hnew : bits (setBits (s.kept .pwrCtl) 0 2 v) 0 2 = v := (bits_setBits _ 0 2 v).trans (Nat.mod_eq_of_lt hv4)
  have hset := State.writeField_set (path := path) (f := Fld.rwx 0 2 0 0 2) ht rfl rfl rfl (by decide) rfl hv4 h (.inl rfl)
    ⟨Nat.zero_le _, hv⟩ rfl
  have h : bits (s.kept .pwrCtl) 0 2 ≠ v := h
  refine hset.trans ?_
  simp only [State.writeOnly, State.effects, Fld.rwx, hnew, h, if_false]

/-! ## A firmware restart (R16, R376, R482) -/

/-- The control cores' commands are lost: their pages are unpinned and they leave the list. -/
def State.abandonAll (l : List Inflight) (s : State) : State := l.foldl (fun s i => (s.unpin i.pins).dropInflight i.id) s

theorem State.abandonAll_frame (l : List Inflight) (s : State) :
    { s.abandonAll l with cmds := s.cmds, store := { (s.abandonAll l).store with pages := s.store.pages } } = s := by
  unfold State.abandonAll
  induction l generalizing s with
  | nil => rfl
  | cons i l ih =>
    have h := ih ((s.unpin i.pins).dropInflight i.id)
    exact congrArg (fun t : State => { t with cmds := s.cmds, store := { t.store with pages := s.store.pages } }) h

/-- A command that is left is one of before, with an identifier that none of those lost has. -/
theorem State.mem_abandonAll {l : List Inflight} {s : State} {i : Inflight} (h : i ∈ (s.abandonAll l).cmds.list) :
    i ∈ s.cmds.list ∧ ∀ j ∈ l, i.id ≠ j.id := by
  unfold State.abandonAll at h
  induction l generalizing s with
  | nil => exact ⟨h, by simp⟩
  | cons j l ih =>
    obtain ⟨hm, hl⟩ := ih h
    obtain ⟨hm, hj⟩ := List.mem_filter.mp hm
    exact ⟨hm, List.forall_mem_cons.mpr ⟨by simpa using hj, hl⟩⟩

/-- A new incarnation begins (R376). -/
def Power.fwRestarting (cause : Nat) (p : Power) : Power :=
  { p with
    phase := .fwRestart, lastCause := cause, fwRestarts := min 255 (p.fwRestarts + 1), incarn := p.incarn + 1, parkPending := false }

/-- The state that a firmware restart of a node in service leaves. -/
theorem State.fwRestart_service (cause : Nat) {s : State} (h : s.pow.phase = .service) :
    let slow := s.cmds.list.filter fun i => !Op.fast i.op
    let u := (s.setPow (Power.fwRestarting cause)).abandonAll slow
    s.fwRestart cause = { u with
      trust := { s.trust with
        sessionKey := s.trust.nextKey, nextKey := s.trust.nextKey + 1, attReady := false, attSerial := 0, attLeft := 0, attSuccessor := false,
        fw := { s.trust.fw with state := if s.trust.fw.state = 0 then 0 else 1, groupsDone := 0, waiter := none } }
      fab := { u.fab with peers := u.fab.peers.map Peer.restarted, reassembly := [] } } := by
  unfold State.fwRestart
  rw [if_neg (by simp [h])]
  rfl

theorem State.fwRestart_elsewhere (cause : Nat) {s : State} (h : s.pow.phase ≠ .service) : s.fwRestart cause = s := if_pos h

theorem State.fwRestart_keeps (cause : Nat) {s : State} (h : s.pow.phase = .service) :
    let t := s.fwRestart cause
    t.pow.phase = .fwRestart ∧ t.pow.lastCause = cause ∧ t.pow.incarn = s.pow.incarn + 1 ∧ t.trust.attReady = false ∧
      t.trust.svnMin = s.trust.svnMin ∧ t.regs = s.regs ∧ t.store.seqs = s.store.seqs ∧ t.host = s.host ∧ t.flash = s.flash := by
  have hf := State.abandonAll_frame (s.cmds.list.filter fun i => !Op.fast i.op) (s.setPow (Power.fwRestarting cause))
  dsimp only
  rw [State.fwRestart_service cause h]
  have hpow := congrArg State.pow hf
  exact ⟨(congrArg (·.phase) hpow :), (congrArg (·.lastCause) hpow :), (congrArg (·.incarn) hpow :), rfl, rfl, (congrArg State.regs hf :),
    (congrArg (·.store.seqs) hf :), (congrArg State.host hf :), (congrArg State.flash hf :)⟩

/-- Only fast commands are left (R16). -/
theorem State.fast_of_mem_fwRestart {cause : Nat} {s : State} (h : s.pow.phase = .service) {i : Inflight}
    (hi : i ∈ (s.fwRestart cause).cmds.list) : Op.fast i.op = true := by
  rw [State.fwRestart_service cause h] at hi
  obtain ⟨hm, hl⟩ := State.mem_abandonAll hi
  by_contra hs
  exact hl i (List.mem_filter.mpr ⟨hm, by simpa using hs⟩) rfl

/-! ## The obligation -/

/-- Settles O48: each write sets one field or acts by one WO field, and the watchdog drops all but the fast commands. -/
theorem nodeControlsTakeEffect : Obligations.NodeControlsTakeEffect := by
  unfold Obligations.NodeControlsTakeEffect
  refine ⟨fun s path ht => ⟨?_, fun v => ⟨fun hv hm ha => ?_, fun h => ?_⟩, fun h => ?_, fun h => ?_, fun on h => ?_, ?_, ?_, ?_,
    fun h => ?_, fun h => ?_, fun h => ?_, fun h => ?_, fun h => ?_, fun h => ?_⟩, fun s h => ?_, fun s h => ?_⟩
  · exact ⟨_, congrArg Host.Outcome.next (State.writeField_glbLock ht), s.locked_withLock, s.withLock_frame⟩
  · exact congrArg Host.Outcome.next ((State.regArrives_secSvnCommit ht _).trans (State.svnCommit_taken hv hm ha))
  · exact congrArg Host.Outcome.next ((State.regArrives_secSvnCommit ht _).trans (State.svnCommit_ignored h))
  · exact congrArg Host.Outcome.next (State.writeField_freeze_set ht Nat.one_lt_two (h.trans_ne Nat.zero_ne_one))
  · exact congrArg Host.Outcome.next (State.writeField_freeze_set ht Nat.two_pos (h.trans_ne Nat.one_ne_zero))
  · exact congrArg Host.Outcome.next (State.writeField_freeze_same ht h)
  · exact congrArg Host.Outcome.next (State.writeField_clear ht)
  · exact congrArg Host.Outcome.next (State.regArrives_pwrRst ht _)
  · exact congrArg Host.Outcome.next (State.regArrives_pwrRst ht _)
  · exact congrArg Host.Outcome.next (State.writeField_req_set ht (by decide) h)
  · exact congrArg Host.Outcome.next (State.writeField_req_same ht h)
  · exact congrArg (Host.Outcome.next ∘ State.resume) (State.writeField_req_same ht h)
  · exact congrArg (Host.Outcome.next ∘ State.resume) (State.writeField_req_same ht h)
  · exact congrArg (Host.Outcome.next ∘ State.resume) (State.writeField_req_set ht (by decide) h)
  · exact congrArg (Host.Outcome.next ∘ State.resume) (State.writeField_req_set ht (by decide) h)
  · obtain ⟨hp, hc, hi, ha, hm, hr, hq, hh, hf⟩ := State.fwRestart_keeps 5 h
    exact ⟨_, rfl, hp, hc, hi, ha, fun i hi => State.fast_of_mem_fwRestart h hi, hm, hr, hq, congrArg (·.ctxs) hh, hf⟩
  · exact congrArg _ (State.fwRestart_elsewhere 5 h)

end Sys2Proof.Machine
end

section
/-! PROOFS. Register writes that come as such: plain registers read back what was written, locked ones stay, and REG_WRITE writes its
pairs in order (00_scope.md R11; 11_command_reference.md R330; 17_configuration_space.md R495, R503, R528). -/

namespace Sys2Proof.Machine

/-! ## A register write that reaches a node in service -/

theorem exec_registerWrite_service {s : State} (h : s.pow.phase = .service) (path : Path) (o : Nat) (v : Word32) :
    exec (.registerWrite path o v) s = .next (s.plainWrite path o v.toNat).2.resume := by
  show Host.Outcome.next (s.registerWrite path o v.toNat) = _
  unfold State.registerWrite
  rw [if_pos (.inl h)]

/-- Only a link's control register has RESTORE (R369). -/
theorem restores_of_not_link {r : Reg} (hat : Reg.at? r.offset = some r) (h : ∀ n, r ≠ .fabLinkCtl n) (v : Nat) :
    restores r.offset v = false := by
  unfold restores
  rw [hat]
  cases r
  case fabLinkCtl n => exact absurd rfl (h n)
  all_goals rfl

theorem State.plainWrite_of_not_link {r : Reg} (hat : Reg.at? r.offset = some r) (h : ∀ n, r ≠ .fabLinkCtl n) (path : Path) (v : Nat)
    (s : State) : s.plainWrite path r.offset v = s.writeReg path r.offset v := by
  unfold State.plainWrite
  rw [restores_of_not_link hat h, if_neg Bool.false_ne_true]

/-! ## Plain registers -/

/-- The registers whose fields are all RW and whose writes start nothing. -/
def Reg.plain : Reg → Bool
  | .hptPortVlan _ | .hptPortAddr _ _ | .engDraft _ | .hptMportAddr _ | .hptCc0 | .hptCc1 | .hptCc2 | .hptRc | .hptWheel | .hptNdox
  | .fabHb | .fabE2e | .fabSpare | .fabVcw | .fabExpel | .fabDrain | .memScrub | .flsPatrol | .flsPromo | .flsRecall | .engCtl => true
  | _ => false

/-- What a plain register is to the rules and effects of writes. -/
structure Reg.Plain (r : Reg) : Prop where
  rw : ∀ f ∈ r.fields, f.acc = .rw
  clears : r.mask (fun f => f.acc == .rw1c) = 0
  writable : r.readOnly = false
  unguarded : r.guarded = false
  notLink : ∀ n, r ≠ .fabLinkCtl n
  ok : ∀ (s : State) old new, s.blockOk r old new = true
  still : ∀ (s : State) old new, s.effects r old new = s
  writeOnly : ∀ (s : State) v locked, s.writeOnly r v locked = (.nothing, s)
  read : ∀ s : State, s.readReg r = BitVec.ofNat 32 (s.kept r)

theorem Reg.plain_spec {r : Reg} (h : r.plain = true) : r.Plain := by
  cases r
  case hptPortVlan | hptPortAddr | engDraft | hptMportAddr | hptCc0 | hptCc1 | hptCc2 | hptRc | hptWheel | hptNdox | fabHb | fabE2e
    | fabSpare | fabVcw | fabExpel | fabDrain | memScrub | flsPatrol | flsPromo | flsRecall | engCtl =>
    exact ⟨of_decide_eq_true rfl, rfl, rfl, rfl, nofun, fun _ _ _ => rfl, fun _ _ _ => rfl, fun _ _ _ => rfl, fun _ => rfl⟩
  all_goals cases h

/-- A write in range to a plain register keeps its fields, and does nothing else. -/
theorem State.writeReg_plain {s : State} {r : Reg} {v : Nat} (hr : r.inRange = true) (hp : r.Plain)
    (hv : ∀ f ∈ r.fields, f.mn ≤ bits v f.lo f.w ∧ bits v f.lo f.w ≤ f.mx) (path : Path) :
    (s.writeReg path r.offset v).2 = if setFields r (s.kept r) v = [] then s else s.keep r (r.merged (s.kept r) v) := by
  have hat := Reg.at?_offset (Reg.mem_all_of_inRange hr)
  split
  · next h =>
    have hj : s.judge r v = .nothing := by rw [State.judge_eq]; exact if_pos h
    rw [State.writeReg_nothing hat hp.writable hp.clears hj, hp.writeOnly]
  · next h =>
    have hin : ∀ f ∈ setFields r (s.kept r) v, f ∈ r.fields := fun f hf => (mem_setFields.mp hf).1
    have hj := State.judge_ok h (fun _ f hf => by simp [hp.rw f (hin f hf)]) (fun f hf => hv f (hin f hf)) (hp.ok s _ _)
    rw [State.writeReg_ok hat hp.writable hp.clears hp.unguarded hj, hp.writeOnly, hp.still]

/-- The fields of a plain register read as they are kept. -/
theorem State.bits_readOffset_plain (s : State) {r : Reg} (hr : r.inRange = true) (hp : r.Plain) {f : Fld} (hf : f ∈ r.fields) :
    bits (s.readOffset r.offset).toNat f.lo f.w = bits (s.kept r) f.lo f.w := by
  unfold State.readOffset
  rw [Reg.at?_offset (Reg.mem_all_of_inRange hr)]
  dsimp only
  rw [hp.read, BitVec.toNat_ofNat, bits_mod _ _ _ (Reg.field_le_32 hf)]

/-- The fields merged are the fields kept. -/
theorem State.bits_kept_merged (s : State) {r : Reg} {f : Fld} (hf : f ∈ r.fields) (hs : f.settable = true) (v : Nat) :
    bits ((s.keep r (r.merged (s.kept r) v)).kept r) f.lo f.w = bits v f.lo f.w := by
  rw [← bits_mod _ _ _ (Reg.field_le_32 hf), State.kept_keep_mod, bits_mod _ _ _ (Reg.field_le_32 hf), Reg.bits_merged r _ v hf, if_pos hs]

/-- The registers that WrittenFieldsReadBack names are plain and in range. -/
theorem Reg.plain_of_named {r : Reg}
    (h : (∃ n, n < 4 ∧ (r = .hptPortVlan n ∨ ∃ k, k < 4 ∧ r = .hptPortAddr n k)) ∨ (∃ k, k < 4 ∧ (r = .engDraft k ∨ r = .hptMportAddr k)) ∨
      r ∈ [Reg.hptCc0, .hptCc1, .hptCc2, .hptRc, .hptWheel, .hptNdox, .fabHb, .fabE2e, .fabSpare, .fabVcw, .fabExpel, .fabDrain, .memScrub,
        .flsPatrol, .flsPromo, .flsRecall, .engCtl]) : r.inRange = true ∧ r.plain = true := by
  rcases h with ⟨n, hn, rfl | ⟨k, hk, rfl⟩⟩ | ⟨k, hk, rfl | rfl⟩ | h
  · exact ⟨decide_eq_true hn, rfl⟩
  · exact ⟨by simp [Reg.inRange, hn, hk], rfl⟩
  · exact ⟨decide_eq_true hk, rfl⟩
  · exact ⟨decide_eq_true hk, rfl⟩
  · revert r
    decide

/-- Settles O44: the write merges its fields into the kept bits, which is all that it does. -/
theorem writtenFieldsReadBack : Obligations.WrittenFieldsReadBack := by
  unfold Obligations.WrittenFieldsReadBack
  intro s path r v hs hr hv
  obtain ⟨hr, hplain⟩ := Reg.plain_of_named hr
  have hp := Reg.plain_spec hplain
  have hall := Reg.mem_all_of_inRange hr
  refine ⟨(s.writeReg path r.offset v.toNat).2, ?_, fun f hf => ?_, fun q hq hne => ?_, ?_⟩
  · rw [exec_registerWrite_service hs, State.plainWrite_of_not_link (Reg.at?_offset hall) hp.notLink]
  · have hset : f.settable = true := by simp [Fld.settable, hp.rw f hf]
    rw [State.bits_readOffset_plain _ hr hp hf, State.writeReg_plain hr hp hv]
    split
    · next h =>
      by_contra hne
      exact List.ne_nil_of_mem (mem_setFields.mpr ⟨hf, hset, Ne.symm hne⟩) h
    · exact State.bits_kept_merged s hf hset _
  · rw [State.writeReg_plain hr hp hv]
    split
    · rfl
    · exact State.kept_keep_other _ _ _ _ fun e => hne (Reg.offset_inj hq hall e)
  · rw [State.writeReg_plain hr hp hv]
    split <;> rfl

/-! ## Locked fields -/

/-- A record changes no kept bits but those of the log's own status. -/
theorem State.kept_logRec (c : Rec) (reg mask : Nat) (q : Reg) (s : State) (h : q.offset ≠ Reg.logSts.offset) :
    (s.logRec c reg mask).kept q = s.kept q := by
  unfold State.logRec
  dsimp only
  split
  · rw [State.kept_congr (State.ibiCheck_regs _), State.kept_congr (State.putRec_regs _ _ _ _), State.setRf,
      State.kept_keep_other _ _ _ _ h, State.kept_congr (State.putRec_regs _ _ _ _)]
  · rw [State.kept_congr (State.putRec_regs _ _ _ _)]

/-- A status bit raised leaves the kept bits of the other registers, but of the log's own status. -/
theorem State.kept_raise_other (r q : Reg) (k : Nat) (c : Rec) (s : State) (h : q.offset ≠ r.offset)
    (hl : q.offset ≠ Reg.logSts.offset) : (s.raise r k c).kept q = s.kept q := by
  unfold State.raise
  rw [State.kept_congr (State.ibiCheck_regs _), State.kept_logRec _ _ _ _ _ hl, State.setRf, State.kept_keep_other _ _ _ _ h]

/-- A register with an RWL field stands at another offset than one without. -/
theorem Reg.offset_ne_of_rwl {r q : Reg} {f : Fld} (hat : Reg.at? r.offset = some r) (hf : f ∈ r.fields) (ha : f.acc = .rwl)
    (hq : Reg.at? q.offset = some q) (hn : ∀ g ∈ q.fields, g.acc ≠ .rwl) : r.offset ≠ q.offset := by
  intro e
  rw [e, hq] at hat
  exact hn f (Option.some.inj hat ▸ hf) ha

/-- A write of an RWL field under GLB_LOCK is ignored, with its record. -/
theorem State.writeReg_locked {s : State} {r : Reg} {v : Nat} {f : Fld} (hl : s.locked = true) (hat : Reg.at? r.offset = some r)
    (hf : f ∈ r.fields) (ha : f.acc = .rwl) (hne : bits v f.lo f.w ≠ bits (s.kept r) f.lo f.w) (path : Path) :
    s.writeReg path r.offset v = (.ignored, s.raise .glbSts 2 ⟨1, 1, 0, 0xFF, 0, leBytes 4 v ++ leBytes 1 (Path.code path)⟩) := by
  have hs : f.settable = true := by simp [Fld.settable, ha]
  have hj : s.judge r v = .locked := State.judge_locked hl (mem_setFields.mpr ⟨hf, hs, hne⟩) ha
  unfold State.writeReg
  simp only [hat, Reg.readOnly_of_settable hf hs, State.writeFields_locked path hj, Bool.false_eq_true, if_false, if_true]

/-- What the record of a lock violation leaves: the register locked, LOCK_VIOL set. -/
theorem State.raise_lockViol {r : Reg} {f : Fld} (hat : Reg.at? r.offset = some r) (hf : f ∈ r.fields) (ha : f.acc = .rwl)
    (c : Rec) (s : State) : (s.raise .glbSts 2 c).kept r = s.kept r ∧ (s.raise .glbSts 2 c).rf .glbSts 2 1 = 1 :=
  ⟨State.kept_raise_other _ _ _ _ _
      (Reg.offset_ne_of_rwl hat hf ha (Reg.at?_offset (Reg.mem_all_of_inRange rfl)) (by decide))
      (Reg.offset_ne_of_rwl hat hf ha (Reg.at?_offset (Reg.mem_all_of_inRange rfl)) (by decide)),
    State.rf_raise _ _ _ _ (by decide) (by decide)⟩

/-- A link's control register has no RWL field. -/
theorem Reg.ne_link_of_rwl {r : Reg} {f : Fld} (hf : f ∈ r.fields) (ha : f.acc = .rwl) (n : Nat) : r ≠ .fabLinkCtl n := by
  rintro rfl
  have h : ∀ g ∈ (Reg.fabLinkCtl n).fields, g.acc ≠ .rwl := of_decide_eq_true rfl
  exact h f hf ha

/-- Settles O45: the rules find the lock violation first; REG_WRITE passes its admission and runs its definition. -/
theorem lockedFieldsStay : Obligations.LockedFieldsStay := by
  unfold Obligations.LockedFieldsStay
  refine ⟨fun s path r v f hl hat hf ha hne => ?_, fun p s u c h => ?_, fun path i o v a f l s => rfl⟩
  · obtain ⟨hk, hv⟩ := State.raise_lockViol hat hf ha ⟨1, 1, 0, 0xFF, 0, leBytes 4 v.toNat ++ leBytes 1 (Path.code path)⟩ s
    refine ⟨hk, hv, fun hs => ?_⟩
    rw [exec_registerWrite_service hs, State.plainWrite_of_not_link hat (Reg.ne_link_of_rwl hf ha),
      State.writeReg_locked (beq_iff_eq.mpr hl) hat hf ha hne]
  · exact congrArg (Host.Outcome.next ∘ State.resume) (State.arriveAll_of_admission h)

end Sys2Proof.Machine
end

section
/-! PROOFS. Resets, power-on and boot (14_partitions_and_trust.md R411; 16_power_clocks_reset.md R464, R476, R480 to R483, R489). -/

namespace Sys2Proof.Machine

/-! ## What a reset leaves (R483) -/

/-- What a reset of `s` leaves: volatile state lost, and kept what R483 keeps but for the log. -/
structure State.ResetOf (s x : State) : Prop where
  regs : x.regs = []
  tsc : x.pow.tsc = 0
  counters : x.tel.counters = []
  commands : x.cmds.list = []
  contexts : x.host.ctxs = []
  sessions : x.host.sessions = []
  pats : x.slots.pats = []
  progs : x.slots.progs = []
  staging : x.staging = []
  map : x.map.map = s.map.map
  ptnGen : x.ptnGen = s.ptnGen
  boot : x.boot = s.boot
  svnMin : x.trust.svnMin = s.trust.svnMin
  svnAdvances : x.trust.svnAdvances = s.trust.svnAdvances
  nodeId : x.trust.nodeId = s.trust.nodeId
  hours : x.pow.hours = s.pow.hours
  peers : x.fab.peers = []
  ptns : ∀ n y, x.ptn? n = some y → y.fenced = false ∧ y.resetting = false ∧ ∃ z, s.ptn? n = some z ∧ z.priv = y.priv ∧ z.keyMode = y.keyMode

/-- A partition after a reset has neither a fence nor a reset of its own under way. -/
theorem State.ptn?_calmed {s t u : State} (h : s.Outlasts u)
    (ht : t.ptns = u.ptns.map fun x => x.map fun y => { y with fenced := false, resetting := false }) (n : Nat) (y : Ptn) (hy : t.ptn? n = some y) :
    y.fenced = false ∧ y.resetting = false ∧ ∃ z, s.ptn? n = some z ∧ z.priv = y.priv ∧ z.keyMode = y.keyMode := by
  unfold State.ptn? at hy
  rw [ht, List.getElem?_map] at hy
  cases hx : u.ptns[n]? with
  | none => simp [hx] at hy
  | some x =>
    cases x with
    | none => simp [hx] at hy
    | some x =>
      have he : { x with fenced := false, resetting := false } = y := by simpa [hx] using hy
      subst he
      exact ⟨rfl, rfl, h.grants n x (by simp [State.ptn?, hx])⟩

/-- An immediate reset, and the loss of the rails, which takes the log too. -/
theorem State.wipe_spec (cold : Bool) (s : State) :
    s.ResetOf (s.wipe cold) ∧ (s.wipe cold).log = (if cold then ⟨[], 0⟩ else s.log) ∧ (s.wipe cold).pow.resetN = s.pow.resetN ∧
      (s.wipe cold).pow.phase = .held := by
  unfold State.wipe
  extract_lets u v w p calm
  have hu : s.Outlasts u := (State.Outlasts.refl s).stopFlush.loadFlash.foldl (fun u n => (State.Outlasts.refl u).rekeyOnchip n) _
  have hw : s.Outlasts w := .ite (hu.restoreStore.emit _) hu.restoreStore
  clear_value w
  refine ⟨?_, by rw [hw.log], congrArg (·.resetN) hw.pow, rfl⟩
  exact {
    regs := rfl, tsc := rfl, counters := rfl, commands := rfl, contexts := rfl, sessions := rfl, pats := rfl, progs := rfl, staging := rfl
    map := congrArg (·.map) hw.map
    ptnGen := hw.ptnGen
    boot := hw.boot
    svnMin := hw.svnMin
    svnAdvances := hw.svnAdvances
    nodeId := hw.nodeId
    hours := congrArg (·.hours) hw.pow
    peers := rfl
    ptns := State.ptn?_calmed hw rfl }

/-- Causes, pins and states of power set after the reset change nothing that `ResetOf` speaks of. -/
theorem State.ResetOf.setPow {s x : State} (h : s.ResetOf x) (f : Power → Power) (ht : (f x.pow).tsc = x.pow.tsc)
    (hh : (f x.pow).hours = x.pow.hours) : s.ResetOf (x.setPow f) :=
  { h with tsc := ht.trans h.tsc, hours := hh.trans h.hours }

/-! ## Boot (R489) -/

@[simp] theorem State.loadIndex_pow (s : State) : s.loadIndex.pow = s.pow := by unfold State.loadIndex; split <;> simp
@[simp] theorem State.loadIndex_boot (s : State) : s.loadIndex.boot = s.boot := by unfold State.loadIndex; split <;> simp
@[simp] theorem State.loadIndex_store (s : State) : s.loadIndex.store = s.store := by unfold State.loadIndex; split <;> simp
@[simp] theorem State.loadIndex_host (s : State) : s.loadIndex.host = s.host := by unfold State.loadIndex; split <;> simp
@[simp] theorem State.loadIndex_fwDigest (s : State) : s.loadIndex.trust.fwDigest = s.trust.fwDigest := by
  unfold State.loadIndex; split <;> simp
@[simp] theorem State.loadIndex_svnRun (s : State) : s.loadIndex.trust.svnRun = s.trust.svnRun := by
  unfold State.loadIndex; split <;> simp

@[simp] theorem State.refingerprint_pow (s : State) : s.refingerprint.pow = s.pow := by unfold State.refingerprint; dsimp only; split <;> simp
@[simp] theorem State.refingerprint_boot (s : State) : s.refingerprint.boot = s.boot := by unfold State.refingerprint; dsimp only; split <;> simp
@[simp] theorem State.refingerprint_trust (s : State) : s.refingerprint.trust = s.trust := by unfold State.refingerprint; dsimp only; split <;> simp
@[simp] theorem State.refingerprint_store (s : State) : s.refingerprint.store = s.store := by unfold State.refingerprint; dsimp only; split <;> simp
@[simp] theorem State.refingerprint_host (s : State) : s.refingerprint.host = s.host := by unfold State.refingerprint; dsimp only; split <;> simp

/-- With no valid slot the boot ROM stays in recovery. -/
theorem State.startFirmware_none {s : State} (h : s.bootSlot = none) (phase : Phase) :
    s.startFirmware phase = s.setPow fun p => { p with phase := .romRecovery } := by
  unfold State.startFirmware; rw [h]

/-- What the boot of slot `k` with its image makes of a state. -/
structure State.Booted (s t : State) (phase : Phase) (k : Nat) (dig : Digest) (svn : Word32) : Prop where
  pow : t.pow = { s.pow with phase := phase }
  boot : t.boot = { s.boot with active := k }
  fwDigest : t.trust.fwDigest = dig
  svnRun : t.trust.svnRun = svn
  store : t.store = s.store
  host : t.host = s.host

theorem State.startFirmware_some {s : State} {k : Nat} {dig : Digest} {svn : Word32} {fb : Bool} (h : s.bootSlot = some (k, dig, svn, fb))
    (phase : Phase) : s.Booted (s.startFirmware phase) phase k dig svn := by
  unfold State.startFirmware
  rw [h]
  cases fb <;> constructor <;> simp [State.setPow]

/-! ### A start with the defaults -/

theorem State.configFault_blank {s : State} (h : (s.boot.config.all fun b => b == 0xFF) = true) : s.configFault = some (6, 0) := by
  unfold State.configFault
  exact if_pos h

/-- A blank configuration region: the node serves with the defaults. -/
theorem State.configure_blank {s : State} (hp : s.pow.phase = .applying) (h : (s.boot.config.all fun b => b == 0xFF) = true) :
    s.configure.pow.phase = .service ∧ s.configure.pow.cfgDefaulted = true ∧ s.configure.boot = s.boot ∧
      s.configure.trust.fwDigest = s.trust.fwDigest ∧ s.configure.trust.svnRun = s.trust.svnRun ∧
      s.configure.pow.rootLock = s.pow.rootLock := by
  unfold State.configure
  simp [hp, State.configFault_blank h, State.inService, State.setPow]

theorem State.start_none {s : State} (h : s.bootSlot = none) :
    s.start = { s with pow := { s.pow with rootLock := true, phase := .romRecovery } } := by
  have hb : (s.setPow fun p => { p with rootLock := true }).bootSlot = none := h
  unfold State.start
  rw [State.startFirmware_none hb]
  exact if_pos nofun

theorem State.start_blank {s : State} {k : Nat} {dig : Digest} {svn : Word32} {fb : Bool} (h : s.bootSlot = some (k, dig, svn, fb))
    (hc : (s.boot.config.all fun b => b == 0xFF) = true) :
    s.start.pow.phase = .service ∧ s.start.pow.cfgDefaulted = true ∧ s.start.boot.active = k ∧ s.start.trust.fwDigest = dig ∧
      s.start.trust.svnRun = svn ∧ s.start.pow.rootLock = true := by
  have hb : (s.setPow fun p => { p with rootLock := true }).bootSlot = some (k, dig, svn, fb) := h
  obtain ⟨hpow, hboot, hd, hs, -, -⟩ := State.startFirmware_some hb .applying
  obtain ⟨hp, hdef, hb', hd', hs', hr⟩ := State.configure_blank (congrArg (·.phase) hpow) (by rw [hboot]; exact hc)
  exact ⟨hp, hdef, by rw [State.start, hb', hboot], hd'.trans hd, hs'.trans hs, hr.trans (congrArg (·.rootLock) hpow)⟩

/-! ### The end of a firmware restart (R482) -/

theorem State.fwRestarted_elsewhere {s : State} (h : s.pow.phase ≠ .fwRestart) : s.fwRestarted = s := if_pos h

theorem State.fwRestarted_some {s : State} {k : Nat} {dig : Digest} {svn : Word32} {fb : Bool} (hp : s.pow.phase = .fwRestart)
    (h : s.bootSlot = some (k, dig, svn, fb)) : s.Booted s.fwRestarted .service k dig svn := by
  have hb := State.startFirmware_some h .service
  have he : s.fwRestarted = (s.startFirmware .service).refingerprint := by
    unfold State.fwRestarted
    rw [if_neg (not_not_intro hp)]
    exact if_pos (congrArg (·.phase) hb.pow)
  rw [he]
  exact ⟨by simpa using hb.pow, by simpa using hb.boot, by simpa using hb.fwDigest, by simpa using hb.svnRun, by simpa using hb.store,
    by simpa using hb.host⟩

theorem State.fwRestarted_none {s : State} (hp : s.pow.phase = .fwRestart) (h : s.bootSlot = none) :
    s.fwRestarted = { s with pow := { s.pow with phase := .romRecovery } } := by
  unfold State.fwRestarted
  rw [if_neg (not_not_intro hp), State.startFirmware_none h]
  exact if_neg nofun

/-! ## RESET_N, the root PLL and the rails (R464, R476, R480, R481) -/

theorem State.resetLow_up {s : State} (ho : s.pow.state ≠ .off) (hr : s.pow.resetN = true) :
    s.resetLow = (s.packageReset 1).setPow fun p => { p with resetN := false } := if_neg (by simp [ho, hr])

theorem State.resetLow_same {s : State} (h : s.pow.state = .off ∨ s.pow.resetN = false) : s.resetLow = s := if_pos (by simpa using h)

theorem State.rootLoss_clocked {s : State} (ho : s.pow.state ≠ .off) (hc : Phase.clocked s.pow.phase = true) :
    s.rootLoss = (s.packageReset 3).start := if_pos ⟨hc, ho⟩

theorem State.rootLoss_same {s : State} (h : s.pow.state = .off ∨ Phase.clocked s.pow.phase = false) : s.rootLoss = s := by
  refine if_neg ?_
  rintro ⟨hc, ho⟩
  rcases h with h | h
  · exact ho h
  · simp [h] at hc

theorem State.railsFall_up {s : State} (ho : s.pow.state ≠ .off) :
    s.railsFall = (s.wipe true).setPow fun p => { p with state := .off, resetN := false, incarn := s.pow.incarn } := if_neg ho

theorem State.railsFall_same {s : State} (h : s.pow.state = .off) : s.railsFall = s := if_pos h

theorem State.resetRise_same {s : State} (h : s.pow.state = .off ∨ s.pow.resetN = true) (hot : Int) : s.resetRise hot = s := if_pos h

/-- RESET_N rises in a tripped node that is still hot: it stays stopped (R524). -/
theorem State.resetRise_hot {s : State} (ho : s.pow.state ≠ .off) (hr : s.pow.resetN = false) (ht : s.pow.thermtrip = true) {hot : Int}
    (h : 100 ≤ hot) : s.resetRise hot = s.setPow fun p => { p with resetN := true, phase := .tripped } := by
  unfold State.resetRise
  rw [if_neg (by simp [ho, hr]), if_pos ⟨ht, h⟩]

/-- RESET_N rises otherwise: THERMTRIP_N is released, and the node starts. -/
theorem State.resetRise_starts {s : State} (ho : s.pow.state ≠ .off) (hr : s.pow.resetN = false) {hot : Int}
    (h : ¬ (s.pow.thermtrip = true ∧ 100 ≤ hot)) :
    s.resetRise hot =
      ((if s.pow.thermtrip = true then s.emit (.pin "THERMTRIP_N" true) else s).setPow fun p => { p with resetN := true, thermtrip := false }).start := by
  unfold State.resetRise
  rw [if_neg (by simp [ho, hr]), if_neg h]

theorem State.powerOn_up {s : State} (h : s.pow.state ≠ .off) : s.powerOn = s := if_pos h

/-- The rails rise: RESET_N is low, and an incarnation is counted (R376). -/
theorem State.powerOn_off {s : State} (h : s.pow.state = .off) :
    s.powerOn = (if s.pow.thermtrip = true then s.emit (.pin "THERMTRIP_N" true) else s).setPow fun p => { p with
      state := .ride, phase := .held, thermtrip := false, railsOut := [], lastCause := 0, incarn := p.incarn + 1 } := if_neg (not_not_intro h)

theorem State.powerOn_off_spec {s : State} (h : s.pow.state = .off) :
    s.powerOn.pow.state = .ride ∧ s.powerOn.pow.phase = .held ∧ s.powerOn.pow.lastCause = 0 ∧ s.powerOn.pow.incarn = s.pow.incarn + 1 ∧
      s.powerOn.pow.railsOut = [] ∧ s.powerOn.pow.thermtrip = false ∧ { s.powerOn with pow := s.pow, out := s.out } = s := by
  rw [State.powerOn_off h]
  split <;> exact ⟨rfl, rfl, rfl, rfl, rfl, rfl, rfl⟩

/-- The three resets of a node that is up. -/
theorem State.resets_keep {s : State} (ho : s.pow.state ≠ .off) : ∃ t v w : State,
    (s.pow.resetN = true → exec .resetN s = .next t) ∧ t.pow.resetN = false ∧ t.pow.phase = .held ∧ t.pow.lastCause = 1 ∧
    (Phase.clocked s.pow.phase = true → exec .rootPllLoss s = .next v.start) ∧ v.pow.lastCause = 3 ∧ v.pow.resetN = s.pow.resetN ∧
    exec .railsDown s = .next w ∧ w.pow.state = .off ∧ w.log.records = [] ∧ t.log = s.log ∧ v.log = s.log ∧
    s.ResetOf t ∧ s.ResetOf v ∧ s.ResetOf w := by
  obtain ⟨hx, hxl, hxn, hxp⟩ := s.wipe_spec false
  obtain ⟨hy, hyl, -, -⟩ := s.wipe_spec true
  have ht := fun hr => congrArg (Host.Outcome.next (φ := Fault) (ρ := Refusal)) (State.resetLow_up ho hr)
  have hv := fun hc => congrArg (Host.Outcome.next (φ := Fault) (ρ := Refusal)) (State.rootLoss_clocked ho hc)
  have hw := congrArg (Host.Outcome.next (φ := Fault) (ρ := Refusal)) (State.railsFall_up ho)
  unfold State.packageReset at ht hv
  generalize s.wipe false = x at *
  generalize s.wipe true = y at *
  exact ⟨_, _, _, ht, rfl, hxp, rfl, hv, rfl, hxn, hw, rfl, congrArg (·.records) hyl, hxl, hxl,
    (hx.setPow _ rfl rfl).setPow _ rfl rfl, hx.setPow _ rfl rfl, hy.setPow _ rfl rfl⟩

/-- Settles O59: each reset by what `wipe` keeps, each start by the slot that boots. -/
theorem resetsKeepWhatTheSpecKeeps : Obligations.ResetsKeepWhatTheSpecKeeps := by
  unfold Obligations.ResetsKeepWhatTheSpecKeeps
  refine ⟨fun s ho => ?_, fun s => ⟨fun h => ?_, fun h => ?_, fun h => ?_⟩, fun s hot => ⟨fun h => ?_, fun ho hr ht h => ?_,
    fun ho hr ht h => ?_, fun ho hr ht => ?_⟩, fun s h => State.start_none h, fun s k dig svn fb h hc => State.start_blank h hc,
    fun s h => ?_, fun s h => ?_, fun s h => ?_, fun s k dig svn fb hp h => ?_, fun s hp h => ?_⟩
  · obtain ⟨t, v, w, ht, htn, htp, htc, hv, hvc, hvn, hw, hwo, hwl, htl, hvl, rt, rv, rw'⟩ := State.resets_keep ho
    refine ⟨t, v, w, ht, htn, htp, htc, hv, hvc, hvn, hw, hwo, hwl, htl, hvl, fun x hx => ?_⟩
    have r : s.ResetOf x := by
      simp only [List.mem_cons, List.not_mem_nil, or_false] at hx
      rcases hx with rfl | rfl | rfl <;> assumption
    exact ⟨r.regs, r.tsc, r.counters, r.commands, r.contexts, r.sessions, r.pats, r.progs, r.staging, r.map, r.ptnGen, r.boot,
      r.svnMin, r.svnAdvances, r.nodeId, r.hours, r.peers, r.ptns⟩
  · exact congrArg Host.Outcome.next (State.resetLow_same h)
  · exact congrArg Host.Outcome.next (State.rootLoss_same h)
  · exact congrArg Host.Outcome.next (State.railsFall_same h)
  · exact congrArg Host.Outcome.next (State.resetRise_same h hot)
  · exact congrArg Host.Outcome.next (State.resetRise_hot ho hr ht h)
  · have hs := State.resetRise_starts ho hr (hot := hot) fun hh => absurd hh.2 (not_le.mpr h)
    rw [if_pos ht] at hs
    exact congrArg Host.Outcome.next hs
  · have hs := State.resetRise_starts ho hr (hot := hot) fun hh => by simp [ht] at hh
    rw [if_neg (by simp [ht])] at hs
    exact congrArg Host.Outcome.next hs
  · exact congrArg Host.Outcome.next (State.powerOn_up h)
  · exact ⟨_, rfl, State.powerOn_off_spec h⟩
  · exact congrArg (Host.Outcome.next ∘ State.resume) (State.fwRestarted_elsewhere h)
  · have hb := State.fwRestarted_some hp h
    exact ⟨_, rfl, congrArg (·.phase) hb.pow, hb.fwDigest, hb.svnRun, hb.store, hb.host⟩
  · exact congrArg (Host.Outcome.next ∘ State.resume) (State.fwRestarted_none hp h)

end Sys2Proof.Machine
end

section
/-! SUPPORT. What a message does once it is handled, what the installation of a descriptor leaves as it was, and pages found by
their handles (R16, R373 to R376, R459). -/

namespace Sys2Proof.Machine

/-! ## Descriptors -/

theorem State.touchLeaf_frame (s : State) (n : Nat) : { s.touchLeaf n with flash := s.flash, tel := s.tel } = s := by
  unfold State.touchLeaf
  dsimp only
  split <;> rfl

theorem State.loadLeaves_frame (q : Seq) (s : State) : { s.loadLeaves q with flash := s.flash, tel := s.tel } = s :=
  List.foldlRecOn (motive := fun t : State => { t with flash := s.flash, tel := s.tel } = s) _ _ rfl fun t ht n _ => by
    have h := congrArg (fun u : State => { u with flash := s.flash, tel := s.tel }) (t.touchLeaf_frame n)
    exact h.trans ht

/-- A descriptor installed changes the sequences, the leaf cache and its counters alone. -/
theorem State.install_frame (h : Handle) (s : State) :
    { s.install h with store := { (s.install h).store with seqs := s.store.seqs }, flash := s.flash, tel := s.tel } = s := by
  unfold State.install
  split
  · next q _ =>
    split
    · rfl
    · exact (congrArg (fun u : State => { u with store := { u.store with seqs := s.store.seqs } }) (s.loadLeaves_frame q):)
  · rfl

theorem State.install_cmds (h : Handle) (s : State) : (s.install h).cmds = s.cmds := (congrArg State.cmds (s.install_frame h) :)

theorem State.install_self (h : Handle) (s : State) : (s.install h).self = s.self := (congrArg State.self (s.install_frame h) :)

/-! ## Elements and pages found by a key -/

/-- Changing elements without changing what a search asks of them leaves the search at the same place. -/
theorem find?_updWhere {α : Type} {p r : α → Bool} {f : α → α} (hf : ∀ x, r (f x) = r x) (l : List α) :
    (updWhere p f l).find? r = (l.find? r).map fun x => if p x then f x else x := by
  have hr : (r ∘ fun x => if p x then f x else x) = r := by
    funext x
    dsimp only [Function.comp_apply]
    split
    · exact hf x
    · rfl
  rw [updWhere, List.find?_map, hr]

theorem State.page?_updPage {f : Page → Page} (hf : ∀ p, (f p).handle = p.handle) (s : State) (k h : Handle) :
    (s.updPage k f).page? h = (s.page? h).map fun p => if p.handle == k then f p else p :=
  find?_updWhere (fun p => by rw [hf]) _

/-! ## Messages -/

section
variable {s u : State} {h : MsgHdr}

/-- An unordered message that is handled acts on the state in which its SEQ is noted. -/
theorem State.unordered_of_heard (hu : heard h s = some u) (act : State → State) : s.unordered h act = act u := by
  unfold heard at hu
  unfold State.unordered
  generalize (s.gathered h false).screen h = x at hu ⊢
  obtain ⟨ok, v⟩ := x
  cases ok with
  | false => cases hu
  | true =>
    simp only [Option.ite_none_left_eq_some, Option.some.injEq] at hu
    obtain ⟨hold, rfl⟩ := hu
    simp only [not_true_eq_false, if_false]
    exact if_neg hold

/-- A request is answered in the state in which it is handled, unless the node has been expelled. -/
theorem State.serve_of_asked (hu : asked h s = some u) (act : State → State) : s.serve h act = act u := by
  unfold asked at hu
  cases hv : heard h s with
  | none => simp [hv] at hu
  | some v =>
    simp only [hv, Option.ite_none_left_eq_some, Option.some.injEq] at hu
    obtain ⟨hg, rfl⟩ := hu
    exact (State.unordered_of_heard hv _).trans (if_neg hg)

end

end Sys2Proof.Machine
end

section
/-! PROOFS. Attends and batches: admission, wait, start and the engine step that ends one (R19, R72, R133, R141, R142, R256, R437). -/

namespace Sys2Proof.Machine

/-! ## What R72, R141 and R453 answer -/

section
variable {s : State} {q : Seq} {r : AttendReq} {p : Option ProgVer} {v : Option PatVer}

theorem State.attendAt_empty (h : r.vis = 0) : s.attendAt q r p v =
    .error (.ok, (emptyPartial 0 (q.group r.layer).cv (q.group r.layer).qHeads (q.layer r.layer).length r.compact).bytes) :=
  if_pos h

theorem State.attendAt_late (h : (q.layer r.layer).length < r.vis) (hl : (q.layer r.layer).loss = none) (ht : r.timeoutUs = 0) :
    s.attendAt q r p v = .error (.notYet, notYetBytes q r.layer) := by
  unfold State.attendAt
  rw [if_neg (by omega), if_neg (by simp [hl]), if_pos ⟨.inl h, ht⟩]

theorem State.attendAt_held (h : 0 < r.vis) (hl : r.vis ≤ (q.layer r.layer).length ∨ (q.layer r.layer).loss = none)
    (ht : (r.vis ≤ (q.layer r.layer).length ∧ s.windowShort q r.layer r.vis = false) ∨ r.timeoutUs ≠ 0) :
    s.attendAt q r p v =
      .ok (if s.landed q (freshRun q r p v) then freshRun q r p v else { freshRun q r p v with pins := s.admitPins q r }) := by
  have hlost : ¬ ((q.layer r.layer).length < r.vis ∧ (q.layer r.layer).loss.isSome = true) := by
    rintro ⟨hlt, hs⟩
    rcases hl with hl | hl
    · omega
    · simp [hl] at hs
  have hlate : ¬ (((q.layer r.layer).length < r.vis ∨ s.windowShort q r.layer r.vis = true) ∧ r.timeoutUs = 0) := by
    rintro ⟨hlt | hw, h0⟩ <;> rcases ht with ⟨hle, hs⟩ | ht
    · omega
    · exact ht h0
    · simp [hs] at hw
    · exact ht h0
  unfold State.attendAt
  rw [if_neg (by omega), if_neg hlost, if_neg hlate]
  dsimp only
  split <;> rfl

end

/-! ## An attend at its admission -/

section
variable {u : State} {c : Cmd} {q : Seq} {r : AttendReq} {b : Option ProgVer × Option PatVer}

/-- The state in which an admitted attend is looked at: counted, its token-ID blocks checked. -/
def State.attendCounted (u : State) (c : Cmd) (q : Seq) (r : AttendReq) (v : Option PatVer) : State :=
  (u.countPtn c.ptn 1 0).verifyTokens q (q.group r.layer) r.vis v

theorem attendRun_done {st : Status} {payload : List Byte} (hq : u.seq? (seqAt0 c.data) = some q) (hr : parseAttend q c.data = some r)
    (hb : u.bindAll c.ptn r.program r.k r.filter = .ok b)
    (ha : let v := u.attendCounted c q r b.2; v.attendAt ((v.seq? q.handle).getD q) r b.1 b.2 = .error (st, payload)) :
    attendRun c u = .done st payload ((u.attendCounted c q r b.2).endAtOnce c q r) := by
  unfold State.attendCounted at ha
  unfold attendRun
  simp only [hq, hr, hb, ha]
  rfl

theorem attendRun_held {run : AttendRun} (hq : u.seq? (seqAt0 c.data) = some q) (hr : parseAttend q c.data = some r)
    (hb : u.bindAll c.ptn r.program r.k r.filter = .ok b)
    (ha : let v := u.attendCounted c q r b.2; v.attendAt ((v.seq? q.handle).getD q) r b.1 b.2 = .ok run) :
    attendRun c u =
      .held ((u.attendCounted c q r b.2).admitRun c (((u.attendCounted c q r b.2).seq? q.handle).getD q) run [] id) := by
  unfold State.attendCounted at ha
  unfold attendRun
  simp only [hq, hr, hb, ha]
  rfl

theorem State.endAtOnce_empty {s : State} (h : r.vis = 0) :
    s.endAtOnce c q r = (s.draft q r c.ptn c.pkt.reqId).updLayer r.seq r.layer fun y => { y with selection := [] } :=
  if_pos h

theorem State.endAtOnce_covers {s : State} (h : r.vis ≠ 0) : s.endAtOnce c q r = s.draft q r c.ptn c.pkt.reqId := if_neg h

/-- An admitted ATTEND answers as its run says, then engines take what can run. -/
theorem exec_attend_of_admission {p : Packet} {s : State} (h : admission .attend p s = some (c, u)) :
    exec (.attend p) s = .next ((u.settle c (attendRun c u)).progress.dispatch).resume :=
  congrArg (fun t : State => Host.Outcome.next t.dispatch.resume) (State.arriveAll_of_admission h)

end

/-! ## Waits -/

section
variable {s : State} {id : Nat} {i : Inflight}

theorem State.landedEvent_attend {r : AttendRun} {q : Seq} (hi : s.inflight? id = some i) (hw : i.wait = .positions r)
    (hq : s.seq? r.req.seq = some q) (hl : s.landed q r = true) : s.landedEvent id = (s.startRun i q r []).dispatch := by
  unfold State.landedEvent State.positionsLanded
  simp only [hi, hw, Wait.inner, hq, hl, if_true]

theorem State.waitExpired_attend {r : AttendRun} {q : Seq} (hi : s.inflight? id = some i) (hw : i.wait = .positions r)
    (hq : s.seq? r.req.seq = some q) (hl : (q.layer r.req.layer).length < r.req.vis) :
    s.waitExpired id = s.complete i .notYet none 0 (notYetBytes q r.req.layer) := by
  unfold State.waitExpired State.attendExpired
  simp only [hi, hw, Wait.inner, hq, hl, if_true]

/-! ## The engine step -/

/-- An attend's step commits: its engine is free, its count is taken, and no replay of it is held. -/
theorem State.commitStep_attend {e n : Nat} {y : Engine} {r : AttendRun} (hy : s.eng.engines[e]? = some y) (hs : y.step = some (n, .attend id))
    (hi : s.inflight? id = some i) (hw : i.wait = .attend r) :
    let v := (s.updEngine e fun y => { y with step := none }).countStep n e 1
    s.commitStep e = ((v.setHeld (v.eng.held.filter fun h => h.step != .attend id)).commitAttend i r).schedule := by
  unfold State.commitStep
  simp only [hy, hs, hi, hw, Wait.inner, Option.bind_some]

/-- With the loop at its end and no holder to ask further, the attend finishes (R133, R134). -/
theorem State.commitAttend_done {r : AttendRun} {st : LoopSt} :
    let nb := fun (sel : List Handle) (h : Handle) =>
      !r.req.lowlat && !r.nearBank.contains h && [3, 4].any fun k => (s.nbMine r.group.layout [h] ((s.batchPages i ++ sel).eraseDups) k).contains h
    (r.work s.freeCtr).loop r.remotes (fun sel h => s.readable h && !nb sel h) s.groupHere (r.work s.freeCtr).fuel
      ⟨r.selected, r.refined, r.budgetLeft⟩ = .done st → s.asksFurther r st = [] → s.commitAttend i r = s.finishRun i r st := by
  intro nb hd ha
  unfold State.commitAttend
  dsimp only
  rw [hd]
  simp only [ha]

end

/-- Settles O22: an attend from its admission to its end. -/
theorem attendsTakeEffect : Obligations.AttendsTakeEffect := by
  unfold Obligations.AttendsTakeEffect
  refine ⟨fun p s u c q r b h hq hr hb => ⟨fun h0 => ?_, fun h0 hl ht => ?_, fun hlt hl ht => ?_⟩, fun p s u c h => ?_,
    fun s id i r q hi hw hq => ⟨fun hl => ?_, fun hl => ?_⟩, fun s e y n id i r st hy hs hi hw hd ha => ?_⟩
  · rw [exec_attend_of_admission h, attendRun_done hq hr hb (State.attendAt_empty h0), State.endAtOnce_empty h0]
    rfl
  · rw [exec_attend_of_admission h, attendRun_held hq hr hb (State.attendAt_held h0 hl ht)]
    rfl
  · rw [exec_attend_of_admission h, attendRun_done hq hr hb (State.attendAt_late hlt hl ht), State.endAtOnce_covers (by omega)]
    rfl
  · exact congrArg (fun t : State => Host.Outcome.next t.dispatch.resume) (State.arriveAll_of_admission h)
  · exact congrArg Host.Outcome.next (State.landedEvent_attend hi hw hq hl)
  · exact congrArg Host.Outcome.next (State.waitExpired_attend hi hw hq hl)
  · exact congrArg Host.Outcome.next ((State.commitStep_attend hy hs hi hw).trans (congrArg State.schedule (State.commitAttend_done hd ha)))

end Sys2Proof.Machine
end

section
/-! PROOFS. Partial requests at the holder and at the home (R27, R75, R134, R257, R378, R379). -/

namespace Sys2Proof.Machine

/-! ## The holder -/

section
variable {v : State} {h : MsgHdr} {b : PartialReq}

/-- A request that is kept: its number, what it waits for, and the state with its pages pinned, checked, read and routed. -/
def State.partKept (h : MsgHdr) (b : PartialReq) (v : State) : HeldPart × State :=
  let w := b.pages.foldl (fun s p => s.verify p) (v.pin b.pages)
  let need := b.pages.filter fun p => match w.page? p with | some x => x.sealed? && !x.recovering && !w.readable p | none => false
  let z := need.foldl (fun s p => s.readFlash p) w
  let id := z.cmds.nextId
  let x := z.routeNear id (match b.pages.findSome? z.page? with | some p => p.img.layout | none => .exact) b.exhaustive b.pages b.pages
  let part : HeldPart := ⟨id, h, b, (need ++ x.1).eraseDups, []⟩
  (part, { x.2 with cmds := { x.2.cmds with nextId := id + 1, parts := x.2.cmds.parts ++ [part] } })

theorem State.gotPartialReq_declined {k : Nat} (hd : (v.install b.seq).declines h.epoch b = some k) :
    v.gotPartialReq h b = (v.install b.seq).answerPart h (.partialDecline h.seq k) := by
  unfold State.gotPartialReq
  simp only [hd]

theorem State.gotPartialReq_kept (hd : (v.install b.seq).declines h.epoch b = none) :
    v.gotPartialReq h b = ((v.install b.seq).partKept h b).2.servePart ((v.install b.seq).partKept h b).1 := by
  unfold State.gotPartialReq
  simp only [hd]
  rfl

theorem State.answerPart_other {m : Msg} (hs : h.src ≠ v.self) : v.answerPart h m = v.postFor h.src h.reqId m := if_pos hs

end

section
variable {y : State} {x : HeldPart}

theorem State.servePart_waits (hn : x.needs ≠ []) : y.servePart x = y := if_pos (.inl hn)

/-- A kept request with nothing awaited is answered, and its pins go. -/
theorem State.servePart_answers {a : State} {st : Nat} {p : PartialSet} {l : List LostRange} (hn : x.needs = []) (ht : y.tandemShort x.req = false)
    (hr : x.req.ofRecall = false) (hp : (y.holderPins x.req true).length = x.req.pages.length)
    (ha : y.holderAnswer x.req (y.holderPins x.req true) x.nearBank = (.partialReply 0 st p l, a)) :
    y.servePart x = ((a.dropPart x).noteSelected x.hdr.reqId ((y.holderPins x.req true).map fun p => p.1.handle)).answerPart x.hdr
      (.partialReply x.hdr.seq st p l) := by
  unfold State.servePart
  simp [hn, ht, hr, hp, ha]

end

/-! ## The home -/

section
variable {s : State} {h : MsgHdr} {i : Inflight} {r : AttendRun} {x : Remote} {k : Word32}

/-- Pages of an answered request that the holder reports lost. -/
def AttendRun.gone (r : AttendRun) (x : Remote) (lost : List LostRange) : List Handle :=
  x.pages.filter fun h => r.pins.any fun q => q.page == h && (lost.map fun l => l.first / 256).contains q.block

/-- A run with the answer of a request; the pages that the holder lost are waited for here. -/
def AttendRun.answered (r : AttendRun) (x : Remote) (p : PartialSet) (st : Nat) (gone : List Handle) : AttendRun :=
  { r with
    remotes := updWhere (· == x) (fun y =>
      { y with answer := some p, short := st == Status.budgetExhausted.code, pages := y.pages.filter fun h => !gone.contains h }) r.remotes
    needs := r.needs ++ gone }

/-- A page that the holder lost is recovered at the home. -/
def State.recoverLost (r : AttendRun) (s : State) (h : Handle) : State :=
  match r.pins.find? fun q => q.page == h with
  | some q => s.wantPage h ⟨r.req.seq, r.req.layer, q.block⟩
  | none => s

theorem State.gotPartial_taken {st : Nat} {p : PartialSet} {lost : List LostRange} {src : NodeId} {reqId : Word64}
    (hx : s.remoteOf reqId src k = some (i, r, x)) (hf : r.fits p = true) (hs : st ≠ Status.notYet.code) (hn : x.further = false) :
    s.gotPartial src reqId k st p lost =
      ((r.gone x lost).foldl (State.recoverLost r) (s.setRun i.id (r.answered x p st (r.gone x lost)))).dispatch := by
  unfold State.gotPartial
  simp only [hx, hf, hs, hn, not_true_eq_false, Bool.false_eq_true, false_and, or_self, if_false]
  rfl

theorem State.anyPartial_ofAttend {st : Nat} {p : PartialSet} {lost : List LostRange}
    (hr : (s.recallBy h.reqId fun r => (r.openReq k (· == h.src)).isSome) = none) :
    s.anyPartial h k st p lost = s.gotPartial h.src h.reqId k st p lost := by
  unfold State.anyPartial
  simp only [hr]

theorem State.declined_ofAttend {n : Nat} (hx : s.remoteOf h.reqId h.src k = some (i, r, x)) :
    s.declined h k n = (if n = 4 then s.countFailed h.src else s).remoteFailed i r x := by
  unfold State.declined
  simp only [hx]

theorem State.fanoutLate_ofAttend {id : Nat} (hi : s.inflight? id = some i) (hw : i.wait = .attend r)
    (hx : (r.remotes.find? fun x => x.reqSeq == k && x.answer.isNone && !x.failed) = some x) :
    s.fanoutLate id k = (s.countFailed x.node).remoteFailed i r x := by
  unfold State.fanoutLate State.attendFanout
  simp only [hi, hw, Wait.inner, hx]

theorem State.remoteFailed_twice (hn : x.further = false) (hr : x.resent = true) : s.remoteFailed i r x =
    (s.setRun i.id { r with remotes := updWhere (· == x) (fun y => { y with failed := true }) r.remotes }).dispatch := by
  unfold State.remoteFailed
  simp only [hn, hr, Bool.false_eq_true, if_false, if_true]

theorem State.remoteFailed_once (hn : x.further = false) (hr : x.resent = false) :
    let b := if r.req.tokenBudget = 0 then 0 else budgetShare r.budgetLeft x.pages.length (max 1 r.selected.length)
    let y := s.resend i { r with remotes := delAll x r.remotes, budgetLeft := r.budgetLeft - b } x b
    s.remoteFailed i r x = y.2.setRun i.id y.1 := by
  unfold State.remoteFailed
  simp only [hn, hr, Bool.false_eq_true, if_false]

end

/-- Settles O23: requests at the holder, then answers and failures at the home. -/
theorem partialMessagesTakeEffect : Obligations.PartialMessagesTakeEffect := by
  unfold Obligations.PartialMessagesTakeEffect
  refine ⟨fun s u h b hu hs => ⟨fun k hd => ?_, fun hd => ⟨fun hn => ?_, fun st p l a hn ht hr hp ha => ?_⟩⟩,
    fun s u h k st p lost i r x hu hr hx hf hst hn => ?_, fun s u h k n i r x hu hx => ?_, fun s id k i r x hi hw hx => ?_,
    fun s i r x hn => ⟨State.remoteFailed_twice hn, State.remoteFailed_once hn⟩, fun s u h q l pages hu => ?_⟩
  · have hself : h.src ≠ (u.install b.seq).self := by rwa [State.install_self]
    exact congrArg Host.Outcome.next ((State.serve_of_asked hu _).trans ((State.gotPartialReq_declined hd).trans (State.answerPart_other hself)))
  · exact congrArg Host.Outcome.next ((State.serve_of_asked hu _).trans ((State.gotPartialReq_kept hd).trans (State.servePart_waits hn)))
  · exact congrArg Host.Outcome.next ((State.serve_of_asked hu _).trans ((State.gotPartialReq_kept hd).trans
      (State.servePart_answers hn ht hr hp ha)))
  · exact congrArg Host.Outcome.next ((State.unordered_of_heard hu _).trans ((State.anyPartial_ofAttend hr).trans
      (State.gotPartial_taken hx hf hst hn)))
  · exact congrArg Host.Outcome.next ((State.unordered_of_heard hu _).trans (State.declined_ofAttend hx))
  · exact congrArg Host.Outcome.next (State.fanoutLate_ofAttend hi hw hx)
  · exact congrArg Host.Outcome.next (State.unordered_of_heard hu _)

end Sys2Proof.Machine
end

section
/-! PROOFS. Gradient passes: GRAD_ATTEND, GRAD_READ, GRAD_CLEAR and the requests between nodes (R16, R62, R146 to R149, R314, R315). -/

namespace Sys2Proof.Machine

/-! ## GRAD_ATTEND -/

section
variable {u v : State} {c : Cmd} {q : Seq} {r x : GradRun} {b : Option ProgVer × Option PatVer}

/-- The run of an admitted pass: its pattern version bound, with the token-ID blocks that its filter reads. -/
def GradRun.bound (r : GradRun) (q : Seq) (v : Option PatVer) : GradRun :=
  { r with version := v, duplicate := false, ids := match v with | some v => filterBlocks q r.group r.top v | none => [] }

theorem gradRun_starts (hq : u.seq? (seqAt0 c.data) = some q) (hr : parseGrad q c.data = some r) (hb : u.bindAll c.ptn none [] r.filter = .ok b)
    (hl : gradLanded (((u.verifyTokens q r.group r.top b.2).seq? q.handle).getD q) (r.bound q b.2) = true)
    (hs : ((u.verifyTokens q r.group r.top b.2).countPtn c.ptn 1 10 r.rows.length).startGrad c.ptn c.pkt.reqId
      (((u.verifyTokens q r.group r.top b.2).seq? q.handle).getD q) (r.bound q b.2) = some (x, v)) :
    gradRun false c u = .wait (.grad x) (x.pins.map fun p => p.1.page) v := by
  have htop : ¬ ((((u.verifyTokens q r.group r.top b.2).seq? q.handle).getD q).layer (r.bound q b.2).layer).length < (r.bound q b.2).top :=
    Nat.not_lt.mpr (of_decide_eq_true (Bool.and_eq_true_iff.mp hl).1)
  unfold gradRun
  simp only [hq, hr, hb]
  refine (if_neg fun h => htop h.1).trans ((if_neg fun h => htop h.1).trans ((if_neg (not_not_intro hl)).trans ?_))
  split
  · next hn => exact nomatch hs.symm.trans hn
  · next y hy =>
    obtain rfl := Option.some.inj (hs.symm.trans hy)
    rfl

theorem exec_gradAttend_of_admission {p : Packet} {s : State} (h : admission .gradAttend p s = some (c, u)) :
    exec (.gradAttend p) s = .next ((u.settle c (gradRun false c u)).progress.dispatch).resume :=
  congrArg (fun t : State => Host.Outcome.next t.dispatch.resume) (State.arriveAll_of_admission h)

end

/-! ## What a pass leaves as it was -/

section
variable {P : State → Prop} {seq : Handle} {l : Nat} {g : LayerGroup} {alpha : Word32} {adds : Handle → Bool}

/-- A pass does nothing to the state but add terms to planes that take them. -/
theorem State.gradHead_induct (hP : ∀ (u : State) block h t x k, adds k = true → P u → P (u.addTerms seq l g block h t x))
    (draw row h : Nat) (r : GradRow) (cells : List (Pinned × Nat)) {s : State} (hs : P s) :
    P (s.gradHead draw seq l g alpha adds r row h cells).2 := by
  unfold State.gradHead
  refine List.foldlRecOn (motive := fun acc : List Word32 × State => P acc.2) _ _ hs fun acc ha y _ => ?_
  split
  · exact ha
  · dsimp only
    split
    · next hk => exact hP _ _ _ _ _ _ hk ha
    · exact ha

theorem State.gradPass_induct (hP : ∀ (u : State) block h t x k, adds k = true → P u → P (u.addTerms seq l g block h t x))
    (draw : Nat) (rows : List GradRow) (pins : List (Pinned × List (BitVec 256))) {s : State} (hs : P s) :
    P (s.gradPass draw seq l g alpha adds rows pins).2 := by
  unfold State.gradPass
  refine List.foldlRecOn (motive := fun acc : List (List Word32) × State => P acc.2) _ _ hs fun acc ha r _ => ?_
  exact List.foldlRecOn (motive := fun a : List Word32 × State => P a.2) _ _ ha fun a ha h _ => State.gradHead_induct hP _ _ _ _ _ ha

end

/-- The state with other gradient planes. -/
def State.withGrads (s : State) (l : List Grad) : State := { s with store := { s.store with grads := l } }

theorem State.addTerms_grads (seq : Handle) (l : Nat) (g : LayerGroup) (block h t : Nat) (x : GradTerms) (s : State) :
    ∃ k, s.addTerms seq l g block h t x = s.withGrads k := by
  have add (plane : Nat) (ws : List (Nat × Word32)) (u : State) (hu : ∃ k, u = s.withGrads k) :
      ∃ k, ws.foldl (fun s y => s.addGrad seq l block plane t y.1 y.2) u = s.withGrads k :=
    List.foldlRecOn (motive := fun u : State => ∃ k, u = s.withGrads k) _ _ hu fun u hu y _ => by
      obtain ⟨k, rfl⟩ := hu
      exact ⟨_, rfl⟩
  exact add _ _ _ (add _ _ _ ⟨s.store.grads, rfl⟩)

/-- A pass changes planes alone. -/
theorem State.gradPass_grads (draw : Nat) (seq : Handle) (l : Nat) (g : LayerGroup) (alpha : Word32) (adds : Handle → Bool)
    (rows : List GradRow) (pins : List (Pinned × List (BitVec 256))) (s : State) :
    ∃ k, (s.gradPass draw seq l g alpha adds rows pins).2 = s.withGrads k :=
  State.gradPass_induct (P := fun u => ∃ k, u = s.withGrads k) (fun u block h t x _ _ hu => by
    obtain ⟨k, rfl⟩ := hu
    obtain ⟨k', hk⟩ := (s.withGrads k).addTerms_grads seq l g block h t x
    exact ⟨k', hk⟩) draw rows pins ⟨s.store.grads, rfl⟩

/-- A pass whose pages all have these rows already changes nothing. -/
theorem State.gradPass_none {adds : Handle → Bool} (ha : ∀ k, adds k = false) (draw : Nat) (seq : Handle) (l : Nat) (g : LayerGroup)
    (alpha : Word32) (rows : List GradRow) (pins : List (Pinned × List (BitVec 256))) (s : State) :
    (s.gradPass draw seq l g alpha adds rows pins).2 = s :=
  State.gradPass_induct (P := fun u => u = s) (fun _ _ _ _ _ k hk _ => absurd hk (by simp [ha k])) draw rows pins rfl

/-! ## The holder -/

section
variable {s : State} {h : MsgHdr} {b : GradReq}

theorem State.serveGrad_waits {x : HeldGrad} (hn : x.needs ≠ []) : s.serveGrad x = s := if_pos hn

/-- A held request whose pages are all here in good order is answered, and its pins go. -/
theorem State.serveGrad_serves {x : HeldGrad} (hn : x.needs = []) :
    let t : State := { s with cmds := { s.cmds with grads := delAll x s.cmds.grads } }
    let ps := x.req.pages.filterMap t.page?
    (ps.any (·.recovering)) = false → ps.length = x.req.pages.length → s.serveGrad x = (t.holderGrad x.hdr x.req ps).unpin x.req.pages := by
  intro t ps hr hl
  have hg : ¬ (ps.length < x.req.pages.length ∨ ps.any (·.recovering) = true) := by simp [hl, hr]
  unfold State.serveGrad
  rw [if_neg (not_not_intro hn)]
  exact congrArg (State.unpin x.req.pages) (if_neg hg)

/-- The state of a pass, with what a holder keeps of it put back. -/
theorem State.gradPass_restored {a y : State} {seen : List GradSeen} (hy : ∃ k, y = a.drawn.withGrads k) :
    let t : State := { y with store := { y.store with gradSeen := seen } }
    { t with store := { t.store with grads := a.store.grads, gradSeen := a.store.gradSeen }, freeCtr := a.freeCtr } = a := by
  obtain ⟨k, rfl⟩ := hy
  rfl

/-- A holder with room for its planes adds to the blocks for which the request is not recorded, records it, and answers (R149). -/
theorem State.holderGrad_answers {ps : List Page} {a : State}
    (ha : s.allocGrads (s.seqPtn b.seq) (s.pageGroup b.seq b.layer (b.rows.headD ⟨0, [], [], [], [], []⟩).m.length
      (ps.headD (Page.fresh 0 0 ⟨0, 0, 0⟩ (emptyTail groupZero 0 0 0) 0 0))) b.seq b.layer (ps.map (·.name.block)) = some a) :
    let notes := ps.map fun p => (⟨s.seqPtn b.seq, h.reqId, b.seq, b.layer, p.name.block, b.rows⟩ : GradSeen)
    ∃ (t : State) (dq : List Word32),
      t.store.gradSeen = a.store.gradSeen ++ notes.filter (fun n => !a.store.gradSeen.contains n) ∧
      ((∀ n ∈ notes, n ∈ a.store.gradSeen) → t.store.grads = a.store.grads) ∧
      { t with store := { t.store with grads := a.store.grads, gradSeen := a.store.gradSeen }, freeCtr := a.freeCtr } = a ∧
      s.holderGrad h b ps = t.postFor h.src h.reqId (.gradReply h.seq dq) := by
  unfold State.holderGrad
  simp only [ha]
  generalize hy : State.gradPass _ _ _ _ _ _ _ _ _ = y
  refine ⟨_, _, rfl, fun hn => ?_, State.gradPass_restored (hy ▸ State.gradPass_grads _ _ _ _ _ _ _ _ _), rfl⟩
  have hsame : y.2 = a.drawn := by
    rw [← hy]
    refine State.gradPass_none (fun k => ?_) _ _ _ _ _ _ _ _
    split
    · next p hp => simpa using hn _ (List.mem_map_of_mem (List.mem_of_find?_eq_some hp))
    · rfl
  exact (congrArg (fun u : State => u.store.grads) hsame :)

/-- Sealed pages of a request that are to be read from flash first. -/
def State.gradNeeds (b : GradReq) (v : State) : List Handle :=
  b.pages.filter fun p => match v.page? p with | some x => x.sealed? && !v.readable p | none => false

/-- A request kept: its pages pinned, and those that it needs read. -/
def State.keepGrad (x : HeldGrad) (need : List Handle) (v : State) : State :=
  let w := need.foldl (fun s p => s.readFlash p) (v.pin x.req.pages)
  { w with cmds := { w.cmds with grads := w.cmds.grads ++ [x] } }

theorem State.gotGradReq_kept :
    let v := b.pages.foldl (fun s p => s.verify p) (s.install b.seq)
    b.pages ≠ [] → (b.pages.all fun p => match v.page? p with | some x => x.refs != 0 && !x.recovering | none => false) = true →
    v.epoch ≤ h.epoch.toNat ∨ v.prevEpoch = some h.epoch.toNat →
    s.gotGradReq h b = (v.keepGrad ⟨h, b, v.gradNeeds b⟩ (v.gradNeeds b)).serveGrad ⟨h, b, v.gradNeeds b⟩ := by
  intro v hp hg he
  have hold : ¬ (h.epoch.toNat < v.epoch ∧ v.prevEpoch ≠ some h.epoch.toNat) := by
    rintro ⟨hlt, hne⟩
    exact he.elim (fun hle => by omega) hne
  exact (if_neg (not_or.mpr ⟨hp, fun hf => Bool.noConfusion (hg.symm.trans hf)⟩)).trans (if_neg hold)

/-- A request with nothing to read is answered at once. -/
theorem State.serveGrad_kept {v : State} (hn : v.gradNeeds b = []) :
    let w := v.keepGrad ⟨h, b, []⟩ (v.gradNeeds b)
    let x : State := { w with cmds := { w.cmds with grads := delAll ⟨h, b, []⟩ w.cmds.grads } }
    ((b.pages.filterMap x.page?).any (·.recovering)) = false → (b.pages.filterMap x.page?).length = b.pages.length →
    (v.keepGrad ⟨h, b, v.gradNeeds b⟩ (v.gradNeeds b)).serveGrad ⟨h, b, v.gradNeeds b⟩ =
      (x.holderGrad h b (b.pages.filterMap x.page?)).unpin b.pages := by
  generalize v.gradNeeds b = need at hn ⊢
  subst hn
  exact State.serveGrad_serves rfl

/-- The answer of a pass's holder is added to the pass. -/
theorem State.gotGradReply_taken {src : NodeId} {k : Word32} {dq : List Word32} {i : Inflight} {r : GradRun} {x : GradRemote}
    (hx : s.gradOf src k = some (i, r, x)) : s.gotGradReply src k dq = (s.setGrad i.id { r with
      remotes := delAll x r.remotes
      dq := r.dq ++ List.zip x.rows (chunks (r.group.qHeads * r.group.channels) dq) }).dispatch := by
  unfold State.gotGradReply
  simp only [hx]

end

/-- Settles O24: a pass at its home, the planes read and cleared, and a pass at a holder. -/
theorem gradientsTakeEffect : Obligations.GradientsTakeEffect := by
  unfold Obligations.GradientsTakeEffect
  refine ⟨fun p s u v c q r b x h hq hr hb hl hs => ?_, fun p s u c h => ?_, fun p s u c h => ?_,
    fun s u h b hu hp hg he => ⟨fun hn => ?_, fun ps a hn hps hr hlen ha => ?_⟩, fun s u h k dq i r x hu hx => ?_⟩
  · have hrun := gradRun_starts hq hr hb hl hs
    rw [exec_gradAttend_of_admission h, hrun]
    rfl
  · exact congrArg (fun t : State => Host.Outcome.next t.resume) (State.arriveAll_of_admission h)
  · exact congrArg (fun t : State => Host.Outcome.next t.resume) (State.arriveAll_of_admission h)
  · exact congrArg Host.Outcome.next ((State.serve_of_asked hu _).trans ((State.gotGradReq_kept hp hg he).trans (State.serveGrad_waits hn)))
  · subst hps
    obtain ⟨t, dq, hseen, hgrads, hrest, hx⟩ := State.holderGrad_answers (h := h) ha
    exact ⟨t, dq, hseen, hgrads, hrest, congrArg Host.Outcome.next ((State.serve_of_asked hu _).trans
      ((State.gotGradReq_kept hp hg he).trans ((State.serveGrad_kept hn hr hlen).trans (congrArg (State.unpin b.pages) hx))))⟩
  · exact congrArg Host.Outcome.next ((State.unordered_of_heard hu _).trans (State.gotGradReply_taken hx))

end Sys2Proof.Machine
end

section
/-! PROOFS. How commands that wait go on or end by their timeouts (R17, R45, R52, R277, R280, R281, R284, R448, R530). -/

namespace Sys2Proof.Machine

/-! ## Appends that wait for positions or for the journal -/

section
variable {s : State} {id : Nat} {i : Inflight} {a : AppendReq}

theorem State.gapFilled_fits {q : Seq} (hi : s.inflight? id = some i) (hw : i.wait = .gap a) (hq : s.seq? a.seq = some q)
    (hf : s.fit a q ≠ .gap) : s.gapFilled id = (s.resettle i (s.runAppend i.cmd a)).progress := by
  unfold State.gapFilled
  simp only [hi, hw, hq, hf, if_false]

theorem State.gapExpired_waits {q : Seq} (hi : s.inflight? id = some i) (hw : i.wait = .gap a) (hq : s.seq? a.seq = some q) :
    s.gapExpired id =
      s.complete i .notYet none 0 (notYetBytes q ((a.layers.find? fun l => decide ((q.layer l).length < a.pos)).getD 0)) := by
  unfold State.gapExpired
  simp only [hi, hw, hq]

theorem State.journalFreed_waits (hi : s.inflight? id = some i) (hw : i.wait = .journal a) :
    s.journalFreed id = (s.resettle i (s.runAppend i.cmd a)).progress := by
  unfold State.journalFreed
  simp only [hi, hw]

theorem State.journalExpired_waits (hi : s.inflight? id = some i) (hw : i.wait = .journal a) :
    s.journalExpired id = s.complete i .noSpace none 0 [] := by
  unfold State.journalExpired
  simp only [hi, hw]

/-! ## Commands held for an epoch or a transfer -/

theorem State.epochCame_waits (hi : s.inflight? id = some i) (hw : i.wait = .epoch) (he : i.pkt.epoch.toNat ≤ s.epoch) :
    s.epochCame id = (s.dropInflight i.id).fiveToNine (opDef i.op) i.cmd := by
  unfold State.epochCame
  simp only [hi, hw, Wait.inner, he, and_self, if_true, State.restart]

theorem State.epochExpired_waits (hi : s.inflight? id = some i) (hw : i.wait = .epoch) :
    s.epochExpired id = (s.dropInflight i.id).refuse i.op i.pkt i.ptn .busyRetry none (max (s.rf .hptNdox 16 12) 1) := by
  unfold State.epochExpired
  simp only [hi, hw, Wait.inner, if_true, State.refuseHeld]

theorem State.transferExpired_waits {h : Handle} (hi : s.inflight? id = some i) (hw : i.wait = .transfer h) :
    s.transferExpired id = (s.dropInflight i.id).refuse i.op i.pkt i.ptn .busyRetry none (s.rf .fabDrain 8 16) := by
  unfold State.transferExpired
  simp only [hi, hw, Wait.inner, State.refuseHeld]

/-! ## Duplicates that wait for their original -/

theorem State.duplicateEnds_unrecorded {code : Nat} {b : List Byte} (hi : s.inflight? id = some i) (hw : i.wait = .dup (some (code, b)))
    (hr : s.sixRecorded (opDef i.op) i.cmd = none) (h6 : (opDef i.op).six i.cmd s = none) :
    s.duplicateEnds id = s.complete i (Status.ofCode code) none 0 b := by
  unfold State.duplicateEnds
  simp only [hi, hw, hr, h6, Option.orElse_none]

end

/-! ## Descriptors and records -/

theorem State.descriptorHere_none {s : State} {h : Handle} (hn : (s.cmds.list.all fun i => i.wait.inner != .descriptor h) = true) :
    s.descriptorHere h = s.install h := by
  unfold State.descriptorHere
  dsimp only
  rw [State.install_cmds, List.foldl_ext _ (fun t _ => t) _ fun t i hi => ?_]
  · exact List.foldl_fixed' (fun _ => rfl) _
  · exact if_neg (by simpa using List.all_eq_true.mp hn i hi)

theorem State.recordExpired_unused {s : State} {ptn : Nat} {reqId : Word64}
    (hc : (s.cmds.list.any fun i => i.ptn == ptn && i.reqId == reqId) = false)
    (hq : (s.host.queues.any fun q => q.ptn == ptn && q.waiting.any fun r => r.reqId == reqId) = false) :
    s.recordExpired ptn reqId = { s with store := { s.store with
      cmdRecs := s.store.cmdRecs.filter fun r => !(r.ptn == ptn && r.reqId == reqId)
      appendRecs := s.store.appendRecs.filter fun r => !(r.ptn == ptn && r.reqId == reqId)
      gradSeen := s.store.gradSeen.filter fun g => !(g.ptn == ptn && g.reqId == reqId) } } :=
  if_neg (not_or.mpr ⟨Bool.eq_false_iff.mp hc, Bool.eq_false_iff.mp hq⟩)

/-- Settles O26, one wait after the other, by what its operation does with the command found waiting. -/
theorem heldCommandsGoOnOrExpire : Obligations.HeldCommandsGoOnOrExpire := by
  unfold Obligations.HeldCommandsGoOnOrExpire
  refine ⟨fun s id i a q hi hw hq => ⟨fun hf => ?_, ?_⟩, fun s id i a hi hw => ⟨?_, ?_⟩, fun s id i hi hw => ⟨fun he => ?_, ?_⟩,
    fun s id i h hi hw => ?_, fun s h hn => ?_, fun s ptn reqId hc hq => ?_, fun s id code i b hi hw hr h6 => ?_, fun s => rfl,
    fun s ptn hp => ?_⟩
  · exact congrArg Host.Outcome.next (State.gapFilled_fits hi hw hq hf)
  · exact congrArg Host.Outcome.next (State.gapExpired_waits hi hw hq)
  · exact congrArg Host.Outcome.next (State.journalFreed_waits hi hw)
  · exact congrArg Host.Outcome.next (State.journalExpired_waits hi hw)
  · exact congrArg (fun t : State => Host.Outcome.next t.progress.schedule) (State.epochCame_waits hi hw he)
  · exact congrArg Host.Outcome.next (State.epochExpired_waits hi hw)
  · exact congrArg Host.Outcome.next (State.transferExpired_waits hi hw)
  · exact congrArg (fun t : State => Host.Outcome.next t.resume) (State.descriptorHere_none hn)
  · exact congrArg Host.Outcome.next (State.recordExpired_unused hc hq)
  · exact congrArg (fun t : State => Host.Outcome.next t.progress) (State.duplicateEnds_unrecorded hi hw hr h6)
  · exact congrArg Host.Outcome.next (if_pos hp)

end Sys2Proof.Machine
end

section
/-! PROOFS. Seals: their start, their priority, their commit and the write of a sealed page (R24, R52, R107, R241, R437). -/

namespace Sys2Proof.Machine

section
variable {s v : State} {n : PageName} {p : Page} {e k : Nat} {into : Handle}

/-- An engine takes a seal for which the image has frames. -/
theorem State.beginSeal_placed {q : Seq} (hq : s.seq? p.name.seq = some q)
    (hn : s.newPage p.ptn p.name (s.sealFull q p).1 ((s.sealFull q p).1.frames (q.group p.name.layer)) true = some (into, v)) :
    s.beginSeal e p = (((v.install p.name.seq).updPage into fun y => { y with refs := 0, pins := 1 }).updPage p.handle fun y =>
      { y with sealing := .running e into 0 }).updEngine e fun y => { y with step := some (p.ptn, .seal p.name), gated := false } := by
  unfold State.beginSeal
  simp only [hq, hn]

theorem State.startSeal_begins {y : Engine} {b : Bool} (hp : s.sealPage n = some p) (hy : s.eng.engines[e]? = some y)
    (hb : p.sealing = .queued b) (hi : y.idle = true) (hm : s.sealMay p = true) : s.startSeal e n = s.beginSeal e p := by
  unfold State.startSeal
  simp only [hp, hy, hb, hi, hm, and_self, if_true]

theorem execSealPriorityRaise_queued (hp : s.sealPage n = some p) (hb : p.sealing = .queued false) :
    execSealPriorityRaise n s = .next ((s.raiseSeal p.handle).countPtn p.ptn 1 13) := by
  unfold execSealPriorityRaise
  simp only [hp, hb, if_true]

theorem State.sealRead_commits (hp : s.sealPage n = some p) (hr : p.sealing = .running e into k) (hd : s.deltaFull = false) :
    s.sealRead n true = (s.commitSeal p e into).schedule := by
  unfold State.sealRead
  simp only [hp, hr, hd, Bool.false_eq_true, false_and, not_true_eq_false, if_false]

theorem State.sealRead_again (hp : s.sealPage n = some p) (hr : p.sealing = .running e into 0) : s.sealRead n false = s.sealAgain e p := by
  unfold State.sealRead
  simp only [hp, hr, Bool.false_eq_true, not_false_eq_true, if_true]

theorem State.sealRead_faults (hp : s.sealPage n = some p) (hr : p.sealing = .running e into k) (hk : k ≠ 0) :
    s.sealRead n false = s.engineFault e 2 := by
  unfold State.sealRead
  simp only [hp, hr, Bool.false_eq_true, not_false_eq_true, hk, if_true, if_false]

/-- The replacement of a tail frame by its sealed page, all in one step (R20, R25, R49, R52). -/
theorem State.commitSeal_here {q : Seq} {y : Page} (hq : s.seq? p.name.seq = some q) (hy : s.page? into = some y) :
    let refs := s.referrers p.handle
    let x := s.sealFull q p
    let a := ((s.endSeal p).repoint refs p.handle into).updPage into fun y => { Page.unpinned 1 y with img := x.1 }
    let b := ((((a.indexSeal q into x.1 p.name p.ptn x.2).countPtn p.ptn 1 12).countStep p.ptn e 1).spread into refs)
    s.commitSeal p e into = (if refs.any fun x => hasPersisted x.1 then b.startFlash into else b).forksReady.dispatch := by
  unfold State.commitSeal
  simp only [hq, hy]

theorem State.persistedWritten_writes {h : Handle} (hp : s.page? h = some p) (hj : p.job = .toFlash) (hw : s.writePage p = some v) :
    s.persistedWritten h = ((v.updPage h Page.endJob).pageWritten h).progress := by
  unfold State.persistedWritten
  simp only [hp, hj, hw, ne_eq, not_true_eq_false, if_false]

end

/-- Settles O27, from the start of a seal to the write of its page. -/
theorem sealsTakeEffect : Obligations.SealsTakeEffect := by
  unfold Obligations.SealsTakeEffect
  refine ⟨fun s v e n p y q b k hp hy hb hi hm hq hn => ?_, fun s n p hp hb => ?_, fun s n p e k into hp hr => ⟨fun hd => ?_, ?_, fun hk => ?_⟩,
    fun s p e into q y hq hy => State.commitSeal_here hq hy, fun s t h p hp hj hw => ?_⟩
  · exact congrArg Host.Outcome.next ((State.startSeal_begins hp hy hb hi hm).trans (State.beginSeal_placed hq hn))
  · exact execSealPriorityRaise_queued hp hb
  · exact congrArg Host.Outcome.next (State.sealRead_commits hp hr hd)
  · rintro rfl
    exact congrArg Host.Outcome.next (State.sealRead_again hp hr)
  · exact congrArg Host.Outcome.next (State.sealRead_faults hp hr hk)
  · exact congrArg Host.Outcome.next (State.persistedWritten_writes hp hj hw)

end Sys2Proof.Machine
end

section
/-! PROOFS. Faults of engines, spares, partitions, key slots, control cores and automata engines (R15, R437 to R441). -/

namespace Sys2Proof.Machine

/-! ## Engines and spares -/

/-- An idle engine in use with a spare left: fenced, replaced, its held steps handed on. -/
theorem State.engineFault_replaced {s : State} {e cause : Nat} {y : Engine} {k : Nat} (hy : s.eng.engines[e]? = some y) (hf : y.fenced = false)
    (hu : y.inUse = true) (hst : y.step = none) (hk : s.spareFor e = some k) :
    let det := unitDetail e k cause 0
    let v := (s.updEngine e fun y => { y with fenced := true, step := none, replacing := none }).count 9 nodeScope (4 * e + 3)
    let w := v.raise .engRsts 0 ⟨6, 1, 2, 0xFF, e, det⟩
    let x := (w.updEngine k fun y => { y with inUse := true, gated := false, replacing := some e }).raise .engRsts 1 ⟨6, 2, 1, 0xFF, k, det⟩
    s.engineFault e cause =
      (x.setHeld (updWhere (fun h => h.on == e && !x.onEngine h.step) (fun h => { h with on := k }) x.eng.held)).leaveCheck.schedule := by
  unfold State.engineFault
  simp [hy, hf, hu, hst, hk]

theorem State.engineFault_spare {s : State} {e cause : Nat} {y : Engine} (hy : s.eng.engines[e]? = some y) (hf : y.fenced = false)
    (hu : y.inUse = false) :
    s.engineFault e cause = ((s.updEngine e fun y => { y with fenced := true }).raise .engRsts 0
      ⟨6, 1, 2, 0xFF, e, unitDetail e anyEngine cause 0⟩).leaveCheck := by
  unfold State.engineFault
  simp [hy, hf, hu]

/-- The held step that a replacement takes first: its own, running nowhere, and a seal's only after a second fault. -/
def State.heldFor (e : Nat) (s : State) : Option HeldStep :=
  s.eng.held.find? fun h => h.on == e && !s.onEngine h.step && (h.faults == 2 || match h.step with | .seal _ => false | _ => true)

theorem State.spareReady_runs {s : State} {e k : Nat} {y : Engine} {h : HeldStep} (hy : s.eng.engines[e]? = some y)
    (hr : y.replacing = some k) (hh : (s.updEngine e fun y => { y with replacing := none }).heldFor e = some h) :
    s.spareReady e = ((s.updEngine e fun y => { y with replacing := none }).replayOn e h).schedule := by
  unfold State.spareReady
  simp only [hy, hr, reduceCtorEq, if_false]
  split
  · next x hx =>
    obtain rfl : x = h := Option.some.inj (hx.symm.trans hh)
    rfl
  · next hx => exact nomatch hx.symm.trans hh

/-! ## Partitions -/

theorem State.fencePtn_running {s : State} {n unit : Nat} {det : List Byte} {p : Ptn} (hp : s.ptn? n = some p) (hf : p.fenced = false) :
    s.fencePtn n unit det =
      ((s.updPtn n fun p => { p with fenced := true }).raise .engRsts 3 ⟨6, 4, 2, n, unit, det⟩).raise (.ptnSts n) 0 ⟨6, 4, 2, n, unit, det⟩ := by
  unfold State.fencePtn
  simp [hp, hf]

/-- With no step held, none is to run before the fence lifts. -/
theorem State.fenceLift_idle {s : State} (n : Nat) (hh : s.eng.held = []) :
    s.fenceLift n true = (s.updPtn n fun p => { p with fenced := false }).schedule := by
  unfold State.fenceLift
  simp only [hh, List.any_nil, Bool.false_eq_true, and_false, if_false, if_true]
  rw [List.filterMap_eq_nil_iff.mpr]
  · rfl
  · intro x _
    split <;> rfl

/-! ## Control cores and automata engines -/

theorem State.coreFault_first {s : State} {k cause : Nat} (h : s.eng.coresFenced.contains k = false) :
    s.coreFault k cause = (({ s with eng := { s.eng with coresFenced := s.eng.coresFenced ++ [k] } } : State).raise .engRsts 4
      ⟨6, 5, 2, 0xFF, k, unitDetail k 0xFF cause 0⟩).leaveCheck :=
  if_neg (Bool.eq_false_iff.mp h)

theorem State.automataFault_first {s : State} {k : Nat} (hf : s.eng.pasFenced.contains k = false) (hn : s.eng.pasFaulted.contains k = false) :
    s.automataFault k = { s with eng := { s.eng with pasFaulted := s.eng.pasFaulted ++ [k] } } :=
  (if_neg (Bool.eq_false_iff.mp hf)).trans (if_pos (Bool.eq_false_iff.mp hn))

/-- A slot whose current version has banks in an automata engine. -/
def PatSlot.uses (k : Nat) (p : PatSlot) : Bool :=
  match p.current with
  | some v => v.inEngine k
  | none => false

/-- A pattern slot once an automata engine is fenced: a version with banks in it is an old one. -/
def PatSlot.afterFence (k : Nat) (p : PatSlot) : PatSlot :=
  match p.current with
  | some v => if v.inEngine k then { p with old := p.old ++ [v], current := none } else p
  | none => p

theorem PatSlot.updWhere_uses (k : Nat) (l : List PatSlot) :
    updWhere (PatSlot.uses k) (fun p => { p with old := p.old ++ p.current.toList, current := none }) l = l.map (PatSlot.afterFence k) := by
  refine List.map_congr_left fun p _ => ?_
  unfold PatSlot.uses PatSlot.afterFence
  cases h : p.current <;> simp [h]

theorem State.automataFault_second {s : State} {k : Nat} (hf : s.eng.pasFenced.contains k = false) (hn : s.eng.pasFaulted.contains k = true) :
    s.automataFault k = ({ s with
      eng := { s.eng with pasFenced := s.eng.pasFenced ++ [k] }, slots := { s.slots with pats := s.slots.pats.map (PatSlot.afterFence k) } } : State).raise
        .engRsts 5 ⟨6, 6, 2, 0xFF, k, unitDetail k 0xFF 4 0⟩ := by
  rw [← PatSlot.updWhere_uses]
  exact (if_neg (Bool.eq_false_iff.mp hf)).trans (if_neg (not_not_intro hn))

/-- Settles O28, one fault after the other, by what each operation of the units does. -/
theorem faultsFenceAndReplace : Obligations.FaultsFenceAndReplace := by
  unfold Obligations.FaultsFenceAndReplace
  refine ⟨fun s e cause y k hy hf hu hst hk => ?_, fun s e cause y hy hf hu => ?_, fun s e => ⟨fun h => ?_, fun h => ?_⟩,
    fun s e y k h hy hr hh => ?_, fun s n p hp hf => ⟨?_, fun d => ?_⟩, fun s n hh => ?_, fun s k cause hc => ?_,
    fun s k hf => ⟨fun hn => ?_, fun hn => ?_⟩⟩
  · exact congrArg Host.Outcome.next (State.engineFault_replaced hy hf hu hst hk)
  · exact congrArg Host.Outcome.next (State.engineFault_spare hy hf hu)
  · exact congrArg Host.Outcome.next (if_pos h)
  · exact congrArg Host.Outcome.next (if_neg (by simp [h]))
  · exact congrArg Host.Outcome.next (State.spareReady_runs hy hr hh)
  · exact congrArg (Host.Outcome.next ∘ State.fenceWork n) (State.fencePtn_running hp hf)
  · exact congrArg Host.Outcome.next (State.fencePtn_running hp hf)
  · exact congrArg Host.Outcome.next (State.fenceLift_idle n hh)
  · exact congrArg Host.Outcome.next (State.coreFault_first hc)
  · exact congrArg Host.Outcome.next (State.automataFault_first hf hn)
  · exact congrArg Host.Outcome.next (State.automataFault_second hf hn)

end Sys2Proof.Machine
end

section
/-! SUPPORT. An ordered message whose turn it is: it is delivered, and what the stream held behind it goes on (R374). -/

namespace Sys2Proof.Machine

/-- What is changed of a peer is what the peer then is. -/
theorem State.peer_updPeer {n : NodeId} {f : Peer → Peer} (hf : ∀ p, (f p).node = p.node) (s : State) :
    (s.updPeer n f).peer n = f (s.peer n) := by
  unfold State.peer State.peer? State.updPeer
  dsimp only
  cases hp : s.peer? n with
  | none =>
    have hp : s.fab.peers.find? (fun p => p.node == n) = none := hp
    have hn : (f (Peer.fresh n)).node = n := hf _
    simp [hp, hn]
  | some p =>
    have hp : s.fab.peers.find? (fun p => p.node == n) = some p := hp
    rw [Option.isSome_some, if_pos rfl, find?_updWhere (fun x => by rw [hf]), hp, Option.map_some, if_pos (List.find?_some hp)]
    rfl

/-- The message that comes next in a stream is delivered, and counts as delivered. -/
theorem State.drainStream_next {s : State} {n : NodeId} {x k : Nat} {i : Instr} {h : MsgHdr} {m : Msg} (hm : orderedMsg i = some (h, m))
    (hx : ((s.peer n).held.find? fun y => y.1 == (s.peer n).rxOrd + 1) = some (x, i)) :
    s.drainStream deliver n (k + 1) = (deliver i (s.updPeer n fun p =>
      { p with rxOrd := p.rxOrd + m.segments, ackOwed := true, held := p.held.filter fun y => decide (p.rxOrd + m.segments < y.1) })).drainStream
        deliver n k := by
  rw [State.drainStream]
  simp only [hx, hm]

/-- A message whose turn it is is delivered, and then what the stream held behind it. -/
theorem State.ordered_of_inTurn {s u : State} {i : Instr} {h : MsgHdr} {m : Msg} (hm : orderedMsg i = some (h, m)) (hu : inTurn i s = some u) :
    s.ordered i = (deliver i u).streamOn h := by
  unfold inTurn at hu
  unfold State.ordered State.orderedIn
  simp only [hm] at hu ⊢
  generalize (s.gathered h true).screen h = x at hu ⊢
  obtain ⟨ok, v⟩ := x
  cases ok with
  | false => cases hu
  | true =>
    simp only [Option.ite_none_right_eq_some, Option.some.injEq] at hu
    obtain ⟨⟨hseq, hheld⟩, rfl⟩ := hu
    have hpeer := State.peer_updPeer (n := h.src) (f := fun p => { p with held := p.held ++ [(h.seq.toNat, i)] }) (fun _ => rfl) v
    have hfind : (((v.updPeer h.src fun p => { p with held := p.held ++ [(h.seq.toNat, i)] }).peer h.src).held.find? fun y =>
        y.1 == ((v.updPeer h.src fun p => { p with held := p.held ++ [(h.seq.toNat, i)] }).peer h.src).rxOrd + 1) = some (h.seq.toNat, i) := by
      rw [hpeer]
      have hnone : (v.peer h.src).held.find? (fun y => y.1 == h.seq.toNat) = none := by
        rw [List.find?_eq_none]
        exact fun y hy => List.any_eq_false.mp hheld y hy
      simp [← hseq, hnone]
    simp only [not_true_eq_false, if_false, hheld, Bool.false_eq_true]
    rw [if_neg (by omega), if_neg (by simp [hseq]), State.drainStream_next hm hfind]
    rfl

end Sys2Proof.Machine
end

section
/-! PROOFS. Seal steps, restored lengths, transfers, page copies, releases, fetches and their acknowledgements (R25, R26, R37, R49,
R64, R68, R108, R381, R442, R444, R448, R454). -/

namespace Sys2Proof.Machine

/-! ## What a tandem does with a seal's step -/

section
variable {u w : State} {h : MsgHdr} {n : PageName} {list k : Nat} {code : List Byte} {q : Seq} {p : Page}

/-- The image that a seal's step makes from this node's tail. -/
def Page.sealedBy (p : Page) (q : Seq) (n : PageName) (list : Nat) (code : List Byte) : Image :=
  sealImage (q.group n.layer) p.img (if list = noList then none else some code)

/-- For a `SHARED` sequence the tandem keeps the envelopes and the count, and lets its tail go (R25). -/
theorem State.gotStepSeal_shared (hs : u.stale h = false) (hq : u.seq? n.seq = some q) (hp : u.blockPage q n.layer n.block = some p)
    (ht : p.img.tail = true) (hsh : q.shared = true) :
    let img := p.sealedBy q n list code
    let ents := updWhere (fun (e : Entry) => e.block == n.block) fun e => ⟨e.block, e.page, img.planes.map (·.env), img.requant⟩
    u.gotStepSeal h n list code =
      ((((u.install n.seq).updLayer n.seq n.layer fun x => { x with entries := ents x.entries }).delta [.entry n.seq n.layer n.block]).dropLocal
        p.handle 1) := by
  unfold State.gotStepSeal State.step'
  simp only [hs, hq, hp, ht, hsh, Bool.false_eq_true, not_true_eq_false, if_false, if_true]
  rfl

/-- For a `PRIVATE` sequence the tandem seals its own tail, for every `PRIVATE` sequence that shares it (R25, R49). -/
theorem State.gotStepSeal_private {k : Handle} (hs : u.stale h = false) (hq : u.seq? n.seq = some q)
    (hp : u.blockPage q n.layer n.block = some p) (ht : p.img.tail = true) (hsh : q.shared = false)
    (hn : (u.install n.seq).newPage p.ptn n (p.sealedBy q n list code) ((p.sealedBy q n list code).frames (q.group n.layer)) true = some (k, w)) :
    let img := p.sealedBy q n list code
    let refs := (w.referrers p.handle).filter fun x => !x.1.shared
    let m := ((w.ns? (nsOf n.seq)).bind (·.current)).map (·.num)
    let z := w.updPage k fun x => { x with index := if list = noList then none else m.map fun m =>
      (list, (⟨k, n.seq, n.block, n.layer, m, img.inherit.isSome, h.epoch, q.tag, code⟩ : IdxEntry)) }
    u.gotStepSeal h n list code = ((if refs.length < p.refs then z else z.endSeal p).repoint refs p.handle k).serveParts := by
  unfold Page.sealedBy at hn
  unfold State.gotStepSeal State.step'
  simp only [hs, hq, hp, ht, hsh, hn, Bool.false_eq_true, not_true_eq_false, if_false]
  rfl

end

/-! ## Restored lengths and transfers -/

section
variable {u : State} {h : MsgHdr}

/-- A home that settles takes the lengths that its tandem has restored. -/
theorem State.gotLengths_settling {x : Handle} {ok : Bool} {lens : List Nat} {q : Seq} {w : Option (List Nat)} (hs : u.stale h = false)
    (hq : u.seq? x = some q) (hh : u.isHome x = true) (hw : q.state = .settling w) :
    u.gotLengths h x ok lens = (u.updSeq x fun q => { q with
      state := .settling (some lens), before := (enumFrom 0 q.before).map fun y => max y.2 (lens.getD y.1 0) }).settleCheck x := by
  unfold State.gotLengths State.step'
  simp only [hs, hq, hh, hw, Bool.false_eq_true, if_false, if_true]

theorem State.gotTransferDone_current {shard : Nat} (hs : u.stale h = false) (he : h.epoch.toNat ≤ u.epoch) :
    let v := u.shardArrived shard
    u.gotTransferDone h shard = { v with map := { v.map with transfersIn := v.map.transfersIn.filter fun t => t.shard != shard } } :=
  (if_neg (by simp [hs])).trans (if_neg (by omega))

/-! ## Page copies, releases and fetches -/

/-- A copy that passes its checks and finds room is acknowledged under its handle; one of a transfer or a resynchronisation also takes
its place in the layer. -/
theorem State.gotPageCopy_stored {v : State} {k l : Nat} {x y : Handle} {i : Image} (hk : k ≠ 3)
    (hok : copyOk (u.groupFor x l i) l i = true) (hst : u.strayCopy h k x = false)
    (hn : u.newPage (u.seqPtn x) ⟨x, l, i.block⟩ i (i.frames (u.groupFor x l i)) (k != 1) = some (y, v)) :
    let w := v.postFor h.src h.reqId (.pageCopyAck h.seq y 0)
    u.gotPageCopy h k x l (.image i) =
      if k = 4 ∨ k = 5 then ((w.setEntry false x l ⟨i.block, y, [], 0⟩).updLayer x l fun b => { b with length := max b.length (256 * i.block + i.fill) }).serveParts
      else w := by
  unfold State.gotPageCopy State.storeCopy
  simp only [hk, hok, hst, hn, not_true_eq_false, Bool.false_eq_true, or_self, if_false]
  rfl

theorem State.gotRelease_own {p : Handle} {n : Nat} (ho : u.isOwn p = true) : u.gotRelease p n = u.dropLocal p n := if_pos ho

theorem State.gotPageFetch_page {p x : Handle} {l b : Nat} (hl : l ≠ 0xFFFF) :
    (∀ i, u.fetched p x l b = some i → u.gotPageFetch h p x l b = u.postFor h.src h.reqId (.pageCopy 3 x l (.image i))) ∧
    (u.fetched p x l b = none → u.gotPageFetch h p x l b = u.postFor h.src h.reqId (.partialDecline h.seq 2)) := by
  unfold State.gotPageFetch
  simp only [hl, if_false]
  exact ⟨fun i hi => by rw [hi], fun hn => by rw [hn]⟩

/-! ## Acknowledgements -/

section
variable {src : NodeId} {k : Word32} {p : Handle} {c : CopySent} (hc : ((u.peer src).copies.find? fun c => c.seq == k.toNat) = some c)
include hc

/-- The acknowledgement of a placement move that is under way and whose page still has references (R68). -/
theorem State.gotCopyAck_placement {y : Page} (h1 : c.purpose = 1) :
    let v := u.updPeer src fun p => { p with copies := delAll c p.copies }
    v.placed? c.page = none → v.page? c.page = some y → y.job = .place src → y.refs ≠ 0 → u.gotCopyAck src k p 0 = v.placed c.page p := by
  intro v hn hy hj hr
  have hlive : (y.job == .place src && y.refs != 0) = true := by simp [hj, hr]
  unfold State.gotCopyAck
  simp only [hc, h1]
  rw [hn, hy]
  simp only [hlive, not_true_eq_false, if_false]
  exact if_pos rfl

/-- The acknowledgement of a replica's copy; the last one lets the tandems of `SHARED` sequences seal (R25). -/
theorem State.gotCopyAck_replica {y : Page} (h2 : c.purpose = 2) :
    let v := u.updPeer src fun p => { p with copies := delAll c p.copies }
    let w := v.updPage c.page fun y => { y with awaiting := delAll src y.awaiting, copies := addNew p y.copies }
    w.page? c.page = some y → u.gotCopyAck src k p 0 = if y.awaiting ≠ [] then w else (w.referrers c.page).foldl (fun s x =>
      if x.1.shared ∧ s.isHome x.1.handle then s.mirrorMsg x.1.handle 0 (.stepSeal ⟨x.1.handle, x.2.1, x.2.2⟩ y.sealSummary.1 y.sealSummary.2) else s) w := by
  intro v w hy
  unfold State.gotCopyAck
  simp only [hc, h2]
  rw [if_neg (by decide), hy]

theorem State.gotCopyAck_resync (h45 : c.purpose = 4 ∨ c.purpose = 5) :
    u.gotCopyAck src k p 0 =
      (u.updPeer src fun p => { p with copies := delAll c p.copies }).updPage c.page fun y => { y with copies := addNew p y.copies } := by
  unfold State.gotCopyAck
  rcases h45 with hp | hp
  · simp only [hc, hp]
    exact if_pos rfl
  · simp only [hc, hp]
    exact if_pos rfl

end

theorem State.gotMirrorAck_ok {src : NodeId} {x : Handle} {l m : Nat} (hn : u.mirrorNode x = some src) :
    u.gotMirrorAck src x l 0 m =
      ((u.updLayer x l fun y => { y with mirrored := max y.mirrored (min m y.length) }).delta [.length x l]).progress := by
  unfold State.gotMirrorAck
  rw [if_neg (not_not_intro hn), if_neg (by decide), if_neg (by decide)]

end

/-- Settles O31, one message after the other: the ordered ones in their turn, then the unordered ones. -/
theorem copiesAndAcksTakeEffect : Obligations.CopiesAndAcksTakeEffect := by
  unfold Obligations.CopiesAndAcksTakeEffect
  refine ⟨fun s u h n list code q p hu hs hq hp ht => ⟨fun hsh => ?_, fun k w hsh hn => ?_⟩, fun s u h x ok lens q w hu hs hq hh hw => ?_,
    fun s u h shard n hu hs he => ?_, fun s u v h k x l i y hu hk hok hst hn => ?_, fun s u h p n hu ho => ?_,
    fun s u h p x l b hu hl => ⟨fun i hi => ?_, fun hn => ?_⟩,
    fun s u h k p c hu hc => ⟨fun y h1 hn hy hj hr => ?_, fun y h2 hy => ?_, fun h45 => ?_⟩, fun s u h x l m hu hn => ?_⟩
  · exact congrArg Host.Outcome.next ((State.ordered_of_inTurn rfl hu).trans (congrArg (State.streamOn h) (State.gotStepSeal_shared hs hq hp ht hsh)))
  · exact congrArg Host.Outcome.next ((State.ordered_of_inTurn rfl hu).trans (congrArg (State.streamOn h) (State.gotStepSeal_private hs hq hp ht hsh hn)))
  · exact congrArg Host.Outcome.next ((State.ordered_of_inTurn rfl hu).trans (congrArg (State.streamOn h) (State.gotLengths_settling hs hq hh hw)))
  · exact congrArg Host.Outcome.next ((State.ordered_of_inTurn rfl hu).trans (congrArg (State.streamOn h) (State.gotTransferDone_current hs he)))
  · exact congrArg Host.Outcome.next ((State.ordered_of_inTurn rfl hu).trans (congrArg (fun z : State =>
      (((((z.settleCheck x).startGrads).serveGrads).settleRecalls).streamOn h)) (State.gotPageCopy_stored hk hok hst hn)))
  · exact congrArg Host.Outcome.next ((State.ordered_of_inTurn rfl hu).trans (congrArg (State.streamOn h) (State.gotRelease_own ho)))
  · exact congrArg Host.Outcome.next ((State.unordered_of_heard hu _).trans ((State.gotPageFetch_page hl).1 i hi))
  · exact congrArg Host.Outcome.next ((State.unordered_of_heard hu _).trans ((State.gotPageFetch_page hl).2 hn))
  · exact congrArg Host.Outcome.next ((State.unordered_of_heard hu _).trans (State.gotCopyAck_placement hc h1 hn hy hj hr))
  · exact congrArg Host.Outcome.next ((State.unordered_of_heard hu _).trans (State.gotCopyAck_replica hc h2 hy))
  · exact congrArg Host.Outcome.next ((State.unordered_of_heard hu _).trans (State.gotCopyAck_resync hc h45))
  · exact congrArg Host.Outcome.next ((State.unordered_of_heard hu _).trans (State.gotMirrorAck_ok hn))

end Sys2Proof.Machine
end

section
/-! SUPPORT. Demotion: what holds of a page under every way in which DEMOTION changes pages (R253, R254). -/

namespace Sys2Proof.Machine

/-! ## Sorted lists -/

theorem mem_insertBy {α : Type} {lt : α → α → Bool} {x y : α} {l : List α} : y ∈ insertBy lt x l ↔ y = x ∨ y ∈ l := by
  induction l with
  | nil => simp [insertBy]
  | cons z l ih =>
    unfold insertBy
    split
    · simp
    · simp [ih, or_left_comm]

theorem mem_of_mem_sortBy {α : Type} {lt : α → α → Bool} {x : α} {l : List α} (h : x ∈ sortBy lt l) : x ∈ l :=
  List.foldlRecOn (motive := fun acc => ∀ x ∈ acc, x ∈ l) l _ (fun _ hx => absurd hx List.not_mem_nil)
    (fun _ ha _ hy x hx => (mem_insertBy.mp hx).elim (fun e => e ▸ hy) (ha x)) x h

/-- Demotion takes only pages that may leave HBM. -/
theorem State.demotable_of_coldest {s : State} {ok : Page → Bool} {p : Page} (h : p ∈ s.coldest ok) : p.demotable = true :=
  (Bool.and_eq_true_iff.mp (List.mem_filter.mp (mem_of_mem_sortBy h)).2).1

/-! ## A page under demotion -/

/-- What leaving HBM makes of a page (R253, R254). -/
def Page.outOfHbm (p : Page) : Page :=
  if ¬ p.flash then p else if p.pins = 0 then { p with hbm := none, openRec := [] } else { p with job := .leave }

theorem Page.outOfHbm_handle (p : Page) : p.outOfHbm.handle = p.handle := by
  unfold Page.outOfHbm
  split
  · rfl
  · split <;> rfl

/-- A handle names a page of which `Q` holds. -/
def State.PageMeets (s : State) (h : Handle) (Q : Page → Prop) : Prop := ∃ q, s.page? h = some q ∧ Q q

/-- `Q` outlasts both changes that demotion makes: a page leaves HBM, or its copy to flash begins. -/
structure KeptByDemotion (Q : Page → Prop) : Prop where
  leave : ∀ q, Q q → Q q.outOfHbm
  copy : ∀ q, Q q → Q (q.startJob .toFlash)

theorem State.PageMeets.updPage {s : State} {h k : Handle} {Q : Page → Prop} {f : Page → Page} (hs : s.PageMeets h Q)
    (hf : ∀ p, (f p).handle = p.handle) (hQ : ∀ q, Q q → Q (f q)) : (s.updPage k f).PageMeets h Q := by
  obtain ⟨q, hq, hqQ⟩ := hs
  refine ⟨if q.handle == k then f q else q, ?_, ?_⟩
  · rw [State.page?_updPage hf, hq]
    rfl
  · split
    · exact hQ q hqQ
    · exact hqQ

section
variable {s : State} {h : Handle} {Q : Page → Prop}

theorem State.PageMeets.leaveHbm (hs : s.PageMeets h Q) (hQ : KeptByDemotion Q) (k : Handle) : (s.leaveHbm k).PageMeets h Q :=
  hs.updPage Page.outOfHbm_handle hQ.leave

theorem State.PageMeets.startCopy (hs : s.PageMeets h Q) (hQ : KeptByDemotion Q) (k : Handle) :
    (s.updPage k (Page.startJob .toFlash)).PageMeets h Q :=
  hs.updPage (fun _ => rfl) hQ.copy

theorem State.PageMeets.demoteWhile (hQ : KeptByDemotion Q) (pct : Nat) (l : List Page) (n : Nat) {s : State} (hs : s.PageMeets h Q) :
    (s.demoteWhile pct l n).PageMeets h Q := by
  induction l generalizing n s with
  | nil => exact hs
  | cons p l ih =>
    unfold State.demoteWhile
    split
    · exact hs
    · split
      · exact ih _ (hs.leaveHbm hQ _)
      · split
        · exact ih _ (hs.startCopy hQ _)
        · exact ih _ hs

/-- The first round of demotion, below its target. -/
def State.demoteOld (s : State) : State :=
  if s.belowPct s.targetPct then
    s.demoteWhile s.targetPct (s.coldest fun p => decide (p.lastSel + s.rf .flsMig 0 16 * secondNs ≤ s.pow.tsc.toNat)) 0
  else s

/-- The second round, at the lower mark. -/
def State.demoteLow (s : State) : State :=
  if s.belowPct s.lowPct then s.demoteWhile s.lowPct (s.coldest fun _ => true) 0 else s

/-- What the first round makes of a page outlasts the rest of demotion. -/
theorem State.PageMeets.demotion (hQ : KeptByDemotion Q) (hs : s.demoteOld.PageMeets h Q) : s.demotion.PageMeets h Q := by
  have hlow : s.demoteOld.demoteLow.PageMeets h Q := by
    unfold State.demoteLow
    split
    · exact State.PageMeets.demoteWhile hQ _ _ _ hs
    · exact hs
  unfold State.demotion
  refine List.foldlRecOn (motive := fun t : State => t.PageMeets h Q) _ _ hlow fun t ht n _ => ?_
  split
  · exact ht
  · split
    · split
      · exact ht.leaveHbm hQ _
      · split
        · exact ht.startCopy hQ _
        · exact ht
    · exact ht

end

/-! ## The coldest old page -/

section
variable {s : State} {p : Page} {l : List Page}

/-- Below the target, the first round begins with the coldest old page. -/
theorem State.demoteOld_cons (hb : s.belowPct s.targetPct = true)
    (hc : s.coldest (fun x => decide (x.lastSel + s.rf .flsMig 0 16 * secondNs ≤ s.pow.tsc.toNat)) = p :: l) :
    s.demoteOld = if p.flash then State.demoteWhile s.targetPct l 0 (s.leaveHbm p.handle)
      else if s.flashWritable then State.demoteWhile s.targetPct l (0 + p.frames) (s.updPage p.handle (Page.startJob .toFlash))
      else State.demoteWhile s.targetPct l 0 s := by
  have hb' := of_decide_eq_true hb
  unfold State.demoteOld
  rw [if_pos hb, hc, State.demoteWhile, if_neg]
  rw [Nat.mul_comm s.pageFrames]
  omega

/-- A page on flash leaves HBM at once. -/
theorem State.demotion_leaves (hb : s.belowPct s.targetPct = true) (hp : s.page? p.handle = some p)
    (hc : s.coldest (fun x => decide (x.lastSel + s.rf .flsMig 0 16 * secondNs ≤ s.pow.tsc.toNat)) = p :: l) (hf : p.flash = true) :
    s.demotion.PageMeets p.handle fun q => q.hbm = none := by
  have hkept : KeptByDemotion fun q => q.hbm = none := by
    refine ⟨fun q hq => ?_, fun q hq => hq⟩
    unfold Page.outOfHbm
    split
    · exact hq
    · split
      · rfl
      · exact hq
  have hpins : p.pins = 0 := by
    have hd := State.demotable_of_coldest (hc ▸ List.mem_cons_self)
    simp only [Page.demotable, Bool.and_eq_true, beq_iff_eq] at hd
    obtain ⟨⟨⟨⟨-, hpins⟩, -⟩, -⟩, -⟩ := hd
    exact hpins
  refine State.PageMeets.demotion hkept ?_
  rw [State.demoteOld_cons hb hc, if_pos hf]
  refine State.PageMeets.demoteWhile hkept _ _ _ ⟨p.outOfHbm, ?_, ?_⟩
  · exact (State.page?_updPage Page.outOfHbm_handle s _ _).trans (by simp [hp])
  · simp [Page.outOfHbm, hf, hpins]

/-- The copy of a page that flash does not hold begins. -/
theorem State.demotion_copies (hb : s.belowPct s.targetPct = true) (hp : s.page? p.handle = some p)
    (hc : s.coldest (fun x => decide (x.lastSel + s.rf .flsMig 0 16 * secondNs ≤ s.pow.tsc.toNat)) = p :: l) (hf : p.flash = false)
    (hw : s.flashWritable = true) : s.demotion.PageMeets p.handle fun q => q.flash = false ∧ q.job = .toFlash := by
  have hkept : KeptByDemotion fun q => q.flash = false ∧ q.job = .toFlash :=
    ⟨fun q hq => by rwa [Page.outOfHbm, if_pos (by simp [hq.1])], fun q hq => ⟨hq.1, rfl⟩⟩
  refine State.PageMeets.demotion hkept ?_
  rw [State.demoteOld_cons hb hc, if_neg (by simp [hf]), if_pos hw]
  refine State.PageMeets.demoteWhile hkept _ _ _ ⟨p.startJob .toFlash, ?_, hf, rfl⟩
  exact (State.page?_updPage (f := Page.startJob .toFlash) (fun _ => rfl) s _ _).trans (by simp [hp])

/-- A handle that names a page names one after demotion too. -/
theorem State.demotion_page (hp : s.page? p.handle = some p) : s.demotion.PageMeets p.handle fun _ => True := by
  have hkept : KeptByDemotion fun _ => True := ⟨fun _ _ => trivial, fun _ _ => trivial⟩
  refine State.PageMeets.demotion hkept ?_
  unfold State.demoteOld
  split
  · exact State.PageMeets.demoteWhile hkept _ _ _ ⟨p, hp, trivial⟩
  · exact ⟨p, hp, trivial⟩

/-- With room enough and no partition, demotion takes nothing. -/
theorem State.demotion_none (ht : s.belowPct s.targetPct = false) (hl : s.belowPct s.lowPct = false) (hn : ∀ n, n < 32 → s.ptn? n = none) :
    s.demotion = s := by
  unfold State.demotion
  simp only [ht, hl, Bool.false_eq_true, if_false]
  refine List.foldlRecOn (motive := fun t : State => t = s) _ _ rfl fun t ht n hm => ?_
  rw [ht]
  exact if_pos (.inl (by simp [hn n (List.mem_range.mp hm)]))

end

end Sys2Proof.Machine
end

section
/-! PROOFS. Pages move between HBM, open regions, flash and the staging cache (R22, R23, R28, R43, R220, R221, R223, R238, R241,
R254, R255, R259). -/

namespace Sys2Proof.Machine

/-! ## Moves begin -/

section
variable {s : State} {h : Handle} {p : Page}

theorem State.promotion_begins (hp : s.page? h = some p) (hse : p.sealed? = true) (hf : p.flash = true) (hh : p.hbm = none) (hr : p.refs ≠ 0)
    (hj : p.job = .none) (hrec : p.recovering = false) (h0 : s.rf .flsPromo 0 8 ≠ 0)
    (hs : s.rf .flsPromo 0 8 ≤ s.selections p (s.rf .flsPromo 8 16 * 1000000)) (hb : s.belowPct s.targetPct = false) :
    s.promotion h = s.updPage h (Page.startJob .toHbm) := by
  unfold State.promotion
  simp [hp, hse, hf, hh, hr, hj, hrec, h0, hs, hb]

section
variable {n k : Nat} (hp : s.page? h = some p) (ho : s.openPlace = some (n, k)) (ha : s.openable p = true)
  (hs : s.nbPromote ≤ s.selections p nbWindow)
include hp ho ha hs

/-- A page that may lie in an open region and is selected often enough goes to the first free run. -/
theorem State.openPromote_run {f : Nat} (hf : s.openRun n k p.frames = some f) :
    s.openPromote h = s.updPage h (Page.startJob (.toOpen n k f)) := by
  unfold State.openPromote
  simp only [hp, ho]
  rw [if_neg (not_or.mpr ⟨not_not_intro ha, Nat.not_lt.mpr hs⟩), hf]

/-- Where there is no run, the pseudo-channel's coldest page with no copy under way is moved out first. -/
theorem State.openPromote_full (hf : s.openRun n k p.frames = none) :
    let cold := sortBy (fun (a b : Page) => decide (a.lastSel < b.lastSel)) ((s.pchPages n k).filter fun x => x.job == .none)
    (cold = [] → s.openPromote h = s) ∧ ∀ x l, cold = x :: l → s.openPromote h = s.updPage x.handle (Page.startJob .fromOpen) := by
  unfold State.openPromote
  simp only [hp, ho]
  rw [if_neg (not_or.mpr ⟨not_not_intro ha, Nat.not_lt.mpr hs⟩), hf]
  exact ⟨fun hc => by simp only [hc], fun x l hc => by simp only [hc]⟩

end

theorem State.openDemote_begins {l : HbmLoc} {k : Nat} (hp : s.page? h = some p) (hh : p.hbm = some l) (hk : l.pch = some k)
    (hj : p.job = .none) (hrec : p.recovering = false) (hs : s.selections p 100000000 ≤ s.rf .memNb 8 8) :
    s.openDemote h = s.updPage h (Page.startJob .fromOpen) := by
  unfold State.openDemote
  simp only [hp, hh, hk]
  exact if_pos ⟨rfl, hj, by simp [hrec], hs⟩

/-! ## Copies end -/

theorem State.copyDone_stays {ok : Bool} (hp : s.page? h = some p) (hs : ok = false ∨ p.recovering = true) : s.copyDone h ok = s := by
  unfold State.copyDone
  simp only [hp]
  exact if_pos (hs.imp_left (by rintro rfl; simp))

section
variable (hp : s.page? h = some p) (hr : p.recovering = false)
include hp hr

theorem State.copyDone_toFlash (hj : p.job = .toFlash) :
    (∀ t, s.writePage p = some t → s.copyDone h true = (((t.updPage h Page.endJob).leaveHbm h).pageWritten h).progress) ∧
    (s.writePage p = none → s.copyDone h true = if s.deltaFull = true then s else (s.updPage h Page.endJob).enterReadOnly) := by
  unfold State.copyDone
  simp only [hp, hr, hj, not_true_eq_false, Bool.false_eq_true, or_self, if_false]
  exact ⟨fun t ht => by simp only [ht], fun hn => by simp only [hn]⟩

/-- The stack that R216 gives a page. -/
def State.stackFor (s : State) (p : Page) : Option Nat := s.chooseStack p.name.block p.name.layer (shardOf p.name.seq) p.frames

theorem State.copyDone_toHbm (hj : p.job = .toHbm) :
    (s.flash.drafting.contains h = true → s.copyDone h true = s) ∧
    (s.flash.drafting.contains h = false →
      (s.hbmQuota p.ptn < s.hbmUsed p.ptn + p.frames ∨ s.stackFor p = none → s.copyDone h true = s.updPage h Page.endJob) ∧
      ∀ st, s.hbmUsed p.ptn + p.frames ≤ s.hbmQuota p.ptn → s.stackFor p = some st →
        s.copyDone h true = ((s.updPage h Page.endJob).updPage h (Page.moveTo (some ⟨st, none, 0⟩))).evict h) := by
  unfold State.copyDone State.stackFor
  simp only [hp, hr, hj, not_true_eq_false, Bool.false_eq_true, or_self, if_false]
  refine ⟨fun hd => if_pos hd, fun hd => ?_⟩
  simp only [hd, Bool.false_eq_true, if_false]
  refine ⟨fun hn => ?_, fun st hq hst => ?_⟩
  · split
    · rfl
    · next hq =>
      simp only [hn.resolve_left hq]
  · rw [if_neg (Nat.not_lt.mpr hq)]
    simp only [hst]

theorem State.copyDone_toOpen {n k f : Nat} (hj : p.job = .toOpen n k f) :
    s.copyDone h true = if s.serving n then
      ((s.updPage h Page.endJob).updPage h (Page.moveTo (some ⟨n, some k, f⟩))).updPage h fun x =>
        { x with openRec := openRecord (s.groupFor p.name.seq p.name.layer p.img) p.img }
    else s.updPage h Page.endJob := by
  unfold State.copyDone
  simp only [hp, hr, hj, not_true_eq_false, Bool.false_eq_true, or_self, if_false]

theorem State.copyDone_fromOpen (hj : p.job = .fromOpen) :
    (∀ st, s.stackFor p = some st → s.copyDone h true = (s.updPage h Page.endJob).updPage h (Page.moveTo (some ⟨st, none, 0⟩))) ∧
    (s.stackFor p = none → s.copyDone h true = if p.flash = true then (s.updPage h Page.endJob).leaveHbm h else s.updPage h Page.endJob) := by
  unfold State.copyDone State.stackFor
  simp only [hp, hr, hj, not_true_eq_false, Bool.false_eq_true, or_self, if_false]
  exact ⟨fun st hst => by simp only [hst], fun hn => by simp only [hn]⟩

end

/-! ## Drafting reads, flash reads and staging lines -/

theorem State.draftDone_other (hd : s.flash.drafting.contains h = false) : s.draftDone h = s := if_pos (Bool.eq_false_iff.mp hd)

/-- The state in which a drafting read is over. -/
def State.draftOver (h : Handle) (s : State) : State :=
  ({ s with flash := { s.flash with drafting := delAll h s.flash.drafting } } : State).doneWork .draft h

/-- A page that a drafting read does not stage: not on flash, being recovered, in a tier that is down, or released with no reader. -/
def State.unstaged (t : State) (p : Page) (h : Handle) : Prop :=
  p.flash = false ∨ p.recovering = true ∨ t.tierUp = false ∨ (p.refs = 0 ∧ t.wantsPage h = false)

/-- What a drafting read that is over does with its page. -/
def State.draftTaken (h : Handle) (t : State) : State :=
  match t.page? h with
  | some p =>
    if ¬ p.flash ∨ p.recovering ∨ ¬ t.tierUp ∨ (p.refs = 0 ∧ t.wantsPage h = false) then t
    else ((t.noteRead p).stage p true).pageLanded h
  | none => t

/-- A drafting read takes its page, and the next reads go. -/
theorem State.draftDone_ends (hd : s.flash.drafting.contains h = true) :
    let v := (s.draftOver h).draftTaken h
    s.draftDone h = v.issueDrafts v.flash.draftQueue.length :=
  if_neg (not_not_intro hd)

section
variable {t : State} (hp : t.page? h = some p)
include hp

theorem State.draftTaken_unstaged (hu : t.unstaged p h) : t.draftTaken h = t := by
  unfold State.draftTaken
  simp only [hp]
  exact if_pos (by simpa [State.unstaged] using hu)

theorem State.draftTaken_staged (hu : ¬ t.unstaged p h) : t.draftTaken h = ((t.noteRead p).stage p true).pageLanded h := by
  unfold State.draftTaken
  simp only [hp]
  exact if_neg (by simpa [State.unstaged] using hu)

end

/-- A page of which no flash read is under way: not on flash, being recovered, in a tier that is down, or with no work queued. -/
def State.unread (t : State) (p : Page) : Prop := p.flash = false ∨ p.recovering = true ∨ t.tierUp = false ∨ t.flashBusy p = false

section
variable (hp : s.page? h = some p)
include hp

theorem State.flashReadDone_unread (hu : (s.doneWork .attend h).unread p) (o : ReadOutcome) :
    s.flashReadDone h o = s.doneWork .attend h := by
  unfold State.flashReadDone
  dsimp only
  rw [show (s.doneWork .attend h).page? h = some p from hp]
  exact if_pos (by simpa [State.unread] using hu)

/-- A read that is under way counts; then what the read gave. -/
theorem State.flashReadDone_reads (hu : ¬ (s.doneWork .attend h).unread p) :
    let t := s.doneWork .attend h
    let v := t.noteRead p
    let chan := t.pageChan h
    let serve := fun (w : State) => if t.wantsPage h = true then (w.stage p false).pageLanded h else w
    s.flashReadDone h .clean = serve v ∧
    s.flashReadDone h .corrected = serve (v.flashCorrected chan false) ∧
    s.flashReadDone h .retried = serve ((v.flashCorrected chan true).refreshPage h) ∧
    let w := v.doneWork .draft h
    s.flashReadDone h .uncorrectable =
      ({ w with flash := { w.flash with drafting := delAll h w.flash.drafting } } : State).readFailed p := by
  unfold State.flashReadDone
  dsimp only
  rw [show (s.doneWork .attend h).page? h = some p from hp]
  have hc : ¬ (¬ p.flash = true ∨ p.recovering = true ∨ ¬ (s.doneWork .attend h).tierUp = true ∨ ¬ (s.doneWork .attend h).flashBusy p = true) := by
    simpa [State.unread] using hu
  exact ⟨if_neg hc, if_neg hc, if_neg hc, if_neg hc⟩

end

end

/-- Settles O51, from the choice of a move to its end. -/
theorem pageMovesTakeEffect : Obligations.PageMovesTakeEffect := by
  unfold Obligations.PageMovesTakeEffect
  refine ⟨fun s h p hp hse hf hh hr hj hrec h0 hs hb => ?_, fun s h p n k hp ho ha hs => ⟨fun f hf => ?_, fun hf => ⟨fun hc => ?_, fun x l hc => ?_⟩⟩,
    fun s h p l k hp hh hk hj hrec hs => ?_, fun s h p hp => ⟨?_, fun hr => ?_, fun hr => ⟨fun hj => ⟨fun t ht => ?_, fun hn => ?_⟩,
      fun hj => ⟨fun hd => ?_, fun hd => ⟨fun hn => ?_, fun st hq hst => ?_⟩⟩, fun n k f hj => ⟨fun hv => ?_, fun hv => ?_⟩,
      fun hj => ⟨fun st hst => ?_, fun hn => ?_⟩⟩⟩,
    fun s p l hb hp hc => ?_, fun s ht hl hn => ?_, fun s h hd => ?_, fun s h p hd hp => ⟨fun hu => ?_, fun hu => ?_⟩,
    fun s h p hp => ⟨fun hu o => ?_, fun hu => ?_⟩, fun s h => rfl⟩
  · exact congrArg Host.Outcome.next (State.promotion_begins hp hse hf hh hr hj hrec h0 hs hb)
  · exact congrArg Host.Outcome.next (State.openPromote_run hp ho ha hs hf)
  · exact congrArg Host.Outcome.next ((State.openPromote_full hp ho ha hs hf).1 hc)
  · exact congrArg Host.Outcome.next ((State.openPromote_full hp ho ha hs hf).2 x l hc)
  · exact congrArg Host.Outcome.next (State.openDemote_begins hp hh hk hj hrec hs)
  · exact congrArg Host.Outcome.next (State.copyDone_stays hp (.inl rfl))
  · exact congrArg Host.Outcome.next (State.copyDone_stays hp (.inr hr))
  · exact congrArg Host.Outcome.next ((State.copyDone_toFlash hp hr hj).1 t ht)
  · exact congrArg Host.Outcome.next ((State.copyDone_toFlash hp hr hj).2 hn)
  · exact congrArg Host.Outcome.next ((State.copyDone_toHbm hp hr hj).1 hd)
  · exact congrArg Host.Outcome.next (((State.copyDone_toHbm hp hr hj).2 hd).1 hn)
  · exact congrArg Host.Outcome.next (((State.copyDone_toHbm hp hr hj).2 hd).2 st hq hst)
  · exact congrArg Host.Outcome.next ((State.copyDone_toOpen hp hr hj).trans (if_pos hv))
  · exact congrArg Host.Outcome.next ((State.copyDone_toOpen hp hr hj).trans (if_neg (Bool.eq_false_iff.mp hv)))
  · exact congrArg Host.Outcome.next ((State.copyDone_fromOpen hp hr hj).1 st hst)
  · exact congrArg Host.Outcome.next ((State.copyDone_fromOpen hp hr hj).2 hn)
  · obtain ⟨q, hq, -⟩ := State.demotion_page hp
    refine ⟨s.demotion, q, rfl, hq, fun hf => ?_, fun hf hw => ?_⟩
    · obtain ⟨q', hq', hh⟩ := State.demotion_leaves hb hp hc hf
      exact Option.some.inj (hq.symm.trans hq') ▸ hh
    · obtain ⟨q', hq', -, hj⟩ := State.demotion_copies hb hp hc hf hw
      exact Option.some.inj (hq.symm.trans hq') ▸ hj
  · exact congrArg Host.Outcome.next (State.demotion_none ht hl hn)
  · exact congrArg Host.Outcome.next (State.draftDone_other hd)
  · have ht := State.draftDone_ends hd
    rw [State.draftTaken_unstaged (t := s.draftOver h) hp hu] at ht
    exact congrArg Host.Outcome.next ht
  · have ht := State.draftDone_ends hd
    rw [State.draftTaken_staged (t := s.draftOver h) hp hu] at ht
    unfold State.draftOver at ht
    exact congrArg Host.Outcome.next ht
  · exact congrArg Host.Outcome.next (State.flashReadDone_unread hp hu o)
  · obtain ⟨hclean, hcorr, hretry, hbad⟩ := State.flashReadDone_reads hp hu
    exact ⟨congrArg Host.Outcome.next hclean, congrArg Host.Outcome.next hcorr, congrArg Host.Outcome.next hretry,
      congrArg Host.Outcome.next hbad⟩

end Sys2Proof.Machine
end

section
/-! SUPPORT. Choosing a page to move: what it makes of every page, and that it changes nothing but pages (R43, R221, R254, R255). -/

namespace Sys2Proof.Machine

/-- What choosing moves may make of a page: its contents stay, and its pins grow only where a copy of it is under way. -/
structure Page.Chosen (p q : Page) : Prop where
  handle : q.handle = p.handle
  name : q.name = p.name
  img : q.img = p.img
  ptn : q.ptn = p.ptn
  frames : q.frames = p.frames
  refs : q.refs = p.refs
  flash : q.flash = p.flash
  pins : p.pins ≤ q.pins
  idle : q.job = .none → p.job = .none ∧ q.pins = p.pins

namespace Page.Chosen

theorem refl (p : Page) : p.Chosen p := ⟨rfl, rfl, rfl, rfl, rfl, rfl, rfl, le_rfl, fun h => ⟨h, rfl⟩⟩

theorem trans {p q r : Page} (h : p.Chosen q) (g : q.Chosen r) : p.Chosen r where
  handle := g.handle.trans h.handle
  name := g.name.trans h.name
  img := g.img.trans h.img
  ptn := g.ptn.trans h.ptn
  frames := g.frames.trans h.frames
  refs := g.refs.trans h.refs
  flash := g.flash.trans h.flash
  pins := h.pins.trans g.pins
  idle hr := by
    obtain ⟨hq, hqr⟩ := g.idle hr
    obtain ⟨hp, hpq⟩ := h.idle hq
    exact ⟨hp, hqr.trans hpq⟩

theorem startJob {j : CopyJob} (hj : j ≠ .none) (p : Page) : p.Chosen (p.startJob j) :=
  ⟨rfl, rfl, rfl, rfl, rfl, rfl, rfl, Nat.le_succ _, fun h => absurd h hj⟩

theorem outOfHbm (p : Page) : p.Chosen p.outOfHbm := by
  unfold Page.outOfHbm
  split
  · exact refl p
  · split
    · exact ⟨rfl, rfl, rfl, rfl, rfl, rfl, rfl, le_rfl, fun h => ⟨h, rfl⟩⟩
    · exact ⟨rfl, rfl, rfl, rfl, rfl, rfl, rfl, le_rfl, nofun⟩

end Page.Chosen

/-- `t` is `s` with moves chosen: each page changed as `Page.Chosen` says, and nothing else. -/
def State.MovesChosen (s t : State) : Prop :=
  ∃ f : Page → Page, (∀ p : Page, p.Chosen (f p)) ∧ t = { s with store := { s.store with pages := s.store.pages.map f } }

namespace State.MovesChosen

variable {s t u : State}

theorem refl (s : State) : s.MovesChosen s := ⟨id, Page.Chosen.refl, by simp⟩

theorem trans (h : s.MovesChosen t) (g : t.MovesChosen u) : s.MovesChosen u := by
  obtain ⟨f, hf, rfl⟩ := h
  obtain ⟨k, hk, rfl⟩ := g
  exact ⟨k ∘ f, fun p => (hf p).trans (hk (f p)), by simp⟩

theorem updPage {f : Page → Page} (hf : ∀ p : Page, p.Chosen (f p)) (h : Handle) (s : State) : s.MovesChosen (s.updPage h f) := by
  refine ⟨fun p => if p.handle == h then f p else p, fun p => ?_, rfl⟩
  dsimp only
  split
  · exact hf p
  · exact .refl p

theorem startJob {j : CopyJob} (hj : j ≠ .none) (h : Handle) (s : State) : s.MovesChosen (s.updPage h (Page.startJob j)) :=
  updPage (Page.Chosen.startJob hj) h s

theorem leaveHbm (h : Handle) (s : State) : s.MovesChosen (s.leaveHbm h) := updPage Page.Chosen.outOfHbm h s

/-! ### The four choices -/

theorem demoteWhile (pct : Nat) (l : List Page) (n : Nat) (s : State) : s.MovesChosen (s.demoteWhile pct l n) := by
  induction l generalizing n s with
  | nil => exact refl s
  | cons p l ih =>
    unfold State.demoteWhile
    split
    · exact refl s
    · split
      · exact (leaveHbm _ s).trans (ih _ _)
      · split
        · exact (startJob (by simp) _ s).trans (ih _ _)
        · exact ih _ _

theorem demoteOld (s : State) : s.MovesChosen s.demoteOld := by
  unfold State.demoteOld
  split
  · exact demoteWhile _ _ _ s
  · exact refl s

theorem demoteLow (s : State) : s.MovesChosen s.demoteLow := by
  unfold State.demoteLow
  split
  · exact demoteWhile _ _ _ s
  · exact refl s

theorem demotion (s : State) : s.MovesChosen s.demotion := by
  unfold State.demotion
  refine List.foldlRecOn (motive := fun t : State => s.MovesChosen t) _ _ ((demoteOld s).trans (demoteLow _)) fun t ht n _ => ht.trans ?_
  split
  · exact refl t
  · split
    · split
      · exact leaveHbm _ t
      · split
        · exact startJob (by simp) _ t
        · exact refl t
    · exact refl t

theorem promotion (h : Handle) (s : State) : s.MovesChosen (s.promotion h) := by
  unfold State.promotion
  split
  · dsimp only
    split
    · exact startJob (by simp) h s
    · exact refl s
  · exact refl s

theorem openPromote (h : Handle) (s : State) : s.MovesChosen (s.openPromote h) := by
  unfold State.openPromote
  split
  · split
    · exact refl s
    · split
      · exact startJob (by simp) h s
      · split
        · exact startJob (by simp) _ s
        · exact refl s
  · exact refl s

theorem openDemote (h : Handle) (s : State) : s.MovesChosen (s.openDemote h) := by
  unfold State.openDemote
  split
  · extract_lets inOpen
    split
    · exact startJob (by simp) h s
    · exact refl s
  · exact refl s

end State.MovesChosen

end Sys2Proof.Machine
end

section
/-! PROOFS. Choosing pages to move changes no page's content and no sequence (R43, R69, R221, R254, R255). -/

namespace Sys2Proof.Machine

/-- Each of the four commands that choose moves does nothing else. -/
theorem exec_movesChosen (s : State) (i : Instr)
    (hi : i = .demotion ∨ ∃ h, i = .promotion h ∨ i = .openRegionPromotion h ∨ i = .openRegionDemotion h) :
    ∃ t : State, exec i s = .next t ∧ s.MovesChosen t := by
  rcases hi with rfl | ⟨h, rfl | rfl | rfl⟩
  · exact ⟨_, rfl, .demotion s⟩
  · exact ⟨_, rfl, .promotion h s⟩
  · exact ⟨_, rfl, .openPromote h s⟩
  · exact ⟨_, rfl, .openDemote h s⟩

/-- Settles O50, by what choosing may make of a page. -/
theorem choosingMovesKeepsContents : Obligations.ChoosingMovesKeepsContents := by
  unfold Obligations.ChoosingMovesKeepsContents
  intro s i hi
  obtain ⟨t, ht, f, hf, rfl⟩ := exec_movesChosen s i hi
  refine ⟨_, ht, rfl, ?_, ?_, fun k p q hp hq => ?_⟩
  · simp only [List.map_map]
    exact List.map_congr_left fun p _ => by simp [(hf p).handle, (hf p).name, (hf p).img, (hf p).ptn]
  · simp only [List.map_map]
    exact List.map_congr_left fun p _ => by simp [(hf p).frames, (hf p).refs, (hf p).flash]
  · have hpq : f p = q := by simpa [List.getElem?_map, hp] using hq
    subst hpq
    exact ⟨(hf p).pins, fun h => ((hf p).idle h).2⟩

end Sys2Proof.Machine
end

section
/-! PROOFS. A released page is reclaimed once: its flash locations, its place and its staging lines go, and nothing else (R63). -/

namespace Sys2Proof.Machine

/-! ## Flash locations freed -/

/-- Delta records change the delta buffer alone. -/
theorem State.delta_frame (l : List DeltaRec) (s : State) :
    { s.delta l with flash := { (s.delta l).flash with unwritten := s.flash.unwritten, deltaTotal := s.flash.deltaTotal } } = s := by
  unfold State.delta
  split
  · exact List.foldlRecOn (motive := fun t : State =>
      { t with flash := { t.flash with unwritten := s.flash.unwritten, deltaTotal := s.flash.deltaTotal } } = s) _ _ rfl fun t ht r _ => ht
  · rfl

theorem State.delta_map (l : List DeltaRec) (s : State) : (s.delta l).flash.map = s.flash.map :=
  (congrArg (·.flash.map) (s.delta_frame l) :)

theorem State.touchLeaf_map (n : Nat) (s : State) : (s.touchLeaf n).flash.map = s.flash.map := by
  unfold State.touchLeaf
  dsimp only
  split <;> rfl

theorem State.touchLeaf_flashState (n : Nat) (s : State) : (s.touchLeaf n).flash.state = s.flash.state := by
  unfold State.touchLeaf
  dsimp only
  split <;> rfl

/-- The flash location of one frame freed. -/
def State.freeFrame (f : Nat) (s : State) : State :=
  match s.mapEntry? f with
  | none => s
  | some o =>
    let t := s.invalidate o
    (({ t with flash := { t.flash with map := t.flash.map.filter fun e => !(e.frame == f) } } : State).touchLeaf (f / 512)).delta [.frame f]

theorem State.freeFlash_succ (first n : Nat) (s : State) :
    s.freeFlash first (n + 1) = (s.freeFlash first n).freeFrame (first + n) := by
  unfold State.freeFlash
  rw [List.range_succ, List.foldl_append]
  rfl

theorem State.freeFrame_frame (f : Nat) (s : State) : { s.freeFrame f with flash := s.flash, tel := s.tel } = s := by
  unfold State.freeFrame
  split
  · rfl
  · next o _ =>
    dsimp only
    generalize hu : ({ s.invalidate o with flash := _ } : State) = u
    have hd : ({ (u.touchLeaf (f / 512)).delta [.frame f] with flash := s.flash, tel := s.tel } : State) =
        { u.touchLeaf (f / 512) with flash := s.flash, tel := s.tel } :=
      congrArg (fun t : State => { t with flash := s.flash, tel := s.tel }) (State.delta_frame [.frame f] (u.touchLeaf (f / 512)))
    have ht : ({ u.touchLeaf (f / 512) with flash := s.flash, tel := s.tel } : State) = { u with flash := s.flash, tel := s.tel } :=
      congrArg (fun t : State => { t with flash := s.flash, tel := s.tel }) (u.touchLeaf_frame (f / 512))
    rw [hd, ht, ← hu]
    rfl

theorem State.freeFrame_map (f : Nat) (s : State) : (s.freeFrame f).flash.map = s.flash.map.filter fun e => !(e.frame == f) := by
  unfold State.freeFrame
  split
  · next hn => exact (List.filter_eq_self.mpr fun e he => by simpa using List.find?_eq_none.mp hn e he).symm
  · exact (State.delta_map _ _).trans (State.touchLeaf_map _ _)

theorem State.freeFrame_flashState (f : Nat) (s : State) : (s.freeFrame f).flash.state = s.flash.state := by
  unfold State.freeFrame
  split
  · rfl
  · exact (congrArg (·.flash.state) (State.delta_frame _ _) :).trans (State.touchLeaf_flashState _ _)

theorem State.freeFlash_flashState (first n : Nat) (s : State) : (s.freeFlash first n).flash.state = s.flash.state := by
  induction n with
  | zero => rfl
  | succ n ih => rw [State.freeFlash_succ, State.freeFrame_flashState, ih]

theorem State.freeFlash_frame (first n : Nat) (s : State) : { s.freeFlash first n with flash := s.flash, tel := s.tel } = s := by
  induction n with
  | zero => rfl
  | succ n ih =>
    rw [State.freeFlash_succ]
    have h := congrArg (fun t : State => { t with flash := s.flash, tel := s.tel }) ((s.freeFlash first n).freeFrame_frame (first + n))
    exact h.trans ih

/-- The map names no frame that has been freed. -/
theorem State.mapEntry?_freeFlash {first n i : Nat} (hi : i < n) (s : State) : (s.freeFlash first n).mapEntry? (first + i) = none := by
  induction n with
  | zero => exact absurd hi (Nat.not_lt_zero i)
  | succ n ih =>
    unfold State.mapEntry? at ih ⊢
    rw [State.freeFlash_succ, State.freeFrame_map, List.find?_eq_none]
    intro e he
    obtain ⟨hmem, hne⟩ := List.mem_filter.mp he
    rcases Nat.lt_succ_iff_lt_or_eq.mp hi with hlt | rfl
    · exact List.find?_eq_none.mp (ih hlt) e hmem
    · simpa using hne

/-! ## A page reclaimed -/

section
variable {s : State} {h : Handle} {p : Page}

theorem State.leaveReadOnly_elsewhere (hs : s.flash.state ≠ .readOnly) : s.leaveReadOnly = s := if_pos hs

theorem State.reclaim_gone (hp : s.page? h = none) : s.reclaim h = s := by
  unfold State.reclaim
  rw [hp]

theorem State.reclaim_kept (hp : s.page? h = some p) (hu : p.refs ≠ 0 ∨ p.pins ≠ 0) : s.reclaim h = s := by
  unfold State.reclaim
  rw [hp]
  exact if_neg (by tauto)

/-- The state in which the flash locations of a page are freed. -/
def State.flashFreed (h : Handle) (p : Page) (s : State) : State := if p.flash then s.freeFlash (handleFrame h) p.frames else s

theorem State.flashFreed_frame (h : Handle) (p : Page) (s : State) : { s.flashFreed h p with flash := s.flash, tel := s.tel } = s := by
  unfold State.flashFreed
  split
  · exact s.freeFlash_frame _ _
  · rfl

/-- A page that nothing refers to or pins goes, with its flash locations and its staging lines. -/
theorem State.reclaim_released (hp : s.page? h = some p) (hr : p.refs = 0) (hn : p.pins = 0) :
    s.reclaim h = { s.flashFreed h p with
      store := { s.store with pages := s.store.pages.filter fun q => !(q.handle == h) }
      staging := s.staging.filter fun l => !(l.page == h) } := by
  have hst : (s.flashFreed h p).store = s.store := (congrArg State.store (s.flashFreed_frame h p) :)
  have hsg : (s.flashFreed h p).staging = s.staging := (congrArg State.staging (s.flashFreed_frame h p) :)
  rw [← hst, ← hsg]
  unfold State.reclaim
  rw [hp]
  exact if_pos ⟨hr, hn⟩

theorem State.reclaim_flashState (s : State) (h : Handle) : (s.reclaim h).flash.state = s.flash.state := by
  unfold State.reclaim
  split
  · rfl
  · split
    · dsimp only [State.evict]
      split
      · exact s.freeFlash_flashState _ _
      · rfl
    · rfl

/-- Reclaiming takes pages and staging lines of that handle alone. -/
theorem State.reclaim_others (s : State) (h : Handle) :
    (∀ k, k ≠ h → (s.reclaim h).page? k = s.page? k) ∧ ∀ l ∈ s.staging, l.page ≠ h → l ∈ (s.reclaim h).staging := by
  cases hp : s.page? h with
  | none =>
    rw [State.reclaim_gone hp]
    exact ⟨fun _ _ => rfl, fun _ hl _ => hl⟩
  | some p =>
    by_cases hu : p.refs = 0 ∧ p.pins = 0
    · rw [State.reclaim_released hp hu.1 hu.2]
      refine ⟨fun k hk => ?_, fun l hl hne => List.mem_filter.mpr ⟨hl, by simpa using hne⟩⟩
      unfold State.page?
      rw [List.find?_filter]
      congr 1
      funext q
      by_cases hq : q.handle = k <;> simp [hq, hk]
    · rw [State.reclaim_kept hp (by tauto)]
      exact ⟨fun _ _ => rfl, fun _ hl _ => hl⟩

end

/-- Settles O52, by whether the page is there, released and unpinned. -/
theorem releasedPagesAreReclaimedOnce : Obligations.ReleasedPagesAreReclaimedOnce := by
  unfold Obligations.ReleasedPagesAreReclaimedOnce
  refine fun s h => ⟨s.reclaim h, rfl, fun hs => ?_, fun p hp hr hn => ?_, fun p hp hu => State.reclaim_kept hp hu, State.reclaim_gone,
    s.reclaim_others h⟩
  · exact congrArg Host.Outcome.next (State.leaveReadOnly_elsewhere (by rwa [s.reclaim_flashState h]))
  · rw [State.reclaim_released hp hr hn]
    refine ⟨?_, fun l hl => by simpa using (List.mem_filter.mp hl).2, rfl, fun hf i hi => ?_⟩
    · simp [State.page?]
    · unfold State.flashFreed
      rw [if_pos hf]
      exact State.mapEntry?_freeFlash hi s

end Sys2Proof.Machine
end

section
/-! SUPPORT. What is sent to other nodes leaves the map and the node's own ID alone, so the roles of its sequences stay
(13_chainline_fabric.md R374, R390, R422; 15_resilience.md R446, R447). -/

namespace Sys2Proof.Machine

/-- The map and the node's own ID stay. -/
structure State.RolesKept (s t : State) : Prop where
  map : t.map = s.map
  self : t.self = s.self

namespace State.RolesKept

variable {s t u : State}

theorem refl (s : State) : s.RolesKept s := ⟨rfl, rfl⟩

theorem trans (h : s.RolesKept t) (g : t.RolesKept u) : s.RolesKept u := ⟨g.map.trans h.map, g.self.trans h.self⟩

/-- A change that leaves the map, the registers and the recorded node ID. -/
theorem of_eq (hm : t.map = s.map) (hr : t.regs = s.regs) (hn : t.trust.nodeId = s.trust.nodeId) : s.RolesKept t := by
  refine ⟨hm, ?_⟩
  unfold State.self State.nodeValid
  rw [State.rf_congr hr, State.rf_congr hr, hn]

theorem ite {c : Prop} [Decidable c] (h : s.RolesKept t) (g : s.RolesKept u) : s.RolesKept (if c then t else u) := by
  split <;> assumption

theorem foldl {α : Type} {f : State → α → State} (hf : ∀ (u : State) a, u.RolesKept (f u a)) (l : List α) (s : State) :
    s.RolesKept (l.foldl f s) :=
  List.foldlRecOn (motive := s.RolesKept) l f (refl s) fun t ht a _ => ht.trans (hf t a)

/-- A home stays the home. -/
theorem isHome (h : s.RolesKept t) (q : Handle) : t.isHome q = s.isHome q := by
  unfold State.isHome State.homeOf State.rolesOf State.mayHold
  rw [h.map, h.self]

/-- The tandem that a home mirrors to stays. -/
theorem mirrorNode (h : s.RolesKept t) (q : Handle) : t.mirrorNode q = s.mirrorNode q := by
  unfold State.mirrorNode State.tandemOf State.rolesOf
  rw [h.isHome, h.map]

/-! ### Sending -/

theorem sendFrame (n : Nat) (f : LinkFrame) (l : Link) (s : State) : s.RolesKept (s.sendFrame n f l) := of_eq rfl rfl rfl

theorem pump (n k : Nat) (s : State) : s.RolesKept (s.pump n k) := by
  induction k generalizing s with
  | zero => exact refl s
  | succ k ih =>
    unfold State.pump
    dsimp only
    split
    · exact refl s
    · split
      · exact refl s
      · exact (sendFrame _ _ _ s).trans (ih _)

theorem transmit (n : NodeId) (x : Sent) (s : State) : s.RolesKept (s.transmit n x) := by
  unfold State.transmit
  by_cases hl : s.liveLinks = []
  · rw [if_pos hl]
    exact refl s
  · rw [if_neg hl]
    extract_lets pick stay link segs tag frames fab ordered queued
    have hordered : s.RolesKept ordered := .ite (of_eq rfl rfl rfl) (refl s)
    exact hordered.trans (.trans (of_eq (t := queued.emit _) rfl rfl rfl) (pump _ _ _))

theorem raise_secSts (k : Nat) (c : Rec) (s : State) : s.RolesKept (s.raise .secSts k c) := by
  refine ⟨State.raise_map .., ?_⟩
  have hrf : ∀ lo w, (s.raise .secSts k c).rf .fabNode lo w = s.rf .fabNode lo w := fun lo w =>
    State.rf_raise_other _ _ _ _ _ _ _ (by decide) (by decide)
  unfold State.self State.nodeValid
  rw [hrf, hrf, State.raise_trust]

theorem attRoll (s : State) : s.RolesKept s.attRoll := by
  unfold State.attRoll
  split
  · refine .trans ?_ (raise_secSts _ _ _)
    exact of_eq rfl rfl rfl
  · exact refl s

theorem hello (n : NodeId) (s : State) : s.RolesKept (s.hello n) := by
  unfold State.hello
  extract_lets p rolled draw id seq b hI b' asked
  refine .ite (refl s) ((attRoll s).trans (.trans (t := asked) ?_ (transmit _ _ _)))
  exact of_eq rfl rfl rfl

theorem postFor (n : NodeId) (reqId : Word64) (m : Msg) (s : State) : s.RolesKept (s.postFor n reqId m) := by
  unfold State.postFor State.postSeq State.needKey
  extract_lets p k first last x counted waiting sent
  dsimp only
  have hsent : s.RolesKept sent := by
    refine .trans (t := counted) (of_eq rfl rfl rfl) (.ite (transmit _ _ _) ?_)
    exact .trans (t := waiting) (of_eq rfl rfl rfl) (.ite (refl _) (hello _ _))
  exact .ite (hsent.trans (hello _ _)) hsent

theorem sendCopy (n : NodeId) (purpose : Nat) (h : Handle) (l : Nat) (p : Page) (s : State) :
    s.RolesKept (s.sendCopy n purpose h l p) :=
  (postFor n 0 _ s).trans (.ite (of_eq rfl rfl rfl) (of_eq rfl rfl rfl))

/-! ### The resynchronisation of a sequence -/

theorem sendTail (n : NodeId) (q : Seq) (l : Nat) (s : State) : s.RolesKept (s.sendTail n q l) := by
  have hempty : s.RolesKept (if (q.layer l).length = 0 then s else
      s.postMsg n (.mirrorWrite ⟨q.handle, false, [l], 2, (q.layer l).length, [], [[]], 0, 0⟩)) := .ite (refl s) (postFor _ _ _ s)
  unfold State.sendTail
  dsimp only
  split
  · exact hempty
  · exact .ite hempty (.ite (postFor _ _ _ s) (postFor _ _ _ s))

theorem resyncMsgs (n : NodeId) (purpose : Nat) (q : Seq) (s : State) : s.RolesKept (s.resyncMsgs n purpose q) := by
  have htokens : s.RolesKept (q.tokens.foldl (fun s b => s.postMsg n (.pageCopy purpose q.handle 0xFFFF (.tokens b.idx b.ids (b.crc.getD 0))))
      (((List.range q.layers.length).foldl (fun s l => s.sendTail n q l)
        (s.postMsg n (.stepCreate ⟨q.handle, q.groups, q.shared, q.tag, q.replicas⟩))).sendRecords n q)) :=
    (postFor _ _ _ s).trans ((foldl (fun u l => sendTail n q l u) _ _).trans
      ((foldl (fun u r => postFor _ _ _ u) _ _).trans (foldl (fun u b => postFor _ _ _ u) _ _)))
  unfold State.resyncMsgs
  refine .ite htokens (htokens.trans (foldl (fun u l => foldl (fun v e => ?_) _ u) _ _))
  split
  · exact .ite (sendCopy _ _ _ _ _ v) (refl v)
  · exact refl v

theorem resyncSeq (n : NodeId) (purpose : Nat) (q : Seq) (s : State) : s.RolesKept (s.resyncSeq n purpose q) :=
  (resyncMsgs n purpose q s).trans (.ite (of_eq rfl rfl rfl) (refl _))

end State.RolesKept

/-- A step is waited for only where the home has a tandem to send it to. -/
theorem State.mirrorWait_some {s t : State} {h : Handle} {reqId : Word64} {m : Msg} {x : NodeId × Nat}
    (hw : s.mirrorWait h reqId m = (some x, t)) : (s.mirrorNode h).isSome = true := by
  unfold State.mirrorWait at hw
  split at hw
  · next hn => rw [hn]; rfl
  · exact nomatch (Prod.mk.inj hw).1

end Sys2Proof.Machine
end

section
/-! PROOFS. The namespace and sequence commands and appends, each by what its definition answers at step 9 (R33, R45, R50 to R58,
R300 to R311). -/

namespace Sys2Proof.Machine

/-! ## How an admitted command ends -/

section
variable {op : Op} {p : Packet} {s u t : State} {c : Cmd} (h : admission op p s = some (c, u))
include h

theorem State.resume_of_admission {r : Res} (hr : (opDef op).run c u = r) :
    (s.arriveAll op (opDef op) p).resume = (u.settle c r).progress.resume := by
  rw [State.arriveAll_of_admission h, hr]

theorem State.answered_of_admission {st : Status} {b : List Byte} (hr : (opDef op).run c u = .done st b t) :
    (s.arriveAll op (opDef op) p).resume = t.answered c b st := by
  rw [State.resume_of_admission h hr, State.settle, State.answered]

theorem State.refused_of_admission {st : Status} (hr : (opDef op).run c u = .no st) :
    (s.arriveAll op (opDef op) p).resume = u.refused c st := by
  rw [State.resume_of_admission h hr, Res.no, State.settle, State.refused]

theorem State.held_of_admission {w : Wait} (hr : (opDef op).run c u = .wait w [] t) :
    (s.arriveAll op (opDef op) p).resume = t.held c w := by
  rw [State.resume_of_admission h hr, State.settle, State.held]

end

/-! ## Namespaces (R33, R300, R301) -/

section
variable {u : State} {c : Cmd}

theorem nsCreateRun_new (hn : u.ns? (field c.data 0 2) = none) :
    let x : Ns :=
      { num := field c.data 0 2, ptn := field c.data 2 1, recallOn := bit (field c.data 3 1) 0, selfPlaced := bit (field c.data 3 1) 1,
        level := field c.data 4 1, maxSeq := field c.data 8 4, nodes := (nsNodes c.data).map (BitVec.ofNat 12),
        index := (nsIndex c.data).map (BitVec.ofNat 12), current := none, retained := none, createPayload := c.data }
    nsCreateRun c u = .ok [] (({ u with store := { u.store with nss := u.store.nss ++ [x] } } : State).delta [.ns x.num]) := by
  unfold nsCreateRun
  simp only [hn, Option.isSome_none, Bool.false_eq_true, if_false]

theorem nsCreateRun_held (hn : (u.ns? (field c.data 0 2)).isSome = true) : nsCreateRun c u = .no .conflict := if_pos hn

theorem nsDeleteRun_unused (hn : u.nsUsed (field c.data 0 2) = false) :
    nsDeleteRun c u = .ok [] (({ u with
      store := { u.store with nss := u.store.nss.filter fun x => !(x.num == field c.data 0 2) }
      rcl := { u.rcl with segments := u.rcl.segments.filter fun g => !(g.name.ns == field c.data 0 2) } } : State).delta
        [.ns (field c.data 0 2)]) :=
  if_neg (Bool.eq_false_iff.mp hn)

theorem nsDeleteRun_used (hn : u.nsUsed (field c.data 0 2) = true) : nsDeleteRun c u = .no .conflict := if_pos hn

end

/-- Settles O10, by what each definition answers. -/
theorem namespaceCommandsTakeEffect : Obligations.NamespaceCommandsTakeEffect := by
  unfold Obligations.NamespaceCommandsTakeEffect
  refine ⟨fun p s u c h hn => ?_, fun p s u c h hn => ?_, fun p s u c h => ?_, fun p s u c h hn => ?_, fun p s u c h hn => ?_⟩
  · exact congrArg Host.Outcome.next (State.answered_of_admission h (nsCreateRun_new hn))
  · exact congrArg Host.Outcome.next (State.refused_of_admission h (nsCreateRun_held hn))
  · exact congrArg Host.Outcome.next (State.answered_of_admission (op := .nsModify) h rfl)
  · exact congrArg Host.Outcome.next (State.answered_of_admission h (nsDeleteRun_unused hn))
  · exact congrArg Host.Outcome.next (State.refused_of_admission h (nsDeleteRun_used hn))

/-! ## Sequences (R54 to R58, R303 to R307, R311) -/

section
variable {u v t : State} {c : Cmd}

theorem afterMirror_tandem {h : Handle} {x : Option (NodeId × Nat) × State} {n : NodeId} {k : Nat} (hx : x = (some (n, k), t)) :
    afterMirror h x = .wait (.mirror n k h) [] t := by
  rw [hx, afterMirror]

theorem seqCreateRun_new {r : SeqCreateReq} (hr : parseSeqCreate c.data = some r) (hn : u.seq? r.seq = none)
    (hm : u.seqRoom (nsOf r.seq) = true) :
    seqCreateRun c u = .ok [] ((u.addSeq (freshSeq r .live)).mirrorMsg r.seq c.pkt.reqId (.stepCreate r)) := by
  unfold seqCreateRun
  simp only [hr, hn, hm, Option.isSome_none, Bool.false_eq_true, not_true_eq_false, if_false]

theorem seqDeleteRun_mirrored {n : NodeId} {k : Nat}
    (hw : u.mirrorWait (seqAt0 c.data) c.pkt.reqId (.stepDelete (seqAt0 c.data)) = (some (n, k), v)) :
    let t := v.removeSeq true (seqAt0 c.data)
    seqDeleteRun c u = .wait (.mirror n k (seqAt0 c.data)) [] (t.endWaits (seqAt0 c.data) t.cmds.list) := by
  unfold seqDeleteRun
  simp only [hw]
  exact afterMirror_tandem rfl

theorem truncateRun_cuts {q : Seq} {n : NodeId} {k : Nat} (hq : u.seq? (seqAt0 c.data) = some q) (hl : field c.data 8 4 ≤ q.tokLen)
    (hc : u.cutMissing q (field c.data 8 4) = []) (ht : u.truncHome (seqAt0 c.data) (field c.data 8 4) = some v)
    (hw : v.mirrorWait (seqAt0 c.data) c.pkt.reqId (.stepTruncate (seqAt0 c.data) (field c.data 8 4)) = (some (n, k), t)) :
    truncateRun c u = .wait (.mirror n k (seqAt0 c.data)) [] t := by
  unfold truncateRun
  simp only [hq, hc, ht]
  rw [if_neg (Nat.not_lt.mpr hl), if_neg (not_not_intro rfl)]
  exact afterMirror_tandem hw

theorem seqDescribeRun_held {q : Seq} (hq : u.seq? (seqAt0 c.data) = some q) :
    let node := fun (o : Option NodeId) => leBytes 2 ((o.map (·.toNat)).getD 0)
    seqDescribeRun c u = .ok
      (leBytes 8 q.handle.toNat ++ leBytes 2 q.layers.length ++ leBytes 1 q.groups.length ++ leBytes 1 (b2n q.shared) ++
       leBytes 4 q.tag.toNat ++ leBytes 4 q.tokLen ++ node (u.homeOf q.handle) ++ node (u.tandemOf q.handle) ++
       leBytes 1 q.replicas.length ++ zeroBytes 7 ++ replicaBytes q.replicas ++ q.groups.flatMap LayerGroup.bytes ++
       (List.range (field c.data 10 2)).flatMap fun i => u.layerRecord q (field c.data 8 2 + i)) u := by
  unfold seqDescribeRun
  simp only [hq]

theorem pageListRun_held {q : Seq} (hq : u.seq? (seqAt0 c.data) = some q) :
    let all := sortBy (fun (x y : Entry) => decide (x.block < y.block))
      ((q.layer (field c.data 8 2)).entries.filter fun e => decide (field c.data 12 4 ≤ e.block))
    let out := all.take (field c.data 16 4)
    let next := match all.drop (field c.data 16 4) with | [] => 0xFFFFFFFF | e :: _ => e.block
    pageListRun c u = .ok (leBytes 4 out.length ++ leBytes 4 next ++ zeroBytes 8 ++ out.flatMap u.pageRecord) u := by
  unfold pageListRun
  simp only [hq] <;> rfl

/-! ### Forks (R53 to R56, R305) -/

section
variable {r : ForkReq} {q : Seq} (hr : parseFork c.data = some r) (hq : u.seq? r.parent = some q) (hch : u.seq? r.child = none)
  (hcov : q.covers r.f = true) (hcut : u.cutMissing q r.f = [])
include hr hq hch hcov hcut

/-- Once every page is at hand, a fork waits for nothing but the seals that a child elsewhere needs. -/
theorem forkRun_ready (hs : u.isHome r.child = true ∨ u.unsealedBelow q r.f = []) : forkRun c u = forkReady c r q u := by
  unfold forkRun
  simp only [hr, hq, hch, hcov, hcut, Option.isSome_none, Bool.false_eq_true, not_true_eq_false, ne_eq, if_false]
  rcases hs with hs | hs
  · exact if_pos hs
  · simp only [hs, if_true, ite_self]

theorem forkRun_remote {n : NodeId} (hh : u.isHome r.child = false) (hn : u.homeOf r.child = some n) (href : u.refsOk q r.f = true)
    (hs : u.unsealedBelow q r.f = []) :
    let x := u.sendForkCreate c.pkt.reqId r n q
    forkRun c u = .wait (.forkAccept r (BitVec.ofNat 32 x.1)) [] x.2 := by
  rw [forkRun_ready hr hq hch hcov hcut (.inr hs)]
  unfold forkReady
  simp only [href, hh, hn, Bool.false_eq_true, not_true_eq_false, if_false]

theorem forkRun_here {x : Seq} {n : NodeId} {k : Nat} (hh : u.isHome r.child = true) (href : u.refsOk q r.f = true)
    (hm : u.seqRoom (nsOf r.child) = true) (hf : u.forkHere r = some v) (hx : v.seq? r.child = some x) (hn : v.tandemOf r.child = some n)
    (hw : (if v.tandemOf r.child = v.tandemOf r.parent then v else v.resyncSeq n 5 x).mirrorWait r.child c.pkt.reqId (.stepFork r) =
      (some (n, k), t)) :
    forkRun c u = .wait (.mirror n k r.child) [] t := by
  /- What is sent to the child's tandem leaves the child's roles, so a tandem that is waited for is the one that `v` gives it. -/
  have hmn : v.mirrorNode r.child = some n := by
    have hsome := State.mirrorWait_some hw
    rw [(State.RolesKept.ite (.refl v) (.resyncSeq n 5 x v)).mirrorNode] at hsome
    unfold State.mirrorNode at hsome ⊢
    split at hsome
    · next hv => rw [if_pos hv, hn]
    · exact nomatch hsome
  rw [forkRun_ready hr hq hch hcov hcut (.inl hh)]
  unfold forkReady forkLocal
  simp only [href, hh, hm, hf, hmn, hx, not_true_eq_false, if_false, if_true]
  exact afterMirror_tandem hw

end

end

/-- Settles O11, by what each definition answers. -/
theorem sequenceCommandsTakeEffect : Obligations.SequenceCommandsTakeEffect := by
  unfold Obligations.SequenceCommandsTakeEffect
  refine ⟨fun p s u c r h hr hn hm => ?_, fun p s u c h => ?_, fun p s u v c n k h hw => ?_, fun p s u v t c q n k h => ?_,
    fun p s u v t c r q x n k h hr hq hch hcov hcut hh href hm hf hx hn hw => ?_,
    fun p s u c r q n h hr hq hch hcov hcut hh hn href hs => ?_, fun p s u c q h hq => ?_, fun p s u c q h hq => ?_⟩
  · exact congrArg Host.Outcome.next (State.answered_of_admission h (seqCreateRun_new hr hn hm))
  · exact congrArg Host.Outcome.next (State.answered_of_admission (op := .seqTag) h rfl)
  · exact congrArg Host.Outcome.next (State.held_of_admission h (seqDeleteRun_mirrored hw))
  · exact fun hq hl hc ht hw => congrArg Host.Outcome.next (State.held_of_admission h (truncateRun_cuts hq hl hc ht hw))
  · exact congrArg Host.Outcome.next (State.held_of_admission h (forkRun_here hr hq hch hcov hcut hh href hm hf hx hn hw))
  · exact congrArg Host.Outcome.next (State.held_of_admission h (forkRun_remote hr hq hch hcov hcut hh hn href hs))
  · exact congrArg Host.Outcome.next (State.answered_of_admission h (seqDescribeRun_held hq))
  · exact congrArg Host.Outcome.next (State.answered_of_admission h (pageListRun_held hq))

/-! ## Appends (R45, R50, R52, R308 to R310) -/

section
variable {u v : State} {c : Cmd} {q : Seq} {a : AppendReq} {bulk : Bool}

theorem appendRun_runs (hq : u.seq? (seqAt0 c.data) = some q) (ha : parseAppend q bulk c.data = some a)
    (hp : u.levelOf a = 3 → u.persistOk = true) : appendRun bulk c u = u.runAppend c a := by
  unfold appendRun
  simp only [hq, ha]
  exact if_neg fun h => h.2 (hp h.1)

theorem State.runAppend_gap (hq : u.seq? a.seq = some q) (hf : u.fit a q = .gap) (ht : a.timeoutUs = 0) :
    u.runAppend c a = .done .notYet (notYetBytes q ((a.layers.find? fun l => decide ((q.layer l).length < a.pos)).getD 0)) u := by
  unfold State.runAppend
  simp only [hq, hf, ht, if_true]
  rfl

theorem State.runAppend_applies (hq : u.seq? a.seq = some q) (hf : u.fit a q = .apply) (ht : tokensAgree q a.pos a.tokens = true)
    (hj : u.levelOf a = 3 → u.journalRoom (journalHalf a.seq) (u.journalNeed a q) = true)
    (hr : u.applyRows true false a c.pkt.reqId c.ptn = some v) :
    let w := v.mirrorMsg a.seq c.pkt.reqId (.mirrorWrite a)
    u.runAppend c a = .wait (.level a false) []
      (if w.levelOf a = 3 then a.layers.foldl (fun s l => s.persist a.seq l (a.pos + a.count)) w else w) := by
  unfold State.runAppend State.applyAppend
  simp only [hq, hf, ht, hr, not_true_eq_false, if_false]
  exact if_neg fun h => h.2 (hj h.1)

end

/-- Settles O12, by how the append fits its layers. -/
theorem appendAtTheEndTakesEffect : Obligations.AppendAtTheEndTakesEffect := by
  unfold Obligations.AppendAtTheEndTakesEffect
  refine ⟨fun bulk p s u v w c q a h hq ha hq' hl hf ht hr hw => ?_, fun p s u c q a h hq ha hl hq' hf ht => ?_⟩
  · subst hw
    have hrun := (appendRun_runs hq ha fun h3 => (hl h3).1).trans (State.runAppend_applies hq' hf ht (fun h3 => (hl h3).2) hr)
    refine ⟨fun hb => ?_, fun hb => ?_⟩ <;> subst hb
    · exact congrArg Host.Outcome.next (State.held_of_admission h hrun)
    · exact congrArg Host.Outcome.next (State.held_of_admission h hrun)
  · have hrun := (appendRun_runs hq ha fun h3 => absurd h3 hl).trans (State.runAppend_gap (c := c) hq' hf ht)
    exact congrArg Host.Outcome.next (State.answered_of_admission h hrun)

end Sys2Proof.Machine
end

section
/-! PROOFS. Mirrored steps on the tandem: each takes effect in its turn, and an older epoch is answered `STALE_EPOCH` (R51, R53, R57,
R76, R77, R283, R304 to R306, R380, R447, R448). -/

namespace Sys2Proof.Machine

/-- An ordered message whose turn it is does what its delivery does, then what the stream held behind it goes on. -/
theorem exec_inTurn {i : Instr} {h : MsgHdr} {m : Msg} {s u t : State} (he : exec i s = .next (s.ordered i))
    (hm : orderedMsg i = some (h, m)) (hu : inTurn i s = some u) (hd : deliver i u = t) : exec i s = .next (t.streamOn h) := by
  rw [he, State.ordered_of_inTurn hm hu, hd]

section
variable {u v : State} {h : MsgHdr}

theorem State.step'_current (hs : u.stale h = false) (q : Handle) (act : State → State) : u.step' h q act = act u :=
  if_neg (Bool.eq_false_iff.mp hs)

theorem State.step'_stale (hs : u.stale h = true) (q : Handle) (act : State → State) : u.step' h q act = u.ackMirror h q 0 .staleEpoch :=
  if_pos hs

/-! ## Kinds 1 to 9 (R380) -/

/-- A record kept changes no role. -/
theorem State.RolesKept.stepRecord (h : MsgHdr) (q : Handle) (op : Op) (b : List Byte) (u : State) : u.RolesKept (u.stepRecord h q op b) :=
  .ite (.refl u) (.of_eq rfl rfl rfl)

section
variable (hs : u.stale h = false)
include hs

/-- A sequence that a node other than its home does not hold is added. -/
theorem State.gotStepCreate_tandem {r : SeqCreateReq} (hn : u.seq? r.seq = none) (hh : u.isHome r.seq = false) :
    u.gotStepCreate h r = (u.stepRecord h r.seq .seqCreate (SeqCreateReq.bytes r)).addSeq (freshSeq r .live) := by
  have hroles := State.RolesKept.stepRecord h r.seq .seqCreate (SeqCreateReq.bytes r) u
  unfold State.gotStepCreate
  rw [State.step'_current hs]
  simp only [hn, Option.isSome_none, Bool.false_eq_true, if_false]
  exact if_neg fun hc => Bool.eq_false_iff.mp hh ((hroles.isHome r.seq).symm.trans hc.1)

theorem State.gotStepCreate_awaited {r : SeqCreateReq} (hn : u.seq? r.seq = none) (hh : u.isHome r.seq = true)
    (ht : (u.map.transfersIn.any fun t => t.shard == shardOf r.seq) = true) :
    let w := ((u.stepRecord h r.seq .seqCreate (SeqCreateReq.bytes r)).shardArrived (shardOf r.seq)).addSeq (freshSeq r .arriving)
    let ts := updWhere (fun (t : Transfer) => t.shard == shardOf r.seq) (fun t => ⟨t.shard, t.arrived + 1⟩) w.map.transfersIn
    u.gotStepCreate h r = { w with map := { w.map with transfersIn := ts } } := by
  have hroles := State.RolesKept.stepRecord h r.seq .seqCreate (SeqCreateReq.bytes r) u
  unfold State.gotStepCreate
  rw [State.step'_current hs]
  simp only [hn, Option.isSome_none, Bool.false_eq_true, if_false]
  exact if_pos ⟨(hroles.isHome r.seq).trans hh, hroles.map ▸ ht⟩

theorem State.gotStepDelete_current (q : Handle) :
    let t := (u.stepRecord h q .seqDelete (leBytes 8 q.toNat)).removeSeq false q
    u.gotStepDelete h q = t.endWaits q t.cmds.list := State.step'_current hs _ _

theorem State.gotStepFork_pending {f : ForkReq} {q : Seq} {k : Word64}
    (hq : (u.stepRecord h f.parent .fork (ForkReq.bytes f)).seq? f.child = some q) (hp : q.state = .pendingChild k) :
    u.gotStepFork h f = ((u.stepRecord h f.parent .fork (ForkReq.bytes f)).updSeq f.child fun q => { q with state := .live }).delta
      [.child f.child] := by
  unfold State.gotStepFork
  rw [State.step'_current hs]
  simp only [hq, hp]

theorem State.gotStepFork_here {f : ForkReq} (hq : (u.stepRecord h f.parent .fork (ForkReq.bytes f)).seq? f.child = none)
    (hf : (u.stepRecord h f.parent .fork (ForkReq.bytes f)).forkHere f = some v) : u.gotStepFork h f = v := by
  unfold State.gotStepFork
  rw [State.step'_current hs]
  simp only [hq, hf, Option.getD_some]

theorem State.gotStepTruncate_cuts {x : Handle} {t : Nat} {q : Seq} (hq : u.seq? x = some q)
    (ht : (u.stepRecord h x .truncate (leBytes 8 x.toNat ++ leBytes 4 t ++ zeroBytes 4)).truncSeq false x (List.range q.layers.length) t =
      some v) :
    u.gotStepTruncate h x t = v.updSeq x fun q => { q with layers := q.layers.map fun y => { y with loss := none } } := by
  unfold State.gotStepTruncate
  rw [State.step'_current hs]
  simp only [hq, ht]

theorem State.gotStepTag_current (q : Handle) (tag : Word32) :
    u.gotStepTag h q tag = (u.updSeq q fun x => { x with tag := tag }).delta [.seq q] := State.step'_current hs _ _

theorem State.gotStepPersisted_current (q : Handle) (l p : Nat) :
    u.gotStepPersisted h q l p = u.updLayer q l fun x => { x with persisted := min p x.length } := State.step'_current hs _ _

theorem State.gotStepLoss_current (q : Handle) (l first fin : Nat) : u.gotStepLoss h q l first fin = u.loseLayer false q l first fin :=
  State.step'_current hs _ _

/-- A tail image gets a page, which its layer then names and reaches to. -/
theorem State.gotStepTail_placed {q k : Handle} {l : Nat} {img : Image} {recs : List AppendRec} {x : Seq} (hx : u.seq? q = some x)
    (hn : u.newPage (u.seqPtn q) ⟨q, l, img.block⟩ img (img.frames (x.group l)) true = some (k, v)) :
    let w := (v.setEntry false q l ⟨img.block, k, [], 0⟩).updLayer q l fun y => { y with length := max y.length (256 * img.block + img.fill) }
    let z : State := { w with store := { w.store with appendRecs := w.store.appendRecs ++ recs.filter fun r => !w.store.appendRecs.contains r } }
    u.gotStepTail h q l img recs = (z.ackMirror h q l .ok).serveParts := by
  unfold State.gotStepTail
  rw [State.step'_current hs]
  simp only [hx, hn]

/-- The rows of an append are mirrored, its record is kept, and every layer of it is acknowledged. -/
theorem State.gotMirrorWrite_held {a : AppendReq} {q : Seq} (hq : u.seq? a.seq = some q) :
    let v := ((List.zip a.layers a.rows).foldl (fun s x => s.mirrorLayer a x) (u.install a.seq)).updSeq a.seq fun q =>
      { q with tokens := putTokens a.pos a.tokens q.tokens }
    let r : AppendRec := ⟨a.seq, a.layers, a.pos, a.count, a.digest, a.bulk, h.reqId, v.seqPtn a.seq, false⟩
    let w : State := if h.reqId = 0 ∨ v.store.appendRecs.contains r = true then v else { v with store := { v.store with appendRecs := v.store.appendRecs ++ [r] } }
    u.gotMirrorWrite h a = (a.layers.foldl (fun s l => s.ackMirror h a.seq l .ok) w).serveParts := by
  unfold State.gotMirrorWrite
  rw [if_neg (Bool.eq_false_iff.mp hs), hq]

end

/-! ## An older epoch (R77) -/

/-- The message is a mirrored step of the sequence, of a kind whose refusal alone answers it. -/
def MirroredStep (h : MsgHdr) (i : Instr) (x : Handle) : Prop :=
  (∃ r, i = .mirrorStepCreate h r ∧ x = r.seq) ∨ i = .mirrorStepDelete h x ∨ (∃ f, i = .mirrorStepFork h f ∧ x = f.child) ∨
    (∃ t, i = .mirrorStepTruncate h x t) ∨ (∃ t, i = .mirrorStepTag h x t) ∨ (∃ n l c, i = .mirrorStepSealCommit h n l c ∧ x = n.seq) ∨
    (∃ l p, i = .mirrorStepPersisted h x l p) ∨ (∃ l a b, i = .mirrorStepLayerLoss h x l a b) ∨
    (∃ k l, i = .mirrorStepRestoredLengths h x k l)

/-- A mirrored step is an ordered message, and its delivery begins with the epoch's check. -/
theorem MirroredStep.guarded {i : Instr} {x : Handle} (hi : MirroredStep h i x) (hs : u.stale h = true) (s : State) :
    exec i s = .next (s.ordered i) ∧ (∃ m, orderedMsg i = some (h, m)) ∧ deliver i u = u.ackMirror h x 0 .staleEpoch := by
  rcases hi with ⟨r, rfl, rfl⟩ | rfl | ⟨f, rfl, rfl⟩ | ⟨t, rfl⟩ | ⟨t, rfl⟩ | ⟨n, l, c, rfl, rfl⟩ | ⟨l, p, rfl⟩ | ⟨l, a, b, rfl⟩ | ⟨k, l, rfl⟩ <;>
    exact ⟨rfl, ⟨_, rfl⟩, by dsimp only [deliver]; exact State.step'_stale hs _ _⟩

theorem exec_staleStep {s : State} {i : Instr} {x : Handle} (hi : MirroredStep h i x) (hs : u.stale h = true) (hu : inTurn i s = some u) :
    exec i s = .next ((u.ackMirror h x 0 .staleEpoch).streamOn h) := by
  obtain ⟨he, ⟨m, hm⟩, hd⟩ := hi.guarded hs s
  exact exec_inTurn he hm hu hd

theorem State.gotMirrorWrite_stale (hs : u.stale h = true) (a : AppendReq) :
    u.gotMirrorWrite h a = a.layers.foldl (fun s l => s.ackMirror h a.seq l .staleEpoch) u := if_pos hs

end

/-- Settles O30, one kind of step after the other, and then an older epoch. -/
theorem mirroredStepsTakeEffect : Obligations.MirroredStepsTakeEffect := by
  unfold Obligations.MirroredStepsTakeEffect
  refine ⟨fun s u h r hu hs hn => ⟨fun hh => ?_, fun hh ht => ?_⟩, fun s u h q hu hs => ?_,
    fun s u h f hu hs => ⟨fun q k hq hp => ?_, fun w hq hf => ?_⟩, fun s u v h x t q hu hs hq ht => ?_, fun s u h q tag hu hs => ?_,
    fun s u h q l p hu hs => ?_, fun s u h q l first fin hu hs => ?_, fun s u v h q l img recs x k hu hs hx hn => ?_,
    fun s u h a q hu hs hq => ?_,
    fun s u h hs => ⟨fun i x hi hu => exec_staleStep hi hs hu, fun x l img recs hu => ?_, fun a hu => ?_⟩⟩
  · exact exec_inTurn rfl rfl hu (State.gotStepCreate_tandem hs hn hh)
  · exact exec_inTurn rfl rfl hu (State.gotStepCreate_awaited hs hn hh ht)
  · exact exec_inTurn rfl rfl hu (State.gotStepDelete_current hs q)
  · exact exec_inTurn rfl rfl hu (State.gotStepFork_pending hs hq hp)
  · exact exec_inTurn rfl rfl hu (State.gotStepFork_here hs hq hf)
  · exact exec_inTurn rfl rfl hu (State.gotStepTruncate_cuts hs hq ht)
  · exact exec_inTurn rfl rfl hu (State.gotStepTag_current hs q tag)
  · exact exec_inTurn rfl rfl hu (State.gotStepPersisted_current hs q l p)
  · exact exec_inTurn rfl rfl hu (State.gotStepLoss_current hs q l first fin)
  · exact exec_inTurn rfl rfl hu (congrArg (State.settleCheck q) (State.gotStepTail_placed hs hx hn))
  · exact exec_inTurn rfl rfl hu (congrArg (State.settleCheck a.seq) (State.gotMirrorWrite_held hs hq))
  · exact exec_inTurn rfl rfl hu (congrArg (State.settleCheck x) (State.step'_stale hs x _))
  · exact exec_inTurn rfl rfl hu (congrArg (State.settleCheck a.seq) (State.gotMirrorWrite_stale hs a))

end Sys2Proof.Machine
end

section
/-! PROOFS. Forks between homes, placement moves, end-to-end acknowledgements and stream timers (R53, R55, R56, R67, R68, R305, R374,
R451, R530). -/

namespace Sys2Proof.Machine

section
variable {s u v : State} {h : MsgHdr}

/-! ## Forks to another home (R55, R305, R451) -/

section
variable {f : ForkReq} {g : List LayerGroup} {tk : List (List Word32)} {pg : List ForkPage} {cut : List (Nat × Copied)}

theorem State.gotForkCreate_refused (hv : (u.forkVerdict h.reqId f).2 = false) :
    u.gotForkCreate h f g tk pg cut = u.postFor h.src h.reqId (.forkAccept h.seq (u.forkVerdict h.reqId f).1.code) :=
  if_pos (by simp [hv])

/-- The pending child goes to its tandem where it has one, and its home accepts. -/
theorem State.gotForkCreate_accepted {x : Seq} (hv : (u.forkVerdict h.reqId f).2 = true) (hr : (pg.all fun p => u.refRoom p.handle) = true)
    (hm : u.makeChild h.src h.reqId f g tk pg cut = some v) (hx : v.seq? f.child = some x) :
    u.gotForkCreate h f g tk pg cut = (match v.mirrorNode f.child with | some n => v.resyncSeq n 5 x | none => v).postFor h.src h.reqId
      (.forkAccept h.seq 0) := by
  unfold State.gotForkCreate
  simp only [hv, hr, hm, hx, not_true_eq_false, if_false]
  cases v.mirrorNode f.child <;> rfl

end

theorem State.gotForkAccept_awaited {src : NodeId} {k : Word32} {i : Inflight} {f : ForkReq} (hw : i.wait = .forkAccept f k)
    (hi : (u.cmds.list.find? fun i => (match i.wait with | .forkAccept f j => j == k && u.homeOf f.child == some src | _ => false)) = some i)
    (st : Nat) :
    u.gotForkAccept src k st = if st = 0 then u.forkCommit i f else u.complete i (Status.ofCode st) none 0 [] := by
  unfold State.gotForkAccept
  split
  · next hn => exact nomatch hn.symm.trans hi
  · next j hj =>
    obtain rfl : j = i := Option.some.inj (hj.symm.trans hi)
    simp only [hw]
    rfl

theorem State.forkTimedOut_awaited {id : Nat} {i : Inflight} {f : ForkReq} {k : Word32} (hi : s.inflight? id = some i)
    (hw : i.wait = .forkAccept f k) : s.forkTimedOut id = s.complete i .busyRetry none 1000 [] := by
  unfold State.forkTimedOut
  simp only [hi, hw]

theorem State.dropPending_pending {x : Handle} {q : Seq} {k : Word64} (hq : s.seq? x = some q) (hp : q.state = .pendingChild k) :
    s.dropPending x = (s.mirrorMsg x 0 (.stepDelete x)).removeSeq false x := by
  unfold State.dropPending
  simp only [hq, hp]

/-! ## Placement moves (R67, R68) -/

/-- A page may be moved: sealed, no ring page, no copy under way, not being recovered, and referenced. -/
structure Page.Movable (p : Page) : Prop where
  isSealed : p.sealed? = true
  ring : p.img.ring = false
  job : p.job = .none
  recovering : p.recovering = false
  refs : p.refs ≠ 0

theorem State.placementMove_begins {k : Handle} {n : NodeId} {p : Page} {x : Ns} {q : Seq} {l b : Nat}
    (hr : ((s.referrers k).find? fun r => s.isHome r.1.handle) = some (q, l, b)) (hx : s.ns? (nsOf q.handle) = some x)
    (hsp : x.selfPlaced = true) (hmem : x.nodes.contains n = true) (hn : n ≠ handleNode k) (hself : n ≠ s.self)
    (hsec : s.secondCopy q n = true) (hpl : s.placed? k = none) (hp : s.page? k = some p) (hm : p.Movable) :
    s.placementMove k n = (s.updPage k (Page.startJob (.place n))).sendCopy n 1 q.handle l p := by
  unfold State.placementMove
  simp only [hr, hx, hsp, hmem, hsec, hn, hpl, hp, not_true_eq_false, or_self, if_false]
  exact if_pos ⟨hm.isSealed, by simp [hm.ring], hm.job, by simp [hm.recovering], hm.refs, hself⟩

/-! ## Streams (R374) -/

theorem State.peer_congr {s t : State} (h : t.fab.peers = s.fab.peers) (m : NodeId) : t.peer m = s.peer m := by
  unfold State.peer State.peer?
  rw [h]

theorem State.pump_peers (n k : Nat) (s : State) : (s.pump n k).fab.peers = s.fab.peers := by
  induction k generalizing s with
  | zero => rfl
  | succ k ih =>
    unfold State.pump
    dsimp only
    split
    · rfl
    · split
      · rfl
      · exact ih _

/-- Changing peers without changing what waits for their keys. -/
theorem State.waiting_updPeers {f : Peer → Peer} (hn : ∀ p, (f p).node = p.node) (hw : ∀ p, (f p).waiting = p.waiting) (n m : NodeId)
    (s : State) :
    (({ s with fab := { s.fab with peers := updWhere (fun p => p.node == n) f s.fab.peers } } : State).peer m).waiting =
      (s.peer m).waiting := by
  unfold State.peer State.peer?
  dsimp only
  rw [find?_updWhere fun p => by rw [hn]]
  cases s.fab.peers.find? fun p => p.node == m with
  | none => rfl
  | some p =>
    rw [Option.map_some, Option.getD_some, Option.getD_some]
    split
    · exact hw p
    · rfl

/-- A message sent takes nothing from what waits for a key. -/
theorem State.waiting_transmit (n m : NodeId) (x : Sent) (s : State) : ((s.transmit n x).peer m).waiting = (s.peer m).waiting := by
  unfold State.transmit
  by_cases hl : s.liveLinks = []
  · rw [if_pos hl]
  · rw [if_neg hl]
    extract_lets pick stay link segs tag frames fab ordered queued
    have hordered : (ordered.peer m).waiting = (s.peer m).waiting := by
      unfold ordered
      split
      · exact State.waiting_updPeers (f := fun p => { p with ordLink := some link }) (fun _ => rfl) (fun _ => rfl) n m s
      · rfl
    have hpeers : ((queued.emit (.msg n x)).pumpAll link).fab.peers = ordered.fab.peers := State.pump_peers _ _ _
    rw [State.peer_congr hpeers, hordered]

theorem State.resend_waiting (n : NodeId) {w : List Sent} {l : List Sent} {s : State} (hw : (s.peer n).waiting = w) :
    l.foldl (fun s x => if (s.peer n).waiting.contains x then s else s.transmit n x) s =
      l.foldl (fun s x => if w.contains x then s else s.transmit n x) s := by
  induction l generalizing s with
  | nil => rfl
  | cons x l ih =>
    rw [List.foldl_cons, List.foldl_cons, hw]
    refine ih ?_
    split
    · exact hw
    · exact (State.waiting_transmit n n x s).trans hw

theorem State.sendE2eAck_owed {n : NodeId} (ha : (s.peer n).ackOwed = true) (hl : s.listens = true) :
    s.sendE2eAck n = (s.updPeer n fun p => { p with ackOwed := false }).postMsg n (.e2eAck (s.peer n).rxOrd) := if_pos ⟨ha, hl⟩

/-- A stream sends again what does not wait for a key yet; sending leaves what waits. -/
theorem State.retransmitStream_keyed {n : NodeId} (hl : s.listens = true) (hk : (s.peer n).keyed = true)
    (hh : (s.peer n).holdUntilFirst = false) :
    s.retransmitStream n =
      (resendGo none (s.peer n).unacked).foldl (fun s x => if (s.peer n).waiting.contains x then s else s.transmit n x) s := by
  rw [State.resend_waiting n rfl]
  exact if_neg (by simp [hl, hk, hh])

end

/-- Settles O32: forks at the child's home and at the parent's, then moves, then streams. -/
theorem forksAndStreamsTakeEffect : Obligations.ForksAndStreamsTakeEffect := by
  unfold Obligations.ForksAndStreamsTakeEffect
  refine ⟨fun s u h f g tk pg cut hu => ⟨fun hv => ?_, fun v x hv hr hm hx => ?_⟩,
    fun s u h k i f hu hw hi => ⟨?_, fun st hst => ?_⟩, fun s id i f k hi hw => ?_, fun s h q k hq hp => ?_,
    fun s k n p x q l b hr hx hsp hmem hn hself hsec hpl hp hse hring hj hrec href => ?_, fun s u h k hu => ?_,
    fun s n hl => ⟨fun ha => ?_, fun hk hh => ?_⟩⟩
  · exact congrArg Host.Outcome.next ((State.serve_of_asked hu _).trans (State.gotForkCreate_refused hv))
  · exact congrArg Host.Outcome.next ((State.serve_of_asked hu _).trans (State.gotForkCreate_accepted hv hr hm hx))
  · exact congrArg Host.Outcome.next ((State.unordered_of_heard hu _).trans ((State.gotForkAccept_awaited hw hi 0).trans (if_pos rfl)))
  · exact congrArg Host.Outcome.next ((State.unordered_of_heard hu _).trans ((State.gotForkAccept_awaited hw hi st).trans (if_neg hst)))
  · exact congrArg Host.Outcome.next (State.forkTimedOut_awaited hi hw)
  · exact congrArg (Host.Outcome.next ∘ State.resume) (State.dropPending_pending hq hp)
  · exact congrArg Host.Outcome.next (State.placementMove_begins hr hx hsp hmem hn hself hsec hpl hp ⟨hse, hring, hj, hrec, href⟩)
  · exact congrArg Host.Outcome.next (State.unordered_of_heard hu _)
  · exact congrArg Host.Outcome.next (State.sendE2eAck_owed ha hl)
  · exact congrArg Host.Outcome.next (State.retransmitStream_keyed hl hk hh)

end Sys2Proof.Machine
end

section
/-! PROOFS. Shaping programs and recall models: what each command answers at step 9, and that putting a program slot sets that slot and
no other (R161 to R164, R169, R172, R319, R320, R429). -/

namespace Sys2Proof.Machine

/-! ## A program slot put (R163, R164) -/

section
variable {α : Type} {key : α → Nat} {n k : Nat}

theorem find?_filter_key_same (l : List α) : ((l.filter fun x => key x != k).find? fun x => key x == k) = none := by
  simp

theorem find?_filter_key_other (hn : n ≠ k) (l : List α) :
    ((l.filter fun x => key x != k).find? fun x => key x == n) = l.find? fun x => key x == n := by
  rw [List.find?_filter]
  congr 1
  funext x
  by_cases hx : key x = n
  · simp [hx, hn]
  · simp [hx]

end

theorem State.progSlot_setProg_same (u : State) (x : ProgSlot) :
    (u.setProg x).progSlot x.num = if x.current = none ∧ u.oldProgs x = [] then ProgSlot.empty x.num else { x with old := u.oldProgs x } := by
  unfold State.progSlot State.progSlot? State.setProg
  by_cases hx : x.current = none ∧ u.oldProgs x = []
  · rw [if_pos hx]
    simp only [hx, Option.isNone_none, and_self, if_true, find?_filter_key_same, Option.getD_none]
  · rw [if_neg hx]
    simp only [Option.isNone_iff_eq_none, hx, if_false, List.find?_append, find?_filter_key_same, List.find?_singleton, beq_self_eq_true,
      if_true, Option.none_or, Option.getD_some]

theorem State.progSlot_setProg_other (u : State) (x : ProgSlot) {n : Nat} (hn : n ≠ x.num) :
    (u.setProg x).progSlot n = u.progSlot n := by
  have hlast : (x.num == n) = false := beq_false_of_ne hn.symm
  unfold State.progSlot State.progSlot? State.setProg
  dsimp only
  split
  · rw [find?_filter_key_other hn]
  · rw [List.find?_append, find?_filter_key_other hn, List.find?_singleton, hlast]
    exact congrArg (Option.getD · _) Option.or_none

/-! ## Programs (R163, R164, R319) -/

section
variable {u : State} {c : Cmd}

/-- The slot has no version, and commands still hold earlier ones of another partition: it cannot be loaded yet. -/
def State.progForeign (u : State) (c : Cmd) : Prop :=
  let x := u.progSlot (field c.data 0 1)
  x.current = none ∧ u.oldProgs x ≠ [] ∧ x.owner ≠ c.ptn

/-- The versions of the slot that commands hold, its present one last: a load keeps them. -/
def State.progKept (u : State) (c : Cmd) : List ProgVer :=
  let x := u.progSlot (field c.data 0 1)
  u.oldProgs x ++ x.current.toList.filter (u.progBound x.num)

theorem progLoadRun_busy {ws : List Word32} (hws : parseProgram (c.data.drop 8) = some ws)
    (hb : u.progForeign c ∨ 2 ≤ (u.progKept c).length) : progLoadRun c u = .no .busyRetry := by
  unfold progLoadRun
  simp only [hws, Option.isNone_iff_eq_none]
  by_cases hf : u.progForeign c
  · exact if_pos hf
  · exact (if_neg hf).trans (if_pos (hb.resolve_left hf))

theorem progLoadRun_loads {ws : List Word32} (hws : parseProgram (c.data.drop 8) = some ws) (hf : ¬ u.progForeign c)
    (hk : (u.progKept c).length < 2) :
    progLoadRun c u = .ok (leBytes 32 (digest (c.data.drop 8)).toNat)
      (({ u with slots := { u.slots with nextVer := u.slots.nextVer + 1 } } : State).setProg
        ⟨(u.progSlot (field c.data 0 1)).num, c.ptn, some ⟨ws, digest (c.data.drop 8), u.slots.nextVer⟩, u.progKept c⟩) := by
  unfold progLoadRun
  simp only [hws, Option.isNone_iff_eq_none]
  exact (if_neg hf).trans (if_neg (Nat.not_le.mpr hk))

theorem progUnloadRun_empty (hx : (u.progSlot (field c.data 0 1)).current = none) : progUnloadRun c u = .ok [] u := by
  unfold progUnloadRun
  simp only [hx, Option.isNone_none, if_true]

theorem progUnloadRun_held (hx : (u.progSlot (field c.data 0 1)).current ≠ none) :
    let x := u.progSlot (field c.data 0 1)
    progUnloadRun c u = .ok [] (u.setProg { x with current := none, old := x.old ++ x.current.toList }) := by
  unfold progUnloadRun
  simp only [Option.isNone_iff_eq_none, hx, if_false]

/-- The versions of the slot that PROG_DESCRIBE counts. -/
def State.progBoundCount (u : State) (c : Cmd) : Nat :=
  let x := u.progSlot (field c.data 0 1)
  (x.current.toList.filter (u.progBound x.num)).length + (u.oldProgs x).length

theorem progDescribeRun_empty (hx : (u.progSlot (field c.data 0 1)).current = none) :
    progDescribeRun c u = .ok (leBytes 1 0 ++ leBytes 1 noPtn ++ leBytes 1 0 ++ leBytes 1 (u.progBoundCount c) ++ zeroBytes 36) u := by
  unfold progDescribeRun State.progBoundCount
  simp only [hx]

theorem progDescribeRun_held {v : ProgVer} (hx : (u.progSlot (field c.data 0 1)).current = some v) :
    progDescribeRun c u = .ok (leBytes 1 1 ++ leBytes 1 (u.progSlot (field c.data 0 1)).owner ++ leBytes 1 v.words.length ++
      leBytes 1 (u.progBoundCount c) ++ zeroBytes 4 ++ leBytes 32 v.digest.toNat) u := by
  unfold progDescribeRun State.progBoundCount
  simp only [hx, digestBytes]

end

/-! ## Models (R169, R172, R320, R429) -/

/-- The number is that of the namespace's current or retained model. -/
def Ns.usesModel (x : Ns) (num : Nat) : Bool := (x.current.toList ++ x.retained.toList).any fun y => y.num == num

/-- The node's coarse lists once a model with `lists` more is current in the namespace and its retained one is gone. -/
def State.listsAfter (u : State) (n lists : Nat) : Nat :=
  lists + sumNat ((u.store.nss.flatMap fun y => y.current.toList ++ (if y.num = n then [] else y.retained.toList)).map fun y => y.coarse.length)

/-- A recall uses the namespace's retained model. -/
def State.retainedBound (u : State) (n : Nat) (x : Ns) : Bool :=
  match x.retained with | some y => u.modelBound n y.num | none => false

/-- The model becomes the namespace's current one, the one before it the retained one, and the one retained before is removed. -/
def State.installModel (u : State) (n : Nat) (x : Ns) (m : Model) : State :=
  let v := match x.retained with | some y => u.removeModel n y.num | none => u
  let l := v.store.nss.map fun y => if y.num = n then { y with current := some m, retained := y.current } else y
  ({ v with store := { v.store with nss := l } } : State).delta [.ns n]

theorem State.retainedBound_some {u : State} {n : Nat} {x : Ns} {y : Model} (hy : x.retained = some y) :
    u.retainedBound n x = u.modelBound n y.num := by
  unfold State.retainedBound
  rw [hy]

theorem State.retainedBound_eq_false {u : State} {n : Nat} {x : Ns} (h : ∀ y, x.retained = some y → u.modelBound n y.num = false) :
    u.retainedBound n x = false := by
  cases hy : x.retained with
  | none => unfold State.retainedBound; rw [hy]
  | some y => exact (State.retainedBound_some hy).trans (h y hy)

section
variable {u : State} {c : Cmd} {x : Ns}

theorem modelInstallRun_readOnly (hro : u.flash.state = .readOnly) : modelInstallRun c u = .no .mediaExhausted := if_pos hro

theorem modelInstallRun_sealed (hro : u.flash.state ≠ .readOnly)
    (hw : unwrapBound 1 (slice c.data 16 (field c.data 4 4)) = none ∨
      unwrapBound 2 (slice c.data (up64 (16 + field c.data 4 4)) (field c.data 8 4)) = none) :
    modelInstallRun c u = .no .denied := by
  unfold modelInstallRun
  rw [if_neg hro]
  split
  · next hwi hci => exact absurd hw (by simp [hwi, hci])
  · rfl

/-- Two images that unwrap on this node and are well formed: what is left to decide is the number, the lists and the recalls. -/
theorem modelInstallRun_parsed {wi ci : List Byte} {w : List Nat × List (Nat × List (List Word16) × List Word32)}
    {k : List (List Word16) × List (List (List Word32))} (hro : u.flash.state ≠ .readOnly) (hx : u.ns? (field c.data 0 2) = some x)
    (hwi : unwrapBound 1 (slice c.data 16 (field c.data 4 4)) = some wi)
    (hci : unwrapBound 2 (slice c.data (up64 (16 + field c.data 4 4)) (field c.data 8 4)) = some ci)
    (hw : parseWeights wi = some w) (hk : parseCodebook ci = some k) :
    modelInstallRun c u =
      if x.usesModel (field c.data 2 1) = true then .no .badParam
      else if nlistMax < u.listsAfter (field c.data 0 2) k.1.length then .no .noSpace
      else if u.retainedBound (field c.data 0 2) x = true then .no .busyRetry
      else .ok (leBytes 32 (digest wi).toNat ++ leBytes 32 (digest ci).toNat)
        (u.installModel (field c.data 0 2) x ⟨field c.data 2 1, digest wi, digest ci, w.1, w.2, k.1, k.2⟩) := by
  unfold modelInstallRun
  simp only [hx, hwi, hci, hw, hk]
  exact if_neg hro

theorem modelDescribeRun_held (hx : u.ns? (field c.data 0 2) = some x) :
    modelDescribeRun c u = .ok (u.modelRecord x.num 1 x.current ++ u.modelRecord x.num 2 x.retained) u := by
  unfold modelDescribeRun
  simp only [hx]

end

/-- Settles O36, by what each definition answers. -/
theorem programAndModelCommandsTakeEffect : Obligations.ProgramAndModelCommandsTakeEffect := by
  unfold Obligations.ProgramAndModelCommandsTakeEffect
  refine ⟨fun p s u c ws h hws => ⟨fun hb => ?_, fun hf hk => ?_⟩, fun p s u c h => ⟨fun hx => ?_, fun hx => ?_⟩,
    fun p s u c h => ⟨fun hx => ?_, fun v hx => ?_⟩,
    fun u x => ⟨u.progSlot_setProg_same x, fun n hn => u.progSlot_setProg_other x hn⟩,
    fun p s u c x h hro hx => ⟨fun hsealed => ?_, fun wi ci w k hwi hci hw hk => ?_⟩,
    fun p s u c h hro => ?_, fun p s u c x h hx => ?_⟩
  · exact congrArg Host.Outcome.next (State.refused_of_admission h (progLoadRun_busy hws hb))
  · exact congrArg Host.Outcome.next (State.answered_of_admission h (progLoadRun_loads hws hf hk))
  · exact congrArg Host.Outcome.next (State.answered_of_admission h (progUnloadRun_empty hx))
  · exact congrArg Host.Outcome.next (State.answered_of_admission h (progUnloadRun_held hx))
  · exact congrArg Host.Outcome.next (State.answered_of_admission h (progDescribeRun_empty hx))
  · exact congrArg Host.Outcome.next (State.answered_of_admission h (progDescribeRun_held hx))
  · exact congrArg Host.Outcome.next (State.refused_of_admission h (modelInstallRun_sealed hro hsealed))
  · have hrun := modelInstallRun_parsed hro hx hwi hci hw hk
    refine ⟨fun hused => ?_, fun hused hlists => ?_, fun y hused hlists hy hb => ?_, fun hused hlists hfree => ?_⟩
    · exact congrArg Host.Outcome.next (State.refused_of_admission h (hrun.trans (if_pos hused)))
    · exact congrArg Host.Outcome.next
        (State.refused_of_admission h (hrun.trans ((if_neg (Bool.eq_false_iff.mp hused)).trans (if_pos hlists))))
    · have hbound := (State.retainedBound_some hy).trans hb
      exact congrArg Host.Outcome.next (State.refused_of_admission h
        (hrun.trans ((if_neg (Bool.eq_false_iff.mp hused)).trans ((if_neg (Nat.not_lt.mpr hlists)).trans (if_pos hbound)))))
    · have hunbound := Bool.eq_false_iff.mp (State.retainedBound_eq_false hfree)
      exact congrArg Host.Outcome.next (State.answered_of_admission h
        (hrun.trans ((if_neg (Bool.eq_false_iff.mp hused)).trans ((if_neg (Nat.not_lt.mpr hlists)).trans (if_neg hunbound)))))
  · exact congrArg Host.Outcome.next (State.refused_of_admission h (modelInstallRun_readOnly hro))
  · exact congrArg Host.Outcome.next (State.answered_of_admission h (modelDescribeRun_held hx))

end Sys2Proof.Machine
end

section
/-! PROOFS. Recalls: admission, list scans and passes, index upkeep, deadlines, pattern checks and handle queries (R169, R173, R177 to
R190, R203). -/

namespace Sys2Proof.Machine

/-! ## A recall at its admission (R180, R181, R189) -/

section
variable {u : State} {c : Cmd} {x : Ns} {m : Model} {np : Nat}

/-- The scan request sent to each index node, with what the recall awaits: the node itself under the recall's serial, another node
under the SEQ of its message. -/
def State.askIndexNodes (u : State) (c : Cmd) (x : Ns) (q : ScanReq) : List (NodeId × Word32) × State :=
  (if x.selfPlaced then x.nodes else x.index).dedup.foldl (fun y n =>
    if n = u.self then (y.1 ++ [(n, BitVec.ofNat 32 u.cmds.nextId)], y.2)
    else let k := y.2.postSeq n c.pkt.reqId (.scanReq q); (y.1 ++ [(n, BitVec.ofNat 32 k.1)], k.2)) ([], u.countPtn c.ptn 2 0)

/-- A recall that gathers, with nothing answered. -/
def RecallRun.gathering (second : Bool) (b : List Byte) (q : ScanReq) (np : Nat) (waiting : List (NodeId × Word32)) : RecallRun :=
  { req := q, filter := recallFilter b, kk := field b 4 2, nprobe := np, stage := .gather, waiting := waiting, missing := 0, got := []
    flags := 0, deadline := false, todo := [], checking := [], passed := [], dropped := 0
    phase2 := if second then recallAttendOf b else none, asks := [], queries := [], budgetHit := false, budgetLeft := 0 }

/-- A recall is held once its requests are out; then this node scans its own lists, or the merge is tried where it has none. -/
def State.gather (second : Bool) (c : Cmd) (x : Ns) (q : ScanReq) (np : Nat) (u : State) : State :=
  let y := u.askIndexNodes c x q
  let t := y.2.hold c (.recall (.gathering second c.data q np y.1)) []
  if (if x.selfPlaced then x.nodes else x.index).dedup.contains u.self then
    t.startScan ⟨u.self, c.pkt.reqId, BitVec.ofNat 32 u.cmds.nextId, q⟩
  else t.recallMerge u.cmds.nextId

theorem recallRun_gathers (second : Bool) (hx : u.ns? (field c.data 0 2) = some x) (hm : u.recallModel x c.data = .ok m)
    (hn : nprobeOf c.data m.coarse.length = some np) :
    recallRun second c u = .held (u.gather second c x (scanOf c.data m np) np) := by
  unfold recallRun
  simp only [hx, hm, hn]
  rfl

/-- An admitted recall is held as one that gathers; appends that can answer do, and what waited goes on. -/
theorem State.gather_of_admission {second : Bool} {op : Op} {p : Packet} {s : State} (h : admission op p s = some (c, u))
    (hd : opDef op = recallDef second) (hx : u.ns? (field c.data 0 2) = some x) (hm : u.recallModel x c.data = .ok m)
    (hn : nprobeOf c.data m.coarse.length = some np) :
    (s.arriveAll op (recallDef second) p).resume = (u.gather second c x (scanOf c.data m np) np).progress.resume := by
  have hrun := (congrArg (fun d : OpDef => d.run c u) hd).trans (recallRun_gathers second hx hm hn)
  rw [← hd, State.resume_of_admission h hrun, State.settle]

end

/-! ## Scan requests and their answers (R173, R181, R186) -/

section
variable {s : State} {h : MsgHdr} {i : Inflight} {r : RecallRun} {k : Word32}

theorem State.gotScanReq_fits {b : ScanReq} (hb : s.scanMatches b = true) : s.gotScanReq h b = s.startScan ⟨h.src, h.reqId, h.seq, b⟩ :=
  if_pos hb

theorem State.gotScanReq_unfit {b : ScanReq} (hb : s.scanMatches b = false) : s.gotScanReq h b =
    (s.countPtn (((s.ns? b.ns).map (·.ptn)).getD noPtn) 2 8).postFor h.src h.reqId (.scanDecline h.seq) :=
  if_neg (Bool.eq_false_iff.mp hb)

/-- A recall with the answer of an index node it waits for: its lists and flags, or one node more that is missing. -/
def RecallRun.heardFrom (r : RecallRun) (n : NodeId) (k : Word32) : Option (Byte × List ListResult) → RecallRun
  | some (fl, ls) => { r with waiting := delAll (n, k) r.waiting, got := r.got ++ ls, flags := r.flags ||| (fl &&& 6) }
  | none => { r with waiting := delAll (n, k) r.waiting, missing := r.missing + 1 }

theorem State.gotScan_awaited {n : NodeId} (hs : r.stage = .gather) (hw : r.waiting.contains (n, k) = true)
    (a : Option (Byte × List ListResult)) :
    s.gotScan i r n k a = (s.setRecall i.id (r.heardFrom n k a)).recallMerge i.id := by
  have hlate : ¬ (r.stage ≠ .gather ∨ ¬ r.waiting.contains (n, k) = true) := not_or.mpr ⟨not_not_intro hs, not_not_intro hw⟩
  cases a <;> exact if_neg hlate

theorem State.scanCame_awaited (hr : (s.recallBy h.reqId fun r => r.stage == .gather && r.waiting.contains (h.src, k)) = some (i, r))
    (hs : r.stage = .gather) (hw : r.waiting.contains (h.src, k) = true) (a : Option (Byte × List ListResult)) :
    s.scanCame h k a = (s.setRecall i.id (r.heardFrom h.src k a)).recallMerge i.id := by
  unfold State.scanCame
  simp only [hr]
  exact State.gotScan_awaited hs hw a

theorem State.recallDeadline_gathering {id : Nat} (hi : s.recallOf id = some (i, r)) (hs : r.stage = .gather) :
    s.recallDeadline id = (s.setRecall id { r with
      deadline := true, missing := r.missing + r.waiting.length, waiting := [] }).recallMerge id := by
  unfold State.recallDeadline
  simp only [hi, hs]

/-! ## Pattern checks and handle queries (R185, R190, R203) -/

theorem State.checkCame_awaited {a : Nat}
    (hr : (s.recallBy h.reqId fun r => r.checking.any fun x => x.1 == k && s.homeOf x.2.seq == some h.src) = some (i, r)) :
    s.checkCame h k a = s.checkAnswered i r k a := by
  unfold State.checkCame
  simp only [hr]

theorem State.checkLate_held {id : Nat} (hi : s.recallOf id = some (i, r)) : s.checkLate id k = s.checkAnswered i r k 0 := by
  unfold State.checkLate
  simp only [hi]

theorem State.gotHandleQuery_home {q : Handle} (hq : s.isHome q = true) (layer block : Nat) : s.gotHandleQuery h q layer block =
    s.postFor h.src h.reqId (.handleReply h.seq (s.handleOf q layer block).1 (s.handleOf q layer block).2) := by
  unfold State.gotHandleQuery
  simp only [hq, if_true]

theorem State.handleCame_awaited {page : Handle} {code : List Byte}
    (hr : (s.recallBy h.reqId fun r => r.queries.any fun x => x.1 == k && s.homeOf x.2.seq == some h.src) = some (i, r)) :
    s.handleCame h k page code = s.queryAnswered i r k page code := by
  unfold State.handleCame
  simp only [hr]

end

/-! ## Passes over a segment (R183, R184) -/

section
variable {s : State} {n : SegName} {g : Segment}

/-- A pass of a segment counted, with the segment's flushed blocks queued to be read. -/
def State.passCounted (g : Segment) (s : State) : State :=
  (g.flushed.filterMap (·.frame)).foldl (fun s f => s.queueWork .scan (frameKey f) (s.pageDie (frameKey f)))
    ((s.countPtn g.ptn 2 1).countPtn g.ptn 2 2 g.window.length)

theorem State.startPass_window (hg : s.segment? n = some g) (hw : g.window ≠ []) : s.startPass n =
    ((s.passCounted g).pin (snapshotPages (g.blocks ++ [g.opened]))).updSegment n fun x =>
      { x with window := [], passes := x.passes ++ [(x.window, g.blocks ++ [g.opened])] } := by
  unfold State.startPass
  simp only [hg]
  exact if_neg hw

/-- The queries of a pass scan its snapshot without the blocks named bad. -/
def State.passScanned (n : SegName) (g : Segment) (p : List ScanQuery × List (List IdxEntry)) (bad : List Nat) (s : State) : State :=
  let entries := ((enumFrom 0 p.2).filter fun b => !bad.contains b.1).flatMap (·.2)
  let m := (s.modelOf n.ns n.model).getD ⟨n.model, 0, 0, [], [], [], []⟩
  p.1.foldl (fun s x =>
    let l := s.scanList m x.q n.list entries
    ((s.countPtn g.ptn 2 3 l.scanned).countPtn g.ptn 2 4 l.stale).listDone x l (!bad.isEmpty)) s

theorem State.passDone_oldest {p : List ScanQuery × List (List IdxEntry)} {rest : List (List ScanQuery × List (List IdxEntry))}
    (hg : s.segment? n = some g) (hp : g.passes = p :: rest) (named : List Nat) :
    let bad := named.filter fun k => decide (k + 1 < p.2.length)
    let v := (s.countPtn g.ptn 2 5 bad.length).updSegment n fun g => { g with passes := rest, degraded := g.degraded || !bad.isEmpty }
    s.passDone n named = (((if rest = [] then g.flushed.filterMap (·.frame) ++ g.dropped else []).foldl
      (fun s f => s.doneWork .scan (frameKey f)) (v.passScanned n g p bad)).unpin (snapshotPages p.2)).freeReplaced n := by
  unfold State.passDone
  simp only [hg, hp]
  rfl

/-! ## Index upkeep (R178, R179) -/

/-- Where no removed model's segment has the name, INDEX_COMPACTION looks at the segment alone. -/
theorem State.compact_unremoved (hr : ∀ x ∈ s.rcl.segments, x.name = n → x.removed = false) (hg : s.segment? n = some g) :
    s.compact n =
      if ¬ s.mostlyDead g then s
      else
        let v := s.newChain n [] ((g.blocks.flatten ++ g.opened).filter fun e => s.entryLive e.page)
        { v with rcl := { v.rcl with segments := v.rcl.segments.filter fun x =>
          !(x.name == n && !x.removed && x.flushed == [] && x.opened == [] && x.window == [] && x.passes == [] && x.dropped == []) } } := by
  have hnone : ∀ x ∈ s.rcl.segments, (x.removed && x.name == n) = false := fun x hx => by
    by_cases hn : x.name = n
    · simp [hr x hx hn]
    · simp [hn]
  have hold : (s.rcl.segments.filter fun x => x.removed && x.name == n) = [] :=
    List.filter_eq_nil_iff.mpr fun x hx => Bool.eq_false_iff.mp (hnone x hx)
  have hkept : (s.rcl.segments.filter fun x => !(x.removed && x.name == n)) = s.rcl.segments :=
    List.filter_eq_self.mpr fun x hx => by rw [hnone x hx, Bool.not_false]
  unfold State.compact
  simp only [hold, hkept, List.flatMap_nil, List.foldl_nil, hg]

theorem State.rebuildIndex_due (hg : s.segment? n = some g) (hd : g.rebuilding = true ∨ g.degraded = true)
    (hf : s.flash.state ≠ .readOnly) :
    let keep := if g.degraded then [] else g.flushed
    let l := (s.pageEntries n).filter fun e => !((keep.flatMap (·.entries)).map (·.page)).contains e.page
    s.rebuildIndex n = (s.newChain n keep l).updSegment n fun g => { g with rebuilding := false, degraded := false } := by
  have hdue : ¬ (¬ (g.rebuilding || g.degraded) = true ∨ (s.flash.state = .readOnly ∧ keptMax ≤ s.keptBlocks)) :=
    not_or.mpr ⟨not_not_intro (Bool.or_eq_true_iff.mpr hd), fun hfull => hf hfull.1⟩
  unfold State.rebuildIndex
  simp only [hg]
  exact if_neg hdue

end

/-- Settles O25: recalls at their admission, scans and passes, index upkeep, then what the coordinating node waits for. -/
theorem recallsTakeEffect : Obligations.RecallsTakeEffect := by
  unfold Obligations.RecallsTakeEffect
  refine ⟨fun second p s u c x m np h hx hm hn => ⟨fun h2 => ?_, fun h2 => ?_⟩, fun s u h b hu => ⟨fun hb => ?_, fun hb => ?_⟩,
    fun s u h k fl ls i r hu hr hs hw => ⟨?_, ?_⟩,
    fun s n g hg => ⟨fun hw => ?_, fun p rest named hp => ?_, fun hr => ⟨fun hd => ?_, fun hd => ?_⟩, fun hd hf => ?_⟩,
    fun s id i r hi hs => ?_, fun s u h q block slot sel hu => ?_, fun s u h k a i r hu hr => ?_, fun s id k i r hi => ?_,
    fun s u h q layer block hu hq => ?_, fun s u h k page code i r hu hr => ?_⟩
  · subst h2
    exact congrArg Host.Outcome.next (State.gather_of_admission (op := .recall) h rfl hx hm hn)
  · subst h2
    exact congrArg Host.Outcome.next (State.gather_of_admission (op := .recallAttend) h rfl hx hm hn)
  · exact congrArg Host.Outcome.next ((State.serve_of_asked hu _).trans (State.gotScanReq_fits hb))
  · exact congrArg Host.Outcome.next ((State.serve_of_asked hu _).trans (State.gotScanReq_unfit hb))
  · exact congrArg Host.Outcome.next ((State.unordered_of_heard hu _).trans (State.scanCame_awaited hr hs hw (some (fl, ls))))
  · exact congrArg Host.Outcome.next ((State.unordered_of_heard hu _).trans (State.scanCame_awaited hr hs hw none))
  · exact congrArg Host.Outcome.next (State.startPass_window hg hw)
  · exact congrArg Host.Outcome.next (State.passDone_oldest hg hp named)
  · exact congrArg Host.Outcome.next ((State.compact_unremoved hr hg).trans (if_pos (Bool.eq_false_iff.mp hd)))
  · exact congrArg Host.Outcome.next ((State.compact_unremoved hr hg).trans (if_neg (not_not_intro hd)))
  · exact congrArg Host.Outcome.next (State.rebuildIndex_due hg hd hf)
  · exact congrArg Host.Outcome.next (State.recallDeadline_gathering hi hs)
  · exact congrArg Host.Outcome.next (State.serve_of_asked hu _)
  · exact congrArg Host.Outcome.next ((State.unordered_of_heard hu _).trans (State.checkCame_awaited hr))
  · exact congrArg Host.Outcome.next (State.checkLate_held hi)
  · exact congrArg Host.Outcome.next ((State.serve_of_asked hu _).trans (State.gotHandleQuery_home hq layer block))
  · exact congrArg Host.Outcome.next ((State.unordered_of_heard hu _).trans (State.handleCame_awaited hr))

end Sys2Proof.Machine
end

section
/-! PROOFS. Pattern slots: what each command answers at step 9, and that putting a slot sets that slot and no other (R192, R193, R204,
R205, R318). -/

namespace Sys2Proof.Machine

/-! ## A pattern slot put (R205) -/

/-- An empty slot is not listed, and reads as what it is all the same. -/
theorem State.patSlot_setPat_same (u : State) (x : PatSlot) : (u.setPat x).patSlot x.num = { x with old := u.oldPats x } := by
  unfold State.patSlot State.patSlot? State.setPat
  by_cases hx : { x with old := u.oldPats x } = PatSlot.empty x.num
  · simp only [hx, if_true, find?_filter_key_same, Option.getD_none]
  · simp only [hx, if_false, List.find?_append, find?_filter_key_same, List.find?_singleton, beq_self_eq_true, if_true, Option.none_or,
      Option.getD_some]

theorem State.patSlot_setPat_other (u : State) (x : PatSlot) {n : Nat} (hn : n ≠ x.num) : (u.setPat x).patSlot n = u.patSlot n := by
  have hlast : (x.num == n) = false := beq_false_of_ne hn.symm
  unfold State.patSlot State.patSlot? State.setPat
  dsimp only
  split
  · rw [find?_filter_key_other hn]
  · rw [List.find?_append, find?_filter_key_other hn, List.find?_singleton, hlast]
    exact congrArg (Option.getD · _) Option.or_none

section
variable {u v : State} {c : Cmd}

/-! ## Staging an image (R204, R318) -/

/-- The staging length of the slot once the command's bytes stand in it. -/
def State.stagedTo (u : State) (c : Cmd) : Nat := max (u.patSlot (field c.data 0 2)).stagingLen (field c.data 4 4 + field c.data 8 4)

/-- The partition's quota, charged with the frames that the slot's staging area grows by. -/
def State.stagingRoom (u : State) (c : Cmd) : Option State :=
  u.quotaRoom c.ptn (stagingFrames (u.stagedTo c) - stagingFrames (u.patSlot (field c.data 0 2)).stagingLen)

/-- The slot has no owner or holds a valid pattern: it takes no staged bytes. -/
def State.patClosed (u : State) (c : Cmd) : Prop :=
  let x := u.patSlot (field c.data 0 2)
  x.owner = noPtn ∨ x.current.isSome = true

theorem State.not_patClosed (ho : (u.patSlot (field c.data 0 2)).owner ≠ noPtn) (hx : (u.patSlot (field c.data 0 2)).current = none) :
    ¬ u.patClosed c := by
  rintro (h | h)
  · exact ho h
  · rw [hx] at h
    exact Bool.false_ne_true h

theorem patWriteRun_closed (hc : u.patClosed c) : patWriteRun c u = .no .busyRetry := if_pos hc

theorem patWriteRun_full (hc : ¬ u.patClosed c) (hr : u.stagingRoom c = none) : patWriteRun c u = .no .noSpace := by
  unfold State.stagingRoom State.stagedTo at hr
  refine (if_neg hc).trans ?_
  simp only [hr]

theorem patWriteRun_stages (hc : ¬ u.patClosed c) (hr : u.stagingRoom c = some v) :
    let x := u.patSlot (field c.data 0 2)
    patWriteRun c u = .ok [] (v.setPat { x with
      staging := Mem.writeList x.staging (field c.data 4 4) (c.data.drop 16), stagingLen := u.stagedTo c }) := by
  unfold State.stagingRoom State.stagedTo at hr
  refine (if_neg hc).trans ?_
  simp only [hr, State.stagedTo]

/-! ## Validating it (R205, R318) -/

/-- The image of the length given that the slot has staged. -/
def State.stagedImage (u : State) (c : Cmd) : List Byte := Mem.readList (u.patSlot (field c.data 0 2)).staging 0 (field c.data 4 4)

/-- The digest that PAT_VALIDATE gives. -/
def Cmd.patDigest (c : Cmd) : Digest := BitVec.ofNat 256 (field c.data 8 32)

/-- The slot has no owner, or its staged image another digest than the one given. -/
def State.stagedElse (u : State) (c : Cmd) : Prop :=
  (u.patSlot (field c.data 0 2)).owner = noPtn ∨ digest (u.stagedImage c) ≠ c.patDigest

theorem patValidateRun_valid {w : PatVer} (hx : (u.patSlot (field c.data 0 2)).current = some w) :
    patValidateRun c u = if w.digest = c.patDigest then .ok [] u else .no .conflict := by
  unfold patValidateRun
  simp only [hx]
  rfl

section
variable (hx : (u.patSlot (field c.data 0 2)).current = none)
include hx

theorem patValidateRun_bound (hb : 2 ≤ (u.oldPats (u.patSlot (field c.data 0 2))).length) : patValidateRun c u = .no .busyRetry := by
  unfold patValidateRun
  simp only [hx]
  exact if_pos hb

variable (hb : (u.oldPats (u.patSlot (field c.data 0 2))).length < 2)
include hb

theorem patValidateRun_other (he : u.stagedElse c) : patValidateRun c u = .no .conflict := by
  unfold patValidateRun
  simp only [hx]
  exact (if_neg (Nat.not_le.mpr hb)).trans (if_pos he)

variable (he : ¬ u.stagedElse c)
include he

theorem patValidateRun_malformed (hp : parsePattern (u.stagedImage c) = none) : patValidateRun c u = .no .badParam := by
  unfold State.stagedImage at hp
  unfold patValidateRun
  simp only [hx, hp]
  exact (if_neg (Nat.not_le.mpr hb)).trans (if_neg he)

variable {w : PatVer} (hp : parsePattern (u.stagedImage c) = some w)
include hp

theorem patValidateRun_unplaced (hw : u.placeBanks w = none) : patValidateRun c u = .no .noSpace := by
  unfold State.stagedImage at hp
  unfold patValidateRun
  simp only [hx, hp, hw]
  exact (if_neg (Nat.not_le.mpr hb)).trans (if_neg he)

theorem patValidateRun_placed {y : PatVer} (hw : u.placeBanks w = some y) :
    patValidateRun c u = .ok [] (({ u with slots := { u.slots with nextVer := u.slots.nextVer + 1 } } : State).setPat
      { u.patSlot (field c.data 0 2) with current := some { y with serial := u.slots.nextVer } }) := by
  unfold State.stagedImage at hp
  unfold patValidateRun
  simp only [hx, hp, hw]
  exact (if_neg (Nat.not_le.mpr hb)).trans (if_neg he)

end

/-! ## Telling a slot (R192, R318) -/

theorem patDescribeRun_invalid (hx : (u.patSlot (field c.data 0 2)).current = none) :
    let x := u.patSlot (field c.data 0 2)
    patDescribeRun c u = .ok (leBytes 1 (if x.owner = noPtn then 0 else 1) ++ leBytes 1 x.owner ++ zeroBytes 174) u := by
  unfold patDescribeRun
  simp only [hx, Option.isSome_none, Bool.false_eq_true, if_false]

theorem patDescribeRun_valid {w : PatVer} (hx : (u.patSlot (field c.data 0 2)).current = some w) :
    let x := u.patSlot (field c.data 0 2)
    patDescribeRun c u = .ok (leBytes 1 (if x.owner = noPtn then 0 else 2) ++ leBytes 1 x.owner ++ leBytes 1 w.npat ++
      leBytes 1 w.lookback ++ leBytes 4 w.nstates ++ leBytes 1 w.firstBank ++ leBytes 1 w.nbanks ++ zeroBytes 6 ++
      leBytes 32 w.digest.toNat ++ fitBytes 128 (w.patid.flatMap fun z => leBytes 4 z.toNat)) u := by
  unfold patDescribeRun
  simp only [hx, Option.isSome_some, if_true, digestBytes]

end

/-- Settles O35, by what each definition answers. -/
theorem patternSlotCommandsTakeEffect : Obligations.PatternSlotCommandsTakeEffect := by
  unfold Obligations.PatternSlotCommandsTakeEffect
  refine ⟨fun p s u c h => ?_, fun p s u c h => ⟨fun hc => ?_, fun ho hx hr => ?_, fun v ho hx hr => ?_⟩,
    fun p s u c h => ⟨fun v hx hd => ?_, fun v hx hd => ?_, fun hx hb => ?_, fun hx hb => ⟨fun he => ?_, fun ho hd => ?_⟩⟩,
    fun p s u c h => ?_, fun p s u c h => ⟨fun hx => ?_, fun v hx => ?_⟩,
    fun u x => ⟨u.patSlot_setPat_same x, fun n hn => u.patSlot_setPat_other x hn⟩⟩
  · exact congrArg Host.Outcome.next (State.answered_of_admission h rfl)
  · exact congrArg Host.Outcome.next (State.refused_of_admission h (patWriteRun_closed hc))
  · exact congrArg Host.Outcome.next (State.refused_of_admission h (patWriteRun_full (State.not_patClosed ho hx) hr))
  · exact congrArg Host.Outcome.next (State.answered_of_admission h (patWriteRun_stages (State.not_patClosed ho hx) hr))
  · exact congrArg Host.Outcome.next (State.answered_of_admission h ((patValidateRun_valid hx).trans (if_pos hd)))
  · exact congrArg Host.Outcome.next (State.refused_of_admission h ((patValidateRun_valid hx).trans (if_neg hd)))
  · exact congrArg Host.Outcome.next (State.refused_of_admission h (patValidateRun_bound hx hb))
  · exact congrArg Host.Outcome.next (State.refused_of_admission h (patValidateRun_other hx hb he))
  · have he : ¬ u.stagedElse c := not_or_intro ho (not_not_intro hd)
    refine ⟨fun hp => ?_, fun v hp => ⟨fun hw => ?_, fun w hw => ?_⟩⟩
    · exact congrArg Host.Outcome.next (State.refused_of_admission h (patValidateRun_malformed hx hb he hp))
    · exact congrArg Host.Outcome.next (State.refused_of_admission h (patValidateRun_unplaced hx hb he hp hw))
    · exact congrArg Host.Outcome.next (State.answered_of_admission h (patValidateRun_placed hx hb he hp hw))
  · exact congrArg Host.Outcome.next (State.answered_of_admission h rfl)
  · exact congrArg Host.Outcome.next (State.answered_of_admission h (patDescribeRun_invalid hx))
  · exact congrArg Host.Outcome.next (State.answered_of_admission h (patDescribeRun_valid hx))

end Sys2Proof.Machine
end

section
/-! SUPPORT. The registers that command the memory units: a write of EN, FENCE, NB_EN or WR_EN takes its effect, is ignored by the rules of
its block, or asks for a drain that is refused (00_scope.md R11; 08_hbm_and_near_bank.md R229, R231; 09_flash_tier.md R260). -/

namespace Sys2Proof.Machine

/-! ## One bit set in a word -/

theorem b2n_lt_two (b : Bool) : b2n b < 2 := by cases b <;> decide

theorem bits_one_eq (n lo : Nat) : bits n lo 1 = 0 ∨ bits n lo 1 = 1 := Nat.mod_two_eq_zero_or_one _

theorem went_setBits_one {old lo : Nat} (h : bits old lo 1 = 0) : went old (setBits old lo 1 1) lo = true := by
  simp [went, bits_setBits, h]

theorem went_setBits_zero (old lo : Nat) : went old (setBits old lo 1 0) lo = false := by
  simp [went, bits_setBits]

theorem fell_setBits_one (old lo : Nat) : fell old (setBits old lo 1 1) lo = false := by
  simp [fell, bits_setBits]

theorem fell_setBits_zero {old lo : Nat} (h : bits old lo 1 = 1) : fell old (setBits old lo 1 0) lo = true := by
  simp [fell, bits_setBits, h]

/-- A bit beside the one written has not gone to 1. -/
theorem went_setBits_apart (old v : Nat) {lo k : Nat} (h : lo ≠ k) : went old (setBits old lo 1 v) k = false := by
  unfold went
  rw [bits_setBits_disjoint _ _ _ _ _ _ (by omega)]
  rcases bits_one_eq old k with hb | hb <;> simp [hb]

/-- A bit beside the one written has not gone to 0. -/
theorem fell_setBits_apart (old v : Nat) {lo k : Nat} (h : lo ≠ k) : fell old (setBits old lo 1 v) k = false := by
  unfold fell
  rw [bits_setBits_disjoint _ _ _ _ _ _ (by omega)]
  rcases bits_one_eq old k with hb | hb <;> simp [hb]

/-! ## The control registers of stacks, of the flash tier and of its channels -/

def Reg.memUnit : Reg → Bool
  | .memStkCtl _ | .flsCtl | .flsChCtl _ => true
  | _ => false

theorem Reg.memUnit_clears {r : Reg} (h : r.memUnit = true) : r.mask (fun f => f.acc == .rw1c) = 0 := by
  cases r
  case memStkCtl n =>
    by_cases hn : n = 3 ∨ n = 4 <;> simp [Reg.mask, Reg.fields, hn, Fld.rw, Fld.rwx, Fld.ro, Fld.rwl, sumNat]
  case flsCtl => rfl
  case flsChCtl n => rfl
  all_goals cases h

theorem State.writeOnly_memUnit {r : Reg} (h : r.memUnit = true) (v : Nat) (locked : Bool) (s : State) :
    s.writeOnly r v locked = (.nothing, s) := by
  cases r
  case memStkCtl n => rfl
  case flsCtl => rfl
  case flsChCtl n => rfl
  all_goals cases h

theorem State.writeFields_ignored {s : State} {r : Reg} {v : Nat} (path : Path) (h : s.judge r v = .ignored) :
    s.writeFields path r v = (.ignored, s) := by
  unfold State.writeFields; rw [h]

/-- A drain that no unit can take is refused. -/
theorem State.writeFields_refused {s t : State} {r : Reg} {v new : Nat} (path : Path) (hm : r.memUnit = true)
    (h : s.judge r v = .ok new) (hd : s.drainRefusedBy r (s.kept r) new = some t) : s.writeFields path r v = (.ignored, t) := by
  have hn : r ≠ .fabNode := by rintro rfl; cases hm
  unfold State.writeFields
  simp only [h, hn, hd, false_and, if_false]

theorem State.writeFields_undrained {s : State} {r : Reg} {v new : Nat} (path : Path) (hm : r.memUnit = true)
    (h : s.judge r v = .ok new) (hd : s.drainRefusedBy r (s.kept r) new = none) :
    s.writeFields path r v = (.applied, (s.keep r new).effects r (s.kept r) new) := by
  unfold State.writeFields
  cases r
  case memStkCtl n => simp only [h, hd, reduceCtorEq, false_and, if_false]
  case flsCtl => simp only [h, hd, reduceCtorEq, false_and, if_false]
  case flsChCtl n => simp only [h, hd, reduceCtorEq, false_and, if_false]
  all_goals cases hm

/-! ## A bit written -/

/-- A register that commands a memory unit has an RW field of one bit at `lo`. -/
structure Reg.UnitBit (r : Reg) (lo : Nat) : Prop where
  memUnit : r.memUnit = true
  inRange : r.inRange = true
  field : ∃ fp, (⟨lo, 1, .rw, 0, 0, 1, fp⟩ : Fld) ∈ r.fields

theorem Reg.unitBit_flsCtl {lo : Nat} (h : lo < 2) : Reg.flsCtl.UnitBit lo := by
  refine ⟨rfl, rfl, false, ?_⟩
  have hlo : lo = 0 ∨ lo = 1 := by omega
  rcases hlo with rfl | rfl <;> decide

theorem Reg.unitBit_flsChCtl (k : Fin 32) {lo : Nat} (h : lo < 2) : (Reg.flsChCtl k).UnitBit lo := by
  refine ⟨rfl, decide_eq_true k.isLt, false, ?_⟩
  have hlo : lo = 0 ∨ lo = 1 := by omega
  rcases hlo with rfl | rfl <;> simp [Reg.fields, Fld.rwx]

theorem Reg.unitBit_memStkCtl (k : Fin 8) {lo : Nat} (h : lo < 2) : (Reg.memStkCtl k).UnitBit lo := by
  refine ⟨rfl, decide_eq_true k.isLt, false, ?_⟩
  have hlo : lo = 0 ∨ lo = 1 := by omega
  rcases hlo with rfl | rfl <;> simp [Reg.fields, Fld.rwx]

/-- The compute stacks' registers have NB_EN. -/
theorem Reg.unitBit_nbEn {k : Fin 8} (h : k.val = 3 ∨ k.val = 4) : (Reg.memStkCtl k).UnitBit 2 := by
  refine ⟨rfl, decide_eq_true k.isLt, true, ?_⟩
  simp [Reg.fields, Fld.rw, h]

section
variable {s : State} {path : Path} {r : Reg} {lo v : Nat}

theorem Reg.UnitBit.writable (hb : r.UnitBit lo) : r.readOnly = false := by
  obtain ⟨fp, hf⟩ := hb.field
  exact Reg.readOnly_of_settable hf rfl

theorem State.writeField_unitBit (ht : s.takesWrites path = true) (hb : r.UnitBit lo) (v : Nat) :
    s.writeField path r lo 1 v = (s.writeFields path r (s.fieldWord r lo 1 v)).2 := by
  rw [State.writeField_of_takes ht, State.writeReg_state (Reg.at?_offset (Reg.mem_all_of_inRange hb.inRange)) hb.writable
    (Reg.memUnit_clears hb.memUnit), State.writeOnly_memUnit hb.memUnit, ite_self]

/-- A bit that has the value already is not written. -/
theorem State.writeField_bit_same (ht : s.takesWrites path = true) (hb : r.UnitBit lo) (h : s.rf r lo 1 = v) :
    s.writeField path r lo 1 v = s := by
  obtain ⟨fp, hf⟩ := hb.field
  rw [State.writeField_unitBit ht hb, State.writeFields_nothing path (State.judge_fieldWord_same hf h)]

theorem Reg.UnitBit.judge_ok (hb : r.UnitBit lo) (hv : v < 2) (h : s.rf r lo 1 ≠ v)
    (hok : s.blockOk r (s.kept r) (setBits (s.kept r) lo 1 v) = true) :
    s.judge r (s.fieldWord r lo 1 v) = .ok (setBits (s.kept r) lo 1 v) := by
  obtain ⟨fp, hf⟩ := hb.field
  have hrange : 0 ≤ v ∧ v ≤ 1 := by omega
  exact State.judge_fieldWord_ok (f := ⟨lo, 1, .rw, 0, 0, 1, fp⟩) hf rfl hv h (.inl rfl) hrange hok

/-- A write that the rules of its block refuse is ignored. -/
theorem State.writeField_bit_blocked (ht : s.takesWrites path = true) (hb : r.UnitBit lo) (hv : v < 2) (h : s.rf r lo 1 ≠ v)
    (hno : s.blockOk r (s.kept r) (setBits (s.kept r) lo 1 v) = false) : s.writeField path r lo 1 v = s := by
  rw [State.writeField_unitBit ht hb, State.writeFields_ignored path]
  obtain ⟨fp, hf⟩ := hb.field
  have hset := State.setFields_fieldWord hf rfl hv h
  have hbit : bits (s.fieldWord r lo 1 v) lo 1 = v := (State.bits_fieldWord_same _ _ _ _ _).trans (Nat.mod_eq_of_lt hv)
  simp [State.judge_eq, Reg.merged, setAll, hset, hbit, hno]

/-- A write that asks for a drain that no other unit can take. -/
theorem State.writeField_bit_refused {t : State} (ht : s.takesWrites path = true) (hb : r.UnitBit lo) (hv : v < 2)
    (h : s.rf r lo 1 ≠ v) (hok : s.blockOk r (s.kept r) (setBits (s.kept r) lo 1 v) = true)
    (hd : s.drainRefusedBy r (s.kept r) (setBits (s.kept r) lo 1 v) = some t) : s.writeField path r lo 1 v = t := by
  rw [State.writeField_unitBit ht hb, State.writeFields_refused path hb.memUnit (hb.judge_ok hv h hok) hd]

/-- A write that is taken sets the bit and acts on the unit. -/
theorem State.writeField_bit_set (ht : s.takesWrites path = true) (hb : r.UnitBit lo) (hv : v < 2) (h : s.rf r lo 1 ≠ v)
    (hok : s.blockOk r (s.kept r) (setBits (s.kept r) lo 1 v) = true)
    (hd : s.drainRefusedBy r (s.kept r) (setBits (s.kept r) lo 1 v) = none) :
    s.writeField path r lo 1 v = (s.setRf r lo 1 v).effects r (s.kept r) (setBits (s.kept r) lo 1 v) := by
  rw [State.writeField_unitBit ht hb, State.writeFields_undrained path hb.memUnit (hb.judge_ok hv h hok) hd]
  rfl

/-- A bit of a register that has no RW or RWL field there is not written. -/
theorem State.writeField_no_field (ht : s.takesWrites path = true) (hm : r.memUnit = true) (hr : r.inRange = true)
    (hw : r.readOnly = false) (h : ∀ f ∈ r.fields, f.settable = true → lo + 1 ≤ f.lo ∨ f.lo + f.w ≤ lo) :
    s.writeField path r lo 1 v = s := by
  have hj : s.judge r (s.fieldWord r lo 1 v) = .nothing := State.judge_nothing fun f hf hs => by
    unfold State.fieldWord
    rw [bits_setBits_disjoint _ _ _ _ _ _ (h f hf hs), bits_and_of_full _ _ _ _ ((Reg.bits_mask Fld.settable hf).trans (if_pos hs))]
  rw [State.writeField_of_takes ht, State.writeReg_nothing (Reg.at?_offset (Reg.mem_all_of_inRange hr)) hw (Reg.memUnit_clears hm) hj,
    State.writeOnly_memUnit hm]

end

end Sys2Proof.Machine
end

section
/-! PROOFS. Writes of EN, FENCE, NB_EN and WR_EN command the stacks, the flash tier and its channels (08_hbm_and_near_bank.md R211,
R228, R229, R231; 09_flash_tier.md R242, R260; 16_power_clocks_reset.md R491). -/

namespace Sys2Proof.Machine

section
variable {s : State} {path : Path}

/-! ## Stacks (R211, R228, R229) -/

section
variable {k : Fin 8}

/-- EN trains a stack that is `OFF` and not fenced. -/
theorem State.writeField_stackEn_on (ht : s.takesWrites path = true) (he : s.rf (.memStkCtl k) 0 1 = 0) (hf : s.rf (.memStkCtl k) 1 1 = 0)
    (ho : (s.stack k).state = .off) : s.writeField path (.memStkCtl k) 0 1 1 = (s.setRf (.memStkCtl k) 0 1 1).stackOn k := by
  have hfence : bits (setBits (s.kept (.memStkCtl k)) 0 1 1) 1 1 = 0 := (bits_setBits_disjoint _ _ _ _ _ _ (.inl (Nat.le_refl _))).trans hf
  refine (State.writeField_bit_set ht (Reg.unitBit_memStkCtl k (by decide)) (by decide) (he.trans_ne Nat.zero_ne_one) ?_ ?_).trans ?_
  · simp [State.blockOk, bits_setBits, show bits (s.kept (.memStkCtl k)) 0 1 = 0 from he, hfence, ho]
  · simp [State.drainRefusedBy, went_setBits_apart]
  · simp [State.effects, went_setBits_apart, fell_setBits_apart, went_setBits_one he]

/-- EN of any other stack is ignored. -/
theorem State.writeField_stackEn_ignored (ht : s.takesWrites path = true) (he : s.rf (.memStkCtl k) 0 1 = 0)
    (hno : (s.stack k).state ≠ .off ∨ s.rf (.memStkCtl k) 1 1 = 1) : s.writeField path (.memStkCtl k) 0 1 1 = s := by
  refine State.writeField_bit_blocked ht (Reg.unitBit_memStkCtl k (by decide)) (by decide) (he.trans_ne Nat.zero_ne_one) ?_
  have hfence : bits (setBits (s.kept (.memStkCtl k)) 0 1 1) 1 1 = s.rf (.memStkCtl k) 1 1 :=
    bits_setBits_disjoint _ _ _ _ _ _ (.inl (Nat.le_refl _))
  have he : bits (s.kept (.memStkCtl k)) 0 1 = 0 := he
  rcases hno with h | h <;> simp [State.blockOk, bits_setBits, he, hfence, h]

/-- EN cleared turns a fenced stack off. -/
theorem State.writeField_stackEn_off (ht : s.takesWrites path = true) (he : s.rf (.memStkCtl k) 0 1 = 1)
    (hf : (s.stack k).state = .fenced) : s.writeField path (.memStkCtl k) 0 1 0 = (s.setRf (.memStkCtl k) 0 1 0).stackOff k := by
  refine (State.writeField_bit_set ht (Reg.unitBit_memStkCtl k (by decide)) (by decide) (he.trans_ne Nat.one_ne_zero) ?_ ?_).trans ?_
  · simp [State.blockOk, bits_setBits, hf]
  · simp [State.drainRefusedBy, went_setBits_apart]
  · simp [State.effects, went_setBits_apart, fell_setBits_apart, went_setBits_zero, fell_setBits_zero he]

theorem State.writeField_stackEn_stays (ht : s.takesWrites path = true) (he : s.rf (.memStkCtl k) 0 1 = 1)
    (hf : (s.stack k).state ≠ .fenced) : s.writeField path (.memStkCtl k) 0 1 0 = s := by
  refine State.writeField_bit_blocked ht (Reg.unitBit_memStkCtl k (by decide)) (by decide) (he.trans_ne Nat.one_ne_zero) ?_
  simp [State.blockOk, bits_setBits, show bits (s.kept (.memStkCtl k)) 0 1 = 1 from he, hf]

/-- A write beside EN meets the rules of a stack's register. -/
theorem State.blockOk_stack_apart (s : State) (n v : Nat) {lo : Nat} (h : lo ≠ 0) :
    s.blockOk (.memStkCtl n) (s.kept (.memStkCtl n)) (setBits (s.kept (.memStkCtl n)) lo 1 v) = true := by
  have he : bits (setBits (s.kept (.memStkCtl n)) lo 1 v) 0 1 = bits (s.kept (.memStkCtl n)) 0 1 :=
    bits_setBits_disjoint _ _ _ _ _ _ (.inr (Nat.pos_of_ne_zero h))
  rcases bits_one_eq (s.kept (.memStkCtl n)) 0 with hb | hb <;> simp [State.blockOk, he, hb]

/-- FENCE starts the drain of a stack whose pages have room elsewhere. -/
theorem State.writeField_stackFence (ht : s.takesWrites path = true) (hf : s.rf (.memStkCtl k) 1 1 = 0)
    (hd : (s.stack k).state ≠ .service ∨ s.drainFits k = true) :
    s.writeField path (.memStkCtl k) 1 1 1 = (s.setRf (.memStkCtl k) 1 1 1).startDrain k := by
  refine (State.writeField_bit_set ht (Reg.unitBit_memStkCtl k (by decide)) (by decide) (hf.trans_ne Nat.zero_ne_one)
    (s.blockOk_stack_apart k 1 Nat.one_ne_zero) ?_).trans ?_
  · rcases hd with h | h <;> simp [State.drainRefusedBy, h]
  · simp [State.effects, went_setBits_apart, fell_setBits_apart, went_setBits_one hf]

theorem State.writeField_stackFence_refused (ht : s.takesWrites path = true) (hf : s.rf (.memStkCtl k) 1 1 = 0)
    (hs : (s.stack k).state = .service) (hd : s.drainFits k = false) : s.writeField path (.memStkCtl k) 1 1 1 = s.drainRefused k := by
  refine State.writeField_bit_refused ht (Reg.unitBit_memStkCtl k (by decide)) (by decide) (hf.trans_ne Nat.zero_ne_one)
    (s.blockOk_stack_apart k 1 Nat.one_ne_zero) ?_
  simp [State.drainRefusedBy, went_setBits_one hf, hs, hd]

/-- NB_EN of a compute stack is set, and nothing else happens. -/
theorem State.writeField_nbEn {v : Nat} (ht : s.takesWrites path = true) (hk : k.val = 3 ∨ k.val = 4) (hv : v < 2)
    (h : s.rf (.memStkCtl k) 2 1 ≠ v) : s.writeField path (.memStkCtl k) 2 1 v = s.setRf (.memStkCtl k) 2 1 v := by
  refine (State.writeField_bit_set ht (Reg.unitBit_nbEn hk) hv h (s.blockOk_stack_apart k v (by decide)) ?_).trans ?_
  · simp [State.drainRefusedBy, went_setBits_apart]
  · simp [State.effects, went_setBits_apart, fell_setBits_apart]

/-- The other stacks have no NB_EN. -/
theorem State.writeField_nbEn_absent (v : Nat) (ht : s.takesWrites path = true) (hk : ¬ (k.val = 3 ∨ k.val = 4)) :
    s.writeField path (.memStkCtl k) 2 1 v = s := by
  have hb := Reg.unitBit_memStkCtl k Nat.two_pos
  refine State.writeField_no_field ht hb.memUnit hb.inRange hb.writable ?_
  simp [Reg.fields, hk, Fld.rwx, Fld.ro, Fld.settable]

end

/-! ## Channels and the tier (R242, R260, R491) -/

section
variable {k : Fin 32}

/-- A write beside EN meets the rule of EN and FENCE. -/
theorem enFenceOk_apart (old v : Nat) {lo : Nat} (h : lo ≠ 0) : enFenceOk old (setBits old lo 1 v) = true := by
  have he : bits (setBits old lo 1 v) 0 1 = bits old 0 1 := bits_setBits_disjoint _ _ _ _ _ _ (.inr (Nat.pos_of_ne_zero h))
  rcases bits_one_eq old 0 with hb | hb <;> simp [enFenceOk, he, hb]

/-- EN of a channel that is not fenced makes it train. -/
theorem State.writeField_chanEn (ht : s.takesWrites path = true) (he : s.rf (.flsChCtl k) 0 1 = 0) (hf : s.rf (.flsChCtl k) 1 1 = 0) :
    s.writeField path (.flsChCtl k) 0 1 1 = (s.setRf (.flsChCtl k) 0 1 1).chanOn k := by
  have hfence : bits (setBits (s.kept (.flsChCtl k)) 0 1 1) 1 1 = 0 := (bits_setBits_disjoint _ _ _ _ _ _ (.inl (Nat.le_refl _))).trans hf
  refine (State.writeField_bit_set ht (Reg.unitBit_flsChCtl k (by decide)) (by decide) (he.trans_ne Nat.zero_ne_one) ?_ ?_).trans ?_
  · simp [State.blockOk, enFenceOk, hfence]
  · simp [State.drainRefusedBy, went_setBits_apart]
  · simp [State.effects, went_setBits_apart, fell_setBits_apart, went_setBits_one he]

/-- EN of a fenced channel is ignored. -/
theorem State.writeField_chanEn_ignored (ht : s.takesWrites path = true) (he : s.rf (.flsChCtl k) 0 1 = 0)
    (hf : s.rf (.flsChCtl k) 1 1 = 1) : s.writeField path (.flsChCtl k) 0 1 1 = s := by
  have hfence : bits (setBits (s.kept (.flsChCtl k)) 0 1 1) 1 1 = 1 := (bits_setBits_disjoint _ _ _ _ _ _ (.inl (Nat.le_refl _))).trans hf
  refine State.writeField_bit_blocked ht (Reg.unitBit_flsChCtl k (by decide)) (by decide) (he.trans_ne Nat.zero_ne_one) ?_
  simp [State.blockOk, enFenceOk, bits_setBits, show bits (s.kept (.flsChCtl k)) 0 1 = 0 from he, hfence]

/-- FENCE starts the drain of a channel whose frames have room elsewhere. -/
theorem State.writeField_chanFence (ht : s.takesWrites path = true) (hf : s.rf (.flsChCtl k) 1 1 = 0)
    (hd : (s.chan k).state ≠ .service ∨ s.chanFits k = true) :
    s.writeField path (.flsChCtl k) 1 1 1 = (s.setRf (.flsChCtl k) 1 1 1).chanDrain k := by
  refine (State.writeField_bit_set ht (Reg.unitBit_flsChCtl k (by decide)) (by decide) (hf.trans_ne Nat.zero_ne_one)
    (enFenceOk_apart _ 1 Nat.one_ne_zero) ?_).trans ?_
  · rcases hd with h | h <;> simp [State.drainRefusedBy, h]
  · simp [State.effects, went_setBits_apart, fell_setBits_apart, went_setBits_one hf]

theorem State.writeField_chanFence_refused (ht : s.takesWrites path = true) (hf : s.rf (.flsChCtl k) 1 1 = 0)
    (hs : (s.chan k).state = .service) (hd : s.chanFits k = false) : s.writeField path (.flsChCtl k) 1 1 1 = s.chanRefused k := by
  refine State.writeField_bit_refused ht (Reg.unitBit_flsChCtl k (by decide)) (by decide) (hf.trans_ne Nat.zero_ne_one)
    (enFenceOk_apart _ 1 Nat.one_ne_zero) ?_
  simp [State.drainRefusedBy, went_setBits_one hf, hs, hd]

/-- A channel's parameter pages decide, whether the write of EN trains it or not. -/
theorem State.chanEnable_trains (dies : Nat) (bad : Option Nat) (ht : s.takesWrites path = true) (he : s.rf (.flsChCtl k) 0 1 = 0)
    (hf : s.rf (.flsChCtl k) 1 1 = 0) :
    s.chanEnable path k dies bad = ((s.setRf (.flsChCtl k) 0 1 1).chanOn k).chanTrained k dies bad := by
  unfold State.chanEnable
  rw [if_pos he, State.writeField_chanEn ht he hf]

theorem State.chanEnable_unwritten (dies : Nat) (bad : Option Nat) (ht : s.takesWrites path = true)
    (h : s.rf (.flsChCtl k) 0 1 = 1 ∨ s.rf (.flsChCtl k) 1 1 = 1) : s.chanEnable path k dies bad = s.chanTrained k dies bad := by
  unfold State.chanEnable
  dsimp only
  split
  · next he => rw [State.writeField_chanEn_ignored ht he (h.resolve_left (he.trans_ne Nat.zero_ne_one))]
  · rfl

end

/-- WR_EN is set, and what waited for it is written. -/
theorem State.writeField_wrEn (ht : s.takesWrites path = true) (h : s.rf .flsCtl 1 1 = 0) :
    s.writeField path .flsCtl 1 1 1 = (s.setRf .flsCtl 1 1 1).flushKept := by
  refine (State.writeField_bit_set ht (Reg.unitBit_flsCtl (by decide)) (by decide) (h.trans_ne Nat.zero_ne_one) ?_ rfl).trans ?_
  · have he : bits (setBits (s.kept .flsCtl) 1 1 1) 0 1 = bits (s.kept .flsCtl) 0 1 := bits_setBits_disjoint _ _ _ _ _ _ (.inr (Nat.le_refl _))
    have hd : bits (setBits (s.kept .flsCtl) 1 1 1) 8 5 = bits (s.kept .flsCtl) 8 5 := bits_setBits_disjoint _ _ _ _ _ _ (.inl (by decide))
    rcases bits_one_eq (s.kept .flsCtl) 0 with hb | hb <;> simp [State.blockOk, he, hd, hb]
  · simp [State.effects, went_setBits_apart, went_setBits_one h]

/-- The tier's EN asks that every channel's EN is set. -/
theorem State.blockOk_tierEn (he : s.rf .flsCtl 0 1 = 0) :
    s.blockOk .flsCtl (s.kept .flsCtl) (setBits (s.kept .flsCtl) 0 1 1) = (List.range 32).all fun n => s.rf (.flsChCtl n) 0 1 == 1 := by
  have hd : bits (setBits (s.kept .flsCtl) 0 1 1) 8 5 = bits (s.kept .flsCtl) 8 5 := bits_setBits_disjoint _ _ _ _ _ _ (.inl (by decide))
  simp [State.blockOk, bits_setBits, show bits (s.kept .flsCtl) 0 1 = 0 from he, hd]

/-- EN of the tier, with that of every channel, begins its initialisation. -/
theorem State.writeField_tierEn (ht : s.takesWrites path = true) (he : s.rf .flsCtl 0 1 = 0) (ho : s.flash.state = .off)
    (hall : ((List.range 32).all fun n => s.rf (.flsChCtl n) 0 1 == 1) = true) :
    let t := s.setRf .flsCtl 0 1 1
    s.writeField path .flsCtl 0 1 1 = { t with flash := { t.flash with state := .init } } := by
  refine (State.writeField_bit_set ht (Reg.unitBit_flsCtl (by decide)) (by decide) (he.trans_ne Nat.zero_ne_one)
    ((State.blockOk_tierEn he).trans hall) rfl).trans ?_
  simp [State.effects, went_setBits_one he, went_setBits_apart, ho]

theorem State.writeField_tierEn_ignored (ht : s.takesWrites path = true) (he : s.rf .flsCtl 0 1 = 0)
    (hall : ((List.range 32).all fun n => s.rf (.flsChCtl n) 0 1 == 1) = false) : s.writeField path .flsCtl 0 1 1 = s :=
  State.writeField_bit_blocked ht (Reg.unitBit_flsCtl (by decide)) (by decide) (he.trans_ne Nat.zero_ne_one)
    ((State.blockOk_tierEn he).trans hall)

/-- Once no channel trains, the anchors decide whether the tier serves or rebuilds its map. -/
theorem State.tierEnable_starts (ok : Bool) (ht : s.takesWrites path = true) (he : s.rf .flsCtl 0 1 = 0) (ho : s.flash.state = .off)
    (hall : ((List.range 32).all fun n => s.rf (.flsChCtl n) 0 1 == 1) = true)
    (hc : (s.flash.chans.any fun c => c.state == .training) = false) :
    let t := s.setRf .flsCtl 0 1 1
    let v : State := { t with flash := { t.flash with state := .init } }
    s.tierEnable path ok = if ok then v.tierServes else { v with flash := { v.flash with state := .rebuild } } := by
  unfold State.tierEnable
  rw [if_pos he, State.writeField_tierEn ht he ho hall]
  exact if_neg (by simpa using hc)

/-- A tier that stays off does nothing. -/
theorem State.tierEnable_ignored (ok : Bool) (ht : s.takesWrites path = true) (he : s.rf .flsCtl 0 1 = 0) (ho : s.flash.state = .off)
    (hall : ((List.range 32).all fun n => s.rf (.flsChCtl n) 0 1 == 1) = false) : s.tierEnable path ok = s := by
  unfold State.tierEnable
  rw [if_pos he, State.writeField_tierEn_ignored ht he hall]
  exact if_pos (.inl (by simp [ho]))

end

/-! ## The obligation -/

theorem exec_flashTierEnable (path : Path) (ok : Bool) (s : State) :
    exec (.flashTierEnable path ok) s = .next (s.tierEnable path ok).continueConfig.resume := rfl

/-- Settles O46: the rules of a register's block decide whether its bit is set, and the bit that went to 0 or 1 commands the unit. -/
theorem memoryUnitsObeyTheirRegisters : Obligations.MemoryUnitsObeyTheirRegisters := by
  unfold Obligations.MemoryUnitsObeyTheirRegisters
  intro s path ht
  have hstk (k : Fin 8) {lo : Nat} (h : lo < 2) := Reg.unitBit_memStkCtl k h
  refine ⟨fun k he => ⟨fun ho hf => ?_, fun hno => ?_, ?_⟩, fun k he => ⟨fun hf => ?_, fun hf => ?_, ?_⟩,
    fun k => ⟨fun hf hd => ?_, fun hf hs hd => ?_, fun hf => ?_⟩, fun k on => ⟨fun hk h => ?_, fun h => ?_⟩, fun h => ?_, fun h => ?_,
    fun k => ⟨fun hf hd => ?_, fun hf hs hd => ?_, fun hf => ?_⟩, fun k dies bad => ⟨fun he hf => ?_, fun h => ?_⟩,
    fun ok he ho => ⟨fun hall hc => ?_, fun hall => ?_⟩⟩
  · exact congrArg Host.Outcome.next (State.writeField_stackEn_on ht he hf ho)
  · exact congrArg Host.Outcome.next (State.writeField_stackEn_ignored ht he hno)
  · exact congrArg Host.Outcome.next (State.writeField_bit_same ht (hstk k (by decide)) he)
  · exact congrArg Host.Outcome.next (State.writeField_stackEn_off ht he hf)
  · exact congrArg Host.Outcome.next (State.writeField_stackEn_stays ht he hf)
  · exact congrArg Host.Outcome.next (State.writeField_bit_same ht (hstk k (by decide)) he)
  · exact congrArg Host.Outcome.next (State.writeField_stackFence ht hf hd)
  · exact congrArg Host.Outcome.next (State.writeField_stackFence_refused ht hf hs hd)
  · exact congrArg Host.Outcome.next (State.writeField_bit_same ht (hstk k (by decide)) hf)
  · exact congrArg Host.Outcome.next (State.writeField_nbEn ht hk (b2n_lt_two on) h)
  · by_cases hk : k.val = 3 ∨ k.val = 4
    · exact congrArg Host.Outcome.next
        (State.writeField_bit_same ht (Reg.unitBit_nbEn hk) (h.resolve_left fun hn => hk.elim hn.1 hn.2))
    · exact congrArg Host.Outcome.next (State.writeField_nbEn_absent _ ht hk)
  · exact congrArg Host.Outcome.next (State.writeField_wrEn ht h)
  · exact congrArg Host.Outcome.next (State.writeField_bit_same ht (Reg.unitBit_flsCtl (by decide)) h)
  · exact congrArg Host.Outcome.next (State.writeField_chanFence ht hf hd)
  · exact congrArg Host.Outcome.next (State.writeField_chanFence_refused ht hf hs hd)
  · exact congrArg Host.Outcome.next (State.writeField_bit_same ht (Reg.unitBit_flsChCtl k (by decide)) hf)
  · exact congrArg (Host.Outcome.next ∘ State.continueConfig) (State.chanEnable_trains dies bad ht he hf)
  · exact congrArg (Host.Outcome.next ∘ State.continueConfig) (State.chanEnable_unwritten dies bad ht h)
  · rw [exec_flashTierEnable, State.tierEnable_starts ok ht he ho hall hc]
  · rw [exec_flashTierEnable, State.tierEnable_ignored ok ht he ho hall]

end Sys2Proof.Machine
end

section
/-! PROOFS. Stacks come into service, are scrubbed, drained and fenced, and near-bank sequences end (08_hbm_and_near_bank.md R210, R211,
R217 to R219, R222 to R230). -/

namespace Sys2Proof.Machine

section
variable {s : State} {n : Nat}

/-! ## Training and drains (R211, R222, R229, R230) -/

theorem State.stackInit_service (h : (s.stack n).state = .training) :
    s.stackInit n true = s.updStack n fun x => { x with state := .service, scratchMarked := [], rowsMarked := [] } := by
  unfold State.stackInit
  rw [if_neg (not_not_intro h), if_pos rfl]

theorem State.stackInit_fences (h : (s.stack n).state = .training) :
    s.stackInit n false = ((s.updStack n fun x => { x with state := .fenced }).raise (.memStkSts n) 4
      ⟨2, 5, 2, 0xFF, n, memDetail 0 0 0 0⟩).leaveCheck := by
  unfold State.stackInit
  rw [if_neg (not_not_intro h), if_neg Bool.false_ne_true]
  rfl

theorem State.stackInit_elsewhere (ok : Bool) (h : (s.stack n).state ≠ .training) : s.stackInit n ok = s := if_pos h

theorem State.drainDone_elsewhere (h : (s.stack n).state ≠ .draining) : s.drainDone n = s := if_pos h

/-- While a page cannot go, the drain goes on. -/
theorem State.drainDone_stuck (h : (s.stack n).state = .draining) (hm : s.moveOut n = none) : s.drainDone n = s := by
  unfold State.drainDone
  rw [if_neg (not_not_intro h), hm]

/-- While reads or seals hold frames of the stack, it stays `DRAINING`. -/
theorem State.drainDone_held {v : State} (h : (s.stack n).state = .draining) (hm : s.moveOut n = some v) (hh : v.stackHeld n = true) :
    s.drainDone n = v := by
  unfold State.drainDone
  rw [if_neg (not_not_intro h), hm]
  exact if_pos hh

/-- A stack that holds nothing is fenced. -/
theorem State.drainDone_fences {v : State} (h : (s.stack n).state = .draining) (hm : s.moveOut n = some v) (hh : v.stackHeld n = false) :
    s.drainDone n = (((((v.updStack n fun x => { x with state := .fenced }).abandonNb n fun _ => true).moveRoles n).note
      ⟨2, 8, 0, 0xFF, n, []⟩).leaveCheck).nextDrain := by
  unfold State.drainDone
  rw [if_neg (not_not_intro h), hm]
  exact if_neg (ne_true_of_eq_false hh)

/-! ## What a scrub finds (R210, R217 to R219, R227) -/

theorem State.scrub_elsewhere (o : ScrubOutcome) (hs : (s.stack n).state ≠ .service) (hd : (s.stack n).state ≠ .draining) :
    s.scrub n o = s := by
  unfold State.scrub
  split
  · next h => exact absurd h hs
  · next h => exact absurd h hd
  · rfl

/-- An error in a row whose marker is set is a taint. -/
theorem State.scrub_marked {o : ScrubOutcome} {row : Nat} (h : (s.stack n).state = .service ∨ (s.stack n).state = .draining)
    (hr : ScrubOutcome.row o = some row) (hm : (s.stack n).rowsMarked.contains row = true) : s.scrub n o = s.taint n 0 row 0 := by
  have hf : (ScrubOutcome.row o).filter (fun k => (s.stack n).rowsMarked.contains k) = some row := by rw [hr]; exact Option.filter_some_pos hm
  unfold State.scrub
  rcases h with h | h <;> rw [h, hf]

/-- Rows that are due go on, and then what was found takes its effect. -/
theorem State.scrub_unmarked {o : ScrubOutcome} (h : (s.stack n).state = .service ∨ (s.stack n).state = .draining)
    (hm : ∀ row, ScrubOutcome.row o = some row → (s.stack n).rowsMarked.contains row = false) : s.scrub n o = (s.settleRows n).scrubbed n o := by
  have hf : (ScrubOutcome.row o).filter (fun k => (s.stack n).rowsMarked.contains k) = none :=
    Option.filter_eq_none_iff.mpr fun row hr => ne_true_of_eq_false (hm row hr)
  unfold State.scrub
  rcases h with h | h <;> rw [h, hf]

/-- An outcome that names no row. -/
theorem State.scrub_rowless {o : ScrubOutcome} (h : (s.stack n).state = .service ∨ (s.stack n).state = .draining) (hr : ScrubOutcome.row o = none) :
    s.scrub n o = (s.settleRows n).scrubbed n o :=
  State.scrub_unmarked h fun _ he => nomatch hr.symm.trans he

/-- An outcome whose row has no marker. -/
theorem State.scrub_row_unmarked {o : ScrubOutcome} {row : Nat} (h : (s.stack n).state = .service ∨ (s.stack n).state = .draining)
    (hr : ScrubOutcome.row o = some row) (hm : (s.stack n).rowsMarked.contains row = false) : s.scrub n o = (s.settleRows n).scrubbed n o :=
  State.scrub_unmarked h fun _ he => Option.some.inj (hr.symm.trans he) ▸ hm

/-- An uncorrectable word raises its status bit and touches no page. -/
theorem State.stackUe_raises (s : State) (k : Fin 8) (row : Nat) (h : Handle) :
    (s.stackUe k row h).rf (.memStkSts k) 1 1 = 1 ∧ (s.stackUe k row h).store = s.store := by
  have hl : (Reg.memStkSts k).offset ≠ Reg.logSts.offset := by revert k; decide
  exact ⟨State.rf_raise _ _ _ _ (by decide) hl, by simp [State.stackUe, State.memRaise]⟩

theorem State.ueFence_sixteen (h : 16 ≤ (s.stack n).ueTimes.length) : s.ueFence n = s.fenceStack n := if_pos h

theorem State.ueFence_fewer (h : (s.stack n).ueTimes.length < 16) : s.ueFence n = s := if_neg (Nat.not_le.mpr h)

/-! ## Near-bank sequences (R224 to R227) -/

theorem State.nbDone_none {h : Handle} (o : NbOutcome) (hx : ((s.stack n).running.find? fun y => y.page == h && !y.suspended) = none) :
    s.nbDone n h o = s := by
  unfold State.nbDone
  rw [hx]

/-- What the end of a sequence does, once it runs no more and its unit's scratch rows are marked. -/
def State.nbOutcome (n : Nat) (h : Handle) (o : NbOutcome) (x : NbSeq) (t : State) : State :=
  let bad := (t.count 3 nodeScope (8 * n + 5)).raise (.memStkSts n) 3 ⟨2, 4, 1, 0xFF, n, memDetail x.pch 0 0 h⟩
  match o with
  | .pass => t.nbEnd x true
  | .scoreCrc => bad.nbEnd x false
  | .rangeFail => (bad.uncorrectable h false).nbEnd x false
  | .unitFault => ((t.updStack n fun y => { y with unitsFenced := addNew x.pch y.unitsFenced }).nbEnd x false).abandonNb n fun y => y.pch == x.pch
  | .taint row => (t.nbEnd x false).taint n x.pch row h

theorem State.nbDone_some {h : Handle} {x : NbSeq} (o : NbOutcome)
    (hx : ((s.stack n).running.find? fun y => y.page == h && !y.suspended) = some x) :
    s.nbDone n h o = (s.updStack n fun y =>
      { y with running := y.running.erase x, scratchMarked := addNew x.pch y.scratchMarked }).nbOutcome n h o x := by
  unfold State.nbDone
  rw [hx]
  cases o <;> rfl

end

/-! ## The obligation -/

/-- Settles O49: each event by the stack's state, by the marker of the row that it names, or by the first sequence that is not suspended. -/
theorem stackEventsTakeEffect : Obligations.StackEventsTakeEffect := by
  unfold Obligations.StackEventsTakeEffect
  refine ⟨fun s k => ⟨fun h => ⟨?_, ?_⟩, fun h ok => ?_⟩,
    fun s k => ⟨fun h => ?_, fun h => ⟨fun hm => ?_, fun v hm => ⟨fun hh => ?_, fun hh => ?_⟩⟩⟩,
    fun s k hs hd o => ?_, fun s k h => ?_,
    fun s k => ⟨fun row h => ⟨_, rfl, s.stackUe_raises k row h⟩, State.ueFence_sixteen, State.ueFence_fewer⟩,
    fun s k c => rfl, fun s k pch => ⟨rfl, rfl⟩,
    fun s k h => ⟨fun hx o => ?_, fun x hx => ⟨?_, ?_, ?_, ?_, fun row => ?_⟩⟩⟩
  · exact congrArg (Host.Outcome.next ∘ State.continueConfig) (State.stackInit_service h)
  · exact congrArg (Host.Outcome.next ∘ State.continueConfig) (State.stackInit_fences h)
  · exact congrArg (Host.Outcome.next ∘ State.continueConfig) (State.stackInit_elsewhere ok h)
  · exact congrArg Host.Outcome.next (State.drainDone_elsewhere h)
  · exact congrArg Host.Outcome.next (State.drainDone_stuck h hm)
  · exact congrArg Host.Outcome.next (State.drainDone_held h hm hh)
  · exact congrArg Host.Outcome.next (State.drainDone_fences h hm hh)
  · exact congrArg Host.Outcome.next (State.scrub_elsewhere o hs hd)
  · have hrowless (o : ScrubOutcome) (hr : ScrubOutcome.row o = none) :
        exec (.hbmPatrolScrub k o) s = .next ((s.settleRows k).scrubbed k o) := congrArg Host.Outcome.next (State.scrub_rowless h hr)
    have hrow (o : ScrubOutcome) {row : Nat} (hr : ScrubOutcome.row o = some row) (hm : (s.stack k).rowsMarked.contains row = false) :
        exec (.hbmPatrolScrub k o) s = .next ((s.settleRows k).scrubbed k o) := congrArg Host.Outcome.next (State.scrub_row_unmarked h hr hm)
    exact ⟨fun o row hr hm => congrArg Host.Outcome.next (State.scrub_marked h hr hm), hrowless .clean rfl,
      fun row hm => ⟨hrow (.corrected row) rfl hm, hrow (.rowFailing row) rfl hm, hrow (.uncorrectable row none) rfl hm,
        fun p => hrow (.uncorrectable row (some p)) rfl hm, fun q b => hrow (.uncorrectableTokens row q b) rfl hm⟩,
      fun p => hrowless (.openMismatch p) rfl, fun pch row => hrowless (.tainted pch row) rfl,
      fun m => hrowless (.parityRetried m) rfl, hrowless .parityExhausted rfl, hrowless .retrainFailed rfl, hrowless .passDone rfl⟩
  · exact congrArg Host.Outcome.next (State.nbDone_none o hx)
  · exact congrArg Host.Outcome.next (State.nbDone_some .pass hx)
  · exact congrArg Host.Outcome.next (State.nbDone_some .scoreCrc hx)
  · exact congrArg Host.Outcome.next (State.nbDone_some .rangeFail hx)
  · exact congrArg Host.Outcome.next (State.nbDone_some .unitFault hx)
  · exact congrArg Host.Outcome.next (State.nbDone_some (.taint row) hx)

end Sys2Proof.Machine
end

section
/-! SUPPORT. Dies, blocks and channels of the flash tier as they are found after one of them has changed (R235, R245 to R247). -/

namespace Sys2Proof.Machine

/-! ## Association lists -/

theorem assoc_assocSet_same {α β : Type} [BEq α] [LawfulBEq α] (k : α) (v : β) (l : List (α × β)) : assoc k (assocSet k v l) = some v := by
  unfold assocSet assoc
  split
  · next h =>
    rw [find?_updWhere (f := fun p => (p.1, v)) fun _ => rfl]
    cases hf : l.find? fun p => p.1 == k with
    | none =>
      obtain ⟨x, hx, hk⟩ := List.any_eq_true.mp h
      exact absurd hk (List.find?_eq_none.mp hf x hx)
    | some x => simp [List.find?_some hf]
  · next h =>
    have hnone : (l.find? fun p => p.1 == k) = none := List.find?_eq_none.mpr fun p hp hk => h (List.any_eq_true.mpr ⟨p, hp, hk⟩)
    rw [List.find?_append, hnone]
    simp

/-! ## Dies and blocks -/

section
variable {s : State} {d : DieId} {b : Nat} {x : FBlock}

theorem State.fblock?_name (h : s.fblock? d b = some x) : x.die = d ∧ x.num = b := by simpa using List.find?_some h

theorem State.fdie?_name {y : FDie} (h : s.fdie? d = some y) : y.die = d := by simpa using List.find?_some h

theorem State.fdie?_updDie {f : FDie → FDie} (hf : ∀ y, (f y).die = y.die) (s : State) (e d : DieId) :
    (s.updDie e f).fdie? d = (s.fdie? d).map fun y => if y.die == e then f y else y :=
  find?_updWhere (fun y => by rw [hf]) _

end

/-! ## Channels -/

theorem State.chan_updChan (s : State) {n : Nat} (hn : n < s.flash.chans.length) (f : Chan → Chan) :
    (s.updChan n f).chan n = f (s.chan n) := by
  simp [State.chan, State.updChan, updAt, hn]

end Sys2Proof.Machine
end

section
/-! PROOFS. A block is erased only where no valid frame, copy, read or open target needs it (R245 to R247). -/

namespace Sys2Proof.Machine

/-! ## The conditions for an erase (R246) -/

/-- The conditions for the erase of a source block, as R246 lists them. -/
theorem State.conditions_of_eraseOk {s : State} {x : FBlock} (h : s.eraseOk x = true) :
    x.use = .reclaiming ∧ (∀ f ∈ x.frames, f.valid = false) ∧ (∀ c ∈ s.flash.copying, c.1 = x.die → c.2.2 ≠ x.num) ∧
      (∀ t ∈ s.flash.blocks, t.sources.contains (x.die, x.num) = true → t.use ≠ .retired → t.use ≠ .opened ∧ t.closed = true) ∧
      s.readsHold x = false := by
  unfold State.eraseOk at h
  simp only [Bool.and_eq_true, Bool.or_eq_true, Bool.not_eq_true', List.all_eq_true, beq_iff_eq, bne_iff_ne, Bool.and_eq_false_iff,
    beq_eq_false_iff_ne] at h
  obtain ⟨⟨⟨⟨⟨⟨huse, -⟩, -⟩, hframes⟩, hcopies⟩, htargets⟩, hreads⟩ := h
  refine ⟨huse, hframes, fun c hc hd => (hcopies c hc).resolve_left (not_not_intro hd), fun t ht hsrc hret => ?_, hreads⟩
  rcases htargets t ht with (hno | hret') | hclosed
  · exact Bool.noConfusion (hno.symm.trans hsrc)
  · exact absurd hret' hret
  · exact hclosed

/-- Whatever still needs a block keeps it from being erased. -/
theorem State.eraseOk_of_needed {s : State} {x : FBlock}
    (h : (∃ f ∈ x.frames, f.valid = true) ∨ (∃ c ∈ s.flash.copying, c.1 = x.die ∧ c.2.2 = x.num) ∨ x.use ≠ .reclaiming ∨
      s.readsHold x = true ∨
      ∃ t ∈ s.flash.blocks, t.sources.contains (x.die, x.num) = true ∧ t.use ≠ .retired ∧ (t.use = .opened ∨ t.closed = false)) :
    s.eraseOk x = false := by
  by_contra hok
  obtain ⟨huse, hframes, hcopies, htargets, hreads⟩ := State.conditions_of_eraseOk (Bool.eq_true_of_not_eq_false hok)
  rcases h with ⟨f, hf, hv⟩ | ⟨c, hc, hd, hn⟩ | hu | hr | ⟨t, ht, hsrc, hret, hopen⟩
  · exact Bool.noConfusion ((hframes f hf).symm.trans hv)
  · exact hcopies c hc hd hn
  · exact hu huse
  · exact Bool.noConfusion (hreads.symm.trans hr)
  · obtain ⟨hno, hclosed⟩ := htargets t ht hsrc hret
    exact hopen.elim hno fun ho => Bool.noConfusion (hclosed.symm.trans ho)

/-! ## What an erase does (R247) -/

section
variable {s : State} {d : DieId} {b : Nat} {x : FBlock}

theorem State.eraseBlock_refused (hx : s.fblock? d b = some x) (ho : s.eraseOk x = false) : s.eraseBlock d b = s := by
  unfold State.eraseBlock
  rw [hx]
  exact if_pos (Bool.eq_false_iff.mp ho)

theorem State.eraseFailure_refused (hx : s.fblock? d b = some x) (ho : s.eraseOk x = false) : s.eraseFailure d b = s := by
  unfold State.eraseFailure
  rw [hx]
  exact if_pos (Bool.eq_false_iff.mp ho)

theorem State.eraseBlock_endured (hx : s.fblock? d b = some x) (ho : s.eraseOk x = true) (he : enduranceEnd ≤ x.erases) :
    s.eraseBlock d b = (s.dropSource d b).retireBlock d b := by
  unfold State.eraseBlock
  simp only [hx]
  rw [if_neg (not_not_intro ho), if_pos he]

/-- The die after the erase of its block. -/
def FDie.erased (b n : Nat) (y : FDie) : FDie := { y with free := y.free + 1, erases := assocSet b n y.erases }

theorem FDie.eraseCount_erased (b n : Nat) (y : FDie) : (y.erased b n).eraseCount b = n :=
  congrArg (Option.getD · 0) (assoc_assocSet_same b n y.erases)

/-- The block goes from the blocks in use to the free ones of its die. -/
def State.freeBlock (d : DieId) (b n : Nat) (s : State) : State :=
  let t := s.updDie d (FDie.erased b n)
  ({ t with flash := { t.flash with blocks := t.flash.blocks.filter fun k => !(k.die == d && k.num == b) } } : State).count 4 nodeScope
    (flsTel d.chan.val 2)

theorem State.eraseBlock_frees (hx : s.fblock? d b = some x) (ho : s.eraseOk x = true) (he : x.erases < enduranceEnd) :
    s.eraseBlock d b = (s.dropSource d b).freeBlock d b (x.erases + 1) := by
  unfold State.eraseBlock
  simp only [hx]
  rw [if_neg (not_not_intro ho), if_neg (Nat.not_le.mpr he)]
  rfl

end

/-! ### The block that goes and the blocks that stay -/

theorem State.fblock?_freeBlock_same (d : DieId) (b n : Nat) (s : State) : (s.freeBlock d b n).fblock? d b = none :=
  List.find?_eq_none.mpr fun y hy => by simpa [imp_iff_not_or] using (List.mem_filter.mp hy).2

theorem State.fblock?_freeBlock_other {d e : DieId} {b k : Nat} (h : e ≠ d ∨ k ≠ b) (n : Nat) (s : State) :
    (s.freeBlock d b n).fblock? e k = s.fblock? e k := by
  simp only [State.fblock?, State.freeBlock, State.count_flash, State.updDie_flash_blocks, List.find?_filter]
  congr 1
  funext y
  by_cases hy : (y.die == e && y.num == k) = true
  · obtain ⟨hd, hk⟩ : y.die = e ∧ y.num = k := by simpa using hy
    have hother : (y.die == d && y.num == b) = false := by simpa [hd, hk, Classical.or_iff_not_imp_left] using h
    rw [hother, hy]
    rfl
  · simp [Bool.eq_false_iff.mpr hy]

theorem State.fdie?_freeBlock {d : DieId} {y : FDie} (b n : Nat) {s : State} (hy : s.fdie? d = some y) :
    (s.freeBlock d b n).fdie? d = some (y.erased b n) := by
  have hupd : (s.updDie d (FDie.erased b n)).fdie? d = some (y.erased b n) := by
    rw [State.fdie?_updDie (f := FDie.erased b n) fun _ => rfl, hy]
    simp [State.fdie?_name hy]
  exact hupd

/-- A block without another among its sources, unless it is open. -/
def FBlock.without (d : DieId) (b : Nat) (t : FBlock) : FBlock :=
  if t.use = .opened then t else { t with sources := delAll (d, b) t.sources }

theorem FBlock.without_spec (d : DieId) (b : Nat) (t : FBlock) :
    (t.without d b).die = t.die ∧ (t.without d b).num = t.num ∧ (t.without d b).frames = t.frames ∧ (t.without d b).use = t.use ∧
      (t.without d b).erases = t.erases := by
  unfold FBlock.without
  split <;> exact ⟨rfl, rfl, rfl, rfl, rfl⟩

theorem State.fblock?_dropSource (s : State) (d e : DieId) (b k : Nat) :
    (s.dropSource d b).fblock? e k = (s.fblock? e k).map (FBlock.without d b) := by
  have hname : ((fun y : FBlock => y.die == e && y.num == k) ∘ FBlock.without d b) = fun y => y.die == e && y.num == k := by
    funext t
    obtain ⟨hdie, hnum, -⟩ := t.without_spec d b
    rw [Function.comp_apply, hdie, hnum]
  have hmap := List.find?_map (p := fun y : FBlock => y.die == e && y.num == k) (f := FBlock.without d b) (l := s.flash.blocks)
  rwa [hname] at hmap

/-- Settles O53: what still needs the block fails one of the conditions of R246; else the erase frees the block or, at the end of its
endurance, retires it. -/
theorem eraseKeepsEveryValidFrame : Obligations.EraseKeepsEveryValidFrame := by
  unfold Obligations.EraseKeepsEveryValidFrame
  intro s d b x hx
  refine ⟨fun hneed => ?_, fun ho he => ?_, fun ho he => ?_⟩
  · have hno := State.eraseOk_of_needed hneed
    exact ⟨congrArg Host.Outcome.next (State.eraseBlock_refused hx hno), congrArg Host.Outcome.next (State.eraseFailure_refused hx hno)⟩
  · exact congrArg Host.Outcome.next (State.eraseBlock_endured hx ho he)
  · refine ⟨_, congrArg Host.Outcome.next (State.eraseBlock_frees hx ho he), State.fblock?_freeBlock_same _ _ _ _, rfl, rfl,
      fun y hy => ⟨_, State.fdie?_freeBlock b _ (s := s.dropSource d b) hy, rfl, FDie.eraseCount_erased _ _ _⟩, fun e k hne => ?_⟩
    rw [State.fblock?_freeBlock_other hne, State.fblock?_dropSource, Option.map_map]
    congr 1
    funext t
    obtain ⟨-, -, hframes, huse, herases⟩ := t.without_spec d b
    rw [Function.comp_apply, hframes, huse, herases]

end Sys2Proof.Machine
end

section
/-! PROOFS. Node, health, stack, counter and log reads (R252, R330, R507, R510, R511). -/

namespace Sys2Proof.Machine

section
variable {s u : State} {c : Cmd} {id after n : Nat} {classes : Word32} {i : Inflight}

theorem State.stackFree_unserving (h : s.serving n = false) : s.stackFree n = 0 := if_neg (Bool.eq_false_iff.mp h)

/-! ## LOG_READ at its admission and while it is held (R330, R510) -/

theorem logReadRun_answers
    (h : u.logFrom (field c.data 0 8) (field c.data 8 2) (BitVec.ofNat 32 (field c.data 12 4)) ≠ [] ∨ field c.data 10 2 = 0) :
    logReadRun c u = .ok (logBytes (u.logFrom (field c.data 0 8) (field c.data 8 2) (BitVec.ofNat 32 (field c.data 12 4)))) u :=
  if_neg (by tauto)

theorem logReadRun_waits
    (h : u.logFrom (field c.data 0 8) (field c.data 8 2) (BitVec.ofNat 32 (field c.data 12 4)) = []) (hw : field c.data 10 2 ≠ 0) :
    logReadRun c u = .wait (.log (field c.data 0 8) (field c.data 8 2) (BitVec.ofNat 32 (field c.data 12 4))) [] u :=
  if_pos ⟨h, hw⟩

theorem State.logEnds_replies {expired : Bool} (hi : s.inflight? id = some i) (hw : i.wait = .log after n classes)
    (h : s.logFrom after n classes ≠ [] ∨ expired = true) :
    s.logEnds expired id = s.complete i .ok none 0 (logBytes (s.logFrom after n classes)) := by
  unfold State.logEnds
  simp only [hi, hw]
  exact if_neg fun hno => h.elim (· hno.1) hno.2

theorem State.logEnds_waits (hi : s.inflight? id = some i) (hw : i.wait = .log after n classes) (h : s.logFrom after n classes = []) :
    s.logEnds false id = s := by
  unfold State.logEnds
  simp only [hi, hw]
  exact if_pos ⟨h, Bool.false_ne_true⟩

end

/-- Settles O41: each read by what its definition answers at step 9, and a held LOG_READ by whether a record has come. -/
theorem nodeReadsAnswer : Obligations.NodeReadsAnswer := by
  unfold Obligations.NodeReadsAnswer
  refine ⟨fun p s u c h => ?_, fun p s u c h => ?_, fun p s u c h => ⟨?_, fun _ => State.stackFree_unserving⟩, fun p s u c h => ?_,
    fun p s u c h => ⟨fun hl => ?_, fun hl hw => ?_⟩, fun s id after n classes i hi hw => ⟨fun hl => ?_, fun hl => ?_, ?_⟩⟩
  · exact congrArg Host.Outcome.next (State.answered_of_admission (op := .nodeDescribe) h rfl)
  · exact congrArg Host.Outcome.next (State.answered_of_admission (op := .healthRead) h rfl)
  · exact congrArg Host.Outcome.next (State.answered_of_admission (op := .stackState) h rfl)
  · exact congrArg Host.Outcome.next (State.answered_of_admission (op := .telRead) h rfl)
  · exact congrArg Host.Outcome.next (State.answered_of_admission (op := .logRead) h (logReadRun_answers hl))
  · exact congrArg Host.Outcome.next (State.held_of_admission (op := .logRead) h (logReadRun_waits hl hw))
  · exact congrArg (Host.Outcome.next ∘ State.resume) (State.logEnds_replies hi hw (.inl hl))
  · exact congrArg (Host.Outcome.next ∘ State.resume) (State.logEnds_waits hi hw hl)
  · exact congrArg (Host.Outcome.next ∘ State.resume) (State.logEnds_replies hi hw (.inr rfl))

end Sys2Proof.Machine
end

section
/-! PROOFS. Reclamation, copies, close checks, failures, wear levelling, patrol and temperature of the flash media (R232, R238, R241,
R245 to R248, R250 to R252, R258). -/

namespace Sys2Proof.Machine

/-! ## Reclamation starts (R245, R248) -/

section
variable {s : State} {d : DieId} {x : FDie}

/-- A die is reclaimed: it is worn out, below GC_LOW, or, once begun, below GC_HIGH. -/
def State.reclaims (s : State) (x : FDie) : Bool :=
  x.worn || decide (x.free < s.rf .flsGc 0 8) || (x.gc && decide (x.free < s.rf .flsGc 8 8))

/-- The die keeps whether it is being reclaimed. -/
def State.gcMarked (d : DieId) (x : FDie) (s : State) : State := s.updDie d fun y => { y with gc := s.reclaims x }

/-- The die's first victim is reclaimed where the die is on and takes writes. -/
def State.takeVictim (d : DieId) (on : Bool) (t : State) : State :=
  match t.victims d with
  | v :: _ => if on ∧ t.mediaWrites d.chan.val then t.reclaimBlock v else t
  | [] => t

theorem State.reclaimStart_found (hx : s.fdie? d = some x) : s.reclaimStart d = (s.gcMarked d x).takeVictim d (s.reclaims x) := by
  unfold State.reclaimStart
  rw [hx]
  rfl

theorem State.takeVictim_first {v : FBlock} {l : List FBlock} (hv : s.victims d = v :: l) (hm : s.mediaWrites d.chan = true) :
    s.takeVictim d true = s.reclaimBlock v := by
  unfold State.takeVictim
  rw [hv]
  exact if_pos ⟨rfl, hm⟩

theorem State.takeVictim_none {on : Bool} (h : s.victims d = [] ∨ on = false ∨ s.mediaWrites d.chan = false) : s.takeVictim d on = s := by
  unfold State.takeVictim
  split
  · next v l hv =>
    have hoff := h.resolve_left (by simp [hv])
    exact if_neg fun hon => hoff.elim (Bool.eq_false_iff.mp · hon.1) (Bool.eq_false_iff.mp · hon.2)
  · rfl

end

/-! ## Copies of reclamation end (R241, R245, R246, R258) -/

section
variable {s v w : State} {d : DieId} {frame : Nat} {c : DieId × Nat × Nat} {y : FBlock}

/-- The copy's target names its source, and the copy is counted. -/
def State.copyCounted (d : DieId) (c : DieId × Nat × Nat) (y : FBlock) (v : State) : State :=
  (v.updBlock y.die y.num fun k => { k with sources := addNew (d, c.2.2) k.sources }).count 4 nodeScope (8 * d.chan.val + 6)

/-- The copy is in flight no more. -/
def State.copyTaken (frame : Nat) (c : DieId × Nat × Nat) (w : State) : State :=
  (w.doneWork .write (frameKey frame)).setCopying (w.flash.copying.filter fun k => !(k == c))

/-- What a copy into the target `y` does once it is counted. -/
def State.copyEnds (d : DieId) (frame : Nat) (ok : Bool) (c : DieId × Nat × Nat) (y : FBlock) (w : State) : State :=
  if ¬ ok then match w.fblock? y.die y.num with | some t => w.failTarget t | none => w
  else match w.mapEntry? frame with
    | some e =>
      if e.die = d ∧ e.block = c.2.2 then (w.copyTaken frame c).programFrame (w.kindOf frame) y.die y.num frame e.gen.toNat e.index
      else (w.copyTaken frame c).discardCopy y frame
    | none => (w.copyTaken frame c).discardCopy y frame

section
variable (hc : s.flash.copying.find? (fun x => x.1 == d && x.2.1 == frame) = some c) (ok : Bool)
include hc

theorem State.reclaimCopied_waits (h : s.mediaWrites d.chan = false ∨ s.deltaFull = true) : s.reclaimCopied d frame ok = s := by
  unfold State.reclaimCopied
  rw [hc]
  exact if_pos (h.imp_left Bool.eq_false_iff.mp)

theorem State.reclaimCopied_suspended (ht : s.targetFor (d, c.2.2) = some (y, v)) (hs : v.dieSuspended y.die = true) :
    s.reclaimCopied d frame ok = s := by
  unfold State.reclaimCopied
  simp only [hc, ht]
  rw [if_pos hs, ite_self]

variable (hm : s.mediaWrites d.chan = true) (hd : s.deltaFull = false)
include hm hd

theorem State.reclaimCopied_placeless (ht : s.targetFor (d, c.2.2) = none) : s.reclaimCopied d frame ok = s.enterReadOnly := by
  unfold State.reclaimCopied
  simp only [hc, ht]
  exact if_neg (by simp [hm, hd])

theorem State.reclaimCopied_ends (ht : s.targetFor (d, c.2.2) = some (y, v)) (hs : v.dieSuspended y.die = false) :
    s.reclaimCopied d frame ok = (v.copyCounted d c y).copyEnds d frame ok c y := by
  unfold State.reclaimCopied
  simp only [hc, ht]
  rw [if_neg (by simp [hm, hd]), if_neg (Bool.eq_false_iff.mp hs)]
  rfl

end

theorem State.copyEnds_replaces {e : MapEntry} (he : w.mapEntry? frame = some e) (hd : e.die = d) (hb : e.block = c.2.2) :
    w.copyEnds d frame true c y = (w.copyTaken frame c).programFrame (w.kindOf frame) y.die y.num frame e.gen.toNat e.index := by
  rw [State.copyEnds, if_neg (not_not_intro rfl), he]
  exact if_pos ⟨hd, hb⟩

theorem State.copyEnds_elsewhere {e : MapEntry} (he : w.mapEntry? frame = some e) (h : e.die ≠ d ∨ e.block ≠ c.2.2) :
    w.copyEnds d frame true c y = (w.copyTaken frame c).discardCopy y frame := by
  rw [State.copyEnds, if_neg (not_not_intro rfl), he]
  exact if_neg fun hsame => h.elim (· hsame.1) (· hsame.2)

theorem State.copyEnds_unmapped (he : w.mapEntry? frame = none) :
    w.copyEnds d frame true c y = (w.copyTaken frame c).discardCopy y frame := by
  rw [State.copyEnds, if_neg (not_not_intro rfl), he]

theorem State.copyEnds_fails {z : FBlock} (hz : w.fblock? y.die y.num = some z) : w.copyEnds d frame false c y = w.failTarget z := by
  unfold State.copyEnds
  rw [hz]
  rfl

end

/-! ## Close checks and failures (R246) -/

section
variable {s : State} {d : DieId} {b : Nat} {x : FBlock} (hx : s.fblock? d b = some x)
include hx

theorem State.closeCheck_due (hs : x.single = false) (hu : x.use = .full) (hc : x.closed = false) (hn : x.sources ≠ []) (ok : Bool) :
    s.closeCheck d b ok = if ok then s.updBlock d b fun y => { y with closed := true } else s.failTarget x := by
  unfold State.closeCheck
  rw [hx]
  exact if_neg (by simp [hs, hu, hc, hn])

theorem State.closeCheck_undue (h : x.use ≠ .full ∨ x.closed = true ∨ x.sources = []) (ok : Bool) : s.closeCheck d b ok = s := by
  unfold State.closeCheck
  rw [hx]
  exact if_pos (by tauto)

theorem State.programFailure_unopened (hu : x.use ≠ .opened) : s.programFailure d b = s := by
  unfold State.programFailure
  rw [hx]
  exact if_pos (.inl hu)

/-- The frame that a block took last. -/
def FBlock.lastFrame (x : FBlock) : Nat := (x.frames.getLast?.map (·.num)).getD 0

/-- A program failure is counted, with its event. -/
def State.programFailed (d : DieId) (b : Nat) (x : FBlock) (s : State) : State :=
  let v := (s.updHealth fun h => { h with programFails := h.programFails + 1 }).updChan d.chan.val fun k => { k with progFails := k.progFails + 1 }
  v.raise .flsSts 1 ⟨3, 2, 1, 0xFF, d.chan.val, flsDetail (locCode d b (x.frames.length - 1)) 0 x.lastFrame v.flash.wseq⟩

/-- The last frame of a retired block is written elsewhere. -/
def State.lastRewritten (d : DieId) (b : Nat) (x : FBlock) (r : State) : State :=
  match r.mapEntry? x.lastFrame with
  | some e =>
    if e.die = d ∧ e.block = b then
      (r.placeFrame (r.kindOf x.lastFrame) x.stream none d.chan.val x.lastFrame e.gen.toNat e.index).getD r.enterReadOnly
    else r
  | none => r

/-- The valid frames of a retired block are copied. -/
def State.copyOut (d : DieId) (b : Nat) (u : State) : State :=
  match u.fblock? d b with
  | some z => u.setCopying (u.flash.copying ++ (z.frames.filter (·.valid)).map fun f => (d, f.num, b))
  | none => u

theorem State.programFailure_target (hs : x.single = false) (hu : x.use = .opened) (hn : x.sources ≠ []) :
    s.programFailure d b = (s.programFailed d b x).failTarget x := by
  unfold State.programFailure
  simp only [hx]
  rw [if_neg (by simp [hs, hu]), if_pos hn]
  rfl

theorem State.programFailure_moves {u : State} {z : FBlock} (hs : x.single = false) (hu : x.use = .opened) (hn : x.sources = [])
    (hr : ((s.programFailed d b x).retireBlock d b).lastRewritten d b x = u) (hz : u.fblock? d b = some z) :
    s.programFailure d b = u.setCopying (u.flash.copying ++ (z.frames.filter (·.valid)).map fun f => (d, f.num, b)) := by
  unfold State.programFailure
  simp only [hx]
  rw [if_neg (by simp [hs, hu]), if_neg (not_not_intro hn)]
  change (((s.programFailed d b x).retireBlock d b).lastRewritten d b x).copyOut d b = _
  rw [hr, State.copyOut, hz]

theorem State.eraseFailure_retires (ho : s.eraseOk x = true) :
    let v := (s.updHealth fun h => { h with eraseFails := h.eraseFails + 1 }).updChan d.chan.val fun k => { k with eraseFails := k.eraseFails + 1 }
    s.eraseFailure d b = ((v.raise .flsSts 2
      ⟨3, 3, 1, 0xFF, d.chan.val, flsDetail (locCode d b 0) 0 0 v.flash.wseq⟩).dropSource d b).retireBlock d b := by
  unfold State.eraseFailure
  simp only [hx]
  rw [if_neg (not_not_intro ho)]
  rfl

end

theorem State.lastRewritten_named {r : State} {d : DieId} {b : Nat} {x : FBlock} {e : MapEntry} (he : r.mapEntry? x.lastFrame = some e)
    (hd : e.die = d) (hb : e.block = b) :
    r.lastRewritten d b x =
      (r.placeFrame (r.kindOf x.lastFrame) x.stream none d.chan.val x.lastFrame e.gen.toNat e.index).getD r.enterReadOnly := by
  unfold State.lastRewritten
  rw [he]
  exact if_pos ⟨hd, hb⟩

theorem State.lastRewritten_unnamed {r : State} {d : DieId} {b : Nat} {x : FBlock} (he : r.mapEntry? x.lastFrame = none) :
    r.lastRewritten d b x = r := by
  unfold State.lastRewritten
  rw [he]

/-! ## Wear levelling (R247) -/

/-- Taking each element that has a greater key than the best so far ends with one of the greatest key. -/
theorem foldl_greatest {α : Type} (key : α → Nat) (l : List α) (x : α) :
    l.foldl (fun best y => if key best < key y then y else best) x ∈ x :: l ∧
      ∀ y ∈ x :: l, key y ≤ key (l.foldl (fun best y => if key best < key y then y else best) x) := by
  induction l generalizing x with
  | nil => simp
  | cons z l ih =>
    rw [List.foldl_cons]
    split
    · next hlt =>
      obtain ⟨hmem, hle⟩ := ih z
      refine ⟨List.mem_cons_of_mem x hmem, fun y hy => ?_⟩
      rcases List.mem_cons.mp hy with rfl | hy
      · exact hlt.le.trans (hle z List.mem_cons_self)
      · exact hle y hy
    · next hge =>
      obtain ⟨hmem, hle⟩ := ih x
      refine ⟨?_, fun y hy => ?_⟩
      · rw [List.mem_cons] at hmem
        exact hmem.elim (fun h => List.mem_cons.mpr (.inl h)) fun h => List.mem_cons_of_mem _ (List.mem_cons_of_mem _ h)
      · rcases List.mem_cons.mp hy with rfl | hy
        · exact hle y List.mem_cons_self
        · rcases List.mem_cons.mp hy with rfl | hy
          · exact (Nat.not_lt.mp hge).trans (hle x List.mem_cons_self)
          · exact hle y (List.mem_cons_of_mem _ hy)

section
variable {s : State} {d : DieId} {x : FDie} {v : FBlock} {l : List FBlock} {f : Nat} {m : List Nat}

/-- The four-bit blocks of a die that are in use, and the full ones of them, the least worn first. -/
def State.wearUsed (s : State) (d : DieId) : List FBlock := s.flash.blocks.filter fun b => b.die == d && b.use != .retired && !b.single
def State.wearFull (s : State) (d : DieId) : List FBlock :=
  sortBy (fun (a b : FBlock) => decide (a.erases < b.erases) || (decide (a.erases = b.erases) && decide (a.num < b.num)))
    ((s.wearUsed d).filter fun b => b.use == .full)

/-- How far the erase counts of a die's blocks, in use or among `free`, lie apart. -/
def State.wearSpread (s : State) (d : DieId) (x : FDie) (free : List Nat) : Nat :=
  let all := (s.wearUsed d).map (·.erases) ++ free.map x.eraseCount
  all.foldl max 0 - all.foldl min (all.foldl max 0)

theorem State.wearFull_eq_nil (h : (s.flash.blocks.filter fun b => b.die == d && b.use == .full && !b.single) = []) : s.wearFull d = [] := by
  have hnone : ((s.wearUsed d).filter fun b => b.use == .full) = [] := by
    refine List.filter_eq_nil_iff.mpr fun b hb hfull => ?_
    obtain ⟨hmem, hused⟩ := List.mem_filter.mp hb
    obtain ⟨⟨hdie, -⟩, hfour⟩ := (Bool.and_eq_true_iff.mp hused).imp_left Bool.and_eq_true_iff.mp
    exact List.filter_eq_nil_iff.mp h b hmem (by rw [hdie, hfull, hfour]; rfl)
  rw [State.wearFull, hnone]
  rfl

/-- The move of wear levelling: from the first full block to the free block of the greatest erase count. -/
def State.wearTurn (d : DieId) (x : FDie) (spread : Nat) (s : State) : List FBlock → List Nat → State
  | v :: _, f :: m =>
    if spread ≤ s.rf .flsGc 16 16 ∨ ¬ s.mediaWrites d.chan.val ∨ x.worn then s
    else (s.openNew x (m.foldl (fun best y => if x.eraseCount best < x.eraseCount y then y else best) f) .reclamation
      (some (d, v.num))).reclaimBlock v
  | _, _ => s

theorem State.wearMove_found (hx : s.fdie? d = some x) :
    s.wearMove d = s.wearTurn d x (s.wearSpread d x (s.freeBlocks x)) (s.wearFull d) (s.freeBlocks x) := by
  unfold State.wearMove
  rw [hx]
  unfold State.wearTurn
  rfl

theorem State.wearMove_unfilled (h : s.wearFull d = []) : s.wearMove d = s := by
  cases hx : s.fdie? d with
  | none =>
    unfold State.wearMove
    rw [hx]
  | some x =>
    rw [State.wearMove_found hx, h]
    rfl

theorem State.wearTurn_even {spread : Nat} (hle : spread ≤ s.rf .flsGc 16 16) : s.wearTurn d x spread (v :: l) (f :: m) = s :=
  if_pos (.inl hle)

theorem State.wearTurn_moves {spread : Nat} (hw : x.worn = false) (hm : s.mediaWrites d.chan = true) (hlt : s.rf .flsGc 16 16 < spread) :
    s.wearTurn d x spread (v :: l) (f :: m) =
      (s.openNew x (m.foldl (fun best y => if x.eraseCount best < x.eraseCount y then y else best) f) .reclamation
        (some (d, v.num))).reclaimBlock v :=
  if_neg (not_or.mpr ⟨Nat.not_le.mpr hlt, not_or.mpr ⟨not_not_intro hm, Bool.eq_false_iff.mp hw⟩⟩)

end

/-! ## Patrol (R238, R250, R258) -/

section
variable {s : State} {d : DieId} {b frame pct : Nat} {x : FBlock}

/-- Reads of attends or drafting, or a recall scan, wait on a channel (R258). -/
def State.patrolHeld (s : State) (chan : Nat) : Bool := (s.chan chan).queue.any fun w => decide (w.cls.rank ≤ 2)

/-- A patrol read is counted, for its block, its channel and its pass. -/
def State.patrolNoted (d : DieId) (b : Nat) (s : State) : State :=
  let w := (s.blockRead d b).count 4 nodeScope (8 * d.chan.val + 7)
  w.updHealth fun h =>
    if sumNat (w.flash.blocks.map fun k => k.frames.length) ≤ h.patrolProgress + 1 then
      { h with patrolPasses := h.patrolPasses + 1, patrolProgress := 0 }
    else { h with patrolProgress := h.patrolProgress + 1 }

/-- What a patrol read does by its outcome, once it is counted. -/
def State.patrolFound (d : DieId) (b frame : Nat) (o : ReadOutcome) (pct : Nat) (v : State) : State :=
  match o with
  | .clean => if pct = 0 then v else v.flashCorrected d.chan.val false
  | .corrected => v.flashCorrected d.chan.val false
  | .retried => v.flashCorrected d.chan.val true
  | .uncorrectable =>
    match v.mapEntry? frame, v.pageOfFrame frame with
    | some e, some p =>
      if e.die = d ∧ e.block = b then
        let t := v.flashUe d.chan.val (locCode d b e.slot) frame
        let t := if p.hbm.isNone ∧ p.copies = [] then t.updHealth fun h => { h with framesLost := h.framesLost + 1 } else t
        t.uncorrectable p.handle true
      else v
    | _, _ => v.flashUe d.chan.val (locCode d b 0) frame

theorem State.patrolRead_held (hx : s.fblock? d b = some x) (h : x.use = .reclaiming ∨ s.tierUp = false ∨ s.patrolHeld d.chan.val = true)
    (o : ReadOutcome) : s.patrolRead d b frame o pct = s := by
  unfold State.patrolRead
  rw [hx]
  exact if_pos (h.imp_right (.imp_left Bool.eq_false_iff.mp))

theorem State.patrolRead_runs (hx : s.fblock? d b = some x) (hu : x.use ≠ .reclaiming) (ht : s.tierUp = true)
    (hb : s.patrolHeld d.chan.val = false) (o : ReadOutcome) :
    s.patrolRead d b frame o pct =
      let t := (s.patrolNoted d b).patrolFound d b frame o pct
      if o = .retried ∨ t.rf .flsPatrol 16 8 < pct then t.refresh d b else t := by
  unfold State.patrolRead
  rw [hx]
  exact if_neg (not_or.mpr ⟨hu, not_or.mpr ⟨not_not_intro ht, Bool.eq_false_iff.mp hb⟩⟩)

theorem State.patrolRead_settles (hx : s.fblock? d b = some x) (hu : x.use ≠ .reclaiming) (ht : s.tierUp = true)
    (hb : s.patrolHeld d.chan.val = false) {o : ReadOutcome} (ho : o ≠ .retried) (hp : pct = 0) :
    s.patrolRead d b frame o pct = (s.patrolNoted d b).patrolFound d b frame o pct := by
  rw [State.patrolRead_runs hx hu ht hb]
  exact if_neg (by simp [ho, hp])

theorem State.flashCorrected_regs (chan : Nat) (retried : Bool) (s : State) : (s.flashCorrected chan retried).regs = s.regs := by
  unfold State.flashCorrected
  dsimp only
  split <;> rfl

theorem State.rf_flashUe (chan loc frame : Nat) (s : State) : (s.flashUe chan loc frame).rf .flsSts 0 1 = 1 :=
  State.rf_raise _ _ _ _ (by decide) (by decide)

theorem State.flashUe_store (chan loc frame : Nat) (s : State) : (s.flashUe chan loc frame).store = s.store := State.raise_store _ _ _ _

/-- An uncorrectable page of the block itself raises UE and is recovered. -/
theorem State.patrolFound_uncorrectable {v : State} {e : MapEntry} {p : Page} (he : v.mapEntry? frame = some e) (hd : e.die = d)
    (hb : e.block = b) (hp : v.pageOfFrame frame = some p) :
    ∃ t : State, t.rf .flsSts 0 1 = 1 ∧ t.store = v.store ∧ v.patrolFound d b frame .uncorrectable pct = t.uncorrectable p.handle true := by
  let u := v.flashUe d.chan.val (locCode d b e.slot) frame
  refine ⟨if p.hbm.isNone ∧ p.copies = [] then u.updHealth fun h => { h with framesLost := h.framesLost + 1 } else u, ?_, ?_, ?_⟩
  · split <;> exact State.rf_flashUe _ _ _ _
  · split <;> exact State.flashUe_store _ _ _ _
  · unfold State.patrolFound
    simp only [he, hp]
    exact if_pos ⟨hd, hb⟩

end

/-! ## Temperature (R232, R251, R252) -/

section
variable {s : State} {n : Nat} {temps : List Int}

/-- A die is at 85 °C or more, or was and one is still above 80 °C. -/
def Chan.critical (temps : List Int) (c : Chan) : Bool := if c.tempCrit then decide (80 < maxInt temps) else decide (85 ≤ maxInt temps)

/-- A die has moved by 10 °C since the channel's last training (R232). -/
def Chan.moved (temps : List Int) (c : Chan) : Bool :=
  (enumFrom 0 temps).any fun t => decide (10 ≤ (t.2 - c.trainedAt.getD t.1 t.2).natAbs)

/-- A channel after a reading, `crit` and `moved` being judged from the channel before it. -/
def Chan.read (temps : List Int) (crit moved : Bool) (c : Chan) : Chan :=
  { c with temp := maxInt temps, tempMax := max c.tempMax (maxInt temps), tempWarn := decide (70 ≤ maxInt temps)
           tempCrit := crit, trainedAt := if moved then temps else c.trainedAt }

/-- The channel and the health log keep a temperature reading. -/
def State.tempNoted (n : Nat) (temps : List Int) (s : State) : State :=
  (s.updChan n (Chan.read temps ((s.chan n).critical temps) ((s.chan n).moved temps))).updHealth fun h => { h with hour := match h.hour with
    | some (a, b) => some (max a (maxInt temps), min b (minInt temps))
    | none => some (maxInt temps, minInt temps) }

/-- A temperature event is counted and raised where it begins. -/
def State.tempEvent (bit' code n : Nat) (temps : List Int) (begins : Prop) [Decidable begins] (s : State) : State :=
  if begins then (s.updHealth fun h => { h with tempEvents := h.tempEvents + 1 }).flsRaise bit' code 1 n (flsDetail (n % 32) (maxInt temps) 0 0)
  else s

theorem State.tempEvent_frame (bit' code n : Nat) (temps : List Int) (begins : Prop) [Decidable begins] (s : State) :
    (s.tempEvent bit' code n temps begins).store = s.store ∧ (s.tempEvent bit' code n temps begins).flash.map = s.flash.map ∧
      (s.tempEvent bit' code n temps begins).chan n = s.chan n := by
  unfold State.tempEvent State.flsRaise
  split
  · simp [State.updHealth, State.chan]
  · exact ⟨rfl, rfl, rfl⟩

theorem State.flashTemp_reads (hc : (s.chan n).state ≠ .off) (ht : temps ≠ []) :
    s.flashTemp n temps = ((s.tempNoted n temps).tempEvent 6 7 n temps
      (decide (70 ≤ maxInt temps) = true ∧ ¬ (s.chan n).tempWarn = true)).tempEvent 7 8 n temps
        ((s.chan n).critical temps = true ∧ ¬ (s.chan n).tempCrit = true) := by
  unfold State.flashTemp
  exact if_neg (not_or.mpr ⟨hc, ht⟩)

/-- A reading changes the channel's temperatures and no page and no map entry. -/
theorem State.flashTemp_frame (hn : n < s.flash.chans.length) (hc : (s.chan n).state ≠ .off) (ht : temps ≠ []) :
    (s.flashTemp n temps).store = s.store ∧ (s.flashTemp n temps).flash.map = s.flash.map ∧
      ((s.flashTemp n temps).chan n).temp = maxInt temps ∧ ((s.flashTemp n temps).chan n).tempWarn = decide (70 ≤ maxInt temps) ∧
      ((s.flashTemp n temps).chan n).tempCrit = (s.chan n).critical temps := by
  have hnoted : (s.tempNoted n temps).chan n = Chan.read temps ((s.chan n).critical temps) ((s.chan n).moved temps) (s.chan n) :=
    State.chan_updChan s hn _
  simp only [State.flashTemp_reads hc ht, State.tempEvent_frame, hnoted]
  exact ⟨rfl, rfl, rfl, rfl, rfl⟩

end

/-! ## The obligation -/

/-- Settles O54: each event by the state of its die, block or channel; what a copy, a patrol read or a wear-levelling move then does, by
the lemma about its own step. -/
theorem flashMediaEventsTakeEffect : Obligations.FlashMediaEventsTakeEffect := by
  unfold Obligations.FlashMediaEventsTakeEffect
  refine ⟨fun s d x hx => ⟨fun v l hv hon hm => ?_, fun h => ?_⟩,
    fun s d frame c hc => ⟨fun h ok => ?_, fun hm hd => ⟨fun ht ok => ?_, fun y v ht => ⟨fun hs ok => ?_, fun hs =>
      ⟨fun e he hed heb => ?_, fun e he h => ?_, fun he => ?_, fun z hz => ?_⟩⟩⟩⟩,
    fun s d b x hx hs => ⟨fun hu hc hn => ⟨?_, ?_⟩, fun h ok => ?_, fun hu => ?_, fun hu => ⟨fun hn => ?_, fun hn =>
      ⟨fun e z he hed heb hz => ?_, fun z he hz => ?_⟩⟩, fun ho => ?_⟩,
    fun s d h => ?_,
    fun s d x v l f m hx hw hm hf hv => ?_,
    fun s d b frame pct x hx => ⟨fun h o => ?_, fun hu ht hb => ⟨fun hp => ?_, fun hr => ?_, ?_, fun e p hp he hed heb hpg => ?_⟩⟩,
    fun s k temps hk hc ht => ?_⟩
  · exact congrArg Host.Outcome.next ((State.reclaimStart_found hx).trans
      ((congrArg (State.takeVictim d · _) hon).trans (State.takeVictim_first hv hm)))
  · exact congrArg Host.Outcome.next ((State.reclaimStart_found hx).trans (State.takeVictim_none h))
  · exact congrArg Host.Outcome.next (State.reclaimCopied_waits hc ok h)
  · exact congrArg Host.Outcome.next (State.reclaimCopied_placeless hc ok hm hd ht)
  · exact congrArg Host.Outcome.next (State.reclaimCopied_suspended hc ok ht hs)
  · exact congrArg Host.Outcome.next ((State.reclaimCopied_ends hc true hm hd ht hs).trans (State.copyEnds_replaces he hed heb))
  · exact congrArg Host.Outcome.next ((State.reclaimCopied_ends hc true hm hd ht hs).trans (State.copyEnds_elsewhere he h))
  · exact congrArg Host.Outcome.next ((State.reclaimCopied_ends hc true hm hd ht hs).trans (State.copyEnds_unmapped he))
  · exact congrArg Host.Outcome.next ((State.reclaimCopied_ends hc false hm hd ht hs).trans (State.copyEnds_fails hz))
  · exact congrArg Host.Outcome.next (State.closeCheck_due hx hs hu hc hn true)
  · exact congrArg Host.Outcome.next (State.closeCheck_due hx hs hu hc hn false)
  · exact congrArg Host.Outcome.next (State.closeCheck_undue hx h ok)
  · exact congrArg Host.Outcome.next (State.programFailure_unopened hx hu)
  · exact congrArg Host.Outcome.next (State.programFailure_target hx hs hu hn)
  · exact congrArg Host.Outcome.next (State.programFailure_moves hx hs hu hn (State.lastRewritten_named he hed heb) hz)
  · exact congrArg Host.Outcome.next (State.programFailure_moves hx hs hu hn (State.lastRewritten_unnamed he) hz)
  · exact congrArg Host.Outcome.next (State.eraseFailure_retires hx ho)
  · exact congrArg Host.Outcome.next (State.wearMove_unfilled (State.wearFull_eq_nil h))
  · have hturn : s.wearMove d = s.wearTurn d x (s.wearSpread d x (f :: m)) (v :: l) (f :: m) := by
      rw [State.wearMove_found hx, hf, show s.wearFull d = v :: l from hv]
    obtain ⟨hmem, hmax⟩ := foldl_greatest x.eraseCount m f
    exact ⟨fun hle => congrArg Host.Outcome.next (hturn.trans (State.wearTurn_even hle)),
      fun hlt => ⟨_, hmem, hmax, congrArg Host.Outcome.next (hturn.trans (State.wearTurn_moves hw hm hlt))⟩⟩
  · exact congrArg Host.Outcome.next (State.patrolRead_held hx h o)
  · refine congrArg Host.Outcome.next ((State.patrolRead_settles hx hu ht hb (by decide) hp).trans ?_)
    exact if_pos hp
  · refine congrArg Host.Outcome.next ((State.patrolRead_runs hx hu ht hb .corrected).trans ?_)
    have hrf : ((s.patrolNoted d b).flashCorrected d.chan.val false).rf .flsPatrol 16 8 = s.rf .flsPatrol 16 8 :=
      (State.rf_congr (State.flashCorrected_regs _ _ _) _ _ _).trans hr
    simp only [State.patrolFound, hrf, reduceCtorEq, false_or]
    rfl
  · exact congrArg Host.Outcome.next ((State.patrolRead_runs hx hu ht hb .retried).trans (if_pos (.inl rfl)))
  · obtain ⟨t, hsts, hstore, hfound⟩ := State.patrolFound_uncorrectable (pct := pct) he hed heb hpg
    exact ⟨t, hsts, hstore, congrArg Host.Outcome.next ((State.patrolRead_settles hx hu ht hb (by decide) hp).trans hfound)⟩
  · exact ⟨_, rfl, State.flashTemp_frame hk hc ht⟩

end Sys2Proof.Machine
end

section
/-! PROOFS. The flash tier's own records, its freewheel sets, its map's return, channel drains and the hourly health log (R233, R241,
R242, R244, R252, R259, R260, R454, R473). -/

namespace Sys2Proof.Machine

/-! ## The delta log, leaves and checkpoints (R241, R242) -/

section
variable {s v : State} {leaf : Nat}

theorem State.deltaFlush_writes (hw : s.tierWrites = true) (hu : s.flash.unwritten ≠ []) :
    let v := (List.range (deltaFrames s.flash.unwritten.length)).foldl (fun (u : State) _ => (u.sysNext .delta).2) s
    s.deltaFlush = { v with flash := { v.flash with
      logged := some (v.flash.unwritten.foldl Persist.apply (v.flash.logged.getD ⟨[], [], [], [], []⟩))
      unwritten := [], unretired := retireLeaves (v.flash.unretired ++ v.flash.unwritten) } } := if_pos ⟨hw, hu⟩

theorem State.deltaFlush_nothing (h : s.tierWrites = false ∨ s.flash.unwritten = []) : s.deltaFlush = s :=
  if_neg fun hdue => h.elim (Bool.eq_false_iff.mp · hdue.1) hdue.2

/-- A record that is not retired changes a leaf. -/
def State.leafDirty (s : State) (leaf : Nat) : Bool := (s.flash.unretired ++ s.flash.unwritten).any fun x => x.leaf == some leaf

theorem State.leafWritten_placed {l : DieId × Nat × Nat} (hw : s.tierWrites = true) (hd : s.leafDirty leaf = true)
    (hn : s.sysNext .leaves = (some l, v)) :
    s.leafWritten leaf = ({ v with flash := { v.flash with dir := assocSet leaf l v.flash.dir } } : State).delta [.leaf leaf] := by
  refine (if_pos ⟨hw, hd⟩).trans ?_
  rw [hn]

theorem State.leafWritten_placeless (hw : s.tierWrites = true) (hd : s.leafDirty leaf = true) (hn : s.sysNext .leaves = (none, v)) :
    s.leafWritten leaf = v := by
  refine (if_pos ⟨hw, hd⟩).trans ?_
  rw [hn]

theorem State.leafWritten_nothing (h : s.tierWrites = false ∨ s.leafDirty leaf = false) : s.leafWritten leaf = s :=
  if_neg fun hdue => h.elim (Bool.eq_false_iff.mp · hdue.1) (Bool.eq_false_iff.mp · hdue.2)

theorem State.dirCheckpoint_writes (hw : s.tierWrites = true) (hd : checkpointEvery ≤ s.flash.deltaTotal) :
    let v := (s.sysNext .leaves).2
    let kept := (retireLeaves (v.flash.unretired ++ v.flash.unwritten.filter fun x => x.leaf.isNone)).filter fun x => x.leaf.isSome
    s.dirCheckpoint = ({ v with flash := { v.flash with
      checkpoint := some v.flash.wseq, deltaTotal := 0, unretired := kept } } : State).writeAnchors := if_pos ⟨hw, hd⟩

theorem State.dirCheckpoint_nothing (h : s.tierWrites = false ∨ s.flash.deltaTotal < checkpointEvery) : s.dirCheckpoint = s :=
  if_neg fun hdue => h.elim (Bool.eq_false_iff.mp · hdue.1) (Nat.not_lt.mpr hdue.2)

end

/-! ## Freewheel sets (R243, R244, R473) -/

section
variable {s : State} {x y : Flush}

/-- The anchors name a flush as consumed, and its set is erased on every die. -/
def State.consumed (f : Flush) (s : State) : State :=
  let v := ({ s with flash := { s.flash with consumed := max s.flash.consumed f.wseq } } : State).writeAnchors
  (v.flash.dies.map (·.die)).foldl (fun (u : State) d => u.count 4 nodeScope (8 * d.chan.val + 2)) v

theorem State.flushConsumed_setA (hw : s.tierWrites = true) (hx : s.flash.setA = .holds x)
    (hlt : ∀ y, s.flash.setB = .holds y → x.wseq < y.wseq) :
    s.flushConsumed =
      if s.flushSafe x = true then { s.consumed x with flash := { (s.consumed x).flash with setA := .armed } } else s := by
  unfold State.flushConsumed
  rw [hx]
  cases hy : s.flash.setB with
  | armed => simp only [SetState.flush?, hw, Bool.true_and]; rfl
  | holds y => simp only [SetState.flush?, hw, Bool.true_and, hlt y hy, if_true]; rfl

theorem State.flushConsumed_setB (hw : s.tierWrites = true) (hy : s.flash.setB = .holds y)
    (hle : ∀ x, s.flash.setA = .holds x → y.wseq ≤ x.wseq) :
    s.flushConsumed =
      if s.flushSafe y = true then { s.consumed y with flash := { (s.consumed y).flash with setB := .armed } } else s := by
  unfold State.flushConsumed
  rw [hy]
  cases hx : s.flash.setA with
  | armed => simp only [SetState.flush?, hw, Bool.true_and]; rfl
  | holds x => simp only [SetState.flush?, hw, Bool.true_and, Nat.not_lt.mpr (hle x hx), if_false]; rfl

theorem State.flushConsumed_armed (ha : s.flash.setA = .armed) (hb : s.flash.setB = .armed) : s.flushConsumed = s := by
  unfold State.flushConsumed
  rw [ha, hb]
  rfl

theorem State.flushConsumed_unwritten (hw : s.tierWrites = false) : s.flushConsumed = s := by
  unfold State.flushConsumed
  simp only [hw, Bool.false_and, Bool.false_eq_true, if_false]
  cases s.flash.setA <;> cases s.flash.setB <;> simp [SetState.flush?]

end

/-! ## Commits that waited, the rebuilt map and channel drains (R233, R241, R242, R259, R260) -/

section
variable {s v : State} {n : Nat}

theorem State.resumeStalled_full (h : s.deltaFull = true) : s.resumeStalled = s := if_pos h

theorem State.resumeStalled_room (h : s.deltaFull = false) :
    s.resumeStalled = s.flash.stalled.foldl (fun u n => u.sealRead n true) { s with flash := { s.flash with stalled := [] } } :=
  if_neg (Bool.eq_false_iff.mp h)

theorem State.mapRebuilt_serves (h : s.flash.state = .rebuild) :
    s.mapRebuilt = ((s.loadMap (s.taggedMap.filter fun e => (s.pageOfFrame e.frame).isSome || s.indexFrames.contains e.frame)).tierServes).raise
      .flsSts 8 ⟨3, 9, 1, 0xFF, 0, []⟩ := if_neg (not_not_intro h)

theorem State.mapRebuilt_elsewhere (h : s.flash.state ≠ .rebuild) : s.mapRebuilt = s := if_pos h

/-- The valid frames of a channel, with their places. -/
def State.validOn (s : State) (n : Nat) : List (DieId × Nat × Nat) :=
  (s.flash.blocks.filter fun b => b.die.chan.val == n).flatMap fun b => (b.frames.filter (·.valid)).map fun x => (b.die, b.num, x.num)

/-- A channel whose frames have moved is fenced, and its copies are in flight no more. -/
def State.chanFenced (n : Nat) (v : State) : State :=
  let w := v.updChan n fun c => { c with state := .fenced }
  { w with flash := { w.flash with copying := w.flash.copying.filter fun c => c.1.chan.val != n } }

/-- The next drain that waits begins. -/
def State.nextChanDrain (x : State) : State :=
  match x.flash.chanDrains with
  | m :: l => ({ x with flash := { x.flash with chanDrains := l } } : State).chanDrain m
  | [] => x

theorem State.nextChanDrain_none {x : State} (h : x.flash.chanDrains = []) : x.nextChanDrain = x := by
  unfold State.nextChanDrain
  rw [h]

theorem State.nextChanDrain_some {x : State} {m : Nat} {l : List Nat} (h : x.flash.chanDrains = m :: l) :
    x.nextChanDrain = ({ x with flash := { x.flash with chanDrains := l } } : State).chanDrain m := by
  unfold State.nextChanDrain
  rw [h]

/-- A drain goes on while its frames find no place; else the channel is fenced. -/
def State.drainEnds (n : Nat) (s : State) : Option State → State
  | none => s
  | some v => (v.chanFenced n).nextChanDrain.leaveCheck

theorem State.chanDrained_elsewhere (h : (s.chan n).state ≠ .draining) : s.chanDrained n = s := if_pos h

section
variable (h : (s.chan n).state = .draining)
include h

theorem State.chanDrained_draining : s.chanDrained n = s.drainEnds n (s.moveValid (s.validOn n)) := if_neg (not_not_intro h)

theorem State.chanDrained_stuck (hm : s.moveValid (s.validOn n) = none) : s.chanDrained n = s := by
  rw [State.chanDrained_draining h, hm, State.drainEnds]

theorem State.chanDrained_moved (hm : s.moveValid (s.validOn n) = some v) : s.chanDrained n = (v.chanFenced n).nextChanDrain.leaveCheck := by
  rw [State.chanDrained_draining h, hm, State.drainEnds]

end

/-! ## The hourly health log (R252) -/

theorem State.healthHour_off (h : s.pow.state = .off) : s.healthHour = s := if_pos h

theorem State.healthHour_on (hs : s.pow.state ≠ .off) :
    let h := s.flash.health
    let temps := (s.flash.chans.filter fun c => c.state != .off).map (·.temp)
    let e := ((s.pow.hours + 1) % 65536, h.hour.getD (maxInt temps, minInt temps))
    let hist := if h.histNext < h.history.length then updAt h.histNext (fun _ => e) h.history else h.history ++ [e]
    let logged : Health :=
      { h with history := hist, histNext := (h.histNext + 1) % 256, hour := none, writes := h.writes + if s.tierWrites then 1 else 0 }
    let t : State := { s with pow := { s.pow with hours := s.pow.hours + 1 }, flash := { s.flash with health := logged } }
    s.healthHour = if s.tierWrites then (t.sysNext .health).2 else t := if_neg hs

end

/-! ## The obligation -/

/-- Settles O55: each event by whether the tier writes its records and by what is due. -/
theorem flashTierEventsTakeEffect : Obligations.FlashTierEventsTakeEffect := by
  unfold Obligations.FlashTierEventsTakeEffect
  refine ⟨fun s hw => ⟨fun hu => ?_, fun hu => ?_, fun leaf hd => ⟨fun l v hn => ?_, fun v hn => ?_⟩, fun leaf hd => ?_, fun hd => ?_,
      fun hd => ?_, fun x hx hlt => ?_, fun y hy hle => ?_, fun ha hb => ?_⟩,
    fun s hw => ⟨?_, ?_, ?_, fun leaf => ?_⟩,
    fun s => ⟨fun h => ?_, fun h => ?_⟩,
    fun s => ⟨fun h => ?_, fun h => ?_⟩,
    fun s k => ⟨fun h => ?_, fun h hm => ?_, fun v h hm => ⟨fun hl => ?_, fun m l hl => ?_⟩⟩,
    fun s h => ?_, fun s h => ?_⟩
  · exact congrArg Host.Outcome.next (State.deltaFlush_writes hw hu)
  · exact congrArg Host.Outcome.next (State.deltaFlush_nothing (.inr hu))
  · exact congrArg Host.Outcome.next (State.leafWritten_placed hw hd hn)
  · exact congrArg Host.Outcome.next (State.leafWritten_placeless hw hd hn)
  · exact congrArg Host.Outcome.next (State.leafWritten_nothing (.inr hd))
  · exact congrArg Host.Outcome.next (State.dirCheckpoint_writes hw hd)
  · exact congrArg Host.Outcome.next (State.dirCheckpoint_nothing (.inr hd))
  · exact congrArg Host.Outcome.next (State.flushConsumed_setA hw hx hlt)
  · exact congrArg Host.Outcome.next (State.flushConsumed_setB hw hy hle)
  · exact congrArg Host.Outcome.next (State.flushConsumed_armed ha hb)
  · exact congrArg Host.Outcome.next (State.deltaFlush_nothing (.inl hw))
  · exact congrArg Host.Outcome.next (State.dirCheckpoint_nothing (.inl hw))
  · exact congrArg Host.Outcome.next (State.flushConsumed_unwritten hw)
  · exact congrArg Host.Outcome.next (State.leafWritten_nothing (.inl hw))
  · exact congrArg Host.Outcome.next (State.resumeStalled_full h)
  · exact congrArg Host.Outcome.next (State.resumeStalled_room h)
  · exact congrArg (fun t : State => Host.Outcome.next t.continueConfig.resume) (State.mapRebuilt_serves h)
  · exact congrArg (fun t : State => Host.Outcome.next t.continueConfig.resume) (State.mapRebuilt_elsewhere h)
  · exact congrArg Host.Outcome.next (State.chanDrained_elsewhere h)
  · exact congrArg Host.Outcome.next (State.chanDrained_stuck h hm)
  · exact congrArg Host.Outcome.next ((State.chanDrained_moved h hm).trans (congrArg State.leaveCheck (State.nextChanDrain_none hl)))
  · exact congrArg Host.Outcome.next ((State.chanDrained_moved h hm).trans (congrArg State.leaveCheck (State.nextChanDrain_some hl)))
  · exact congrArg Host.Outcome.next (State.healthHour_off h)
  · exact congrArg Host.Outcome.next (State.healthHour_on h)

end Sys2Proof.Machine
end

section
/-! SUPPORT. A command from its arrival to its meaning, or to the first of steps 1 to 4 that fails (10_ndox_protocol.md R262, R268, R274). -/

namespace Sys2Proof.Machine

/-- Each opcode's command arrives under its own definition, and what follows an arrival follows. -/
theorem exec_command (op : Op) (p : Packet) (s : State) : exec (op.command p) s = .next (op.after (s.arrive op (opDef op) p)) := by
  cases op <;> rfl

/-- What follows an arrival begins with the appends that can answer. -/
theorem Op.after_congr {op : Op} {s t : State} (h : s.progress = t.progress) : op.after s = op.after t := by
  unfold Op.after
  rw [h]

/-- Settles O8, by the one path of all opcodes through R274. -/
theorem admittedCommandRunsItsMeaning : Obligations.AdmittedCommandRunsItsMeaning := by
  unfold Obligations.AdmittedCommandRunsItsMeaning
  intro op p s u c h
  rw [exec_command, Op.after_congr (State.arriveAll_of_admission h)]

theorem exec_of_taken {op : Op} {p : Packet} {s u : State} (h : taken op p s = some u) :
    exec (op.command p) s = .next (op.after (u.takeIn op (opDef op) p)) := by
  rw [exec_command, State.arrive_of_taken h]

/-! ## Steps 1 to 4 for a host's command (R268, R274) -/

section
variable {op : Op} {d : OpDef} {p : Packet} {u : State} {x n : Nat} (hs : p.src = .host x n)
include hs

theorem State.takeIn_fenced {q : Ptn} (hq : u.ptn? (u.srcPtn p.src) = some q) (hf : q.fenced = true ∨ q.resetting = true) :
    u.takeIn op d p = u.refuse op p (u.srcPtn p.src) .partitionFenced none 0 := by
  unfold State.takeIn
  simp [hs, hs ▸ hq, hf]

theorem State.takeIn_foreign (hq : u.ptn? (u.srcPtn p.src) = none) : u.takeIn op d p = u.refuse op p (u.srcPtn p.src) .denied none 0 := by
  unfold State.takeIn
  simp [hs, hs ▸ hq]

theorem ptnTakes_host (ht : ptnTakes p u = true) : ∃ q, u.ptn? (u.srcPtn (.host x n)) = some q ∧ (q.fenced || q.resetting) = false := by
  unfold ptnTakes at ht
  rw [hs] at ht
  dsimp only at ht
  cases hq : u.ptn? (u.srcPtn (.host x n)) with
  | none => simp [hq] at ht
  | some q => exact ⟨q, rfl, by simpa [hq] using ht⟩

section
variable (ht : ptnTakes p u = true)
include ht

theorem State.takeIn_badHeader (hh : u.headerOk p = false) : u.takeIn op d p = u.refuse op p (u.srcPtn p.src) .badParam none 0 := by
  obtain ⟨q, hq, hf⟩ := ptnTakes_host hs ht
  unfold State.takeIn
  simp [hs, hq, hf, hh]

variable (hh : u.headerOk p = true)
include hh

/-- A sealed payload whose tag fails raises SEAL_FAIL (R268). -/
theorem State.takeIn_tagFailed {st : Status} (ho : u.openPayload op p (u.srcPriv p.src) = .error (st, true)) :
    u.takeIn op d p =
      (((u.count 7 nodeScope (4 * x + 1)).raise (.ptnSts (u.srcPtn p.src)) 2 (Rec.event (u.srcPtn p.src))).raise .secSts 9
        ⟨9, 1, 0, u.srcPtn p.src, 0, leBytes 2 x ++ zeroBytes 6 ++ leBytes 8 p.reqId.toNat⟩).refuse op p (u.srcPtn p.src) st none 0 := by
  obtain ⟨q, hq, hf⟩ := ptnTakes_host hs ht
  rw [hs] at ho
  unfold State.takeIn
  simp [hs, hq, hf, hh, ho]

theorem State.takeIn_unopened {st : Status} (ho : u.openPayload op p (u.srcPriv p.src) = .error (st, false)) :
    u.takeIn op d p = u.refuse op p (u.srcPtn p.src) st none 0 := by
  obtain ⟨q, hq, hf⟩ := ptnTakes_host hs ht
  rw [hs] at ho
  unfold State.takeIn
  simp [hs, hq, hf, hh, ho]

theorem State.takeIn_ungranted {data : List Byte} (ho : u.openPayload op p (u.srcPriv p.src) = .ok data)
    (hg : op.granted p.src (u.srcPriv p.src) = false) : u.takeIn op d p = u.refuse op p (u.srcPtn p.src) .denied none 0 := by
  obtain ⟨q, hq, hf⟩ := ptnTakes_host hs ht
  rw [hs] at ho hg
  unfold State.takeIn
  simp [hs, hq, hf, hh, ho, hg]

end

end

/-- Settles O9, step by step. -/
theorem firstFailedStepGivesTheStatus : Obligations.FirstFailedStepGivesTheStatus := by
  unfold Obligations.FirstFailedStepGivesTheStatus
  intro op p s u x n hs h
  rw [exec_of_taken h]
  refine ⟨fun q hq hf => ?_, fun hq => ?_, fun ht hh => ?_, fun st ht hh ho => ?_, fun st ht hh ho => ?_, fun data ht hh ho hg => ?_⟩
  · rw [State.takeIn_fenced hs hq hf]
  · rw [State.takeIn_foreign hs hq]
  · rw [State.takeIn_badHeader hs ht hh]
  · rw [State.takeIn_unopened hs ht hh ho]
  · rw [State.takeIn_tagFailed hs ht hh ho]
  · rw [State.takeIn_ungranted hs ht hh ho hg]

end Sys2Proof.Machine
end

section
/-! SUPPORT. RDMA operations on context windows (12_host_ports.md R338 to R340). -/

namespace Sys2Proof.Machine

section
variable {s : State} {qpn : Nat} {a : RdmaAddr} {q : Queue} {c : Ctx} {off : Nat} (hr : s.receives qpn = some q)
include hr

theorem State.rdmaWrite_inside {data : List Byte} (hw : s.windowAt q a data.length = some (c, off)) :
    s.rdmaWrite qpn a data =
      (s.windowSet q c off data.length (Mem.writeList c.window off data)).emit (.writeAck qpn) := by
  have hw' : (s.countFrame q).windowAt q a data.length = some (c, off) := hw
  unfold State.rdmaWrite
  simp only [hr, hw']
  rfl

theorem State.rdmaRead_inside {len : Nat} (hw : s.windowAt q a len = some (c, off)) :
    s.rdmaRead qpn a len =
      ((s.countFrame q).post qpn .response len false).emit (.readResponse qpn (Mem.readList c.window off len)) := by
  have hw' : (s.countFrame q).windowAt q a len = some (c, off) := hw
  unfold State.rdmaRead
  simp only [hr, hw']

theorem State.atomic_inside (f : Nat → Nat) (ha : a.addr.toNat % 8 = 0) (hw : s.windowAt q a 8 = some (c, off)) :
    let old := leNat (Mem.readList c.window off 8)
    s.atomic qpn a f =
      (((s.windowSet q c off 8 (Mem.writeList c.window off (leBytes 8 (f old)))).post qpn .response 8 false).emit
        (.atomicResponse qpn (BitVec.ofNat 64 old))) := by
  have hw' : (s.countFrame q).windowAt q a 8 = some (c, off) := hw
  unfold State.atomic
  simp only [hr, ha, ne_eq, not_true_eq_false, if_false, hw']
  rfl

end

/-- Settles O15, operation by operation. -/
theorem windowOperationsTakeEffect : Obligations.WindowOperationsTakeEffect := by
  unfold Obligations.WindowOperationsTakeEffect
  intro s qpn a q c off hr
  refine ⟨fun data hw => ?_, fun len hw => ?_, fun add ha hw => ?_, fun cmp swap ha hw => ?_⟩
  · exact congrArg (Host.Outcome.next ∘ State.resume) (State.rdmaWrite_inside hr hw)
  · exact congrArg Host.Outcome.next (State.rdmaRead_inside hr hw)
  · exact congrArg (Host.Outcome.next ∘ State.resume) (State.atomic_inside hr _ ha hw)
  · exact congrArg (Host.Outcome.next ∘ State.resume) (State.atomic_inside hr _ ha hw)

end Sys2Proof.Machine
end

section
/-! SUPPORT. Errors, acknowledgements and retries of a queue pair (12_host_ports.md R336, R337, R343, R351). -/

namespace Sys2Proof.Machine

/-! ## Messages that draw an error -/

section
variable {s : State} {qpn : Nat} {q : Queue} (hr : s.receives qpn = some q)
include hr

theorem State.sendLength_outside {len : Nat} (hl : len < 32 ∨ 65536 < len) : s.sendLength qpn len = (s.countFrame q).queueError qpn := by
  unfold State.sendLength
  simp only [hr, hl, if_true]

theorem State.sendUnbuffered_received : s.sendUnbuffered qpn = (s.countFrame q).emit (.rnrNak qpn) := by
  unfold State.sendUnbuffered
  simp only [hr]

theorem State.writeImm_received : s.writeImm qpn = (s.countFrame q).emit (.invalidNak qpn) := by
  unfold State.writeImm
  simp only [hr]

end

/-! ## Timeouts and NAKs of the host -/

section
variable {s : State} {qpn : Nat} {q : Queue} (hq : s.queue? qpn = some q) (he : q.err = false) (hp : q.posted ≠ [])
include hq he hp

theorem State.ackTimedOut_spent (h : s.rf .hptRc 5 3 ≤ q.retries) : s.ackTimedOut qpn = s.queueError qpn := by
  unfold State.ackTimedOut
  simp only [hq, he, hp, Bool.false_eq_true, or_self, if_false, h, if_true]

theorem State.ackTimedOut_retries (h : q.retries < s.rf .hptRc 5 3) :
    let r : Rat := if ccOn s then max (s.rmin : Rat) (q.rate / 2) else q.rate
    s.ackTimedOut qpn = (s.updQueue qpn fun x => { x with retries := x.retries + 1, rate := r }).goBack qpn := by
  unfold State.ackTimedOut
  simp only [hq, he, hp, Bool.false_eq_true, or_self, if_false, Nat.not_le.mpr h]

theorem State.gotRnr_spent (h7 : s.rf .hptRc 8 3 ≠ 7) (h : s.rf .hptRc 8 3 ≤ q.rnrRetries) : s.gotRnr qpn = s.queueError qpn := by
  unfold State.gotRnr
  simp only [hq, he, hp, Bool.false_eq_true, or_self, if_false, h7, h, ne_eq, not_false_eq_true, and_self, if_true]

theorem State.gotRnr_retries (h : s.rf .hptRc 8 3 = 7 ∨ q.rnrRetries < s.rf .hptRc 8 3) :
    s.gotRnr qpn = (s.updQueue qpn fun x => { x with rnrRetries := x.rnrRetries + 1 }).goBack qpn := by
  have hl : ¬ (s.rf .hptRc 8 3 ≠ 7 ∧ s.rf .hptRc 8 3 ≤ q.rnrRetries) := by omega
  unfold State.gotRnr
  simp only [hq, he, hp, Bool.false_eq_true, or_self, if_false, hl]

end

/-! ## Commands beyond the queue's depth -/

theorem exec_command_full {op : Op} {p : Packet} {s : State} {x n : Nat} {q : Queue} (hs : p.src = .host x n)
    (hq : s.ctxQueue? x n = some q) (he : q.err = false) (hp : (s.port q.port).state = 2) (hd : q.qdepth ≤ q.backlog.length) :
    exec (op.command p) s = .next (op.after (s.emit (.rnrNak q.qpn))) := by
  rw [exec_command, State.arrive, hs]
  exact congrArg (Host.Outcome.next ∘ op.after) (State.arriveHost_full op _ p x n s q hq he hp hd)

/-- Settles O18, event by event. -/
theorem transportErrorsTakeEffect : Obligations.TransportErrorsTakeEffect := by
  unfold Obligations.TransportErrorsTakeEffect
  refine ⟨fun s qpn len q hr hl => ?_, fun s qpn q hr => ⟨?_, ?_⟩, fun s qpn n => rfl,
    fun s qpn q hq he hp => ⟨fun h => ?_, fun h => ?_, fun h7 h => ?_, fun h => ?_⟩, fun op p s x n q hs hq he hp hd => ?_⟩
  · exact congrArg Host.Outcome.next (State.sendLength_outside hr hl)
  · exact congrArg Host.Outcome.next (State.sendUnbuffered_received hr)
  · exact congrArg Host.Outcome.next (State.writeImm_received hr)
  · exact congrArg Host.Outcome.next (State.ackTimedOut_spent hq he hp h)
  · exact congrArg Host.Outcome.next (State.ackTimedOut_retries hq he hp h)
  · exact congrArg Host.Outcome.next (State.gotRnr_spent hq he hp h7 h)
  · exact congrArg Host.Outcome.next (State.gotRnr_retries hq he hp h)
  · exact exec_command_full hs hq he hp hd

end Sys2Proof.Machine
end

section
/-! SUPPORT. Acknowledgement, rate control, egress and the wire of a host port (12_host_ports.md R343 to R355). -/

namespace Sys2Proof.Machine

/-! ## Acknowledgement and rate control of a queue pair -/

section
variable {s : State} {qpn : Nat} {q : Queue}

/-- A queue pair from which the first `k` messages are released, with the delay sample `d` (R351). -/
def Queue.released (k d : Nat) (x : Queue) : Queue :=
  { x with posted := x.posted.drop k, retries := 0, rnrRetries := 0, srtt := some (smooth x.srtt d)
           minDelay := some (match x.minDelay with | some m => min m d | none => d) }

theorem State.acked_released (k d : Nat) (hq : s.queue? qpn = some q) (he : q.err = false) :
    s.acked qpn k d = ((q.posted.take k).foldl (fun s p => s.afterAck qpn p) (s.updQueue qpn (Queue.released k d))).flush qpn := by
  unfold State.acked
  simp only [hq, he, Bool.false_eq_true, if_false]
  rfl

section
variable (hr : s.receives qpn = some q)
include hr

theorem State.gotCnp_received :
    s.gotCnp qpn = (s.updQueue qpn fun x => { x with cnpSeen := true }).count 5 nodeScope (hostTel q.port 10) := by
  unfold State.gotCnp
  simp only [hr]

/-- A CE mark draws a notification where none was sent in the last 50 µs (R352). -/
theorem State.gotCe_due (hc : s.rf .hptCc2 17 1 = 1) (ht : ∀ t, q.cnpAt = some t → t + 50000 ≤ s.pow.tsc.toNat) :
    s.gotCe qpn = (((s.countFrame q).updQueue qpn fun x => { x with cnpAt := some s.pow.tsc.toNat }).count 5 nodeScope
      (hostTel q.port 9)).emit (.cnp qpn) := by
  have hc' : (s.countFrame q).rf .hptCc2 17 1 = 1 := hc
  unfold State.gotCe
  cases hn : q.cnpAt with
  | none =>
    simp only [hr, hc', hn, and_self, if_true]
    rfl
  | some t =>
    have hd : t + 50000 ≤ (s.countFrame q).pow.tsc.toNat := ht t hn
    simp only [hr, hc', hn, hd, decide_true, and_self, if_true]
    rfl

theorem State.gotCe_undue (h : s.rf .hptCc2 17 1 = 0 ∨ ∃ t, q.cnpAt = some t ∧ s.pow.tsc.toNat < t + 50000) :
    s.gotCe qpn = s.countFrame q := by
  unfold State.gotCe
  simp only [hr]
  rcases h with hc | ⟨t, hn, ht⟩
  · have hc' : (s.countFrame q).rf .hptCc2 17 1 = 0 := hc
    simp only [hc', Nat.zero_ne_one, false_and, if_false]
  · have hd : ¬ t + 50000 ≤ (s.countFrame q).pow.tsc.toNat := Nat.not_le.mpr ht
    simp only [hn, hd, decide_false, Bool.false_eq_true, and_false, if_false]

end

theorem State.ccPeriod_held (hq : s.queue? qpn = some q) :
    s.ccPeriod qpn = s.updQueue qpn fun x => { x with rate := s.newRate q, minDelay := none, cnpSeen := false } := by
  unfold State.ccPeriod
  simp only [hq]

theorem State.idleReset_held (hq : s.queue? qpn = some q) :
    s.idleReset qpn = s.updQueue qpn fun x => { x with rate := s.lineRate q.port } := by
  unfold State.idleReset
  simp only [hq]

end

/-! ## Frames, gates, pauses and links of a port -/

section
variable {s : State} {n : Nat}

theorem State.accrue_pow (n : Nat) (s : State) : (s.accrue n).pow = s.pow := by
  unfold State.accrue
  dsimp only
  split <;> rfl

theorem State.portState_updPort {f : Port → Port} (hf : ∀ p, (f p).state = p.state) (n m : Nat) (s : State) :
    ((s.updPort n f).port m).state = (s.port m).state := by
  unfold State.port State.updPort updAt
  rw [List.getD_eq_getElem?_getD, List.getD_eq_getElem?_getD, List.getElem?_modify]
  cases s.host.ports[m]? with
  | none => rfl
  | some p =>
    dsimp only [Option.map_eq_map, Option.map_some, Option.getD_some]
    split
    · exact hf p
    · rfl

theorem State.accrue_portState (n m : Nat) (s : State) : ((s.accrue n).port m).state = (s.port m).state := by
  unfold State.accrue
  dsimp only
  split
  · rfl
  · refine State.portState_updPort ?_ n m s
    exact fun _ => rfl

theorem State.departFrame_starts {q : Queue} {c : Nat} {d : List Nat} (hp : (s.port n).state = 2) (hs : s.pow.state = .ride)
    (hf : (s.accrue n).chooseFrame n = some (q, c, d)) :
    let v := s.accrue n
    let len := q.egress.headD 0
    let rate : Rat := if ccOn v then q.rate else v.lineRate n
    let v' := v.updQueue q.qpn fun x => { x with egress := x.egress.drop 1, wheel := v.wheelAt ((v.pow.tsc.toNat : Rat) + (len * 80 : Nat) / rate) }
    s.departFrame n = (((v'.updPort n fun p =>
      { p with deficits := d, lastClass := if c < 6 then c else p.lastClass, lastQp := updAt c (fun _ => q.qpn) p.lastQp
               tokens := if v'.shpRate n c = 0 then p.tokens else updAt c (· - len * 80) p.tokens }).count 5 nodeScope (hostTel n 0)).count 5
        nodeScope (hostTel n 2) len).emit (.frame n q.qpn len) := by
  have hstart : ¬ (((s.accrue n).port n).state ≠ 2 ∨ (s.accrue n).pow.state ≠ .ride) := by
    rw [State.accrue_portState, State.accrue_pow]
    simp [hp, hs]
  unfold State.departFrame
  simp only [hstart, if_false, hf]

theorem State.hostGateNext_running (hg : (s.port n).gateRunning = true) :
    s.hostGateNext n = s.updPort n fun p => { p with gateEntry := (p.gateEntry + 1) % s.hostEnt n, gateAt := s.pow.tsc.toNat } :=
  if_neg (not_not_intro hg)

theorem State.gotPfc_selected {k : Nat} (quanta : Nat) (hb : bit (s.rf (.hptPortCtl n) 8 8) k = true) (hp : (s.port n).state = 2) :
    s.gotPfc n k quanta =
      (s.updPort n fun x => { x with paused := if quanta = 0 then delAll k x.paused else addNew k x.paused }).count 5 nodeScope (hostTel n 8) :=
  if_neg (by simp [hb, hp])

theorem State.hostLink_changes {up : Bool} (h0 : (s.port n).state ≠ 0) (hu : (s.port n).state ≠ if up then 2 else 3) :
    s.hostLink n up = (s.updPort n fun x => { x with state := if up then 2 else 3 }).raise (.hptPortSts n) 0
      ⟨4, 7, if up then 0 else 1, 0xFF, 64 + n, []⟩ :=
  if_neg (not_or.mpr ⟨h0, hu⟩)

end

/-- Settles O19, event by event. -/
theorem hostPortEventsTakeEffect : Obligations.HostPortEventsTakeEffect := by
  unfold Obligations.HostPortEventsTakeEffect
  refine ⟨fun s qpn k d q hq he => ?_, fun s qpn q hr => ⟨?_, fun hc ht => ?_, fun h => ?_⟩, fun s qpn q hq => ⟨?_, ?_⟩,
    fun s n q c d hp hs hf => ?_, fun s n hg => ?_, fun s n k quanta hb hp => ?_, fun s n k => rfl, fun s n up h0 hu => ?_⟩
  · exact congrArg (Host.Outcome.next ∘ State.resume) (State.acked_released k d hq he)
  · exact congrArg Host.Outcome.next (State.gotCnp_received hr)
  · exact congrArg Host.Outcome.next (State.gotCe_due hr hc ht)
  · exact congrArg Host.Outcome.next (State.gotCe_undue hr h)
  · exact congrArg Host.Outcome.next (State.ccPeriod_held hq)
  · exact congrArg Host.Outcome.next (State.idleReset_held hq)
  · exact congrArg Host.Outcome.next (State.departFrame_starts hp hs hf)
  · exact congrArg Host.Outcome.next (State.hostGateNext_running hg)
  · exact congrArg Host.Outcome.next (State.gotPfc_selected quanta hb hp)
  · exact congrArg (fun t : State => Host.Outcome.next t.continueConfig) (State.hostLink_changes h0 hu)

end Sys2Proof.Machine
end

section
/-! SUPPORT. What a passed admission says of its command (10_ndox_protocol.md R274). -/

namespace Sys2Proof.Machine

/-- The command of a passed admission has its opcode and passed step 7 in the state in which it was then counted. -/
theorem op_seven_of_admission {op : Op} {p : Packet} {s u : State} {c : Cmd} (h : admission op p s = some (c, u)) :
    c.op = op ∧ ∃ v, u = counted c v ∧ (opDef op).seven c v = none := by
  unfold admission at h
  cases ht : taken op p s with
  | none => simp [ht] at h
  | some v =>
    simp only [ht, Option.ite_none_left_eq_some] at h
    obtain ⟨-, h⟩ := h
    cases ho : v.openPayload op p (v.srcPriv p.src) with
    | error e => simp [ho] at h
    | ok data =>
      simp only [ho, Option.ite_none_left_eq_some, not_or, Option.some.injEq, Prod.mk.injEq] at h
      obtain ⟨-, ⟨-, -, h7, -⟩, rfl, rfl⟩ := h
      exact ⟨rfl, v, rfl, by simpa using h7⟩

/-- Counting a command leaves the trust core. -/
theorem counted_trust (c : Cmd) (u : State) : (counted c u).trust = u.trust := by
  unfold counted
  dsimp only
  split
  · exact (State.count_trust ..).trans (State.countPtn_trust ..)
  · exact State.countPtn_trust ..

section
variable {op : Op} {p : Packet} {s u : State} {c : Cmd} (h : admission op p s = some (c, u))
include h

/-- A command refused with a hint or a time to wait, and what waited goes on. -/
theorem State.refusedWith_of_admission {st : Status} {hint : Option NodeId} {retry : Nat}
    (hr : (opDef op).run c u = .refuse st hint retry) :
    (s.arriveAll op (opDef op) p).resume = (u.refuse op c.pkt c.ptn st hint retry).progress.resume := by
  rw [State.resume_of_admission h hr, State.settle_refuse, (op_seven_of_admission h).1]

end

end Sys2Proof.Machine
end

section
/-! PROOFS. Context, queue and window commands, each by what its definition answers at step 9, and the end of a revocation (R297 to R299,
R321, R338, R341). -/

namespace Sys2Proof.Machine

section
variable {u v : State} {c : Cmd} {q : Queue} {x : Ctx}

/-! ## Contexts (R298) -/

/-- The context that a CTX_CREATE makes on a die once its key has been issued. -/
def Cmd.newCtx (c : Cmd) (d : Die) (v : State) : Ctx :=
  let w := (v.issueKey (field c.data 0 2)).2
  { num := field c.data 0 2, ptn := field c.data 2 1, tclass := field c.data 3 1, winLog2 := field c.data 4 1
    base := BitVec.ofNat 64 (Config.windowBase w.freeCtr * 2 ^ field c.data 4 1), rkeySerial := (v.issueKey (field c.data 0 2)).1
    window := [], keys := List.replicate 4 none, winKey := w.trust.nextKey, winDie := d, revoking := none }

/-- The queue that a CTX_CREATE makes with its context. -/
def Cmd.newCtxQueue (c : Cmd) (v : State) : Queue :=
  (v.issueKey (field c.data 0 2)).2.newQueue (ctxQueueBody c.data) (field c.data 0 2) (field c.data 2 1)

/-- The new context and its queue are there, the context's counters cleared and its window key taken. -/
def State.withNewCtx (c : Cmd) (d : Die) (v : State) : State :=
  let w := (v.issueKey (field c.data 0 2)).2
  (({ w with host := { w.host with ctxs := w.host.ctxs ++ [c.newCtx d v] }
             trust := { w.trust with nextKey := w.trust.nextKey + 1 } } : State).clearCtxCounters (field c.data 0 2)).addQueue (c.newCtxQueue v)

theorem ctxCreateRun_room {d : Die} (hd : u.windowDie = some d) (hr : u.queueRoom (field c.data 0 2) (field c.data 2 1) = true)
    (hv : u.quotaRoom (field c.data 2 1) (windowFrames (field c.data 4 1)) = some v) :
    ctxCreateRun c u =
      .ok ((v.withNewCtx c d).queueReply (c.newCtxQueue v) ++ (c.newCtx d v).windowReply) (v.withNewCtx c d) := by
  unfold ctxCreateRun
  simp only [hd, hr, hv]
  rfl

/-! ## Queues (R299) -/

theorem queueCreateRun_room (hr : u.queueRoom c.ctx c.ptn = true) :
    queueCreateRun c u = .ok (u.queueReply (u.newQueue c.data c.ctx c.ptn)) (u.addQueue (u.newQueue c.data c.ctx c.ptn)) :=
  if_neg (not_not_intro hr)

theorem queueDestroyRun_held (hq : u.ctxQueue? c.ctx (field c.data 0 2) = some q) :
    queueDestroyRun c u = .ok [] (u.removeQueue q) := by
  unfold queueDestroyRun
  rw [hq]

theorem queueDestroyRun_none (hq : u.ctxQueue? c.ctx (field c.data 0 2) = none) : queueDestroyRun c u = .ok [] u := by
  unfold queueDestroyRun
  rw [hq]

/-- A queue removed is found no more. -/
theorem State.queue?_removeQueue (q : Queue) (s : State) : (s.removeQueue q).queue? q.qpn = none := by
  refine List.find?_eq_none.mpr fun y hy => ?_
  have hne := (List.mem_filter.mp hy).2
  simpa using hne

/-! ## Windows (R321, R341) -/

theorem rekeyRun_held (hx : u.ctx? c.ctx = some x) :
    rekeyRun c u = .wait (.rekey x.num) [] ((u.issueKey x.num).2.updCtx x.num fun y =>
      { y with rkeySerial := (u.issueKey x.num).1, revoking := some (some u.cmds.nextId) }) := by
  unfold rekeyRun
  simp only [hx]
  rfl

theorem State.windowOf_held {st : Status} (hx : u.ctx? c.ctx = some x) : u.windowOf c st = .done st x.windowReply u := by
  unfold State.windowOf
  rw [hx]

theorem State.revoked_rekey {n id : Nat} (hx : u.ctx? n = some x) (hr : x.revoking = some (some id)) :
    u.revoked n = (u.updCtx n fun c => { c with revoking := none }).endRekeys n u.cmds.list := by
  unfold State.revoked
  simp only [hx, Option.bind_some, hr]

theorem State.revoked_destroyed {n : Nat} (hx : u.ctx? n = some x) (hr : x.revoking = some none) :
    u.revoked n = { u with host := { u.host with ctxs := u.host.ctxs.filter fun c => !(c.num == n) } } := by
  unfold State.revoked
  simp only [hx, Option.bind_some, hr]

end

/-- Settles O13, by what each definition answers. -/
theorem contextAndQueueCommandsTakeEffect : Obligations.ContextAndQueueCommandsTakeEffect := by
  unfold Obligations.ContextAndQueueCommandsTakeEffect
  refine ⟨fun p s u v c d h hd hr hv => ?_, fun p s u c h hr => ⟨?_, rfl, rfl, rfl, rfl, rfl, rfl, rfl, rfl⟩,
    fun p s u c h => ⟨fun q hq => ⟨?_, u.queue?_removeQueue q⟩, fun hq => ?_⟩, fun p s u c h => ?_, fun p s u c x h hx => ?_,
    fun s n id x hx hr => ?_, fun s n x hx hr => ?_, fun p s u c x h hx => ?_⟩
  · exact congrArg Host.Outcome.next (State.answered_of_admission h (ctxCreateRun_room hd hr hv))
  · exact congrArg Host.Outcome.next (State.answered_of_admission h (queueCreateRun_room hr))
  · exact congrArg Host.Outcome.next (State.answered_of_admission h (queueDestroyRun_held hq))
  · exact congrArg Host.Outcome.next (State.answered_of_admission h (queueDestroyRun_none hq))
  · exact congrArg Host.Outcome.next (State.answered_of_admission (op := .ctxDestroy) h rfl)
  · exact congrArg Host.Outcome.next (State.held_of_admission h (rekeyRun_held hx))
  · exact congrArg Host.Outcome.next (State.revoked_rekey hx hr)
  · exact congrArg Host.Outcome.next (State.revoked_destroyed hx hr)
  · exact congrArg Host.Outcome.next (State.answered_of_admission h (State.windowOf_held hx))

end Sys2Proof.Machine
end

section
/-! PROOFS. Trigger chain commands, each by what its definition answers at step 9, and the end of a chain (R322, R342 to R344). -/

namespace Sys2Proof.Machine

/-! ## The commands (R322, R342) -/

section
variable {u : State} {c : Cmd} {x : Chain}

theorem trigPostRun_room {q : Queue} {l : List Wr} (hq : u.ctxQueue? c.ctx (field c.data 2 2) = some q) (hl : trigWrs c.data = some l)
    (hr : (u.dropChain c.ptn (field c.data 0 2)).host.chains.length < 65536) :
    let x : Chain := ⟨c.ptn, field c.data 0 2, c.ctx, q.qpn, BitVec.ofNat 64 (field c.data 8 8), l, .armed, none⟩
    let t := u.dropChain c.ptn (field c.data 0 2)
    trigPostRun c u = .ok [] { t with host := { t.host with chains := t.host.chains ++ [x] } } := by
  unfold trigPostRun
  simp only [hq, hl, Nat.not_le.mpr hr, if_false]

/-- The reply of TRIG_CANCEL. -/
def cancelBytes (n : Nat) : List Byte := leBytes 1 n ++ zeroBytes 7

theorem trigCancelRun_none (hx : u.chain? c.ptn (field c.data 0 2) = none) : trigCancelRun c u = .ok (cancelBytes 2) u := by
  unfold trigCancelRun
  simp only [hx, cancelBytes]

/-- A chain is answered by whether it was still armed, and goes unless it fires. -/
theorem trigCancelRun_some (hx : u.chain? c.ptn (field c.data 0 2) = some x) :
    trigCancelRun c u = .ok (cancelBytes (if x.state = .armed then 0 else 1))
      (if x.state = .firing then u else u.dropChain c.ptn (field c.data 0 2)) := by
  unfold trigCancelRun
  simp only [hx]
  cases x.state <;> rfl

theorem trigDescribeRun_none (hx : u.chain? c.ptn (field c.data 0 2) = none) : trigDescribeRun c u = .ok (zeroBytes 16) u := by
  unfold trigDescribeRun
  rw [hx]

/-- STATE counts a chain that fires as armed. -/
theorem Chain.stateCode_eq (x : Chain) : (if x.armed = true then 1 else 2) = if x.state = .fired then 2 else 1 := by
  unfold Chain.armed
  cases x.state <;> rfl

theorem trigDescribeRun_some (hx : u.chain? c.ptn (field c.data 0 2) = some x) :
    trigDescribeRun c u = .ok (leBytes 1 (if x.state = .fired then 2 else 1) ++ leBytes 1 x.wrs.length ++ zeroBytes 6 ++
      leBytes 8 x.reqMatch.toNat) u := by
  unfold trigDescribeRun
  rw [hx, ← x.stateCode_eq]

end

/-! ## The end of a chain (R344) -/

/-- A firing chain with no reply to post ends: fired, or by the error of its queue pair. -/
theorem State.chainDone_posted {s : State} {ptn n : Nat} {x : Chain} (hx : s.chain? ptn n = some x) (hf : x.state = .firing)
    (hr : x.reply = none) (nak : Bool) :
    s.chainDone ptn n nak =
      if nak = true ∧ (s.queue? x.queue).isSome then s.queueError x.queue else s.updChain ptn n fun y => { y with state := .fired } := by
  unfold State.chainDone
  simp only [hx, hf, hr]
  cases nak <;> simp

/-- Settles O14, by what each definition answers. -/
theorem triggerChainsTakeEffect : Obligations.TriggerChainsTakeEffect := by
  unfold Obligations.TriggerChainsTakeEffect
  refine ⟨fun p s u c q l h hq hl hr => ?_,
    fun p s u c h => ⟨fun x hx hs => ?_, fun x hx hs => ?_, fun x hx hs => ?_, fun hx => ?_⟩,
    fun p s u c h => ⟨fun hx => ?_, fun x hx => ?_⟩, fun s ptn n x hx hf hr => ⟨?_, fun hq => ?_⟩⟩
  · exact congrArg Host.Outcome.next (State.answered_of_admission h (trigPostRun_room hq hl hr))
  · exact congrArg Host.Outcome.next (State.answered_of_admission h ((trigCancelRun_some hx).trans (by rw [hs]; rfl)))
  · exact congrArg Host.Outcome.next (State.answered_of_admission h ((trigCancelRun_some hx).trans (by rw [hs]; rfl)))
  · exact congrArg Host.Outcome.next (State.answered_of_admission h ((trigCancelRun_some hx).trans (by rw [hs]; rfl)))
  · exact congrArg Host.Outcome.next (State.answered_of_admission h (trigCancelRun_none hx))
  · exact congrArg Host.Outcome.next (State.answered_of_admission h (trigDescribeRun_none hx))
  · exact congrArg Host.Outcome.next (State.answered_of_admission h (trigDescribeRun_some hx))
  · exact congrArg Host.Outcome.next ((State.chainDone_posted hx hf hr false).trans (if_neg (nomatch ·.1)))
  · exact congrArg Host.Outcome.next ((State.chainDone_posted hx hf hr true).trans (if_pos ⟨rfl, hq⟩))

end Sys2Proof.Machine
end

section
/-! PROOFS. The composition map: pushed, told, received and fetched, the drain window's end and the fingerprint (R323, R324, R446, R505,
R506). -/

namespace Sys2Proof.Machine

/-! ## MAP_PUSH (R323) -/

section
variable {u t : State} {c : Cmd} {m o : MapBody}

/-- An admitted MAP_PUSH answers as its run says, then what waits for engines is looked at again. -/
theorem exec_mapPush_of_admission {p : Packet} {s : State} (h : admission .mapPush p s = some (c, u)) :
    exec (.mapPush p) s = .next (u.settle c (mapPushRun c u)).progress.schedule.resume :=
  congrArg (fun t : State => Host.Outcome.next t.schedule.resume) (State.arriveAll_of_admission h)

theorem mapPushRun_newer (hm : parseMap c.data = some m)
    (hn : u.map.map = none ∨ ∃ o, u.map.map = some o ∧ o.epoch.toNat < m.epoch.toNat) :
    mapPushRun c u = (u.installMap m).pushReply := by
  unfold mapPushRun
  rcases hn with hn | ⟨o, ho, hlt⟩
  · simp only [hm, hn]
  · simp only [hm, ho, hlt, if_true]

theorem mapPushRun_older (hm : parseMap c.data = some m) (ho : u.map.map = some o) (hlt : m.epoch.toNat < o.epoch.toNat) :
    mapPushRun c u = .no .staleEpoch := by
  unfold mapPushRun
  simp only [hm, ho, Nat.not_lt.mpr hlt.le, hlt, if_false, if_true]

theorem mapPushRun_same_epoch (hm : parseMap c.data = some m) (ho : u.map.map = some o) (he : m.epoch.toNat = o.epoch.toNat) :
    mapPushRun c u = if MapBody.same m o = true then u.pushReply else .no .conflict := by
  unfold mapPushRun
  simp only [hm, ho, he, lt_irrefl, if_false]

end

/-! ## MAP_BODY and MAP_FETCH (R324) -/

section
variable {s : State} {m : MapBody}

theorem State.gotMap_newer (he : s.epoch < m.epoch.toNat) (hm : MapBody.ok m = true) : s.gotMap m = s.installMap m := if_pos ⟨he, hm⟩

theorem State.gotMap_unfit (h : m.epoch.toNat ≤ s.epoch ∨ MapBody.ok m = false) : s.gotMap m = s :=
  if_neg fun ⟨he, hm⟩ => h.elim (Nat.not_le.mpr he) (by simp [hm])

theorem State.gotMapFetch_held {h : MsgHdr} (hm : s.map.map = some m) : s.gotMapFetch h = s.postFor h.src h.reqId (.mapBody m) := by
  unfold State.gotMapFetch
  rw [hm]

theorem State.gotMapFetch_none {h : MsgHdr} (hm : s.map.map = none) : s.gotMapFetch h = s := by
  unfold State.gotMapFetch
  rw [hm]

/-! ## The fingerprint (R505, R506) -/

theorem State.refingerprint_same (h : digest64 s.configBytes = s.fingerprint) : s.refingerprint = s := by
  unfold State.refingerprint
  simp only [h, if_true]

theorem State.refingerprint_changed (h : digest64 s.configBytes ≠ s.fingerprint) :
    s.refingerprint = ({ s with fingerprint := digest64 s.configBytes } : State).note
      ⟨10, 3, 0, 0xFF, 0, zeroBytes 16 ++ leBytes 8 (digest64 s.configBytes).toNat⟩ := by
  unfold State.refingerprint
  simp only [h, if_false]

end

/-- Settles O33, event by event. -/
theorem mapsTakeEffect : Obligations.MapsTakeEffect := by
  unfold Obligations.MapsTakeEffect
  refine ⟨fun p s u c m h hm => ⟨fun hn => ?_, fun o ho hlt => ?_, fun o ho he hs => ?_, fun o ho he hs => ?_⟩, fun p s u c h => ?_,
    fun s u h b hu => ⟨fun he hb => ?_, fun hb => ?_, fun w => ⟨fun m hm => ?_, fun hm => ?_⟩⟩, fun s => rfl,
    fun s => ⟨fun hf => ?_, fun hf => ?_⟩⟩
  · rw [exec_mapPush_of_admission h, mapPushRun_newer hm hn]
    rfl
  · rw [exec_mapPush_of_admission h, mapPushRun_older hm ho hlt, Res.no, State.settle_refuse, (op_seven_of_admission h).1]
  · rw [exec_mapPush_of_admission h, mapPushRun_same_epoch hm ho he, if_pos hs]
    rfl
  · rw [exec_mapPush_of_admission h, mapPushRun_same_epoch hm ho he, if_neg (Bool.eq_false_iff.mp hs), Res.no, State.settle_refuse,
      (op_seven_of_admission h).1]
  · exact congrArg Host.Outcome.next (State.answered_of_admission (op := .mapDescribe) h rfl)
  · exact congrArg (Host.Outcome.next ∘ State.resume) ((State.unordered_of_heard hu _).trans (State.gotMap_newer he hb))
  · exact congrArg (Host.Outcome.next ∘ State.resume) ((State.unordered_of_heard hu _).trans (State.gotMap_unfit hb))
  · exact congrArg Host.Outcome.next ((State.unordered_of_heard hu _).trans (State.gotMapFetch_held hm))
  · exact congrArg Host.Outcome.next ((State.unordered_of_heard hu _).trans (State.gotMapFetch_none hm))
  · exact congrArg Host.Outcome.next (State.refingerprint_same hf)
  · exact congrArg Host.Outcome.next (State.refingerprint_changed hf)

end Sys2Proof.Machine
end

section
/-! PROOFS. Partition commands and payload keys, each by what its definition answers at step 9, and the end of a partition's reset (R325,
R326, R329, R391 to R394, R401 to R403, R409). -/

namespace Sys2Proof.Machine

/-! ## What partition commands share -/

/-- Unloading a partition's slots changes nothing but slots. -/
theorem State.unloadSlots_frame (n : Nat) (s : State) : { s.unloadSlots n with slots := s.slots } = s := by
  have hprogs (l : List ProgSlot) (f : ProgSlot → ProgSlot) :
      { l.foldl (fun (t : State) p => t.setProg (f p)) s with slots := s.slots } = s :=
    List.foldlRecOn (motive := fun t : State => { t with slots := s.slots } = s) _ _ rfl fun _ ht _ _ => ht
  unfold State.unloadSlots
  exact List.foldlRecOn (motive := fun t : State => { t with slots := s.slots } = s) _ _ (hprogs _ _) fun _ ht _ _ => ht

theorem State.unloadSlots_ptns (n : Nat) (s : State) : (s.unloadSlots n).ptns = s.ptns := (congrArg State.ptns (s.unloadSlots_frame n) :)

theorem State.unloadSlots_ptnGen (n : Nat) (s : State) : (s.unloadSlots n).ptnGen = s.ptnGen :=
  (congrArg State.ptnGen (s.unloadSlots_frame n) :)

theorem State.latchJtag_unlocked {s : State} (h : s.trust.jtagLock = false) :
    s.latchJtag = (({ s with trust := { s.trust with jtagLock := true } } : State).setRf .secCtl 0 1 0).note ⟨9, 5, 0, 0xFF, 0, []⟩ :=
  if_neg (by simp [h])

/-- JTAG_LOCK is latched, and stays so (R409). -/
theorem State.jtagLock_latchJtag (s : State) : s.latchJtag.trust.jtagLock = true := by
  cases h : s.trust.jtagLock with
  | true => exact (congrArg (fun t : State => t.trust.jtagLock) (if_pos h)).trans h
  | false => rw [State.latchJtag_unlocked h, State.note_trust, State.setRf_trust]

/-- The TAP is off once JTAG_LOCK is latched (R409). -/
theorem State.jtagEn_latchJtag {s : State} (h : s.trust.jtagLock = false) : s.latchJtag.rf .secCtl 0 1 = 0 := by
  rw [State.latchJtag_unlocked h, State.note, State.rf_logRec _ _ _ _ _ _ _ (by decide), State.rf_setRf_same _ _ _ _ _ (by decide),
    Nat.zero_mod]

/-! ## Creation and change (R325) -/

section
variable {u : State} {c : Cmd} {x : PtnBody}

/-- The partition that a body asks for, under a storage key. -/
def PtnBody.ptn (x : PtnBody) (key : Nat) : Ptn :=
  ⟨x.keyMode, x.confidential, BitVec.ofNat 32 x.priv, x.hbm, x.flash, x.engine, x.first, x.count, x.queueMax, x.trigMax, false, false, key⟩

theorem ptnCreateRun_full (hx : parsePtn c.data = some x) (hr : u.ptnRoom x = false) : ptnCreateRun c u = .no .noSpace := by
  unfold ptnCreateRun
  simp only [hx, hr, Bool.false_eq_true, not_false_eq_true, if_true]

theorem ptnCreateRun_room (hx : parsePtn c.data = some x) (hr : u.ptnRoom x = true) :
    let v := if x.confidential = true then u.latchJtag else u
    ptnCreateRun c u = .ok [] (({ v with
      ptns := updAt x.num (fun _ => some (x.ptn v.trust.nextKey)) v.ptns
      ptnGen := updAt x.num (· + 1) v.ptnGen
      trust := { v.trust with nextKey := v.trust.nextKey + 1 } } : State).clearPtnCounters x.num).securityChanged := by
  unfold ptnCreateRun
  simp only [hx, hr, not_true_eq_false, if_false]
  rfl

theorem ptnModifyRun_full (hx : parsePtn c.data = some x) (hr : u.ptnRoom x = false) : ptnModifyRun c u = .no .noSpace := by
  unfold ptnModifyRun
  simp only [hx, hr, Bool.false_eq_true, not_false_eq_true, if_true]

theorem ptnModifyRun_room (hx : parsePtn c.data = some x) (hr : u.ptnRoom x = true) :
    ptnModifyRun c u = .ok [] (u.updPtn x.num fun y => { y with
      priv := BitVec.ofNat 32 x.priv, hbmQuota := x.hbm, flashQuota := x.flash, enginePm := x.engine, ctxFirst := x.first
      ctxCount := x.count, queueMax := x.queueMax, trigMax := x.trigMax }) := by
  unfold ptnModifyRun
  simp only [hx, hr, not_true_eq_false, if_false]

/-! ## Destruction and description (R326) -/

theorem ptnDestroyRun_eq (c : Cmd) (u : State) :
    let v := u.unloadSlots (field c.data 0 1)
    ptnDestroyRun c u = .ok [] ({ v with ptns := updAt (field c.data 0 1) (fun _ => none) v.ptns } : State).securityChanged := by
  dsimp only
  rw [State.unloadSlots_ptns, ptnDestroyRun]

theorem ptnDescribeRun_none (hn : u.ptn? (field c.data 0 1) = none) :
    ptnDescribeRun c u = .ok (leBytes 1 (field c.data 0 1) ++ zeroBytes 63) u := by
  unfold ptnDescribeRun
  simp only [hn]

theorem ptnDescribeRun_some {y : Ptn} (hy : u.ptn? (field c.data 0 1) = some y) :
    let n := field c.data 0 1
    ptnDescribeRun c u = .ok (y.body n ++ leBytes 4 (u.hbmUsed n) ++ leBytes 4 (u.flashUsed n) ++
      leBytes 2 (u.host.ctxs.filter fun k => k.ptn == n).length ++ leBytes 2 (u.ptnQueues n).length ++
      leBytes 1 (ptnStateCode (some y)) ++ zeroBytes 3 ++ leBytes 4 (u.ptnGen.getD n 0) ++ zeroBytes 12) u := by
  unfold ptnDescribeRun
  simp only [hy, genReply]

/-! ## Payload keys (R329, R402) -/

theorem keyInstallRun_unwrapped {y : Ptn} {k : Nat} (hy : u.ptn? c.ptn = some y)
    (hk : u.unwrapKey y.keyMode c.ctx (field c.data 0 1) c.ptn (c.data.drop 8) = some k) :
    keyInstallRun c u = .ok [] (u.updCtx c.ctx fun x => { x with
      keys := updAt (field c.data 0 1) (fun _ => some ⟨k, false, 0⟩) x.keys }) := by
  unfold keyInstallRun
  simp only [hy, Option.bind_some, hk, setKey]

end

/-! ## The end of a reset (R393, R394) -/

section
variable {s : State} {n : Nat} {y : Ptn}

/-- A command of the partition runs that is not its reset. -/
def State.ptnBusy (s : State) (n : Nat) : Bool := s.cmds.list.any fun i => i.ptn == n && i.wait != .ptnReset n

/-- The partition's key slots, program slots and pattern slots are empty. -/
def State.ptnEmptied (n : Nat) (s : State) : State :=
  ({ s with host := { s.host with
    ctxs := updWhere (fun c => c.ptn == n) (fun c => { c with keys := List.replicate 4 none }) s.host.ctxs } } : State).unloadSlots n

theorem State.ptnEmptied_ptnGen (n : Nat) (s : State) : (s.ptnEmptied n).ptnGen = s.ptnGen := State.unloadSlots_ptnGen ..

theorem State.resetDone_idle (hy : s.ptn? n = some y) (hr : y.resetting = true) (hb : s.ptnBusy n = false) :
    let a := s.ptnEmptied n
    let b := ({ a with ptnGen := updAt n (· + 1) a.ptnGen } : State).updPtn n fun y => { y with resetting := false, fenced := false }
    let t := b.raise (.ptnSts n) 1 (Rec.event n)
    s.resetDone n = (t.endResets n t.cmds.list).securityChanged := by
  have hgo : ¬ (¬ y.resetting ∨ s.ptnBusy n) := by simp [hr, hb]
  dsimp only
  rw [State.ptnEmptied_ptnGen]
  unfold State.resetDone
  rw [hy]
  exact if_neg hgo

theorem State.resetDone_waits (hy : s.ptn? n = some y) (h : y.resetting = false ∨ s.ptnBusy n = true) : s.resetDone n = s := by
  unfold State.resetDone
  rw [hy]
  exact if_pos (h.imp_left (by simp [·]))

theorem State.resetDone_none (hn : s.ptn? n = none) : s.resetDone n = s := by
  unfold State.resetDone
  rw [hn]

end

/-- Settles O37, by what each definition answers. -/
theorem partitionCommandsTakeEffect : Obligations.PartitionCommandsTakeEffect := by
  unfold Obligations.PartitionCommandsTakeEffect
  refine ⟨fun p s u c x h hx => ⟨fun hr => ?_, fun hr => ?_⟩, fun s => ⟨s.jtagLock_latchJtag, State.jtagEn_latchJtag⟩,
    fun p s u c x h hx => ⟨fun hr => ?_, fun hr => ?_⟩, fun p s u c h => ?_, fun s n y hy => ⟨fun hr hb => ?_, fun hw => ?_⟩,
    fun s n hn => ?_, fun p s u c h => ?_, fun p s u c h => ⟨fun hn => ?_, fun y hy => ?_⟩, fun p s u c y k h hy hk => ?_,
    fun p s u c h => ?_⟩
  · exact congrArg Host.Outcome.next (State.refused_of_admission h (ptnCreateRun_full hx hr))
  · exact congrArg Host.Outcome.next (State.answered_of_admission h (ptnCreateRun_room hx hr))
  · exact congrArg Host.Outcome.next (State.refused_of_admission h (ptnModifyRun_full hx hr))
  · exact congrArg Host.Outcome.next (State.answered_of_admission h (ptnModifyRun_room hx hr))
  · exact congrArg Host.Outcome.next (State.held_of_admission (op := .ptnReset) h rfl)
  · exact congrArg (Host.Outcome.next ∘ State.resume) (State.resetDone_idle hy hr hb)
  · exact congrArg (Host.Outcome.next ∘ State.resume) (State.resetDone_waits hy hw)
  · exact congrArg (Host.Outcome.next ∘ State.resume) (State.resetDone_none hn)
  · exact congrArg Host.Outcome.next (State.answered_of_admission h (ptnDestroyRun_eq c u))
  · exact congrArg Host.Outcome.next (State.answered_of_admission h (ptnDescribeRun_none hn))
  · exact congrArg Host.Outcome.next (State.answered_of_admission h (ptnDescribeRun_some hy))
  · exact congrArg Host.Outcome.next (State.answered_of_admission h (keyInstallRun_unwrapped hy hk))
  · exact congrArg Host.Outcome.next (State.answered_of_admission (op := .keyRevoke) h rfl)

end Sys2Proof.Machine
end

section
/-! PROOFS. Firmware update commands, each by what its definition answers at step 9, and the reports of core groups (R327, R415, R484,
R485, R490). -/

namespace Sys2Proof.Machine

/-! ## The commands (R327) -/

section
variable {u : State} {c : Cmd}

theorem fwStageRun_activating (h : u.trust.fw.state = 3) : fwStageRun c u = .no .busyRetry := if_pos h

theorem fwStageRun_stages (h : u.trust.fw.state ≠ 3) :
    fwStageRun c u = .ok [] ((u.updSlot (1 - u.boot.active) (FwSlot.put (field c.data 0 4) (c.data.drop 16))).setFw fun f =>
      { f with state := 1 }) :=
  if_neg h

theorem fwCheckRun_activating (h : u.trust.fw.state = 3) : fwCheckRun c u = .no .busyRetry := if_pos h

theorem fwCheckRun_differs (h : u.trust.fw.state ≠ 3)
    (hd : u.slotDigest u.otherSlot (field c.data 0 4) ≠ BitVec.ofNat 256 (field c.data 8 32)) : fwCheckRun c u = .no .conflict :=
  (if_neg h).trans (if_pos hd)

section
variable (h : u.trust.fw.state ≠ 3) (hd : u.slotDigest u.otherSlot (field c.data 0 4) = BitVec.ofNat 256 (field c.data 8 32))
include h hd

theorem fwCheckRun_invalid (hi : u.slotImage u.otherSlot = none) : fwCheckRun c u = .no .denied := by
  unfold fwCheckRun
  simp only [h, hd, hi, ne_eq, not_true_eq_false, if_false]

theorem fwCheckRun_valid {i : Digest × Word32} (hi : u.slotImage u.otherSlot = some i) :
    fwCheckRun c u = .ok [] (u.setFw fun f =>
      { f with state := 2, staged := BitVec.ofNat 256 (field c.data 8 32), stagedSvn := i.2, stagedLen := field c.data 0 4 }) := by
  unfold fwCheckRun
  simp only [h, hd, hi, ne_eq, not_true_eq_false, if_false]

end

theorem fwAbortRun_activating (h : u.trust.fw.state = 3) : fwAbortRun c u = .no .busyRetry := if_pos h

theorem fwAbortRun_aborts (h : u.trust.fw.state ≠ 3) : fwAbortRun c u = .ok [] (u.setFw fun f => { f with state := 0 }) := if_neg h

/-- An activation is admitted only from the checked state. -/
theorem checked_of_admission {p : Packet} {s : State} (h : admission .fwActivate p s = some (c, u)) : u.trust.fw.state = 2 := by
  obtain ⟨-, v, rfl, h7⟩ := op_seven_of_admission h
  rw [counted_trust]
  by_contra hne
  have hbad : fwActivateSeven c v = some .badParam := if_pos (.inr (.inr hne))
  exact nomatch hbad.symm.trans h7

end

/-! ## Core groups (R484, R490) -/

section
variable {s : State}

/-- A report with no activation running is nothing. -/
theorem State.coreGroup_idle (ok : Bool) (h : s.trust.fw.state ≠ 3) : s.coreGroup ok = s := if_pos (.inl h)

variable (hf : s.trust.fw.state = 3) (hp : s.pow.phase = .service) (hs : s.pow.state = .ride)
include hf hp hs

/-- An activation runs in RIDE while the firmware serves. -/
theorem State.not_activation_rests : ¬ (s.trust.fw.state ≠ 3 ∨ s.pow.phase ≠ .service ∨ s.pow.state ≠ .ride) := by
  simp [hf, hp, hs]

theorem State.coreGroup_failed :
    s.coreGroup false = (s.setFw fun f => { f with state := 2, groupsDone := 0 }).endActivate .internal [] :=
  (if_neg (State.not_activation_rests hf hp hs)).trans (if_pos Bool.false_ne_true)

theorem State.coreGroup_next (hg : s.trust.fw.groupsDone < 5) :
    s.coreGroup true = s.setFw fun f => { f with groupsDone := f.groupsDone + 1 } :=
  (if_neg (State.not_activation_rests hf hp hs)).trans ((if_neg (not_not_intro rfl)).trans (if_pos hg))

/-- The sixth group is the activation point: the other slot is selected and active, its image measured. -/
theorem State.coreGroup_last (hg : 5 ≤ s.trust.fw.groupsDone) :
    let v := s.setSelector (1 - s.boot.active)
    let t : State := { v with
      boot := { v.boot with active := 1 - s.boot.active }
      trust := { v.trust with fwDigest := s.trust.fw.staged, svnRun := s.trust.fw.stagedSvn
                              fw := { s.trust.fw with state := 0, groupsDone := 0 } } }
    s.coreGroup true = t.endActivate .ok (leBytes 32 s.trust.fw.staged.toNat) :=
  (if_neg (State.not_activation_rests hf hp hs)).trans ((if_neg (not_not_intro rfl)).trans (if_neg (Nat.not_lt.mpr hg)))

end

/-- Settles O38, by what each definition answers. -/
theorem firmwareUpdateTakesEffect : Obligations.FirmwareUpdateTakesEffect := by
  unfold Obligations.FirmwareUpdateTakesEffect
  refine ⟨fun p s u c h => ⟨fun hf => ?_, fun hf => ?_⟩,
    fun p s u c h => ⟨fun hf => ?_, fun hf hd => ?_, fun hf hd hi => ?_, fun i hf hd hi => ?_⟩,
    fun p s u c h => ⟨fun hf => ?_, fun hf => ?_⟩, fun p s u c h => ⟨checked_of_admission h, ?_⟩,
    fun s hf hp hs => ⟨fun hg => ?_, fun hg => ?_, ?_⟩, fun s ok hf => ?_, fun p s u c h => ?_⟩
  · exact congrArg Host.Outcome.next (State.refused_of_admission h (fwStageRun_activating hf))
  · exact congrArg Host.Outcome.next (State.answered_of_admission h (fwStageRun_stages hf))
  · exact congrArg Host.Outcome.next (State.refused_of_admission h (fwCheckRun_activating hf))
  · exact congrArg Host.Outcome.next (State.refused_of_admission h (fwCheckRun_differs hf hd))
  · exact congrArg Host.Outcome.next (State.refused_of_admission h (fwCheckRun_invalid hf hd hi))
  · exact congrArg Host.Outcome.next (State.answered_of_admission h (fwCheckRun_valid hf hd hi))
  · exact congrArg Host.Outcome.next (State.refused_of_admission h (fwAbortRun_activating (c := c) hf))
  · exact congrArg Host.Outcome.next (State.answered_of_admission h (fwAbortRun_aborts (c := c) hf))
  · exact congrArg Host.Outcome.next (State.held_of_admission (op := .fwActivate) h rfl)
  · exact congrArg (Host.Outcome.next ∘ State.resume) (State.coreGroup_next hf hp hs hg)
  · exact congrArg (Host.Outcome.next ∘ State.resume) (State.coreGroup_last hf hp hs hg)
  · exact congrArg (Host.Outcome.next ∘ State.resume) (State.coreGroup_failed hf hp hs)
  · exact congrArg (Host.Outcome.next ∘ State.resume) (State.coreGroup_idle ok hf)
  · exact congrArg Host.Outcome.next (State.answered_of_admission (op := .fwDescribe) h rfl)

end Sys2Proof.Machine
end

section
/-! PROOFS. Attestation: reports, certificates, the identity key's signatures and the succession of attestation keys (R328, R410 to R412,
R414, R427, R428). -/

namespace Sys2Proof.Machine

/-! ## ATTEST and CERT_READ (R328, R427, R428) -/

section
variable {u : State} {c : Cmd}

theorem attestRun_ready (hf : u.trust.fw.state ≠ 3) (hr : u.trust.attReady = true) :
    let r := u.attRoll.attestReport c
    attestRun c u = .ok (padTo 8 (leBytes 4 r.length ++ leBytes 4 4963 ++ r) ++
      fitBytes 4963 (Config.sign u.attRoll.trust.attSerial (prefixAtt ++ r))) u.attRoll.attUsed :=
  (if_neg hf).trans (if_neg (not_not_intro hr))

theorem attestRun_activating (hf : u.trust.fw.state = 3) : attestRun c u = .refuse .busyRetry none (u.expectedWait 2000) := if_pos hf

theorem attestRun_unready (hf : u.trust.fw.state ≠ 3) (hr : u.trust.attReady = false) :
    attestRun c u = .refuse .busyRetry none (u.expectedWait 65535) :=
  (if_neg hf).trans (if_pos (Bool.eq_false_iff.mp hr))

theorem certReadRun_there (h : field c.data 0 1 ≠ 1 ∨ u.trust.attSerial ≠ 0) :
    let m := u.certBytes (field c.data 0 1)
    certReadRun c u = .ok (leBytes 4 m.length ++ zeroBytes 4 ++ m) u :=
  if_neg (not_and_or.mpr h)

theorem certReadRun_awaited (hw : field c.data 0 1 = 1) (hs : u.trust.attSerial = 0) :
    certReadRun c u = .refuse .busyRetry none (u.expectedWait 65535) :=
  if_pos ⟨hw, hs⟩

end

/-! ## Identity signatures (R411) -/

section
variable {s v : State}

theorem State.identitySign_disabled (h : s.trust.idxLost = true ∨ s.trust.idxOk = false) : s.identitySign = (false, s) :=
  if_pos (h.imp_right (by simp [·]))

/-- A signature released uses one index. -/
theorem State.idxNext_identitySign (h : s.identitySign = (true, v)) : v.trust.idxNext = s.trust.idxNext + 1 := by
  unfold State.identitySign at h
  split at h
  · cases h
  · dsimp only at h
    split at h
    · cases h
      rfl
    · split at h
      · cases h
      · split at h
        · cases h
        · cases h
          rfl

/-! ## The succession of attestation keys (R412) -/

/-- Peers whose messages wait for a key are offered a handshake. -/
def State.offerHandshakes (s : State) : State :=
  (s.fab.peers.filter fun x => !x.keyed && !x.waiting.isEmpty).foldl (fun u x => u.needKey x.node) s

theorem State.attKeyReady_undue (hs : s.trust.attSerial ≠ 0) (h : 2 ^ 18 < s.trust.attLeft ∨ s.trust.attSuccessor = true) :
    s.attKeyReady = s := by
  unfold State.attKeyReady
  simp only [hs, h, not_false_eq_true, true_and, if_true, ite_self]

theorem State.attRoll_rolls (hl : s.trust.attLeft = 0) (hx : s.trust.attSuccessor = true) :
    s.attRoll = ({ s with trust := { s.trust with
      attSerial := s.trust.attSerial + 1, attLeft := 2 ^ 20, attSuccessor := false, attReady := true } } : State).raise
        .secSts 11 ⟨9, 3, 0, 0xFF, 0, []⟩ :=
  if_pos ⟨hl, hx⟩

theorem State.attRoll_stays (h : s.trust.attLeft ≠ 0 ∨ s.trust.attSuccessor = false) : s.attRoll = s :=
  if_neg (not_and_or.mpr (h.imp_right Bool.eq_false_iff.mp))

variable (hp : s.pow.phase = .service ∨ s.pow.phase = .applying)
include hp

/-- Attestation keys are certified in these two phases. -/
theorem State.not_uncertifying : ¬ (s.pow.phase ≠ .service ∧ s.pow.phase ≠ .applying) := by tauto

theorem State.attKeyReady_unsigned (h : s.trust.attSerial = 0 ∨ (s.trust.attLeft ≤ 2 ^ 18 ∧ s.trust.attSuccessor = false))
    (hv : s.identitySign = (false, v)) : s.attKeyReady = v := by
  have hdue : ¬ (¬ s.trust.attSerial = 0 ∧ (2 ^ 18 < s.trust.attLeft ∨ s.trust.attSuccessor = true)) := by
    rcases h with h | ⟨hl, hx⟩
    · exact fun hno => hno.1 h
    · exact fun hno => hno.2.elim (Nat.not_lt.mpr hl) (by simp [hx])
  unfold State.attKeyReady
  rw [if_neg (State.not_uncertifying hp)]
  dsimp only
  rw [if_neg hdue, hv]
  exact if_pos Bool.false_ne_true

theorem State.attKeyReady_first (hs : s.trust.attSerial = 0) (hv : s.identitySign = (true, v)) :
    s.attKeyReady =
      ({ v with trust := { v.trust with attSerial := 1, attLeft := 2 ^ 20, attReady := true } } : State).offerHandshakes := by
  unfold State.attKeyReady
  rw [if_neg (State.not_uncertifying hp)]
  simp only [hs, hv, not_true_eq_false, false_and, if_false, if_true]
  rfl

theorem State.attKeyReady_successor (hs : s.trust.attSerial ≠ 0) (hl : s.trust.attLeft ≤ 2 ^ 18) (hx : s.trust.attSuccessor = false)
    (hv : s.identitySign = (true, v)) :
    let w : State := { v with trust := { v.trust with attSuccessor := true } }
    s.attKeyReady = (if v.trust.attLeft = 0 then w.attRoll else w).offerHandshakes := by
  unfold State.attKeyReady
  rw [if_neg (State.not_uncertifying hp)]
  simp only [hs, hv, hx, Nat.not_lt.mpr hl, Bool.false_eq_true, or_self, and_false, not_true_eq_false, if_false]
  rfl

end

/-- Settles O39, by what each definition answers, then by whether a signature is due and had. -/
theorem attestationTakesEffect : Obligations.AttestationTakesEffect := by
  unfold Obligations.AttestationTakesEffect
  refine ⟨fun p s u c h => ⟨fun hf hr => ?_, fun hf => ?_, fun hf hr => ?_⟩, fun p s u c h => ⟨fun hw => ?_, fun hw hs => ?_⟩,
    fun s v hp hv => ⟨State.idxNext_identitySign hv, fun hs => ?_, fun hs hl hx => ?_⟩, fun s v hp h hv => ?_, fun s hs h => ?_,
    fun s h => State.identitySign_disabled h, fun s => ⟨fun hl hx => ?_, fun h => ?_⟩⟩
  · exact congrArg Host.Outcome.next (State.answered_of_admission h (attestRun_ready hf hr))
  · exact congrArg Host.Outcome.next (State.refusedWith_of_admission h (attestRun_activating hf))
  · exact congrArg Host.Outcome.next (State.refusedWith_of_admission h (attestRun_unready hf hr))
  · exact congrArg Host.Outcome.next (State.answered_of_admission h (certReadRun_there hw))
  · exact congrArg Host.Outcome.next (State.refusedWith_of_admission h (certReadRun_awaited hw hs))
  · exact congrArg Host.Outcome.next (State.attKeyReady_first hp hs hv)
  · exact congrArg Host.Outcome.next (State.attKeyReady_successor hp hs hl hx hv)
  · exact congrArg Host.Outcome.next (State.attKeyReady_unsigned hp h hv)
  · exact congrArg Host.Outcome.next (State.attKeyReady_undue hs h)
  · exact congrArg Host.Outcome.next (State.attRoll_rolls hl hx)
  · exact congrArg Host.Outcome.next (State.attRoll_stays h)

end Sys2Proof.Machine
end

section
/-! SUPPORT. What the egress of queue pairs and their error state keep, and the bytes of a window after a WRITE
(12_host_ports.md R272, R337, R338, R343). -/

namespace Sys2Proof.Machine

/-! ## What egress and errors of queue pairs keep -/

theorem State.queue?_qpn {s : State} {n : Nat} {q : Queue} (hq : s.queue? n = some q) : q.qpn = n :=
  beq_iff_eq.mp (List.find?_some (p := fun x : Queue => x.qpn == n) hq)

theorem State.ctx?_num {s : State} {n : Nat} {c : Ctx} (hc : s.ctx? n = some c) : c.num = n :=
  beq_iff_eq.mp (List.find?_some (p := fun x : Ctx => x.num == n) hc)

/-- By what a queue pair is found and may receive: its number, its context, its port and whether it is in error. -/
def Queue.place (q : Queue) : Nat × Nat × Nat × Bool := (q.qpn, q.ctx, q.port, q.err)

/-- Contexts, ports, the places of queue pairs and the store of sequences stay, and nothing sent is taken back. -/
structure State.EgressOnly (s t : State) : Prop where
  ctxs : t.host.ctxs = s.host.ctxs
  ports : t.host.ports = s.host.ports
  places : t.host.queues.map Queue.place = s.host.queues.map Queue.place
  store : t.store = s.store
  out : s.out ⊆ t.out

theorem State.raise_out_subset (r : Reg) (k : Nat) (c : Rec) (s : State) : s.out ⊆ (s.raise r k c).out := by
  have hibi (u : State) : u.out ⊆ u.ibiCheck.out := by
    unfold State.ibiCheck
    repeat' split
    · exact List.Subset.refl _
    · exact List.Subset.refl _
    · exact List.subset_cons_self _ _
  have hlog (u : State) (reg mask : Nat) : u.out ⊆ (u.logRec c reg mask).out := by
    unfold State.logRec
    dsimp only
    split
    · exact hibi (((u.putRec c reg mask).setRf .logSts 0 1 1).putRec Rec.event Reg.logSts.offset 1)
    · exact List.Subset.refl _
  exact List.Subset.trans (hlog (s.setRf r k 1 1) r.offset (2 ^ k)) (hibi _)

namespace State.EgressOnly

variable {s t u : State}

theorem refl (s : State) : s.EgressOnly s := ⟨rfl, rfl, rfl, rfl, List.Subset.refl _⟩

theorem trans (h : s.EgressOnly t) (g : t.EgressOnly u) : s.EgressOnly u :=
  ⟨g.ctxs.trans h.ctxs, g.ports.trans h.ports, g.places.trans h.places, g.store.trans h.store, List.Subset.trans h.out g.out⟩

theorem ite {c : Prop} [Decidable c] (h : s.EgressOnly t) (g : s.EgressOnly u) : s.EgressOnly (if c then t else u) := by
  split
  · exact h
  · exact g

theorem foldl {α : Type} {f : State → α → State} (hf : ∀ (v : State) a, v.EgressOnly (f v a)) (h : s.EgressOnly t) (l : List α) :
    s.EgressOnly (l.foldl f t) := by
  induction l generalizing t with
  | nil => exact h
  | cons a l ih => exact ih (h.trans (hf t a))

theorem count (h : s.EgressOnly t) (g scope i n : Nat) : s.EgressOnly (State.count g scope i n t) := h.trans ⟨rfl, rfl, rfl, rfl, List.Subset.refl _⟩

theorem emit (h : s.EgressOnly t) (o : Output) : s.EgressOnly (t.emit o) := h.trans ⟨rfl, rfl, rfl, rfl, List.subset_cons_self _ _⟩

theorem updChain (h : s.EgressOnly t) (ptn n : Nat) (f : Chain → Chain) : s.EgressOnly (t.updChain ptn n f) :=
  h.trans ⟨rfl, rfl, rfl, rfl, List.Subset.refl _⟩

theorem dropChain (h : s.EgressOnly t) (ptn n : Nat) : s.EgressOnly (t.dropChain ptn n) := h.trans ⟨rfl, rfl, rfl, rfl, List.Subset.refl _⟩

theorem raise (h : s.EgressOnly t) (r : Reg) (k : Nat) (c : Rec) : s.EgressOnly (t.raise r k c) :=
  h.trans ⟨by rw [State.raise_host], by rw [State.raise_host], by rw [State.raise_host], State.raise_store r k c t, State.raise_out_subset r k c t⟩

theorem updQueue (h : s.EgressOnly t) (n : Nat) {f : Queue → Queue} (hf : ∀ q, (f q).place = q.place) : s.EgressOnly (t.updQueue n f) := by
  refine h.trans ⟨rfl, rfl, ?_, rfl, List.Subset.refl _⟩
  show (updWhere _ f t.host.queues).map Queue.place = t.host.queues.map Queue.place
  rw [updWhere, List.map_map]
  refine List.map_congr_left fun q _ => ?_
  dsimp only [Function.comp_apply]
  split
  · exact hf q
  · rfl

theorem post (h : s.EgressOnly t) (n : Nat) (k : PostKind) (len : Nat) (imm : Bool) : s.EgressOnly (t.post n k len imm) := by
  unfold State.post
  cases t.queue? n with
  | none => exact h
  | some q => exact updQueue h n (by exact fun _ => rfl)

theorem postChain (h : s.EgressOnly t) (q : Queue) (c : Chain) (r : Reply) : s.EgressOnly (t.postChain q c r) := by
  unfold State.postChain
  refine (foldl (fun v w => ?_) (h.updChain ..) _).count ..
  cases w.data r with
  | none => exact refl v
  | some d => exact ((refl v).post ..).emit _

theorem putRecord (h : s.EgressOnly t) (n : Nat) (r : Reply) : s.EgressOnly (t.putRecord n r) := by
  unfold State.putRecord
  cases t.queue? n with
  | none => exact h
  | some q =>
    dsimp only
    split
    · exact emit (post (updQueue (ite h (emit (post h ..) _)) _ (by exact fun _ => rfl)) ..) _
    · refine ite (updChain ?_ ..) (postChain ?_ ..)
      all_goals exact emit (post (updQueue (ite h (emit (post h ..) _)) _ (by exact fun _ => rfl)) ..) _

theorem flushReplies (h : s.EgressOnly t) (n k : Nat) : s.EgressOnly (t.flushReplies n k) := by
  induction k generalizing t with
  | zero => exact h
  | succ k ih =>
    unfold State.flushReplies
    cases t.queue? n with
    | none => exact h
    | some q =>
      dsimp only
      split
      · exact h
      · exact ite (ih (putRecord (updQueue h n (by exact fun _ => rfl)) ..)) h

theorem ringSpace (h : s.EgressOnly t) (n consumed : Nat) : s.EgressOnly (t.ringSpace n consumed) := by
  have hu := h.updQueue n (f := fun q => { q with consumed := consumed }) fun _ => rfl
  unfold State.ringSpace State.flush
  split
  · exact hu
  · exact hu.flushReplies ..

theorem noteHeads (h : s.EgressOnly t) (ctx off len : Nat) (w : Mem) : s.EgressOnly (t.noteHeads ctx off len w) :=
  foldl (fun v _ => (refl v).ringSpace ..) h _

theorem chainLost (h : s.EgressOnly t) (n port : Nat) (reqId : Word64) : s.EgressOnly (t.chainLost n port reqId) := by
  unfold State.chainLost
  split
  · exact h
  · exact (h.dropChain ..).count ..

theorem replyQueue (h : s.EgressOnly t) (ctx num : Nat) (r : Reply) : s.EgressOnly (t.replyQueue ctx num r) := by
  unfold State.replyQueue
  cases t.ctxQueue? ctx num with
  | none => exact ite (h.chainLost ..) h
  | some q => exact ite (h.chainLost ..) (ite (h.putRecord ..) (count (updQueue h _ (by exact fun _ => rfl)) ..))

theorem sendReply (h : s.EgressOnly t) (src : Src) (r : Reply) : s.EgressOnly (t.sendReply src r) := by
  unfold State.sendReply
  cases src with
  | host c q => exact h.replyQueue ..
  | mgmt n =>
    dsimp only
    have hs (f : Session → Session) : s.EgressOnly (t.updSession n f) := h.trans ⟨rfl, rfl, rfl, rfl, List.Subset.refl _⟩
    cases t.session? n with
    | none => exact h
    | some x => exact ite ((hs _).emit _) (hs _)
  | i3c => exact h.emit _

theorem dropWaiting (h : s.EgressOnly t) (q : Queue) (l : List Reply) : s.EgressOnly (t.dropWaiting q l) := by
  induction l generalizing t with
  | nil => exact h
  | cons r l ih => exact ih (h.chainLost ..)

theorem failFiring (h : s.EgressOnly t) (q : Queue) (l : List Chain) : s.EgressOnly (t.failFiring q l) := by
  induction l generalizing t with
  | nil => exact h
  | cons c l ih => exact ih (ite ((h.updChain ..).raise ..) h)

/-- A queue pair is found at the place it had. -/
theorem queue? (h : s.EgressOnly t) {n : Nat} {q : Queue} (hq : s.queue? n = some q) : ∃ r, t.queue? n = some r ∧ r.place = q.place := by
  have hfind (v : State) : (v.queue? n).map Queue.place = (v.host.queues.map Queue.place).find? fun p => p.1 == n :=
    (List.find?_map (p := fun p : Nat × Nat × Nat × Bool => p.1 == n) (f := Queue.place)).symm
  have hp := (hfind t).trans ((congrArg _ h.places).trans (hfind s).symm)
  rw [hq] at hp
  exact Option.map_eq_some_iff.mp hp

end State.EgressOnly

/-- A queue pair receives when it is found, is not in error and its port is up (R337). -/
theorem State.receives_eq_some {s : State} {qpn : Nat} {q : Queue} :
    s.receives qpn = some q ↔ s.queue? qpn = some q ∧ q.err = false ∧ (s.port q.port).state = 2 := by
  unfold State.receives
  cases s.queue? qpn with
  | none => simp
  | some r =>
    simp only [Option.some.injEq, Option.ite_none_left_eq_some, not_or, Bool.not_eq_true, not_not]
    constructor
    · rintro ⟨⟨he, hp⟩, rfl⟩
      exact ⟨rfl, he, hp⟩
    · rintro ⟨rfl, he, hp⟩
      exact ⟨⟨he, hp⟩, rfl⟩

theorem State.EgressOnly.receives {s t : State} (h : s.EgressOnly t) {n : Nat} {q : Queue} (hq : s.receives n = some q) :
    ∃ r, t.receives n = some r ∧ r.place = q.place := by
  obtain ⟨hf, he, hp⟩ := State.receives_eq_some.mp hq
  obtain ⟨r, hr, hrp⟩ := h.queue? hf
  simp only [Queue.place, Prod.mk.injEq] at hrp
  obtain ⟨hn, hc, hport, herr⟩ := hrp
  refine ⟨r, State.receives_eq_some.mpr ⟨hr, herr.trans he, ?_⟩, by simp only [Queue.place, hn, hc, hport, herr]⟩
  unfold State.port
  rw [h.ports, hport]
  exact hp

/-! ## The bytes of a window after a WRITE (R338) -/

section
variable {s : State} {qpn : Nat} {a : RdmaAddr} {q : Queue} {c : Ctx} {off len : Nat}

theorem State.windowAt_eq_some : s.windowAt q a len = some (c, off) ↔ s.ctx? q.ctx = some c ∧ a.rkey = c.rkey ∧
    c.base.toNat ≤ a.addr.toNat ∧ a.addr.toNat + len ≤ c.base.toNat + winSize c ∧ a.addr.toNat - c.base.toNat = off := by
  unfold State.windowAt
  cases s.ctx? q.ctx with
  | none => simp
  | some x =>
    simp only [Option.ite_none_right_eq_some, Option.some.injEq, Prod.mk.injEq]
    constructor
    · rintro ⟨⟨hk, hb, hl⟩, rfl, ho⟩
      exact ⟨rfl, hk, hb, hl, ho⟩
    · rintro ⟨rfl, hk, hb, hl, ho⟩
      exact ⟨⟨hk, hb, hl⟩, rfl, ho⟩

/-- Contexts after a window is set: the one has the new bytes, the others stay. -/
theorem State.ctx?_windowSet (w : Mem) (n : Nat) : (s.windowSet q c off len w).ctx? n =
    (s.ctx? n).map fun x => if x.num == c.num then { x with window := w } else x := by
  have hk := ((State.EgressOnly.refl ((s.countFrame q).updCtx c.num fun x => { x with window := w })).noteHeads c.num off len w).ctxs
  unfold State.ctx? State.windowSet
  rw [hk]
  exact find?_updWhere (f := fun x : Ctx => { x with window := w }) (fun _ => rfl) _

/-- A WRITE touches the places of queue pairs no more than egress does. -/
theorem State.receives_windowSet (w : Mem) (hr : s.receives qpn = some q) :
    ∃ r, (s.windowSet q c off len w).receives qpn = some r ∧ r.place = q.place :=
  ((State.EgressOnly.refl ((s.countFrame q).updCtx c.num fun x => { x with window := w })).noteHeads c.num off len w).receives hr

theorem State.windowBytes_windowSet_same (w : Mem) (hc : s.ctx? c.num = some c) : (s.windowSet q c off len w).windowBytes c.num = w := by
  unfold State.windowBytes
  rw [State.ctx?_windowSet, hc]
  simp

theorem State.windowBytes_windowSet_other (w : Mem) {n : Nat} (hn : n ≠ c.num) :
    (s.windowSet q c off len w).windowBytes n = s.windowBytes n := by
  unfold State.windowBytes
  rw [State.ctx?_windowSet]
  cases hx : s.ctx? n with
  | none => rfl
  | some x =>
    simp [State.ctx?_num hx, hn]

theorem State.windowAt_windowSet (w : Mem) {r : Queue} (hp : r.place = q.place) (hw : s.windowAt q a len = some (c, off)) (k : Nat) :
    (s.windowSet q c off k w).windowAt r a len = some ({ c with window := w }, off) := by
  obtain ⟨hc, hrest⟩ := State.windowAt_eq_some.mp hw
  refine State.windowAt_eq_some.mpr ⟨?_, hrest⟩
  have hctx : r.ctx = q.ctx := congrArg (fun p => p.2.1) hp
  rw [State.ctx?_windowSet, hctx, hc]
  simp

theorem State.out_post (n : Nat) (k : PostKind) (len : Nat) (imm : Bool) (s : State) : (s.post n k len imm).out = s.out := by
  unfold State.post
  cases s.queue? n <;> rfl

end

/-- Settles O16: the bytes set are the bytes written, and the queue pair still receives on its context. -/
theorem windowWriteReadsBack : Obligations.WindowWriteReadsBack := by
  unfold Obligations.WindowWriteReadsBack
  intro s qpn a data q c off hr hw hm
  obtain ⟨hc, -⟩ := State.windowAt_eq_some.mp hw
  have hnum : c.num = q.ctx := State.ctx?_num hc
  obtain ⟨r, hrr, hrp⟩ := State.receives_windowSet (c := c) (off := off) (len := data.length) (Mem.writeList c.window off data) hr
  have hbytes := State.windowBytes_windowSet_same (q := q) (off := off) (len := data.length) (Mem.writeList c.window off data) (hnum ▸ hc)
  refine ⟨(s.windowSet q c off data.length (Mem.writeList c.window off data)).emit (.writeAck qpn),
    congrArg (Host.Outcome.next ∘ State.resume) (State.rdmaWrite_inside hr hw), ?_, fun x hx => ?_, fun n hn => ?_, ?_⟩
  · exact (congrArg Mem.wf hbytes).trans (Mem.wf_writeList _ _ _ hm)
  · exact (congrArg (Mem.read · x) hbytes).trans (Mem.read_writeList_outside _ _ _ _ hx)
  · exact State.windowBytes_windowSet_other _ hn
  · refine ⟨_, congrArg Host.Outcome.next (State.rdmaRead_inside
      (s := (s.windowSet q c off data.length (Mem.writeList c.window off data)).emit (.writeAck qpn)) (q := r) hrr (State.windowAt_windowSet _ hrp hw _)), ?_⟩
    dsimp only [State.emit]
    rw [State.out_post, Mem.readList_writeList _ _ _ hm]
    rfl

/-! ## Refused window operations (R337, R338) -/

section
variable {s : State} {qpn : Nat} {q : Queue}

/-- A queue pair in the error state: what it had to send or take is gone (R337). -/
def Queue.failed (q : Queue) : Queue := { q with err := true, egress := [], posted := [], backlog := [], waiting := [] }

theorem State.queueError_spec (hq : s.queue? qpn = some q) (he : q.err = false) :
    (s.queueError qpn).host.ctxs = s.host.ctxs ∧ s.out ⊆ (s.queueError qpn).out ∧ ((s.queueError qpn).queue? qpn).map (·.err) = some true := by
  have h : (s.updQueue qpn Queue.failed).EgressOnly (s.queueError qpn) := by
    unfold State.queueError
    simp only [hq, he, Bool.false_eq_true, if_false]
    exact (((State.EgressOnly.refl _).dropWaiting ..).failFiring ..).count .. |>.raise ..
  have hf : (s.updQueue qpn Queue.failed).queue? qpn = some q.failed := by
    refine (find?_updWhere (f := Queue.failed) (fun _ => rfl) _).trans ?_
    rw [show s.host.queues.find? _ = some q from hq, Option.map_some, State.queue?_qpn hq, beq_self_eq_true, if_pos rfl]
  obtain ⟨r, hr, hp⟩ := h.queue? hf
  refine ⟨h.ctxs, h.out, ?_⟩
  rw [hr]
  exact congrArg (fun p => some p.2.2.2) hp

theorem State.refuseWindow_spec (hr : s.receives qpn = some q) :
    let t := (s.countFrame q).refuseWindow q
    t.host.ctxs = s.host.ctxs ∧ Output.accessNak qpn ∈ t.out ∧ (t.queue? qpn).map (·.err) = some true := by
  obtain ⟨hq, he, -⟩ := State.receives_eq_some.mp hr
  obtain ⟨hctxs, hout, herr⟩ := State.queueError_spec (s := (s.countFrame q).emit (.accessNak qpn)) hq he
  unfold State.refuseWindow
  rw [State.queue?_qpn hq]
  exact ⟨hctxs, hout List.mem_cons_self, herr⟩

end

section
variable {s : State} {qpn : Nat} {a : RdmaAddr} {q : Queue} (hr : s.receives qpn = some q)
include hr

theorem State.rdmaWrite_outside {data : List Byte} (hw : s.windowAt q a data.length = none) :
    s.rdmaWrite qpn a data = (s.countFrame q).refuseWindow q := by
  have hw' : (s.countFrame q).windowAt q a data.length = none := hw
  unfold State.rdmaWrite
  simp only [hr, hw']

theorem State.rdmaRead_outside {len : Nat} (hw : s.windowAt q a len = none) :
    s.rdmaRead qpn a len = (s.countFrame q).refuseWindow q := by
  have hw' : (s.countFrame q).windowAt q a len = none := hw
  unfold State.rdmaRead
  simp only [hr, hw']

theorem State.atomic_outside (f : Nat → Nat) (ha : a.addr.toNat % 8 = 0) (hw : s.windowAt q a 8 = none) :
    s.atomic qpn a f = (s.countFrame q).refuseWindow q := by
  have hw' : (s.countFrame q).windowAt q a 8 = none := hw
  unfold State.atomic
  simp only [hr, ha, ne_eq, not_true_eq_false, if_false, hw']

end

/-- Settles O17: a wrong key or a byte outside gives no window, and every operation without a window is refused the same way. -/
theorem windowRefusesStrangers : Obligations.WindowRefusesStrangers := by
  unfold Obligations.WindowRefusesStrangers
  intro s qpn a q c hr hc strange
  have hnone (len : Nat) (h : strange len) : s.windowAt q a len = none := by
    have hout : ¬ (a.rkey = c.rkey ∧ c.base.toNat ≤ a.addr.toNat ∧ a.addr.toNat + len ≤ c.base.toNat + winSize c) := by
      rintro ⟨hk, hb, hl⟩
      rcases h with h | h | h
      · exact h hk
      · exact absurd hb (Nat.not_le.mpr h)
      · exact absurd hl (Nat.not_le.mpr h)
    unfold State.windowAt
    rw [hc]
    exact if_neg hout
  obtain ⟨hctxs, hout, herr⟩ := State.refuseWindow_spec hr
  refine ⟨(s.countFrame q).refuseWindow q, hctxs, hout, herr, fun data h => ?_, fun len h => ?_, fun add ha h => ?_, fun cmp swap ha h => ?_⟩
  · exact congrArg (Host.Outcome.next ∘ State.resume) (State.rdmaWrite_outside hr (hnone _ h))
  · exact congrArg Host.Outcome.next (State.rdmaRead_outside hr (hnone _ h))
  · exact congrArg (Host.Outcome.next ∘ State.resume) (State.atomic_outside hr _ ha (hnone _ h))
  · exact congrArg (Host.Outcome.next ∘ State.resume) (State.atomic_outside hr _ ha (hnone _ h))

end Sys2Proof.Machine
end

section
/-! SUPPORT. The registers that command ports, gates and links: a bit written takes its effect or is ignored by the rules of its block
(00_scope.md R11; 12_host_ports.md R333, R346, R348, R353; 13_chainline_fabric.md R356, R358, R365, R369). -/

namespace Sys2Proof.Machine

/-! ## A bit written -/

def Reg.portUnit : Reg → Bool
  | .hptPortCtl _ | .hptPortGctl _ | .hptMportCtl | .fabGctl | .fabLinkCtl _ => true
  | _ => false

theorem Reg.portUnit_clears {r : Reg} (h : r.portUnit = true) : r.mask (fun f => f.acc == .rw1c) = 0 := by
  cases r
  case hptPortCtl n => rfl
  case hptPortGctl n => rfl
  case hptMportCtl => rfl
  case fabGctl => rfl
  case fabLinkCtl n => rfl
  all_goals cases h

theorem Reg.portUnit_unguarded {r : Reg} (h : r.portUnit = true) : r.guarded = false := by
  cases r
  case hptPortCtl n => rfl
  case hptPortGctl n => rfl
  case hptMportCtl => rfl
  case fabGctl => rfl
  case fabLinkCtl n => rfl
  all_goals cases h

/-- A register that commands a port, a gate or a link has an RW field of one bit at `lo`. -/
structure Reg.PortBit (r : Reg) (lo : Nat) : Prop where
  portUnit : r.portUnit = true
  inRange : r.inRange = true
  field : ∃ fp, (⟨lo, 1, .rw, 0, 0, 1, fp⟩ : Fld) ∈ r.fields

theorem Reg.portBit_hptPortCtl (n : Fin 4) : (Reg.hptPortCtl n).PortBit 0 := ⟨rfl, decide_eq_true n.isLt, false, by simp [Reg.fields, Fld.rwx]⟩

theorem Reg.portBit_hptPortGctl (n : Fin 4) : (Reg.hptPortGctl n).PortBit 0 := ⟨rfl, decide_eq_true n.isLt, true, by simp [Reg.fields, Fld.rw]⟩

theorem Reg.portBit_hptMportCtl : Reg.hptMportCtl.PortBit 0 := ⟨rfl, rfl, false, by decide⟩

theorem Reg.portBit_fabGctl : Reg.fabGctl.PortBit 0 := ⟨rfl, rfl, true, by decide⟩

theorem Reg.portBit_fabLinkCtl (n : Fin 48) {lo : Nat} (h : lo < 2) : (Reg.fabLinkCtl n).PortBit lo := by
  refine ⟨rfl, decide_eq_true n.isLt, false, ?_⟩
  have hlo : lo = 0 ∨ lo = 1 := by omega
  rcases hlo with rfl | rfl <;> simp [Reg.fields, Fld.rwx]

/-- A word that writes one RW bit has no WO bit that acts. -/
theorem State.writeOnly_portBit {r : Reg} {lo : Nat} (hb : r.PortBit lo) (s u : State) (v : Nat) :
    u.writeOnly r (s.fieldWord r lo 1 v) false = (.nothing, u) := by
  obtain ⟨hm, hr, fp, hf⟩ := hb
  cases r
  case hptPortCtl n => rfl
  case hptPortGctl n => rfl
  case hptMportCtl => rfl
  case fabGctl => rfl
  case fabLinkCtl n =>
    have hz : bits (s.fieldWord (.fabLinkCtl n) lo 1 v) 2 1 = 0 :=
      State.bits_fieldWord_other s hf (g := Fld.wo 2 1) (by simp [Reg.fields]) (by simp [Fld.wo]) v
    have hbit : bit (s.fieldWord (.fabLinkCtl n) lo 1 v) 2 = false := decide_eq_false (hz.trans_ne Nat.zero_ne_one)
    simp only [State.writeOnly, hbit, Bool.false_eq_true, if_false]
  all_goals cases hm

/-- A write ends ignored where a field that it sets is out of its range or the rules of the block refuse it. -/
theorem State.judge_ignored {s : State} {r : Reg} {v : Nat} (hset : setFields r (s.kept r) v ≠ [])
    (hlock : s.locked = true → ∀ f ∈ setFields r (s.kept r) v, f.acc ≠ .rwl)
    (h : (∃ f ∈ setFields r (s.kept r) v, bits v f.lo f.w < f.mn ∨ f.mx < bits v f.lo f.w) ∨
      s.blockOk r (s.kept r) (r.merged (s.kept r) v) = false) : s.judge r v = .ignored := by
  have hl : ¬ (s.locked = true ∧ (setFields r (s.kept r) v).any (fun f => f.acc == .rwl) = true) := by
    rintro ⟨hk, ha⟩
    obtain ⟨f, hf, he⟩ := List.any_eq_true.mp ha
    exact hlock hk f hf (by simpa using he)
  simp only [State.judge_eq, if_neg hset, if_neg hl]
  rcases h with ⟨f, hf, ho⟩ | h
  · exact if_pos (List.any_eq_true.mpr ⟨f, hf, decide_eq_true ho⟩)
  · simp [h]

theorem State.writeReg_ignored {s : State} {r : Reg} {v : Nat} (hat : Reg.at? r.offset = some r) (hro : r.readOnly = false)
    (hc : r.mask (fun f => f.acc == .rw1c) = 0) (hj : s.judge r v = .ignored) (path : Path) (locked : Bool) :
    (s.writeReg path r.offset v locked).2 = s := by
  rw [State.writeReg_state hat hro hc, State.writeFields_ignored path hj, if_pos rfl]

section
variable {s : State} {path : Path} {r : Reg} {lo v : Nat} (ht : s.takesWrites path = true) (hb : r.PortBit lo)
include ht hb

theorem State.writeField_portBit_same (h : s.rf r lo 1 = v) : s.writeField path r lo 1 v = s := by
  obtain ⟨fp, hf⟩ := hb.field
  exact (State.writeField_same (f := ⟨lo, 1, .rw, 0, 0, 1, fp⟩) ht hb.inRange (Reg.portUnit_clears hb.portUnit) hf rfl h).trans
    (congrArg Prod.snd (State.writeOnly_portBit hb s s v))

variable (hv : v < 2) (h : s.rf r lo 1 ≠ v)
include hv h

theorem State.writeField_portBit_set (hok : s.blockOk r (s.kept r) (setBits (s.kept r) lo 1 v) = true) :
    s.writeField path r lo 1 v = (s.setRf r lo 1 v).effects r (s.kept r) (setBits (s.kept r) lo 1 v) := by
  obtain ⟨fp, hf⟩ := hb.field
  have hrange : 0 ≤ v ∧ v ≤ 1 := by omega
  exact (State.writeField_set (f := ⟨lo, 1, .rw, 0, 0, 1, fp⟩) ht hb.inRange (Reg.portUnit_clears hb.portUnit)
    (Reg.portUnit_unguarded hb.portUnit) hf rfl hv h (.inl rfl) hrange hok).trans (congrArg Prod.snd (State.writeOnly_portBit hb s _ v))

theorem State.writeField_portBit_blocked (hno : s.blockOk r (s.kept r) (setBits (s.kept r) lo 1 v) = false) :
    s.writeField path r lo 1 v = s := by
  obtain ⟨fp, hf⟩ := hb.field
  have hset := State.setFields_fieldWord hf rfl hv h
  have hbit : bits (s.fieldWord r lo 1 v) lo 1 = v := (State.bits_fieldWord_same _ _ _ _ _).trans (Nat.mod_eq_of_lt hv)
  have hj : s.judge r (s.fieldWord r lo 1 v) = .ignored := by
    simp [State.judge_eq, Reg.merged, setAll, hset, hbit, hno]
  rw [State.writeField_of_takes ht, State.writeReg_ignored (Reg.at?_offset (Reg.mem_all_of_inRange hb.inRange))
    (Reg.readOnly_of_settable hf rfl) (Reg.portUnit_clears hb.portUnit) hj]

end

/-! ## The rules of gates -/

/-- A cycle starts where its entries last. -/
theorem gateCtlOk_start (s : State) (ent : Nat → Reg) {old : Nat} (h : bits old 0 1 = 0) :
    gateCtlOk s ent old (setBits old 0 1 1) = gateTimes s ent (bits old 4 5) := by
  have hn : bits (setBits old 0 1 1) 4 5 = bits old 4 5 := bits_setBits_disjoint _ _ _ _ _ _ (.inl (by decide))
  simp [gateCtlOk, h, hn, bits_setBits]

/-- A cycle that runs may stop. -/
theorem gateCtlOk_stop (s : State) (ent : Nat → Reg) {old : Nat} (h : bits old 0 1 = 1) : gateCtlOk s ent old (setBits old 0 1 0) = true := by
  have hn : bits (setBits old 0 1 0) 4 5 = bits old 4 5 := bits_setBits_disjoint _ _ _ _ _ _ (.inl (by decide))
  simp [gateCtlOk, h, hn]

end Sys2Proof.Machine
end

section
/-! PROOFS. Writes of EN, FENCE, RESTORE, gates, shapers and NODE_VALID command ports and links (12_host_ports.md R333, R346, R348, R353;
13_chainline_fabric.md R356, R358, R365, R369, R390; 14_partitions_and_trust.md R398). -/

namespace Sys2Proof.Machine

/-! ## Host ports and MPORT (R333, R353) -/

/-- The write of a port's EN leaves the priorities for which it takes PFC frames. -/
theorem bit_setBits_above (old v : Nat) {k : Nat} (h : 0 < k) : bit (setBits old 0 1 v) k = bit old k := by
  have hk : bits (setBits old 0 1 v) k 1 = bits old k 1 := bits_setBits_disjoint _ _ _ _ _ _ (.inl h)
  exact congrArg (fun x => decide (x = 1)) hk

section
variable {s : State} {path : Path} (ht : s.takesWrites path = true)
include ht

section
variable (n : Fin 4)

theorem State.writeField_portEn_on (h : s.rf (.hptPortCtl n) 0 1 = 0) :
    s.writeField path (.hptPortCtl n) 0 1 1 = ((s.setRf (.hptPortCtl n) 0 1 1).updPort n fun p => { p with
      paused := p.paused.filter fun k => bit (s.kept (.hptPortCtl n)) (8 + k)
      xoffs := p.xoffs.filter fun k => bit (s.kept (.hptPortCtl n)) (8 + k) }).portEnabled n := by
  rw [State.writeField_portBit_set ht (Reg.portBit_hptPortCtl n) Nat.one_lt_two (h.trans_ne Nat.zero_ne_one) rfl]
  simp [State.effects, went_setBits_one h, bit_setBits_above]

theorem State.writeField_portEn_off (h : s.rf (.hptPortCtl n) 0 1 = 1) :
    s.writeField path (.hptPortCtl n) 0 1 0 = ((s.setRf (.hptPortCtl n) 0 1 0).updPort n fun p => { p with
      paused := p.paused.filter fun k => bit (s.kept (.hptPortCtl n)) (8 + k)
      xoffs := p.xoffs.filter fun k => bit (s.kept (.hptPortCtl n)) (8 + k) }).portDisabled n := by
  rw [State.writeField_portBit_set ht (Reg.portBit_hptPortCtl n) Nat.two_pos (h.trans_ne Nat.one_ne_zero) rfl]
  simp [State.effects, went_setBits_zero, fell_setBits_zero h, bit_setBits_above]

end

theorem State.writeField_mportEn (on : Bool) (h : s.rf .hptMportCtl 0 1 ≠ b2n on) :
    s.writeField path .hptMportCtl 0 1 (b2n on) = (s.setRf .hptMportCtl 0 1 (b2n on)).mportSet on := by
  rw [State.writeField_portBit_set ht Reg.portBit_hptMportCtl (b2n_lt_two on) h rfl]
  have hold := bits_one_eq (s.kept .hptMportCtl) 0
  cases on
  · simp [State.effects, b2n, went_setBits_zero, fell_setBits_zero (hold.resolve_left h)]
  · simp [State.effects, b2n, went_setBits_one (hold.resolve_right h)]

/-! ## Gate cycles (R348, R356, R365) -/

section
variable (n : Fin 4)

theorem State.writeField_hostGate_on (h : s.rf (.hptPortGctl n) 0 1 = 0)
    (hg : gateTimes s (.hptPortGent n) (s.rf (.hptPortGctl n) 4 5) = true) :
    s.writeField path (.hptPortGctl n) 0 1 1 = (s.setRf (.hptPortGctl n) 0 1 1).hostGate n true := by
  rw [State.writeField_portBit_set ht (Reg.portBit_hptPortGctl n) Nat.one_lt_two (h.trans_ne Nat.zero_ne_one)
    ((gateCtlOk_start s (.hptPortGent n) h).trans hg)]
  simp [State.effects, went_setBits_one h]

theorem State.writeField_hostGate_blocked (h : s.rf (.hptPortGctl n) 0 1 = 0)
    (hg : gateTimes s (.hptPortGent n) (s.rf (.hptPortGctl n) 4 5) = false) : s.writeField path (.hptPortGctl n) 0 1 1 = s :=
  State.writeField_portBit_blocked ht (Reg.portBit_hptPortGctl n) Nat.one_lt_two (h.trans_ne Nat.zero_ne_one)
    ((gateCtlOk_start s (.hptPortGent n) h).trans hg)

theorem State.writeField_hostGate_off (h : s.rf (.hptPortGctl n) 0 1 = 1) :
    s.writeField path (.hptPortGctl n) 0 1 0 = (s.setRf (.hptPortGctl n) 0 1 0).hostGate n false := by
  rw [State.writeField_portBit_set ht (Reg.portBit_hptPortGctl n) Nat.two_pos (h.trans_ne Nat.one_ne_zero)
    (gateCtlOk_stop s (.hptPortGent n) h)]
  simp [State.effects, went_setBits_zero, fell_setBits_zero h]

end

theorem State.writeField_fabricGate_on (h : s.rf .fabGctl 0 1 = 0) (hg : gateTimes s .fabGent (s.rf .fabGctl 4 5) = true) :
    s.writeField path .fabGctl 0 1 1 = (s.setRf .fabGctl 0 1 1).fabricGate true := by
  rw [State.writeField_portBit_set ht Reg.portBit_fabGctl Nat.one_lt_two (h.trans_ne Nat.zero_ne_one)
    ((gateCtlOk_start s .fabGent h).trans hg)]
  simp [State.effects, went_setBits_one h]

theorem State.writeField_fabricGate_blocked (h : s.rf .fabGctl 0 1 = 0) (hg : gateTimes s .fabGent (s.rf .fabGctl 4 5) = false) :
    s.writeField path .fabGctl 0 1 1 = s :=
  State.writeField_portBit_blocked ht Reg.portBit_fabGctl Nat.one_lt_two (h.trans_ne Nat.zero_ne_one)
    ((gateCtlOk_start s .fabGent h).trans hg)

theorem State.writeField_fabricGate_off (h : s.rf .fabGctl 0 1 = 1) :
    s.writeField path .fabGctl 0 1 0 = (s.setRf .fabGctl 0 1 0).fabricGate false := by
  rw [State.writeField_portBit_set ht Reg.portBit_fabGctl Nat.two_pos (h.trans_ne Nat.one_ne_zero) (gateCtlOk_stop s .fabGent h)]
  simp [State.effects, went_setBits_zero, fell_setBits_zero h]

/-! ## Links (R358, R369) -/

section
variable (n : Fin 48)

theorem State.writeField_linkEn_on (h : s.rf (.fabLinkCtl n) 0 1 = 0) (hf : s.rf (.fabLinkCtl n) 1 1 = 0) :
    s.writeField path (.fabLinkCtl n) 0 1 1 = (s.setRf (.fabLinkCtl n) 0 1 1).linkEnabled n := by
  have hfence : bits (setBits (s.kept (.fabLinkCtl n)) 0 1 1) 1 1 = 0 := (bits_setBits_disjoint _ _ _ _ _ _ (.inl (Nat.le_refl _))).trans hf
  rw [State.writeField_portBit_set ht (Reg.portBit_fabLinkCtl n Nat.two_pos) Nat.one_lt_two (h.trans_ne Nat.zero_ne_one)
    (by simp [State.blockOk, enFenceOk, hfence])]
  simp [State.effects, went_setBits_apart, went_setBits_one h]

theorem State.writeField_linkEn_fenced (h : s.rf (.fabLinkCtl n) 0 1 = 0) (hf : s.rf (.fabLinkCtl n) 1 1 = 1) :
    s.writeField path (.fabLinkCtl n) 0 1 1 = s := by
  have hfence : bits (setBits (s.kept (.fabLinkCtl n)) 0 1 1) 1 1 = 1 := (bits_setBits_disjoint _ _ _ _ _ _ (.inl (Nat.le_refl _))).trans hf
  refine State.writeField_portBit_blocked ht (Reg.portBit_fabLinkCtl n Nat.two_pos) Nat.one_lt_two (h.trans_ne Nat.zero_ne_one) ?_
  simp [State.blockOk, enFenceOk, bits_setBits, show bits (s.kept (.fabLinkCtl n)) 0 1 = 0 from h, hfence]

theorem State.writeField_linkEn_off (h : s.rf (.fabLinkCtl n) 0 1 = 1) :
    s.writeField path (.fabLinkCtl n) 0 1 0 = (s.setRf (.fabLinkCtl n) 0 1 0).linkDisabled n := by
  rw [State.writeField_portBit_set ht (Reg.portBit_fabLinkCtl n Nat.two_pos) Nat.two_pos (h.trans_ne Nat.one_ne_zero)
    (by simp [State.blockOk, enFenceOk, bits_setBits])]
  simp [State.effects, went_setBits_apart, went_setBits_zero, fell_setBits_zero h]

theorem State.writeField_linkFence (h : s.rf (.fabLinkCtl n) 1 1 = 0) :
    s.writeField path (.fabLinkCtl n) 1 1 1 = (s.setRf (.fabLinkCtl n) 1 1 1).linkFenced n := by
  rw [State.writeField_portBit_set ht (Reg.portBit_fabLinkCtl n Nat.one_lt_two) Nat.one_lt_two (h.trans_ne Nat.zero_ne_one)
    (enFenceOk_apart _ 1 Nat.one_ne_zero)]
  simp [State.effects, went_setBits_apart, fell_setBits_apart, went_setBits_one h]

theorem State.writeField_linkRestore (locked : Bool) : s.writeField path (.fabLinkCtl n) 2 1 1 locked = s.linkRestored n locked := by
  have hj : s.judge (.fabLinkCtl n) (s.fieldWord (.fabLinkCtl n) 2 1 1) = .nothing :=
    State.judge_fieldWord_wo (f := Fld.wo 2 1) (by simp [Reg.fields]) rfl
  have hb : bit (s.fieldWord (.fabLinkCtl n) 2 1 1) 2 = true := decide_eq_true (State.bits_fieldWord_same s (.fabLinkCtl n) 2 1 1)
  rw [State.writeField_of_takes ht, State.writeReg_nothing (Reg.at?_offset (Reg.mem_all_of_inRange (r := .fabLinkCtl n) (decide_eq_true n.isLt)))
    rfl rfl hj]
  simp only [State.writeOnly, hb, if_true]

end

end

/-! ## Shapers (R346) -/

theorem State.rf_keep_same (r : Reg) (v lo w : Nat) (s : State) (h : lo + w ≤ 32) : (s.keep r v).rf r lo w = bits v lo w := by
  unfold State.rf
  rw [← bits_mod _ lo w h, State.kept_keep_mod, bits_mod _ lo w h]

/-- A state that differs in registers and the ports' tokens alone. -/
def State.PortsOnly (s t : State) : Prop := { t with regs := s.regs, host := { t.host with ports := s.host.ports } } = s

theorem State.PortsOnly.refl (s : State) : s.PortsOnly s := rfl

theorem State.PortsOnly.keep {s u : State} (h : s.PortsOnly u) (r : Reg) (v : Nat) : s.PortsOnly (u.keep r v) := by
  unfold State.PortsOnly State.keep
  exact h

theorem State.accrue_portsOnly (n : Nat) (s : State) : s.PortsOnly (s.accrue n) := by
  unfold State.accrue
  dsimp only
  split <;> rfl

section
variable {s : State} {path : Path} {n : Fin 4} {c : Fin 8} {x : Nat}

theorem mem_hptShp_fields {f : Fld} : f ∈ (Reg.hptShp n c).fields ↔ f = .rw 0 16 ∨ f = .rw 16 14 64 5 ∨ f = .rw 30 1 1 := by
  simp [Reg.fields]

theorem hptShp_not_rwl {f : Fld} (h : f ∈ setFields (.hptShp n c) (s.kept (.hptShp n c)) x) : f.acc ≠ .rwl := by
  rcases mem_hptShp_fields.mp (mem_setFields.mp h).1 with rfl | rfl | rfl <;> decide

theorem Reg.inRange_hptShp (n : Fin 4) (c : Fin 8) : (Reg.hptShp n c).inRange = true := by
  simp [Reg.inRange, n.isLt, c.isLt]

theorem Reg.at?_hptShp (n : Fin 4) (c : Fin 8) : Reg.at? (Reg.hptShp n c).offset = some (.hptShp n c) :=
  Reg.at?_offset (Reg.mem_all_of_inRange (Reg.inRange_hptShp n c))

/-- A rate and burst in range meet the rules of a shaper. -/
theorem State.judge_hptShp_ok (hset : setFields (.hptShp n c) (s.kept (.hptShp n c)) x ≠ [])
    (hr : bits x 0 16 ≤ modeRate (s.rf (.hptPortCtl n) 2 3)) (hb : 5 ≤ bits x 16 14) :
    s.judge (.hptShp n c) x = .ok ((Reg.hptShp n c).merged (s.kept (.hptShp n c)) x) := by
  refine State.judge_ok hset (fun _ f hf => hptShp_not_rwl hf) (fun f hf => ?_) ?_
  · rcases mem_hptShp_fields.mp (mem_setFields.mp hf).1 with rfl | rfl | rfl
    · exact ⟨Nat.zero_le _, Nat.le_sub_one_of_lt (bits_lt x 0 16)⟩
    · exact ⟨hb, Nat.le_sub_one_of_lt (bits_lt x 16 14)⟩
    · exact ⟨Nat.zero_le _, Nat.le_sub_one_of_lt (bits_lt x 30 1)⟩
  · have hm := Reg.bits_merged (.hptShp n c) (s.kept (.hptShp n c)) x (f := .rw 0 16) (mem_hptShp_fields.mpr (.inl rfl))
    have hm : bits ((Reg.hptShp n c).merged (s.kept (.hptShp n c)) x) 0 16 = bits x 0 16 := hm
    simp [State.blockOk, hm, hr]

/-- A shaper's write that is taken brings the tokens up to date first. -/
theorem State.writeReg_hptShp_ok {new : Nat} (path : Path) (hj : s.judge (.hptShp n c) x = .ok new) :
    (s.writeReg path (Reg.hptShp n c).offset x).2 =
      ((s.accrue n).keep (.hptShp n c) new).effects (.hptShp n c) (s.kept (.hptShp n c)) new := by
  have hw : s.writeFields path (.hptShp n c) x =
      (.applied, ((s.accrue n).keep (.hptShp n c) new).effects (.hptShp n c) (s.kept (.hptShp n c)) new) := by
    unfold State.writeFields
    rw [hj]
    simp [State.drainRefusedBy]
  rw [State.writeReg_state (Reg.at?_hptShp n c) rfl rfl, hw]
  rfl

theorem State.effects_hptShp_regs (u : State) (old new : Nat) : (u.effects (.hptShp n c) old new).regs = u.regs := by
  simp only [State.effects]
  split <;> rfl

theorem State.effects_hptShp_portsOnly {u : State} (h : s.PortsOnly u) (old new : Nat) : s.PortsOnly (u.effects (.hptShp n c) old new) := by
  simp only [State.effects]
  split <;> exact h

/-- The fields read back, and only tokens change beside them. -/
theorem State.writeReg_hptShp (path : Path) (hr : bits x 0 16 ≤ modeRate (s.rf (.hptPortCtl n) 2 3)) (hb : 5 ≤ bits x 16 14) :
    let t := (s.writeReg path (Reg.hptShp n c).offset x).2
    (∀ f ∈ (Reg.hptShp n c).fields, t.rf (.hptShp n c) f.lo f.w = bits x f.lo f.w) ∧ s.PortsOnly t := by
  have hs {f : Fld} (hf : f ∈ (Reg.hptShp n c).fields) : f.settable = true := by
    rcases mem_hptShp_fields.mp hf with rfl | rfl | rfl <;> rfl
  by_cases hset : setFields (.hptShp n c) (s.kept (.hptShp n c)) x = []
  · have hj : s.judge (.hptShp n c) x = .nothing := by simp only [State.judge_eq, hset, if_true]
    have he : (s.writeReg path (Reg.hptShp n c).offset x).2 = s := State.writeReg_nothing (Reg.at?_hptShp n c) rfl rfl hj path false
    rw [he]
    refine ⟨fun f hf => ?_, State.PortsOnly.refl s⟩
    by_contra hne
    exact List.ne_nil_of_mem (mem_setFields.mpr ⟨hf, hs hf, Ne.symm hne⟩) hset
  · rw [State.writeReg_hptShp_ok path (State.judge_hptShp_ok hset hr hb)]
    refine ⟨fun f hf => ?_, State.effects_hptShp_portsOnly ((State.accrue_portsOnly n s).keep _ _) _ _⟩
    rw [State.rf_congr (State.effects_hptShp_regs _ _ _), State.rf_keep_same _ _ _ _ _ (Reg.field_le_32 hf), Reg.bits_merged _ _ _ hf,
      if_pos (hs hf)]

theorem State.writeReg_hptShp_ignored (path : Path)
    (h : (modeRate (s.rf (.hptPortCtl n) 2 3) < bits x 0 16 ∧ bits x 0 16 ≠ s.rf (.hptShp n c) 0 16) ∨
      (bits x 16 14 < 5 ∧ bits x 16 14 ≠ s.rf (.hptShp n c) 16 14)) : (s.writeReg path (Reg.hptShp n c).offset x).2 = s := by
  refine State.writeReg_ignored (Reg.at?_hptShp n c) rfl rfl ?_ path false
  have hlock : s.locked = true → ∀ f ∈ setFields (.hptShp n c) (s.kept (.hptShp n c)) x, f.acc ≠ .rwl := fun _ f hf => hptShp_not_rwl hf
  rcases h with ⟨hrate, hne⟩ | ⟨hburst, hne⟩
  · have hf : Fld.rw 0 16 ∈ (Reg.hptShp n c).fields := mem_hptShp_fields.mpr (.inl rfl)
    have hset : Fld.rw 0 16 ∈ setFields (.hptShp n c) (s.kept (.hptShp n c)) x := mem_setFields.mpr ⟨hf, rfl, hne⟩
    have hm : bits ((Reg.hptShp n c).merged (s.kept (.hptShp n c)) x) 0 16 = bits x 0 16 := Reg.bits_merged _ _ _ hf
    refine State.judge_ignored (List.ne_nil_of_mem hset) hlock (.inr ?_)
    have hne : bits x 0 16 ≠ bits (s.kept (.hptShp n c)) 0 16 := hne
    simp [State.blockOk, hm, hne, hrate, c.isLt]
  · have hset : Fld.rw 16 14 64 5 ∈ setFields (.hptShp n c) (s.kept (.hptShp n c)) x :=
      mem_setFields.mpr ⟨mem_hptShp_fields.mpr (.inr (.inl rfl)), rfl, hne⟩
    exact State.judge_ignored (List.ne_nil_of_mem hset) hlock (.inl ⟨_, hset, .inl hburst⟩)

end

/-! ## NODE_VALID (R390, R398) -/

/-- A system frame written leaves the trust core alone. -/
theorem State.sysWrite_trust (k : FrameKind) (d : DieId) (s : State) : (s.sysWrite k d).2.trust = s.trust := by
  have hblock {b : Nat} {u : State} (h : s.sysBlock k d = some (b, u)) : u.trust = s.trust := by
    unfold State.sysBlock at h
    dsimp only at h
    repeat' split at h
    all_goals cases h <;> rfl
  unfold State.sysWrite
  split
  · rfl
  · split
    · rfl
    · next b u hu => exact (hblock hu :)

theorem State.securityChanged_trust (s : State) : s.securityChanged.trust = s.trust := by
  unfold State.securityChanged State.writeAnchors anchorDies
  split
  · simp only [List.foldl_cons, List.foldl_nil, State.sysWrite_trust]
  · rfl

theorem State.lightLinks_trust (s : State) : s.lightLinks.trust = s.trust := by
  unfold State.lightLinks
  generalize List.range 48 = l
  induction l generalizing s with
  | nil => rfl
  | cons n l ih =>
    refine (ih _).trans ?_
    dsimp only
    split
    · unfold State.linkEnabled
      split <;> rfl
    · rfl

theorem State.nodeId_nodeValidated (s : State) :
    s.nodeValidated.trust.nodeId = some (s.trust.nodeId.getD (BitVec.ofNat 12 (s.rf .fabNode 0 12))) := by
  unfold State.nodeValidated
  dsimp only
  rw [State.lightLinks_trust]
  cases hn : s.trust.nodeId with
  | some n => simp [hn]
  | none => simp [State.securityChanged_trust]

section
variable {s : State} {id : NodeId} {v : Nat}

theorem mem_fabNode_fields {f : Fld} : f ∈ Reg.fabNode.fields ↔ f = .rwlx 0 12 ∨ f = .rwlx 12 1 := by simp [Reg.fields]

theorem Reg.at?_fabNode : Reg.at? Reg.fabNode.offset = some .fabNode := Reg.at?_offset (Reg.mem_all_of_inRange rfl)

/-- NODE_VALID stays: a write once it is set does nothing. -/
theorem State.writeReg_fabNode_valid (path : Path) (hl : s.locked = false) (h : s.rf .fabNode 12 1 = 1) (v : Nat) :
    (s.writeReg path Reg.fabNode.offset v).2 = s := by
  by_cases hset : setFields .fabNode (s.kept .fabNode) v = []
  · exact State.writeReg_nothing Reg.at?_fabNode rfl rfl (by simp only [State.judge_eq, hset, if_true]) path false
  · refine State.writeReg_ignored Reg.at?_fabNode rfl rfl (State.judge_ignored hset (by simp [hl]) (.inr ?_)) path false
    simp [State.blockOk, show bits (s.kept .fabNode) 12 1 = 1 from h]

theorem Reg.bits_merged_fabNode {f : Fld} (hf : f ∈ Reg.fabNode.fields) (old v : Nat) :
    bits (Reg.fabNode.merged old v) f.lo f.w = bits v f.lo f.w := by
  rw [Reg.bits_merged _ _ _ hf, if_pos (by rcases mem_fabNode_fields.mp hf with rfl | rfl <;> rfl)]

/-- The word that a write with NODE_VALID set leaves in the register. -/
theorem bits_fabNode (old : Nat) (hid : bits v 0 12 = id.toNat) (hval : bits v 12 1 = 1) :
    bits (Reg.fabNode.merged old v) 0 12 = id.toNat ∧ bits (Reg.fabNode.merged old v) 12 1 = 1 := by
  have hm := Reg.bits_merged_fabNode (f := .rwlx 0 12) (mem_fabNode_fields.mpr (.inl rfl)) old v
  have hv := Reg.bits_merged_fabNode (f := .rwlx 12 1) (mem_fabNode_fields.mpr (.inr rfl)) old v
  exact ⟨hm.trans hid, hv.trans hval⟩

variable (path : Path) (hl : s.locked = false) (h : s.rf .fabNode 12 1 = 0) (hid : bits v 0 12 = id.toNat) (hval : bits v 12 1 = 1)
include hl h hval

theorem State.judge_fabNode_ok : s.judge .fabNode v = .ok (Reg.fabNode.merged (s.kept .fabNode) v) := by
  have h : bits (s.kept .fabNode) 12 1 = 0 := h
  have hset : Fld.rwlx 12 1 ∈ setFields .fabNode (s.kept .fabNode) v :=
    mem_setFields.mpr ⟨mem_fabNode_fields.mpr (.inr rfl), rfl, fun e => Nat.one_ne_zero (hval.symm.trans (e.trans h))⟩
  refine State.judge_ok (List.ne_nil_of_mem hset) (by simp [hl]) (fun f hf => ?_) ?_
  · rcases mem_fabNode_fields.mp (mem_setFields.mp hf).1 with rfl | rfl
    · exact ⟨Nat.zero_le _, Nat.le_sub_one_of_lt (bits_lt v 0 12)⟩
    · exact ⟨Nat.zero_le _, Nat.le_sub_one_of_lt (bits_lt v 12 1)⟩
  · simp [State.blockOk, h]

include hid

theorem State.writeReg_fabNode_set (hsame : ∀ n, s.trust.nodeId = some n → n = id) :
    (s.writeReg path Reg.fabNode.offset v).2 = (s.keep .fabNode (Reg.fabNode.merged (s.kept .fabNode) v)).nodeValidated := by
  obtain ⟨hm, hv⟩ := bits_fabNode (s.kept .fabNode) hid hval
  have ho : s.otherId (Reg.fabNode.merged (s.kept .fabNode) v) = false := by
    unfold State.otherId
    cases hn : s.trust.nodeId with
    | none => simp
    | some n => simp [hm, hsame n hn]
  have hw : s.writeFields path .fabNode v =
      (.applied, (s.keep .fabNode (Reg.fabNode.merged (s.kept .fabNode) v)).nodeValidated) := by
    unfold State.writeFields
    rw [State.judge_fabNode_ok hl h hval]
    simp [ho, State.drainRefusedBy, State.effects, went, hv, show bits (s.kept .fabNode) 12 1 = 0 from h]
  rw [State.writeReg_state Reg.at?_fabNode rfl rfl, hw]
  rfl

theorem State.writeReg_fabNode_other {n : NodeId} (hn : s.trust.nodeId = some n) (hne : n ≠ id) :
    (s.writeReg path Reg.fabNode.offset v).2 = s.note ⟨10, 4, 0, 0xFF, 0, []⟩ := by
  obtain ⟨hm, hv⟩ := bits_fabNode (s.kept .fabNode) hid hval
  have ho : s.otherId (Reg.fabNode.merged (s.kept .fabNode) v) = true := by
    have hid : n.toNat ≠ id.toNat := fun e => hne (BitVec.eq_of_toNat_eq e)
    simp [State.otherId, hn, hm, hv, hid]
  have hw : s.writeFields path .fabNode v = (.ignored, s.note ⟨10, 4, 0, 0xFF, 0, []⟩) := by
    unfold State.writeFields
    rw [State.judge_fabNode_ok hl h hval]
    simp [ho]
  rw [State.writeReg_state Reg.at?_fabNode rfl rfl, hw, if_pos rfl]

end

/-- The word that NODE_VALID_SET writes. -/
theorem exec_nodeValidSet_word (path : Path) (id : NodeId) (s : State) : ∃ v, bits v 0 12 = id.toNat ∧ bits v 12 1 = 1 ∧
    exec (.nodeValidSet path id) s = .next (s.regArrives path Reg.fabNode.offset v) := by
  have hlt := id.isLt
  refine ⟨_, ?_, ?_, rfl⟩
  · unfold bits
    omega
  · unfold bits
    omega

/-! ## The obligation -/

/-- Settles O47: a bit that went to 0 or 1 commands its unit, and what the rules of its block refuse does nothing. -/
theorem portsAndLinksObeyTheirRegisters : Obligations.PortsAndLinksObeyTheirRegisters := by
  unfold Obligations.PortsAndLinksObeyTheirRegisters
  intro s path ht
  refine ⟨fun n => ⟨fun h => ?_, fun h => ?_, fun on h => ?_⟩, fun on => ⟨fun h => ?_, fun h => ?_⟩,
    fun n => ⟨fun h hg => ?_, fun h hg => ?_, fun h => ?_, fun on h => ?_⟩,
    ⟨fun h hg => ?_, fun h hg => ?_, fun h => ?_, fun on h => ?_⟩, fun n c x => ⟨fun hr hb => ?_, fun h => ?_⟩,
    fun n => ⟨fun h hf => ?_, fun h hf => ?_, fun h => ?_, fun h => ?_, fun h => ?_, fun on h => ?_, fun locked => ?_⟩,
    fun id hlock => ?_⟩
  · exact congrArg Host.Outcome.next (State.writeField_portEn_on ht n h)
  · exact congrArg Host.Outcome.next (State.writeField_portEn_off ht n h)
  · exact congrArg Host.Outcome.next (State.writeField_portBit_same ht (Reg.portBit_hptPortCtl n) h)
  · exact congrArg Host.Outcome.next (State.writeField_mportEn ht on h)
  · exact congrArg Host.Outcome.next (State.writeField_portBit_same ht Reg.portBit_hptMportCtl h)
  · exact congrArg Host.Outcome.next (State.writeField_hostGate_on ht n h hg)
  · exact congrArg Host.Outcome.next (State.writeField_hostGate_blocked ht n h hg)
  · exact congrArg Host.Outcome.next (State.writeField_hostGate_off ht n h)
  · exact congrArg Host.Outcome.next (State.writeField_portBit_same ht (Reg.portBit_hptPortGctl n) h)
  · exact congrArg Host.Outcome.next (State.writeField_fabricGate_on ht h hg)
  · exact congrArg Host.Outcome.next (State.writeField_fabricGate_blocked ht h hg)
  · exact congrArg Host.Outcome.next (State.writeField_fabricGate_off ht h)
  · exact congrArg Host.Outcome.next (State.writeField_portBit_same ht Reg.portBit_fabGctl h)
  · obtain ⟨hfields, hports⟩ := State.writeReg_hptShp (c := c) path hr hb
    exact ⟨_, congrArg Host.Outcome.next (State.regArrives_of_takes ht _ _ _), hfields (.rw 0 16) (mem_hptShp_fields.mpr (.inl rfl)),
      hfields (.rw 16 14 64 5) (mem_hptShp_fields.mpr (.inr (.inl rfl))), hfields (.rw 30 1 1) (mem_hptShp_fields.mpr (.inr (.inr rfl))),
      hports⟩
  · exact congrArg Host.Outcome.next ((State.regArrives_of_takes ht _ _ _).trans (State.writeReg_hptShp_ignored path h))
  · exact congrArg Host.Outcome.next (State.writeField_linkEn_on ht n h hf)
  · exact congrArg Host.Outcome.next (State.writeField_linkEn_fenced ht n h hf)
  · exact congrArg Host.Outcome.next (State.writeField_linkEn_off ht n h)
  · exact congrArg Host.Outcome.next (State.writeField_linkFence ht n h)
  · exact congrArg Host.Outcome.next (State.writeField_portBit_same ht (Reg.portBit_fabLinkCtl n Nat.one_lt_two) h)
  · exact congrArg Host.Outcome.next (State.writeField_portBit_same ht (Reg.portBit_fabLinkCtl n Nat.two_pos) h)
  · exact congrArg Host.Outcome.next (State.writeField_linkRestore ht n locked)
  · have hl : s.locked = false := beq_eq_false_iff_ne.mpr (hlock.trans_ne Nat.zero_ne_one)
    obtain ⟨v, hid, hval, harr⟩ := exec_nodeValidSet_word path id s
    rw [State.regArrives_of_takes ht] at harr
    refine ⟨fun h => ?_, fun h hsame => ?_, fun n h hn hne => ?_⟩
    · rw [harr, State.writeReg_fabNode_valid path hl h]
    · obtain ⟨hm, hv⟩ := bits_fabNode (s.kept .fabNode) hid hval
      have hrid := (State.rf_keep_same .fabNode (Reg.fabNode.merged (s.kept .fabNode) v) 0 12 s (by decide)).trans hm
      have hrval := (State.rf_keep_same .fabNode (Reg.fabNode.merged (s.kept .fabNode) v) 12 1 s (by decide)).trans hv
      refine ⟨_, harr.trans (congrArg _ (State.writeReg_fabNode_set path hl h hid hval hsame)), hrid, beq_iff_eq.mpr hrval, ?_, rfl⟩
      rw [State.nodeId_nodeValidated, hrid, BitVec.ofNat_toNat, BitVec.setWidth_eq]
      cases hn : s.trust.nodeId with
      | none => simp [hn]
      | some n => simp [hn, hsame n hn]
    · rw [harr, State.writeReg_fabNode_other path hl h hid hval hn hne]

end Sys2Proof.Machine
end

section
/-! SUPPORT. What a peer's new incarnation and what this node sends leave of the store: its sequences and namespaces
(13_chainline_fabric.md R374, R376; 14_partitions_and_trust.md R407). -/

namespace Sys2Proof.Machine

/-- The sequences and the namespaces stay. -/
structure State.SeqsKept (s t : State) : Prop where
  seqs : t.store.seqs = s.store.seqs
  nss : t.store.nss = s.store.nss

namespace State.SeqsKept

variable {s t u : State}

theorem of_store (h : t.store = s.store) : s.SeqsKept t := ⟨by rw [h], by rw [h]⟩

theorem refl (s : State) : s.SeqsKept s := ⟨rfl, rfl⟩

theorem trans (h : s.SeqsKept t) (g : t.SeqsKept u) : s.SeqsKept u := ⟨g.seqs.trans h.seqs, g.nss.trans h.nss⟩

theorem ite {c : Prop} [Decidable c] (h : s.SeqsKept t) (g : s.SeqsKept u) : s.SeqsKept (if c then t else u) := by
  split
  · exact h
  · exact g

theorem foldl {α : Type} {f : State → α → State} (hf : ∀ (u : State) a, u.SeqsKept (f u a)) (l : List α) (s : State) :
    s.SeqsKept (l.foldl f s) :=
  List.foldlRecOn (motive := s.SeqsKept) l f (refl s) fun t ht a _ => ht.trans (hf t a)

/-! ### Sending -/

theorem pump (n k : Nat) (s : State) : s.SeqsKept (s.pump n k) := by
  induction k generalizing s with
  | zero => exact refl s
  | succ k ih =>
    unfold State.pump
    dsimp only
    split
    · exact refl s
    · split
      · exact refl s
      · exact .trans (t := s.sendFrame n _ _) (of_store rfl) (ih _)

theorem transmit (n : NodeId) (x : Sent) (s : State) : s.SeqsKept (s.transmit n x) := by
  unfold State.transmit
  by_cases hl : s.liveLinks = []
  · rw [if_pos hl]
    exact refl s
  · rw [if_neg hl]
    extract_lets pick stay link segs tag frames fab ordered queued
    have hordered : s.SeqsKept ordered := .ite (of_store rfl) (refl s)
    exact hordered.trans (.trans (t := queued.emit _) (of_store rfl) (pump _ _ _))

theorem attRoll (s : State) : s.SeqsKept s.attRoll := by
  unfold State.attRoll
  split
  · exact of_store (State.raise_store ..)
  · exact refl s

theorem hello (n : NodeId) (s : State) : s.SeqsKept (s.hello n) := by
  unfold State.hello
  extract_lets p rolled draw id seq b hI b' asked
  exact .ite (refl s) ((attRoll s).trans (.trans (t := asked) (of_store rfl) (transmit _ _ _)))

theorem postFor (n : NodeId) (reqId : Word64) (m : Msg) (s : State) : s.SeqsKept (s.postFor n reqId m) := by
  unfold State.postFor State.postSeq State.needKey
  extract_lets p k first last x counted waiting sent
  dsimp only
  have hsent : s.SeqsKept sent := by
    refine .trans (t := counted) (of_store rfl) (.ite (transmit _ _ _) ?_)
    exact .trans (t := waiting) (of_store rfl) (.ite (refl _) (hello _ _))
  exact .ite (hsent.trans (hello _ _)) hsent

theorem sendCopy (n : NodeId) (purpose : Nat) (h : Handle) (l : Nat) (p : Page) (s : State) :
    s.SeqsKept (s.sendCopy n purpose h l p) :=
  (postFor n 0 _ s).trans (.ite ⟨rfl, rfl⟩ (of_store rfl))

/-! ### The end of a command in flight -/

theorem finish (c : Cmd) (st : Status) (hint : Option NodeId) (retry : Nat) (b : List Byte) (s : State) :
    s.SeqsKept (s.finish c st hint retry b) := by
  have hrec : s.SeqsKept (s.putCmdRec c st) := .ite ⟨rfl, rfl⟩ (refl s)
  have hcount (v : State) (g i : Nat) : v.SeqsKept (v.countPtn c.ptn g i) := .ite (of_store rfl) (refl v)
  have hsend (v : State) (r : Reply) : v.SeqsKept (v.sendReply c.pkt.src r) := of_store ((State.EgressOnly.refl v).sendReply _ r).store
  unfold State.finish
  extract_lets told counted r
  have htold : s.SeqsKept told := hrec.trans (.trans (t := (s.putCmdRec c st).tellDups c st b) (of_store rfl) (hcount _ _ _))
  have hcounted : told.SeqsKept counted := .ite (hcount _ _ _) (refl _)
  refine (htold.trans hcounted).trans ?_
  split
  · next ctx _ _ _ =>
    have hseal : counted.SeqsKept (counted.sealReply ctx (field c.pkt.body 0 1) r).2 := by
      unfold State.sealReply
      split
      · exact refl _
      · dsimp only
        split
        · exact refl _
        · exact of_store rfl
    exact hseal.trans (hsend _ _)
  · exact hsend _ _

theorem entryDone (parent k : Nat) (st : Status) (b : List Byte) (s : State) : s.SeqsKept (s.entryDone parent k st b) := by
  unfold State.entryDone
  split
  · exact refl s
  · next i _ =>
    split
    · dsimp only
      split
      · exact of_store rfl
      · exact .trans (t := (s.dropInflight parent).unpin i.pins) ⟨rfl, rfl⟩ (finish ..)
    · exact refl s

theorem complete (i : Inflight) (st : Status) (hint : Option NodeId) (retry : Nat) (b : List Byte) (s : State) :
    s.SeqsKept (s.complete i st hint retry b) := by
  refine .trans (t := (s.dropInflight i.id).unpin i.pins) ⟨rfl, rfl⟩ ?_
  unfold State.complete
  dsimp only
  split
  · exact entryDone ..
  · exact finish ..

/-! ### A peer's new incarnation -/

theorem updPlaced (h : Handle) (f : Placed → Placed) (s : State) : s.SeqsKept (s.updPlaced h f) := by
  have hdelta (v : State) (l : List DeltaRec) : v.SeqsKept (v.delta l) := of_store (congrArg State.store (v.delta_frame l) :)
  unfold State.updPlaced
  exact ⟨(hdelta _ _).seqs.trans rfl, (hdelta _ _).nss.trans rfl⟩

theorem copyLost (n : NodeId) (c : CopySent) (s : State) : s.SeqsKept (s.copyLost n c) := by
  unfold State.copyLost
  split
  · exact .trans (t := s.updPage c.page _) ⟨rfl, rfl⟩ (updPlaced ..)
  · split
    · exact sendCopy ..
    · exact refl s
  · exact refl s

theorem stepMoved (n : NodeId) (p : Peer) (s : State) (i : Inflight) : s.SeqsKept (s.stepMoved n p i) := by
  unfold State.stepMoved
  split
  · refine .ite (refl s) ?_
    split
    · exact of_store rfl
    · exact .ite (of_store rfl) (complete ..)
  · exact refl s

theorem newIncarn (n : NodeId) (incarn : Word32) (s : State) : s.SeqsKept (s.newIncarn n incarn) := by
  unfold State.newIncarn
  extract_lets old renewed copied moved parts grads unpinned
  have hcopied : s.SeqsKept copied := .trans (t := renewed) (of_store rfl) (foldl (fun v c => copyLost n c v) _ _)
  have hmoved : s.SeqsKept moved := hcopied.trans (foldl (fun v i => stepMoved n old v i) _ _)
  have hparts : s.SeqsKept parts := hmoved.trans (foldl (by exact fun _ _ => ⟨rfl, rfl⟩) _ _)
  have hunpinned : s.SeqsKept unpinned := hparts.trans (foldl (by exact fun _ _ => ⟨rfl, rfl⟩) _ _)
  exact ⟨hunpinned.seqs, hunpinned.nss⟩

theorem hsIncarn (h : MsgHdr) (s : State) : s.SeqsKept (s.hsIncarn h) :=
  .ite (.trans (newIncarn h.src h.incarn s) (of_store rfl)) (refl s)

end State.SeqsKept

end Sys2Proof.Machine
end

section
/-! SUPPORT. Handshakes between nodes, step by step (14_partitions_and_trust.md R406, R407, R419 to R422). -/

namespace Sys2Proof.Machine

/-! ## What a message of a handshake finds -/

section
variable {s u : State} {h : MsgHdr} {b : HsBody}

/-- A message that its screen discards does nothing more (R375, R376). -/
theorem State.handshake_discarded (hs : (s.screenHs h).1 = false) :
    s.gotHello h b = (s.screenHs h).2 ∧ s.gotReply h b = (s.screenHs h).2 ∧ s.gotFinish h b = (s.screenHs h).2 ∧
      ∀ k, s.gotAbort h k = (s.screenHs h).2 := by
  have hn : ¬ (s.screenHs h).1 = true := Bool.eq_false_iff.mp hs
  exact ⟨if_pos hn, if_pos hn, if_pos hn, fun _ => if_pos hn⟩

variable (hs : s.screenHs h = (true, u))
include hs

/-- Without the handshake that it names a REPLY or a FINISH does nothing. -/
theorem State.handshake_unknown (hy : (u.peer h.src).hs = none ∨ ∃ y, (u.peer h.src).hs = some y ∧ y.hsId ≠ b.hsId) :
    s.gotReply h b = u ∧ s.gotFinish h b = u := by
  unfold State.gotReply State.gotFinish
  rcases hy with hy | ⟨y, hy, hid⟩
  · simp only [hs, hy, not_true_eq_false, if_false, and_self]
  · simp only [hs, hy, hid, not_true_eq_false, if_false, ne_eq, not_false_eq_true, or_true, if_true, and_self]

/-! ## HELLO (R420 to R422) -/

theorem State.gotHello_mine {y : Hs} (hy : (u.peer h.src).hs = some y) (hi : y.initiator = true) (hr : y.running = true)
    (hlt : u.self.toNat < h.src.toNat) : s.gotHello h b = u.sendHs h.src (.hsAbort b.hsId 5) := by
  unfold State.gotHello
  simp only [hs, hy, hi, hr, hlt, not_true_eq_false, if_false, Bool.and_self, and_self, if_true]

theorem State.gotHello_again {y : Hs} (hy : (u.peer h.src).hs = some y) (hi : y.initiator = false) (hid : y.hsId = b.hsId) :
    s.gotHello h b = u.transmit h.src ⟨y.seq, 0, y.epoch, y.sent⟩ := by
  unfold State.gotHello
  simp only [hs, hy, hi, hid, not_true_eq_false, if_false, Bool.false_and, Bool.false_eq_true, false_and, Bool.not_false, Bool.true_and,
    beq_self_eq_true, if_true]

end

/-- No running handshake of this node's own wins, and the HELLO has not been answered (R422). -/
def State.freshHello (u : State) (h : MsgHdr) (b : HsBody) : Prop :=
  (u.peer h.src).hs = none ∨ ∃ y, (u.peer h.src).hs = some y ∧
    (y.initiator = false ∧ y.hsId ≠ b.hsId ∨ y.initiator = true ∧ (y.running = false ∨ h.src.toNat ≤ u.self.toNat))

/-- The SEQ of the node's next unordered message to a peer. -/
def State.nextUnord (v : State) (n : NodeId) : Nat := (v.peer n).txUnord + 1

/-- The REPLY before it is signed. -/
def State.replyFront (v : State) (h : MsgHdr) (b : HsBody) : HsBody :=
  v.hsBody b.hsId (Config.kemCipher v.freeCtr b.kem) (v.peer h.src).certs.isNone

/-- The digest of the REPLY (R420). -/
def State.replyDigest (v : State) (h : MsgHdr) (b : HsBody) : List Byte :=
  shake256 32 (hsHeader v.self h.src v.epoch v.pow.incarn.toNat (v.nextUnord h.src) ++ (v.replyFront h b).front 2)

def State.signedReply (v : State) (h : MsgHdr) (b : HsBody) (hI : List Byte) : HsBody :=
  { v.replyFront h b with sig := Config.sign v.trust.attSerial (prefixFab ++ hI ++ v.replyDigest h b) }

/-- The state in which a HELLO is answered: the peer's incarnation is the certified one, and the attestation key has indices. -/
def State.answering (u : State) (h : MsgHdr) : State := (u.hsIncarn h).attRoll

/-- What the responder keeps of the handshake until FINISH. -/
def State.responder (u : State) (h : MsgHdr) (b : HsBody) (certs : List Byte) : Hs where
  hsId := b.hsId
  initiator := false
  seq := (u.answering h).nextUnord h.src
  epoch := (u.answering h).epoch
  sent := .hsReply ((u.answering h).signedReply h b (hsDigest u h 1 b))
  draw := (u.answering h).freeCtr
  hI := hsDigest u h 1 b
  hR := (u.answering h).replyDigest h b
  conf := confirmation (fitBytes 32 (Config.kemShared (u.answering h).freeCtr b.kem)) (hsDigest u h 1 b) ((u.answering h).replyDigest h b)
  certs := certs

/-- The responder before its REPLY leaves. -/
def State.tookHello (u : State) (h : MsgHdr) (y : Hs) : State :=
  (u.answering h).drawn.attUsed.updPeer h.src fun p => { p with
    txUnord := (u.answering h).nextUnord h.src, incarn := h.incarn, hs := some y }

/-- What a fresh HELLO does. -/
def State.takeHello (h : MsgHdr) (b : HsBody) (u : State) : State :=
  if ¬ u.trust.attReady then u
  else match u.hsCheck h b (hsDigest u h 1 b) with
    | .error r => u.hsFailed h b.hsId r
    | .ok certs =>
      (u.tookHello h (u.responder h b certs)).transmit h.src
        ⟨(u.responder h b certs).seq, 0, (u.responder h b certs).epoch, (u.responder h b certs).sent⟩

theorem State.gotHello_fresh {s u : State} {h : MsgHdr} {b : HsBody} (hs : s.screenHs h = (true, u)) (hf : u.freshHello h b) :
    s.gotHello h b = u.takeHello h b := by
  unfold State.gotHello
  simp only [hs, not_true_eq_false, if_false]
  rcases hf with hy | ⟨y, hy, ⟨hi, hid⟩ | ⟨hi, hr | hle⟩⟩
  · simp only [hy, Bool.false_eq_true, false_and, if_false]
    rfl
  · simp only [hy, hi, Bool.false_and, Bool.false_eq_true, false_and, if_false, Bool.not_false, Bool.true_and, beq_eq_false_iff_ne.mpr hid]
    rfl
  · simp only [hy, hi, hr, Bool.and_false, Bool.false_eq_true, false_and, if_false, Bool.not_true, Bool.false_and]
    rfl
  · simp only [hy, hi, Nat.not_lt.mpr hle, Bool.false_eq_true, and_false, if_false, Bool.not_true, Bool.false_and]
    rfl

section
variable {u : State} {h : MsgHdr} {b : HsBody}

theorem State.takeHello_unready (ha : u.trust.attReady = false) : u.takeHello h b = u := if_pos (Bool.eq_false_iff.mp ha)

theorem State.takeHello_failed {r : Nat} (ha : u.trust.attReady = true) (hc : u.hsCheck h b (hsDigest u h 1 b) = .error r) :
    u.takeHello h b = u.hsFailed h b.hsId r := by
  unfold State.takeHello
  rw [if_neg (not_not_intro ha), hc]

theorem State.takeHello_answers {certs : List Byte} (ha : u.trust.attReady = true) (hc : u.hsCheck h b (hsDigest u h 1 b) = .ok certs) :
    u.takeHello h b = (u.tookHello h (u.responder h b certs)).transmit h.src
      ⟨(u.responder h b certs).seq, 0, (u.responder h b certs).epoch, (u.responder h b certs).sent⟩ := by
  unfold State.takeHello
  rw [if_neg (not_not_intro ha), hc]

theorem State.peer_tookHello (u : State) (h : MsgHdr) (y : Hs) :
    ((u.tookHello h y).peer h.src).hs = some y ∧ ((u.tookHello h y).peer h.src).incarn = h.incarn := by
  have hp := State.peer_updPeer (n := h.src) (f := fun p => { p with
    txUnord := (u.answering h).nextUnord h.src, incarn := h.incarn, hs := some y }) (fun _ => rfl) (u.answering h).drawn.attUsed
  exact ⟨congrArg Peer.hs hp, congrArg Peer.incarn hp⟩

theorem State.seqsKept_tookHello (u : State) (h : MsgHdr) (y : Hs) : u.SeqsKept (u.tookHello h y) := by
  have hv : u.SeqsKept (u.answering h) := (State.SeqsKept.hsIncarn h u).trans (State.SeqsKept.attRoll _)
  unfold State.tookHello
  generalize u.answering h = v at hv ⊢
  exact hv.trans (.of_store rfl)

end

/-! ## REPLY (R420 to R422) -/

/-- The confirmation that the initiator sends. -/
def State.finishConf (u : State) (h : MsgHdr) (b : HsBody) (y : Hs) : List Byte :=
  confirmation (fitBytes 32 (Config.kemOpen y.draw b.kem)) y.hI (hsDigest u h 2 b)

def State.finishBody (v : State) (b : HsBody) (conf : List Byte) : HsBody := { v.hsBody b.hsId [] false with certs := [], sig := conf }

/-- What the initiator keeps of the handshake once its FINISH is sent. -/
def State.initiated (u : State) (h : MsgHdr) (b : HsBody) (y : Hs) (certs : List Byte) : Hs :=
  { y with
    seq := (u.hsIncarn h).nextUnord h.src
    epoch := (u.hsIncarn h).epoch
    sent := .hsFinish ((u.hsIncarn h).finishBody b (u.finishConf h b y))
    hR := hsDigest u h 2 b
    conf := u.finishConf h b y
    certs := certs }

/-- The initiator before its FINISH leaves. -/
def State.tookReply (u : State) (h : MsgHdr) (z : Hs) (certs : List Byte) : State :=
  ((u.hsIncarn h).drawn.keySet h.src certs).updPeer h.src fun p => { p with
    txUnord := (u.hsIncarn h).nextUnord h.src, incarn := h.incarn, holdUntilFirst := true, hs := some z }

section
variable {s u : State} {h : MsgHdr} {b : HsBody} {y : Hs} (hs : s.screenHs h = (true, u)) (hy : (u.peer h.src).hs = some y)
include hs hy

theorem State.gotReply_responder (hi : y.initiator = false) : s.gotReply h b = u := by
  unfold State.gotReply
  simp only [hs, hy, hi, not_true_eq_false, if_false, Bool.false_eq_true, not_false_eq_true, true_or, if_true]

theorem State.gotFinish_initiator (hi : y.initiator = true) : s.gotFinish h b = u := by
  unfold State.gotFinish
  simp only [hs, hy, hi, not_true_eq_false, if_false, true_or, if_true]

variable (hid : y.hsId = b.hsId)
include hid

section
variable (hi : y.initiator = true)
include hi

theorem State.gotReply_failed {r : Nat} (hr : y.running = true) (hc : u.hsCheck h b (y.hI ++ hsDigest u h 2 b) = .error r) :
    s.gotReply h b = u.hsFailed h b.hsId r := by
  unfold State.gotReply
  simp only [hs, hy, hi, hid, hr, hc, not_true_eq_false, if_false, ne_eq, or_self]

theorem State.gotReply_finishes {certs : List Byte} (hr : y.running = true) (hc : u.hsCheck h b (y.hI ++ hsDigest u h 2 b) = .ok certs) :
    s.gotReply h b = ((u.tookReply h (u.initiated h b y certs) certs).transmit h.src
      ⟨(u.initiated h b y certs).seq, 0, (u.initiated h b y certs).epoch, (u.initiated h b y certs).sent⟩).hsEpoch h := by
  unfold State.gotReply
  simp only [hs, hy, hi, hid, hr, hc, not_true_eq_false, if_false, ne_eq, or_self, State.tookReply, State.initiated, State.finishConf,
    State.finishBody, State.nextUnord]
  generalize u.hsIncarn h = v
  rfl

theorem State.gotReply_again (hr : y.running = false) (hn : (u.peer h.src).incarn = h.incarn) :
    s.gotReply h b = u.transmit h.src ⟨y.seq, 0, y.epoch, y.sent⟩ := by
  unfold State.gotReply
  simp only [hs, hy, hi, hid, hr, hn, not_true_eq_false, if_false, ne_eq, or_self, Bool.false_eq_true, not_false_eq_true, if_true]

theorem State.gotReply_renewed (hr : y.running = false) (hn : (u.peer h.src).incarn ≠ h.incarn) :
    s.gotReply h b = ((u.hsIncarn h).updPeer h.src fun p => { p with hs := none }).needKey h.src := by
  unfold State.gotReply
  simp only [hs, hy, hi, hid, hr, hn, not_true_eq_false, if_false, ne_eq, or_self, Bool.false_eq_true, not_false_eq_true, if_true]

end

/-! ## FINISH (R420 to R422) -/

section
variable (hi : y.initiator = false)
include hi

theorem State.gotFinish_renewed (hn : (u.peer h.src).incarn ≠ h.incarn) :
    let v := (u.hsIncarn h).updPeer h.src fun p => { p with hs := none }
    s.gotFinish h b = if (v.peer h.src).waiting.isEmpty then v else v.needKey h.src := by
  unfold State.gotFinish
  simp only [hs, hy, hi, hid, hn, not_true_eq_false, if_false, ne_eq, or_self, Bool.false_eq_true, not_false_eq_true, if_true]

variable (hn : (u.peer h.src).incarn = h.incarn)
include hn

theorem State.gotFinish_failed (hc : b.sig ≠ y.conf) : s.gotFinish h b = u.hsFailed h b.hsId 4 := by
  unfold State.gotFinish
  simp only [hs, hy, hi, hid, hn, hc, not_true_eq_false, if_false, ne_eq, or_self, Bool.false_eq_true, not_false_eq_true, if_true]

theorem State.gotFinish_confirmed (hc : b.sig = y.conf) : s.gotFinish h b =
    (((u.keySet h.src y.certs).updPeer h.src fun p => { p with hs := none }).releaseWaiting h.src).hsEpoch h := by
  unfold State.gotFinish
  simp only [hs, hy, hi, hid, hn, hc, not_true_eq_false, if_false, ne_eq, or_self, Bool.false_eq_true]

end

end

theorem State.peer_tookReply (u : State) (h : MsgHdr) (z : Hs) (certs : List Byte) :
    ((u.tookReply h z certs).peer h.src).hs = some z ∧ ((u.tookReply h z certs).peer h.src).keyed = true ∧
      ((u.tookReply h z certs).peer h.src).holdUntilFirst = true ∧ ((u.tookReply h z certs).peer h.src).certs = some certs ∧
      ((u.tookReply h z certs).peer h.src).incarn = h.incarn := by
  have hk := State.peer_updPeer (n := h.src)
    (f := fun p => { p with oldKey := p.keyed, keyed := true, keySerial := p.keySerial + 1, certs := some certs }) (fun _ => rfl)
    (u.hsIncarn h).drawn
  have hp := State.peer_updPeer (n := h.src) (f := fun p => { p with
    txUnord := (u.hsIncarn h).nextUnord h.src, incarn := h.incarn, holdUntilFirst := true, hs := some z }) (fun _ => rfl)
    ((u.hsIncarn h).drawn.keySet h.src certs)
  exact ⟨congrArg Peer.hs hp, (congrArg Peer.keyed hp).trans (congrArg Peer.keyed hk), congrArg Peer.holdUntilFirst hp,
    (congrArg Peer.certs hp).trans (congrArg Peer.certs hk), congrArg Peer.incarn hp⟩

theorem State.seqsKept_tookReply (u : State) (h : MsgHdr) (z : Hs) (certs : List Byte) : u.SeqsKept (u.tookReply h z certs) :=
  (State.SeqsKept.hsIncarn h u).trans (.of_store rfl)

/-! ## ABORT, timers and the key's life (R406, R407, R421, R422) -/

/-- An ABORT ends the running handshake that it names, and changes nothing beside. -/
theorem State.gotAbort_ends {s u : State} {h : MsgHdr} {k : Word32} {y : Hs} (hs : s.screenHs h = (true, u))
    (hy : (u.peer h.src).hs = some y) (hid : y.hsId = k) (hr : y.running = true) :
    ((s.gotAbort h k).peer h.src).hs = none ∧ (s.gotAbort h k).store = u.store ∧ (s.gotAbort h k).cmds = u.cmds := by
  unfold State.gotAbort
  simp only [hs, not_true_eq_false, if_false]
  refine ⟨?_, rfl, rfl⟩
  rw [State.peer_updPeer fun p => ?_]
  · simp only [hy, hid, hr, and_self, if_true]
  · split
    · split <;> rfl
    · rfl

section
variable {s : State} {n : NodeId}

theorem State.hsRetry_running {y : Hs} (hy : (s.peer? n).bind (·.hs) = some y) (hr : y.running = true) :
    s.hsRetry n = s.transmit n ⟨y.seq, 0, y.epoch, y.sent⟩ := by
  unfold State.hsRetry
  rw [hy]
  exact if_pos hr

theorem State.hsRetry_rests {y : Hs} (hy : (s.peer? n).bind (·.hs) = some y) (hr : y.running = false) : s.hsRetry n = s := by
  unfold State.hsRetry
  rw [hy]
  exact if_neg (Bool.eq_false_iff.mp hr)

theorem State.hsRetry_none (hy : (s.peer? n).bind (·.hs) = none) : s.hsRetry n = s := by
  unfold State.hsRetry
  rw [hy]

theorem State.backoffOver_known (hp : (s.peer? n).isSome = true) :
    let t := s.updPeer n fun p => { p with backoff := false }
    s.backoffOver n = if (s.peer n).waiting = [] ∨ (s.peer n).keyed = true then t else t.needKey n := by
  have hpeer := State.peer_updPeer (n := n) (f := fun p => { p with backoff := false }) (fun _ => rfl) s
  unfold State.backoffOver
  rw [if_neg (by simpa [Option.isSome_iff_ne_none] using hp)]
  simp only [hpeer, List.isEmpty_iff]

theorem State.backoffOver_unknown (hp : (s.peer? n).isNone = true) : s.backoffOver n = s := if_pos hp

theorem State.oldKeyGone_known (hp : (s.peer? n).isSome = true) : s.oldKeyGone n = s.updPeer n fun p => { p with oldKey := false } := if_pos hp

theorem State.oldKeyGone_unknown (hp : (s.peer? n).isNone = true) : s.oldKeyGone n = s :=
  if_neg (by simpa [Option.isNone_iff_eq_none] using hp)

theorem State.holdOver_held (hp : (s.peer n).holdUntilFirst = true) :
    s.holdOver n = (s.updPeer n fun p => { p with holdUntilFirst := false }).releaseWaiting n := if_pos hp

theorem State.holdOver_free (hp : (s.peer n).holdUntilFirst = false) : s.holdOver n = s := if_neg (Bool.eq_false_iff.mp hp)

theorem State.rekeyDue_keyed (hk : (s.peer n).keyed = true) (hl : s.listens = true) : s.rekeyDue n = s.needKey n := if_pos ⟨hk, hl⟩

theorem State.rekeyDue_rests (h : (s.peer n).keyed = false ∨ s.listens = false) : s.rekeyDue n = s := by
  refine if_neg fun ⟨hk, hl⟩ => ?_
  rcases h with h | h
  · exact Bool.false_ne_true (h.symm.trans hk)
  · exact Bool.false_ne_true (h.symm.trans hl)

end

end Sys2Proof.Machine
end

section
/-! PROOFS. Management sessions (12_host_ports.md R353, R354; 14_partitions_and_trust.md R423), and the handshakes' obligation. -/

namespace Sys2Proof.Machine

/-! ## Connections and the end of a session (R354) -/

section
variable {s : State} {n : Nat}

theorem State.connect_closed (hm : s.host.mportUp = false) : s.connect = s := if_pos (Bool.eq_false_iff.mp hm)

theorem State.connect_full (hm : s.host.mportUp = true) (hf : ∀ k, k < 4 → (s.session? k).isSome = true) : s.connect = s.emit .tcpReset := by
  have hfind : (List.range 4).find? (fun k => (s.session? k).isNone) = none := by
    refine List.find?_eq_none.mpr fun k hk => ?_
    simpa [Option.isSome_iff_ne_none] using hf k (List.mem_range.mp hk)
  unfold State.connect
  rw [if_neg (not_not_intro hm), hfind]

theorem State.connect_free (hm : s.host.mportUp = true) (hn : n < 4) (hx : s.session? n = none)
    (hl : ∀ k, k < n → (s.session? k).isSome = true) :
    s.connect = ({ s with host := { s.host with sessions := s.host.sessions ++ [⟨n, false, 0, 0, 0, []⟩] } } : State).emit (.sessionOpened n) := by
  have hfind : (List.range 4).find? (fun k => (s.session? k).isNone) = some n := by
    refine List.find?_range_eq_some.mpr ⟨by simp [hx], List.mem_range.mpr hn, fun k hk => ?_⟩
    simpa [Option.isSome_iff_ne_none] using hl k hk
  unfold State.connect
  rw [if_neg (not_not_intro hm), hfind]

theorem State.closeSession_none (hx : s.session? n = none) : s.closeSession n = s := if_pos (by simp [hx])

/-- A session that closes is found no more, and every command in flight stays. -/
theorem State.closeSession_some {x : Session} (hx : s.session? n = some x) :
    (s.closeSession n).session? n = none ∧ (s.closeSession n).out = .sessionClosed n :: s.out ∧
      (s.closeSession n).cmds.list.map (·.id) = s.cmds.list.map (·.id) := by
  unfold State.closeSession
  rw [if_neg (by simp [hx])]
  refine ⟨?_, rfl, ?_⟩
  · refine List.find?_eq_none.mpr fun y hy => ?_
    have hne := (List.mem_filter.mp hy).2
    simpa using hne
  · dsimp only [State.emit]
    rw [List.map_map]
    refine List.map_congr_left fun i _ => ?_
    dsimp only [Function.comp_apply]
    split <;> rfl

theorem State.sessionRekey_idle {x : Session} (hx : s.session? n = some x) (ho : x.outstanding = 0) : s.sessionRekey n = s.closeSession n := by
  unfold State.sessionRekey
  rw [hx]
  exact if_pos ho

theorem State.sessionRekey_busy {x : Session} (hx : s.session? n = some x) (ho : x.outstanding ≠ 0) : s.sessionRekey n = s := by
  unfold State.sessionRekey
  rw [hx]
  exact if_neg ho

theorem State.sessionRekey_none (hx : s.session? n = none) : s.sessionRekey n = s := by
  unfold State.sessionRekey
  rw [hx]

/-! ## Records on a session (R423) -/

section
variable {ok : Bool} {op : Op} {p : Packet}

theorem State.sessionRecord_none (hx : s.session? n = none) : s.sessionRecord n ok op p = s := by
  unfold State.sessionRecord
  rw [hx]

theorem State.sessionRecord_command {x : Session} (hx : s.session? n = some x) (ho : x.isOpen = true) (hk : ok = true)
    (hlen : 32 + p.body.length + 16 ≤ 16777280) (hrx : x.rxCount < 2 ^ 32) :
    s.sessionRecord n ok op p =
      (s.updSession n fun y => { y with rxCount := y.rxCount + 1 }).arriveAll op (opDef op) { p with src := .mgmt n } := by
  unfold State.sessionRecord
  rw [hx]
  refine if_neg ?_
  rintro (h | h | h | h)
  · exact h ho
  · exact h hk
  · exact Nat.not_lt.mpr hlen h
  · exact Nat.not_le.mpr hrx h

theorem State.sessionRecord_bad {x : Session} (hx : s.session? n = some x)
    (h : x.isOpen = false ∨ ok = false ∨ 16777280 < 32 + p.body.length + 16 ∨ 2 ^ 32 ≤ x.rxCount) :
    s.sessionRecord n ok op p = s.closeSession n := by
  unfold State.sessionRecord
  rw [hx]
  exact if_pos (h.imp Bool.eq_false_iff.mp (Or.imp_left Bool.eq_false_iff.mp))

end

/-! ## A station's HELLO (R420, R423) -/

/-- The REPLY to a station before it is signed. -/
def State.stationFront (v : State) (b : HsBody) : HsBody := v.hsBody b.hsId (Config.kemCipher v.freeCtr b.kem) true

def State.stationReply (v : State) (b : HsBody) : HsBody :=
  { v.stationFront b with
    sig := Config.sign v.trust.attSerial (prefixMgt ++ shake256 32 (b.front 1) ++ shake256 32 ((v.stationFront b).front 2)) }

/-- The session is established. -/
def State.stationJoined (v : State) (n : Nat) : State := v.drawn.attUsed.updSession n fun y => { y with isOpen := true }

theorem State.mgmtHello_none {b : HsBody} (hx : s.session? n = none) : s.mgmtHello n b = s := by
  unfold State.mgmtHello
  rw [hx]

section
variable {x : Session} {b : HsBody} (hx : s.session? n = some x)
include hx

theorem State.mgmtHello_open (ho : x.isOpen = true) : s.mgmtHello n b = s.closeSession n := by
  unfold State.mgmtHello
  rw [hx]
  exact if_pos ho

variable (ho : x.isOpen = false)
include ho

theorem State.mgmtHello_unknown (hk : s.stationKnown b.certs = false) :
    s.mgmtHello n b = (s.emit (.sessionHs n (.hsAbort b.hsId 6))).closeSession n := by
  unfold State.mgmtHello
  simp only [hx, ho, hk, Bool.false_eq_true, if_false, not_false_eq_true, if_true]

variable (hk : s.stationKnown b.certs = true)
include hk

theorem State.mgmtHello_unsigned (hs : Config.stationSigOk b.certs (prefixMgt ++ shake256 32 (b.front 1)) b.sig = false) :
    s.mgmtHello n b = (s.emit (.sessionHs n (.hsAbort b.hsId 2))).closeSession n := by
  unfold State.mgmtHello
  simp only [hx, ho, hk, hs, Bool.false_eq_true, if_false, not_true_eq_false, not_false_eq_true, if_true]

variable (hs : Config.stationSigOk b.certs (prefixMgt ++ shake256 32 (b.front 1)) b.sig = true)
include hs

theorem State.mgmtHello_unready (ha : s.trust.attReady = false) : s.mgmtHello n b = s := by
  unfold State.mgmtHello
  simp only [hx, ho, hk, hs, ha, Bool.false_eq_true, if_false, not_true_eq_false, not_false_eq_true, if_true]

theorem State.mgmtHello_joins (ha : s.trust.attReady = true) :
    s.mgmtHello n b = (s.attRoll.stationJoined n).emit (.sessionHs n (.hsReply (s.attRoll.stationReply b))) := by
  unfold State.mgmtHello
  simp only [hx, ho, hk, hs, ha, Bool.false_eq_true, if_false, not_true_eq_false]
  rfl

end

theorem State.attRoll_host (s : State) : s.attRoll.host = s.host := by
  unfold State.attRoll
  split
  · exact State.raise_host ..
  · rfl

theorem State.attRoll_store (s : State) : s.attRoll.store = s.store := by
  unfold State.attRoll
  split
  · exact State.raise_store ..
  · rfl

theorem State.session?_stationJoined {x : Session} (hx : s.session? n = some x) :
    ((s.attRoll.stationJoined n).session? n).map (·.isOpen) = some true := by
  have hn : (x.num == n) = true := List.find?_some (p := fun y : Session => y.num == n) hx
  have hf : (s.attRoll.stationJoined n).session? n = some { x with isOpen := true } := by
    refine (find?_updWhere (f := fun y : Session => { y with isOpen := true }) (fun _ => rfl) s.attRoll.host.sessions).trans ?_
    rw [State.attRoll_host, show s.host.sessions.find? _ = some x from hx, Option.map_some, if_pos hn]
  rw [hf]
  rfl

end

/-! ## The obligation -/

/-- Settles O57: a handshake message by the handshake that it finds, a session's events by the session that they find. -/
theorem handshakesAndSessionsTakeEffect : Obligations.HandshakesAndSessionsTakeEffect := by
  unfold Obligations.HandshakesAndSessionsTakeEffect
  refine ⟨fun s h b hs => ?_, fun s u h b hs => ⟨fun y hy hi hr hlt => ?_, fun y hy hi hid => ?_, fun hf ha => ?_, fun r hf ha hc => ?_,
    fun certs hf ha hc => ?_⟩, fun s u h b hs hy => ?_, fun s u h b y hs hy hid => ⟨fun hi => ?_, fun hi => ?_,
    fun hi hr => ⟨fun r hc => ?_, fun certs hc => ?_⟩, fun hi hr => ⟨fun hn => ?_, fun hn => ?_⟩, fun hi hn => ?_,
    fun hi hn => ⟨fun hc => ?_, fun hc => ?_⟩⟩, fun s u h k r hs y hy hid hr => ?_, fun s n => ⟨fun y hy hr => ?_, fun y hy hr => ?_, fun hy => ?_⟩,
    fun s n hp => ⟨?_, ?_⟩, fun s n hp => ⟨?_, ?_⟩, fun s n => ⟨fun hp => ?_, fun hp => ?_, fun hk hl => ?_, fun hp => ?_⟩,
    fun s => ⟨fun hm => ?_, fun hm hf => ?_, fun n hm hn hx hl => ?_⟩, fun s n hx => ⟨fun b => ?_, ?_, ?_, ?_, fun ok op p => ?_⟩,
    fun s n x hx => ⟨fun b ho => ?_, fun b ho hk => ?_, fun b ho hk hs => ?_, fun b ho hk hs => ⟨fun ha => ?_, fun ha => ?_⟩,
    fun ok op p ho hk hlen hrx => ?_, fun ok op p hbad => ?_, ?_, rfl, rfl, fun ho => ?_, fun ho => ?_⟩⟩
  · obtain ⟨hhello, hreply, hfinish, habort⟩ := State.handshake_discarded (b := b) hs
    exact ⟨congrArg Host.Outcome.next hhello, congrArg Host.Outcome.next hreply, congrArg Host.Outcome.next hfinish,
      fun k _ => congrArg Host.Outcome.next (habort k)⟩
  · exact congrArg Host.Outcome.next (State.gotHello_mine hs hy hi hr hlt)
  · exact congrArg Host.Outcome.next (State.gotHello_again hs hy hi hid)
  · exact congrArg Host.Outcome.next ((State.gotHello_fresh hs hf).trans (State.takeHello_unready ha))
  · exact congrArg Host.Outcome.next ((State.gotHello_fresh hs hf).trans (State.takeHello_failed ha hc))
  · have hkept := State.seqsKept_tookHello u h (u.responder h b certs)
    obtain ⟨hhs, hincarn⟩ := State.peer_tookHello u h (u.responder h b certs)
    exact ⟨_, _, _, hhs, rfl, rfl, rfl, rfl, rfl, hincarn, hkept.seqs, hkept.nss,
      congrArg Host.Outcome.next ((State.gotHello_fresh hs hf).trans (State.takeHello_answers ha hc))⟩
  · obtain ⟨hreply, hfinish⟩ := State.handshake_unknown hs hy
    exact ⟨congrArg Host.Outcome.next hreply, congrArg Host.Outcome.next hfinish⟩
  · exact congrArg Host.Outcome.next (State.gotFinish_initiator hs hy hi)
  · exact congrArg Host.Outcome.next (State.gotReply_responder hs hy hi)
  · exact congrArg Host.Outcome.next (State.gotReply_failed hs hy hid hi hr hc)
  · have hkept := State.seqsKept_tookReply u h (u.initiated h b y certs) certs
    obtain ⟨hhs, hkeyed, hhold, hcerts, hincarn⟩ := State.peer_tookReply u h (u.initiated h b y certs) certs
    exact ⟨_, _, _, hhs, rfl, hkeyed, hhold, hcerts, hincarn, hkept.seqs, hkept.nss,
      congrArg Host.Outcome.next (State.gotReply_finishes hs hy hid hi hr hc)⟩
  · exact congrArg Host.Outcome.next (State.gotReply_again hs hy hid hi hr hn)
  · exact congrArg Host.Outcome.next (State.gotReply_renewed hs hy hid hi hr hn)
  · exact congrArg Host.Outcome.next (State.gotFinish_renewed hs hy hid hi hn)
  · exact congrArg Host.Outcome.next (State.gotFinish_failed hs hy hid hi hn hc)
  · exact congrArg Host.Outcome.next (State.gotFinish_confirmed hs hy hid hi hn hc)
  · exact ⟨_, rfl, State.gotAbort_ends hs hy hid hr⟩
  · exact congrArg Host.Outcome.next (State.hsRetry_running hy hr)
  · exact congrArg Host.Outcome.next (State.hsRetry_rests hy hr)
  · exact congrArg Host.Outcome.next (State.hsRetry_none hy)
  · exact congrArg Host.Outcome.next (State.backoffOver_known hp)
  · exact congrArg Host.Outcome.next (State.oldKeyGone_known hp)
  · exact congrArg Host.Outcome.next (State.backoffOver_unknown hp)
  · exact congrArg Host.Outcome.next (State.oldKeyGone_unknown hp)
  · exact congrArg Host.Outcome.next (State.holdOver_held hp)
  · exact congrArg Host.Outcome.next (State.holdOver_free hp)
  · exact congrArg Host.Outcome.next (State.rekeyDue_keyed hk hl)
  · exact congrArg Host.Outcome.next (State.rekeyDue_rests hp)
  · exact congrArg Host.Outcome.next (State.connect_closed hm)
  · exact congrArg Host.Outcome.next (State.connect_full hm hf)
  · exact congrArg Host.Outcome.next (State.connect_free hm hn hx hl)
  · exact congrArg Host.Outcome.next (State.mgmtHello_none hx)
  · exact congrArg Host.Outcome.next (State.closeSession_none hx)
  · exact congrArg Host.Outcome.next (State.closeSession_none hx)
  · exact congrArg Host.Outcome.next (State.sessionRekey_none hx)
  · exact congrArg (Host.Outcome.next ∘ State.resume) (State.sessionRecord_none hx)
  · exact congrArg Host.Outcome.next (State.mgmtHello_open hx ho)
  · exact congrArg Host.Outcome.next (State.mgmtHello_unknown hx ho hk)
  · exact congrArg Host.Outcome.next (State.mgmtHello_unsigned hx ho hk hs)
  · exact congrArg Host.Outcome.next (State.mgmtHello_unready hx ho hk hs ha)
  · exact ⟨_, _, congrArg Host.Outcome.next (State.mgmtHello_joins hx ho hk hs ha), State.session?_stationJoined hx, rfl, State.attRoll_store s⟩
  · exact congrArg (Host.Outcome.next ∘ State.resume) (State.sessionRecord_command hx ho hk hlen hrx)
  · exact congrArg (Host.Outcome.next ∘ State.resume) (State.sessionRecord_bad hx hbad)
  · exact State.closeSession_some hx
  · exact congrArg Host.Outcome.next (State.sessionRekey_idle hx ho)
  · exact congrArg Host.Outcome.next (State.sessionRekey_busy hx ho)

end Sys2Proof.Machine
end

section
/-! SUPPORT. What the statements about every step speak of: the queue, the identity index, the security version, the node ID and the
reservation records (14_partitions_and_trust.md R398, R411, R418). -/

namespace Sys2Proof.Machine

/-- The queue of waiting commands, the identity index with its limit, the security version with its count, the recorded node ID,
and the two reservation records: what the statements about every step speak of. -/
structure Vault where
  pending : List Instr
  idxOk : Bool
  idxNext : Nat
  idxLimit : Nat
  svnAdvances : Nat
  svnMin : Word32
  nodeId : Option NodeId
  resA : Option Reservation
  resB : Option Reservation

def State.vault (s : State) : Vault where
  pending := s.pending
  idxOk := s.trust.idxOk
  idxNext := s.trust.idxNext
  idxLimit := s.trust.idxLimit
  svnAdvances := s.trust.svnAdvances
  svnMin := s.trust.svnMin
  nodeId := s.trust.nodeId
  resA := s.boot.resA
  resB := s.boot.resB

/-- The vault of the state that a handler answers; a refusal leaves the state as it is. -/
def Res.vault (s : State) : Res → Vault
  | .refuse _ _ _ => s.vault
  | .done _ _ t | .wait _ _ t | .held t => t.vault

@[simp] theorem State.vault_mk (pow boot regs log tel i3c fingerprint ptns ptnGen host trust store hbm flash staging eng slots rcl cmds map fab out
    freeCtr pending) :
    State.vault ⟨pow, boot, regs, log, tel, i3c, fingerprint, ptns, ptnGen, host, trust, store, hbm, flash, staging, eng, slots, rcl, cmds, map,
      fab, out, freeCtr, pending⟩ =
    ⟨pending, trust.idxOk, trust.idxNext, trust.idxLimit, trust.svnAdvances, trust.svnMin, trust.nodeId, boot.resA, boot.resB⟩ := rfl

@[simp] theorem State.vault_eta (s : State) : (⟨s.pending, s.trust.idxOk, s.trust.idxNext, s.trust.idxLimit, s.trust.svnAdvances, s.trust.svnMin,
    s.trust.nodeId, s.boot.resA, s.boot.resB⟩ : Vault) = s.vault := rfl

@[simp] theorem State.vault_ite {c : Prop} [Decidable c] (s t : State) : (if c then s else t).vault = if c then s.vault else t.vault :=
  apply_ite _ _ _ _

@[simp] theorem State.vault_foldl {α : Type} {f : State → α → State} (hf : ∀ t a, (f t a).vault = t.vault) (l : List α) (s : State) :
    (l.foldl f s).vault = s.vault :=
  List.foldlRecOn (motive := fun t : State => t.vault = s.vault) _ _ rfl fun t ht a _ => (hf t a).trans ht

theorem State.vault_foldl_option {α : Type} {f : Option State → α → Option State} (hn : ∀ a, f none a = none)
    (hf : ∀ s a t, f (some s) a = some t → t.vault = s.vault) (l : List α) {s t : State} (h : l.foldl f (some s) = some t) :
    t.vault = s.vault := by
  induction l generalizing s with
  | nil =>
    cases h
    rfl
  | cons a l ih =>
    rw [List.foldl_cons] at h
    cases hu : f (some s) a with
    | none =>
      have hl : l.foldl f none = none := List.foldlRecOn (motive := (· = none)) l f rfl fun _ ht b _ => ht ▸ hn b
      rw [hu, hl] at h
      cases h
    | some u => exact (ih (hu ▸ h)).trans (hf s a u hu)

@[simp] theorem State.vault_foldl_snd {α β : Type} {f : β × State → α → β × State} (hf : ∀ x a, (f x a).2.vault = x.2.vault) (l : List α)
    (x : β × State) : (l.foldl f x).2.vault = x.2.vault :=
  List.foldlRecOn (motive := fun y : β × State => y.2.vault = x.2.vault) _ _ rfl fun y hy a _ => (hf y a).trans hy

@[simp] theorem Res.vault_refuse (s : State) (st h r) : (Res.refuse st h r).vault s = s.vault := rfl
@[simp] theorem Res.vault_no (s : State) (st) : (Res.no st).vault s = s.vault := rfl
@[simp] theorem Res.vault_done (s t : State) (st b) : (Res.done st b t).vault s = t.vault := rfl
@[simp] theorem Res.vault_ok (s t : State) (b) : (Res.ok b t).vault s = t.vault := rfl
@[simp] theorem Res.vault_wait (s t : State) (w p) : (Res.wait w p t).vault s = t.vault := rfl
@[simp] theorem Res.vault_held (s t : State) : (Res.held t).vault s = t.vault := rfl
@[simp] theorem Res.vault_ite {c : Prop} [Decidable c] (s : State) (a b : Res) : (if c then a else b).vault s = if c then a.vault s else b.vault s :=
  apply_ite (Res.vault s) _ _ _

end Sys2Proof.Machine
end

section
/-! SUPPORT. The vault under the operations on the state: registers, log, replies, partitions, sequences, pages and commands. -/

namespace Sys2Proof.Machine
@[simp] theorem State.drawn_vault (s : State) :
    s.drawn.vault = s.vault := by rfl

@[simp] theorem State.emit_vault (o : Output) (s : State) :
    (s.emit o).vault = s.vault := by rfl

@[simp] theorem State.keep_vault (r : Reg) (v : Nat) (s : State) :
    (s.keep r v).vault = s.vault := by rfl

@[simp] theorem State.setRf_vault (r : Reg) (lo w v : Nat) (s : State) :
    (s.setRf r lo w v).vault = s.vault := by rfl

@[simp] theorem State.putRec_vault (c : Rec) (reg mask : Nat) (s : State) :
    (s.putRec c reg mask).vault = s.vault := by rfl

@[simp] theorem State.ibiCheck_vault (s : State) :
    s.ibiCheck.vault = s.vault := by simp [State.ibiCheck]

@[simp] theorem State.logRec_vault (c : Rec) (reg mask : Nat) (s : State) :
    (s.logRec c reg mask).vault = s.vault := by simp [State.logRec]

@[simp] theorem State.note_vault (c : Rec) (s : State) :
    (s.note c).vault = s.vault := by simp [State.note]

@[simp] theorem State.raise_vault (r : Reg) (k : Nat) (c : Rec) (s : State) :
    (s.raise r k c).vault = s.vault := by simp [State.raise]

@[simp] theorem State.count_vault (g scope i : Nat) (n : optParam Nat 1) (s : State) :
    (s.count g scope i n).vault = s.vault := by rfl

@[simp] theorem State.clearPtnCounters_vault (n : Nat) (s : State) :
    (s.clearPtnCounters n).vault = s.vault := by rfl

@[simp] theorem State.clearCtxCounters_vault (x : Nat) (s : State) :
    (s.clearCtxCounters x).vault = s.vault := by rfl

@[simp] theorem Res.ok_vault (payload : List Byte) (s : State) :
    (Res.ok payload s).vault s = s.vault := by rfl

@[simp] theorem State.updCtx_vault (n : Nat) (f : Ctx → Ctx) (s : State) :
    (s.updCtx n f).vault = s.vault := by rfl

@[simp] theorem State.updQueue_vault (qpn : Nat) (f : Queue → Queue) (s : State) :
    (s.updQueue qpn f).vault = s.vault := by rfl

@[simp] theorem State.updSession_vault (n : Nat) (f : Session → Session) (s : State) :
    (s.updSession n f).vault = s.vault := by rfl

@[simp] theorem State.updPort_vault (n : Nat) (f : Port → Port) (s : State) :
    (s.updPort n f).vault = s.vault := by rfl

@[simp] theorem State.updChain_vault (ptn num : Nat) (f : Chain → Chain) (s : State) :
    (s.updChain ptn num f).vault = s.vault := by rfl

@[simp] theorem State.dropChain_vault (ptn num : Nat) (s : State) :
    (s.dropChain ptn num).vault = s.vault := by rfl

@[simp] theorem State.updPtn_vault (n : Nat) (f : Ptn → Ptn) (s : State) :
    (s.updPtn n f).vault = s.vault := by rfl

@[simp] theorem State.post_vault (qpn : Nat) (kind : PostKind) (n : Nat) (imm : Bool) (s : State) :
    (s.post qpn kind n imm).vault = s.vault := by unfold State.post; split <;> simp

@[simp] theorem State.postChain_vault (q : Queue) (c : Chain) (r : Reply) (s : State) :
    (s.postChain q c r).vault = s.vault := by
  unfold State.postChain
  exact State.vault_foldl (fun t a => by split <;> simp) _ _

@[simp] theorem State.putRecord_vault (qpn : Nat) (r : Reply) (s : State) :
    (s.putRecord qpn r).vault = s.vault := by
  unfold State.putRecord
  dsimp only
  (repeat' split) <;> simp

@[simp] theorem State.chainLost_vault (qpn port : Nat) (reqId : Word64) (s : State) :
    (s.chainLost qpn port reqId).vault = s.vault := by unfold State.chainLost; split <;> simp

@[simp] theorem State.replyQueue_vault (ctx num : Nat) (r : Reply) (s : State) :
    (s.replyQueue ctx num r).vault = s.vault := by unfold State.replyQueue; split <;> simp

@[simp] theorem State.flushReplies_vault (qpn k : Nat) (s : State) : (s.flushReplies qpn k).vault = s.vault := by
  induction k generalizing s with
  | zero => rfl
  | succ k ih =>
    unfold State.flushReplies
    split
    · rfl
    · split <;> simp [ih]

@[simp] theorem State.flush_vault (qpn : Nat) (s : State) :
    (s.flush qpn).vault = s.vault := by unfold State.flush; split <;> simp

@[simp] theorem State.ringSpace_vault (qpn consumed : Nat) (s : State) :
    (s.ringSpace qpn consumed).vault = s.vault := by simp [State.ringSpace]

@[simp] theorem State.sendReply_vault (src : Src) (r : Reply) (s : State) :
    (s.sendReply src r).vault = s.vault := by
  unfold State.sendReply
  (repeat' split) <;> simp

@[simp] theorem State.sealReply_vault (ctx kid : Nat) (r : Reply) (s : State) :
    (s.sealReply ctx kid r).2.vault = s.vault := by
  unfold State.sealReply
  (repeat' split) <;> simp

@[simp] theorem State.countPtn_vault (ptn g i : Nat) (s : State) (n : optParam Nat 1) :
    (s.countPtn ptn g i n).vault = s.vault := by simp [State.countPtn]

@[simp] theorem State.refuse_vault (op : Op) (p : Packet) (ptn : Nat) (st : Status) (hint : Option NodeId) (retry : Nat) (s : State) :
    (s.refuse op p ptn st hint retry).vault = s.vault := by simp [State.refuse]

@[simp] theorem State.putCmdRec_vault (c : Cmd) (st : Status) (s : State) :
    (s.putCmdRec c st).vault = s.vault := by simp [State.putCmdRec]

@[simp] theorem State.tellDups_vault (c : Cmd) (st : Status) (payload : List Byte) (s : State) :
    (s.tellDups c st payload).vault = s.vault := by rfl

@[simp] theorem State.finish_vault (c : Cmd) (st : Status) (hint : Option NodeId) (retry : Nat) (payload : List Byte) (s : State) :
    (s.finish c st hint retry payload).vault = s.vault := by
  unfold State.finish
  dsimp only
  split <;> simp

@[simp] theorem State.updInflight_vault (id : Nat) (f : Inflight → Inflight) (s : State) :
    (s.updInflight id f).vault = s.vault := by rfl

@[simp] theorem State.dropInflight_vault (id : Nat) (s : State) :
    (s.dropInflight id).vault = s.vault := by rfl

@[simp] theorem State.hold_vault (c : Cmd) (w : Wait) (pins : List Handle) (s : State) :
    (s.hold c w pins).vault = s.vault := by rfl

@[simp] theorem State.pin_vault (hs : List Handle) (s : State) :
    (s.pin hs).vault = s.vault := by rfl

@[simp] theorem State.unpin_vault (hs : List Handle) (s : State) :
    (s.unpin hs).vault = s.vault := by rfl

@[simp] theorem State.entryDone_vault (parent index : Nat) (st : Status) (payload : List Byte) (s : State) :
    (s.entryDone parent index st payload).vault = s.vault := by
  unfold State.entryDone
  dsimp only
  (repeat' split) <;> simp

@[simp] theorem State.complete_vault (i : Inflight) (st : Status) (hint : Option NodeId) (retry : Nat) (payload : List Byte) (s : State) :
    (s.complete i st hint retry payload).vault = s.vault := by unfold State.complete; split <;> simp

@[simp] theorem State.settle_vault (c : Cmd) (r : Res) (s : State) : (s.settle c r).vault = r.vault s := by
  cases r <;> simp [State.settle, Res.vault]

@[simp] theorem State.resettle_vault (i : Inflight) (r : Res) (s : State) : (s.resettle i r).vault = r.vault s := by
  cases r <;> simp [State.resettle, Res.vault]

@[simp] theorem State.updLink_vault (n : Nat) (f : Link → Link) (s : State) :
    (s.updLink n f).vault = s.vault := by rfl

@[simp] theorem State.sendFrame_vault (n : Nat) (f : LinkFrame) (l : Link) (s : State) :
    (s.sendFrame n f l).vault = s.vault := by rfl

@[simp] theorem State.pump_vault (n k : Nat) (s : State) : (s.pump n k).vault = s.vault := by
  induction k generalizing s with
  | zero => rfl
  | succ k ih =>
    unfold State.pump
    dsimp only
    split
    · rfl
    · split <;> simp [ih]

@[simp] theorem State.pumpAll_vault (n : Nat) (s : State) :
    (s.pumpAll n).vault = s.vault := by simp [State.pumpAll]

@[simp] theorem State.transmit_vault (dst : NodeId) (x : Sent) (s : State) :
    (s.transmit dst x).vault = s.vault := by simp [State.transmit]

@[simp] theorem State.updPeer_vault (n : NodeId) (f : Peer → Peer) (s : State) :
    (s.updPeer n f).vault = s.vault := by rfl

@[simp] theorem State.attRoll_vault (s : State) :
    s.attRoll.vault = s.vault := by simp [State.attRoll]

@[simp] theorem State.attUsed_vault (s : State) :
    s.attUsed.vault = s.vault := by rfl

@[simp] theorem State.hello_vault (n : NodeId) (s : State) :
    (s.hello n).vault = s.vault := by simp [State.hello]

@[simp] theorem State.needKey_vault (n : NodeId) (s : State) :
    (s.needKey n).vault = s.vault := by simp [State.needKey]

@[simp] theorem State.postSeq_vault (n : NodeId) (reqId : Word64) (m : Msg) (s : State) :
    (s.postSeq n reqId m).2.vault = s.vault := by simp [State.postSeq]

@[simp] theorem State.postFor_vault (n : NodeId) (reqId : Word64) (m : Msg) (s : State) :
    (s.postFor n reqId m).vault = s.vault := by simp [State.postFor]

@[simp] theorem State.postMsg_vault (n : NodeId) (m : Msg) (s : State) :
    (s.postMsg n m).vault = s.vault := by simp [State.postMsg]

@[simp] theorem State.releaseWaiting_vault (n : NodeId) (s : State) :
    (s.releaseWaiting n).vault = s.vault := by simp [State.releaseWaiting]

@[simp] theorem State.updPage_vault (h : Handle) (f : Page → Page) (s : State) :
    (s.updPage h f).vault = s.vault := by rfl

@[simp] theorem State.updSegment_vault (n : SegName) (f : Segment → Segment) (s : State) :
    (s.updSegment n f).vault = s.vault := by rfl

@[simp] theorem State.updDie_vault (d : DieId) (f : FDie → FDie) (s : State) :
    (s.updDie d f).vault = s.vault := by rfl

@[simp] theorem State.updBlock_vault (d : DieId) (b : Nat) (f : FBlock → FBlock) (s : State) :
    (s.updBlock d b f).vault = s.vault := by rfl

@[simp] theorem State.updChan_vault (n : Nat) (f : Chan → Chan) (s : State) :
    (s.updChan n f).vault = s.vault := by rfl

@[simp] theorem State.openNew_vault (d : FDie) (b : Nat) (st : Stream) (source : Option (DieId × Nat)) (s : State) :
    (s.openNew d b st source).vault = s.vault := by rfl

@[simp] theorem State.addDelta_vault (s : State) (r : DeltaRec) :
    (s.addDelta r).vault = s.vault := by rfl

@[simp] theorem State.delta_vault (l : List DeltaRec) (s : State) :
    (s.delta l).vault = s.vault := by simp [State.delta]

@[simp] theorem State.touchLeaf_vault (n : Nat) (s : State) :
    (s.touchLeaf n).vault = s.vault := by
  unfold State.touchLeaf
  dsimp only
  split <;> simp

@[simp] theorem State.invalidate_vault (o : MapEntry) (s : State) :
    (s.invalidate o).vault = s.vault := by rfl

@[simp] theorem State.setMap_vault (e : MapEntry) (s : State) :
    (s.setMap e).vault = s.vault := by unfold State.setMap; split <;> simp

@[simp] theorem State.program_vault (d : DieId) (b : Nat) (f : Frame) (s : State) :
    (s.program d b f).vault = s.vault := by rfl

@[simp] theorem State.programFrame_vault (k : FrameKind) (d : DieId) (b frame gen index : Nat) (s : State) :
    (s.programFrame k d b frame gen index).vault = s.vault := by unfold State.programFrame; split <;> simp

theorem State.placeFrame_vault {k : FrameKind} {st : Stream} {source : Option (DieId × Nat)} {chan frame gen index : Nat} {s t : State}
    (h : s.placeFrame k st source chan frame gen index = some t) : t.vault = s.vault := by
  unfold State.placeFrame at h
  split at h
  · cases h
  · split at h
    · cases h
      simp
    · split at h
      · cases h
      · split at h
        · cases h
        · cases h
          simp

@[simp] theorem State.loadMap_vault (m : List MapEntry) (s : State) :
    (s.loadMap m).vault = s.vault := by rfl

@[simp] theorem State.freeFlash_vault (first n : Nat) (s : State) :
    (s.freeFlash first n).vault = s.vault := by
  unfold State.freeFlash
  exact State.vault_foldl (fun t a => by dsimp only; split <;> simp) _ _

theorem State.sysBlock_vault {k : FrameKind} {d : DieId} {b : Nat} {s t : State} (h : s.sysBlock k d = some (b, t)) : t.vault = s.vault := by
  unfold State.sysBlock at h
  dsimp only at h
  split at h
  · cases h
    rfl
  · cases h
    simp
  · split at h
    · cases h
    · cases h
      simp

@[simp] theorem State.sysWrite_vault (k : FrameKind) (d : DieId) (s : State) : (s.sysWrite k d).2.vault = s.vault := by
  unfold State.sysWrite
  split
  · rfl
  · split
    · rfl
    · next h => simp [State.sysBlock_vault h]

@[simp] theorem State.sysNext_vault (k : FrameKind) (s : State) :
    (s.sysNext k).2.vault = s.vault := by unfold State.sysNext; split <;> simp

@[simp] theorem State.writeAnchors_vault (s : State) :
    s.writeAnchors.vault = s.vault := by simp [State.writeAnchors]

theorem State.writeIndex_vault {n : SegName} {f : Nat} {s t : State} (h : s.writeIndex n = some (f, t)) : t.vault = s.vault := by
  unfold State.writeIndex at h
  split at h
  · cases h
  · split at h
    · cases h
    · obtain ⟨u, hu, he⟩ := Option.map_eq_some_iff.mp h
      cases he
      simp [State.placeFrame_vault hu]

@[simp] theorem State.appendBlock_vault (n : SegName) (l : List IdxEntry) (s : State) : (s.appendBlock n l).vault = s.vault := by
  unfold State.appendBlock
  split
  · next h => simp [State.writeIndex_vault h]
  · simp

@[simp] theorem State.putIndex_vault (ptn list : Nat) (e : IdxEntry) (s : State) :
    (s.putIndex ptn list e).vault = s.vault := by
  unfold State.putIndex
  dsimp only
  (repeat' split) <;> simp

@[simp] theorem State.flushKept_vault (s : State) : s.flushKept.vault = s.vault := by
  refine State.vault_foldl (fun t g => ?_) _ _
  split
  · rfl
  · refine State.vault_foldl (fun t k => ?_) _ _
    split
    · rfl
    · split
      · next h => simp [State.writeIndex_vault h]
      · rfl

@[simp] theorem State.queueWork_vault (cls : WorkClass) (key : Handle) (d : DieId) (s : State) :
    (s.queueWork cls key d).vault = s.vault := by rfl

@[simp] theorem State.doneWork_vault (cls : WorkClass) (key : Handle) (s : State) :
    (s.doneWork cls key).vault = s.vault := by rfl

@[simp] theorem State.enterReadOnly_vault (s : State) :
    s.enterReadOnly.vault = s.vault := by simp [State.enterReadOnly]

theorem State.writePage_vault {p : Page} {s t : State} (h : s.writePage p = some t) : t.vault = s.vault := by
  unfold State.writePage at h
  split at h
  · cases h
  · dsimp only at h
    split at h
    · cases h
    · next u hu =>
      cases h
      simp [State.vault_foldl_option (fun _ => rfl) (fun s i t => State.placeFrame_vault) _ hu]

@[simp] theorem State.leaveHbm_vault (h : Handle) (s : State) :
    (s.leaveHbm h).vault = s.vault := by rfl

theorem State.demoteNow_vault {p : Page} {s t : State} (h : s.demoteNow p = some t) : t.vault = s.vault := by
  unfold State.demoteNow at h
  split at h
  · cases h
    simp
  · obtain ⟨u, hu, he⟩ := Option.map_eq_some_iff.mp h
    simp [← he, State.writePage_vault hu]

theorem State.makeRoom_vault {ptn need k : Nat} {l : List Page} {s t : State} (h : s.makeRoom ptn need k l = some t) : t.vault = s.vault := by
  induction k generalizing l s with
  | zero =>
    cases l with
    | nil =>
      simp only [State.makeRoom, Option.ite_none_right_eq_some, Option.some.injEq] at h
      rw [← h.2]
    | cons p l => simp [State.makeRoom] at h
  | succ k ih =>
    cases l with
    | nil =>
      simp only [State.makeRoom, Option.ite_none_right_eq_some, Option.some.injEq] at h
      rw [← h.2]
    | cons p l =>
      unfold State.makeRoom at h
      split at h
      · cases h
        rfl
      · split at h
        · next u hu => exact (ih h).trans (State.demoteNow_vault hu)
        · exact ih h

theorem State.quotaRoom_vault {ptn need : Nat} {s t : State} (h : s.quotaRoom ptn need = some t) : t.vault = s.vault := State.makeRoom_vault h

theorem State.newPage_vault {ptn frames : Nat} {name : PageName} {img : Image} {above : Bool} {k : Handle} {s t : State}
    (h : s.newPage ptn name img frames above = some (k, t)) : t.vault = s.vault := by
  unfold State.newPage at h
  split at h
  · cases h
  · next u hu =>
    have hs : u.vault = s.vault := by
      split at hu
      · cases hu
        rfl
      · exact State.quotaRoom_vault hu
    split at h
    · cases h
      simpa using hs
    · cases h

@[simp] theorem State.endSeal_vault (p : Page) (s : State) :
    (s.endSeal p).vault = s.vault := by rfl

@[simp] theorem State.dropImage_vault (p : Page) (s : State) :
    (s.dropImage p).vault = s.vault := by unfold State.dropImage; split <;> simp

@[simp] theorem State.cancelSeal_vault (p : Page) (s : State) :
    (s.cancelSeal p).vault = s.vault := by simp [State.cancelSeal]

@[simp] theorem State.requeueSeal_vault (p : Page) (s : State) :
    (s.requeueSeal p).vault = s.vault := by simp [State.requeueSeal]

@[simp] theorem State.updEntry_vault (x : Seq × Nat × Nat) (f : Entry → Entry) (s : State) :
    (s.updEntry x f).vault = s.vault := by simp [State.updEntry]

@[simp] theorem State.repoint_vault (refs : List (Seq × Nat × Nat)) (old new : Handle) (s : State) :
    (s.repoint refs old new).vault = s.vault := by simp [State.repoint]

@[simp] theorem State.inheritSeal_vault (p : Page) (s : State) :
    (s.inheritSeal p).vault = s.vault := by
  unfold State.inheritSeal
  dsimp only
  (repeat' split) <;> simp

@[simp] theorem State.addRef_vault (h : Handle) (s : State) :
    (s.addRef h).vault = s.vault := by simp [State.addRef]

@[simp] theorem State.dropLocal_vault (h : Handle) (n : Nat) (s : State) :
    (s.dropLocal h n).vault = s.vault := by simp [State.dropLocal]

@[simp] theorem State.updPlaced_vault (h : Handle) (f : Placed → Placed) (s : State) :
    (s.updPlaced h f).vault = s.vault := by simp [State.updPlaced]

@[simp] theorem State.refer_vault (h : Handle) (s : State) :
    (s.refer h).vault = s.vault := by simp [State.refer]

@[simp] theorem State.referFrom_vault (n : NodeId) (h : Handle) (s : State) :
    (s.referFrom n h).vault = s.vault := by simp [State.referFrom]

@[simp] theorem State.releaseAll_vault (l : List Handle) (s : State) :
    (s.releaseAll l).vault = s.vault := by simp [State.releaseAll]

@[simp] theorem State.dropPlaced_vault (home : Bool) (x : Placed) (n : Nat) (s : State) :
    (s.dropPlaced home x n).vault = s.vault := by simp [State.dropPlaced]

@[simp] theorem State.dropRef_vault (home : Bool) (h : Handle) (s : State) :
    (s.dropRef home h).vault = s.vault := by
  unfold State.dropRef
  (repeat' split) <;> simp

@[simp] theorem State.evict_vault (h : Handle) (s : State) :
    (s.evict h).vault = s.vault := by rfl

@[simp] theorem State.updSeq_vault (h : Handle) (f : Seq → Seq) (s : State) :
    (s.updSeq h f).vault = s.vault := by rfl

@[simp] theorem State.updLayer_vault (h : Handle) (l : Nat) (f : Layer → Layer) (s : State) :
    (s.updLayer h l f).vault = s.vault := by rfl

@[simp] theorem State.mirrorMsg_vault (h : Handle) (reqId : Word64) (m : Msg) (s : State) :
    (s.mirrorMsg h reqId m).vault = s.vault := by unfold State.mirrorMsg; split <;> simp

@[simp] theorem State.mirrorWait_vault (h : Handle) (reqId : Word64) (m : Msg) (s : State) :
    (s.mirrorWait h reqId m).2.vault = s.vault := by unfold State.mirrorWait; split <;> simp

@[simp] theorem State.addSeq_vault (q : Seq) (s : State) :
    (s.addSeq q).vault = s.vault := by simp [State.addSeq]

@[simp] theorem State.addEntry_vault (h : Handle) (l : Nat) (e : Entry) (s : State) :
    (s.addEntry h l e).vault = s.vault := by simp [State.addEntry]

@[simp] theorem State.dropEntries_vault (home : Bool) (h : Handle) (l : Nat) (p : Entry → Bool) (s : State) :
    (s.dropEntries home h l p).vault = s.vault := by unfold State.dropEntries; split <;> simp

@[simp] theorem State.pinForWaits_vault (h : Handle) (l : Nat) (page : Handle) (s : State) :
    (s.pinForWaits h l page).vault = s.vault := by simp [State.pinForWaits]

theorem State.openTail_vault {home above : Bool} {q : Seq} {l block : Nat} {img : Image} {s t : State}
    (h : s.openTail home above q l block img = some t) : t.vault = s.vault := by
  unfold State.openTail at h
  split at h
  · cases h
  · next hn =>
    dsimp only at h
    split at h <;> cases h <;> simp [State.newPage_vault hn]

theorem State.withTail_vault {home above : Bool} {h : Handle} {l : Nat} {s t : State} (ht : s.withTail home above h l = some t) :
    t.vault = s.vault := by
  unfold State.withTail at ht
  split at ht
  · cases ht
  · dsimp only at ht
    split at ht
    · cases ht
      rfl
    · exact State.openTail_vault ht

@[simp] theorem State.queueSeal_vault (h : Handle) (s : State) :
    (s.queueSeal h).vault = s.vault := by rfl

@[simp] theorem State.withTail_getD_vault (home above : Bool) (h : Handle) (l : Nat) (s : State) :
    ((s.withTail home above h l).getD s).vault = s.vault := by
  cases ht : s.withTail home above h l with
  | none => rfl
  | some t => exact State.withTail_vault ht

theorem State.putRows_vault {home above : Bool} {h : Handle} {l k : Nat} {rows : List (List Word16)} {s t : State}
    (ht : s.putRows home above h l k rows = some t) : t.vault = s.vault := by
  induction k generalizing rows s with
  | zero =>
    cases ht
    rfl
  | succ k ih =>
    unfold State.putRows at ht
    split at ht
    · cases ht
      rfl
    · split at ht
      · cases ht
      · next u hu =>
        split at ht
        · cases ht
        · dsimp only at ht
          split at ht
          · cases ht
          · simp [ih ht, State.withTail_vault hu]

theorem State.applyRows_vault {home above : Bool} {a : AppendReq} {reqId : Word64} {ptn : Nat} {s t : State}
    (h : s.applyRows home above a reqId ptn = some t) : t.vault = s.vault := by
  unfold State.applyRows at h
  dsimp only at h
  split at h
  · cases h
  · next u hu =>
    cases h
    have hs : u.vault = s.vault := State.vault_foldl_option (fun _ => rfl) (fun v x w hw => by
      obtain ⟨y, hy, rfl⟩ := Option.map_eq_some_iff.mp hw
      simp [State.putRows_vault hy]) _ hu
    simp [hs]

@[simp] theorem State.loadLeaves_vault (q : Seq) (s : State) :
    (s.loadLeaves q).vault = s.vault := by simp [State.loadLeaves]

@[simp] theorem State.install_vault (h : Handle) (s : State) :
    (s.install h).vault = s.vault := by unfold State.install; split <;> simp

@[simp] theorem State.notePersisted_vault (h : Handle) (l : Nat) (s : State) :
    (s.notePersisted h l).vault = s.vault := by unfold State.notePersisted; split <;> simp

@[simp] theorem State.journalPut_vault (q : Seq) (l pos : Nat) (s : State) :
    (s.journalPut q l pos).vault = s.vault := by unfold State.journalPut; split <;> simp

@[simp] theorem State.startFlash_vault (h : Handle) (s : State) :
    (s.startFlash h).vault = s.vault := by rfl

@[simp] theorem State.persist_vault (h : Handle) (l upTo : Nat) (s : State) :
    (s.persist h l upTo).vault = s.vault := by unfold State.persist; split <;> simp

@[simp] theorem State.retireJournal_vault (h : Handle) (l block : Nat) (s : State) :
    (s.retireJournal h l block).vault = s.vault := by rfl

@[simp] theorem State.ackAppends_vault (l : List Inflight) (ahead : List AppendReq) (s : State) :
    (State.ackAppends l ahead s).vault = s.vault := by
  induction l generalizing ahead s with
  | nil => rfl
  | cons i l ih =>
    unfold State.ackAppends
    split
    · split <;> simp [ih]
    · exact ih _ _

@[simp] theorem State.progress_vault (s : State) :
    s.progress.vault = s.vault := by simp [State.progress]

@[simp] theorem State.applyAppend_vault (c : Cmd) (a : AppendReq) (s : State) : (s.applyAppend c a).vault s = s.vault := by
  unfold State.applyAppend
  split
  · rfl
  · split
    · rfl
    · split
      · split <;> rfl
      · split
        · rfl
        · next h => simp [State.applyRows_vault h]

@[simp] theorem State.repeatAppend_vault (q : Seq) (a : AppendReq) (s : State) :
    (s.repeatAppend q a).vault s = s.vault := by simp [State.repeatAppend]

@[simp] theorem State.runAppend_vault (c : Cmd) (a : AppendReq) (s : State) :
    (s.runAppend c a).vault s = s.vault := by
  unfold State.runAppend
  (repeat' split) <;> simp

@[simp] theorem State.standReads_vault (h : Handle) (layers : List Nat) (s : State) : (s.standReads h layers).vault = s.vault := by
  unfold State.standReads
  split
  · rfl
  · refine State.vault_foldl (fun t i => ?_) _ _
    split
    · split <;> simp
    · split <;> simp
    · rfl

theorem State.cutBlock_vault {home : Bool} {h : Handle} {l t : Nat} {s u : State} (hu : s.cutBlock home h l t = some u) : u.vault = s.vault := by
  unfold State.cutBlock at hu
  split at hu
  · cases hu
  · split at hu
    · cases hu
      rfl
    · split at hu
      · cases hu
        rfl
      · split at hu
        · cases hu
          simp
        · dsimp only at hu
          split at hu
          · cases hu
          · next hn =>
            cases hu
            simp [State.newPage_vault hn]

theorem State.truncLayer_vault {home : Bool} {h : Handle} {l t : Nat} {s u : State} (hu : s.truncLayer home h l t = some u) :
    u.vault = s.vault := by
  unfold State.truncLayer at hu
  split at hu
  · cases hu
    rfl
  · split at hu
    · cases hu
      rfl
    · dsimp only at hu
      split at hu
      · cases hu
      · next v hv =>
        have hs : v.vault = s.vault := by
          split at hv
          · cases hv
            simp
          · simp [State.cutBlock_vault hv]
        cases hu
        simp [hs]

@[simp] theorem State.rejournal_vault (h : Handle) (l : Nat) (s : State) :
    (s.rejournal h l).vault = s.vault := by
  unfold State.rejournal
  dsimp only
  (repeat' split) <;> simp

theorem State.truncSeq_vault {home : Bool} {h : Handle} {layers : List Nat} {t : Nat} {s u : State}
    (hu : s.truncSeq home h layers t = some u) : u.vault = s.vault := by
  unfold State.truncSeq at hu
  dsimp only at hu
  split at hu
  · cases hu
  · next v hv =>
    have hs : v.vault = (s.standReads h layers).vault :=
      State.vault_foldl_option (fun _ => rfl) (fun w l x => State.truncLayer_vault) _ hv
    cases hu
    simp [hs]

@[simp] theorem State.endAppends_vault (h : Handle) (t : Nat) (st : Status) (l : List Inflight) (s : State) :
    (State.endAppends h t st l s).vault = s.vault := by
  induction l generalizing s with
  | nil => rfl
  | cons i l ih =>
    unfold State.endAppends
    split <;> simp [ih]

@[simp] theorem State.removeSeq_vault (home : Bool) (h : Handle) (s : State) :
    (s.removeSeq home h).vault = s.vault := by unfold State.removeSeq; split <;> simp

@[simp] theorem State.endWaits_vault (h : Handle) (l : List Inflight) (s : State) : (State.endWaits h l s).vault = s.vault := by
  induction l generalizing s with
  | nil => rfl
  | cons i l ih => simp [State.endWaits, ih]

theorem State.forkLayer_vault {parent : Seq} {child : Handle} {f l : Nat} {s t : State} (h : s.forkLayer parent child f l = some t) :
    t.vault = s.vault := by
  unfold State.forkLayer at h
  dsimp only at h
  split at h
  · cases h
    simp
  · split at h
    · cases h
      simp
    · split at h
      · cases h
      · next hn =>
        cases h
        simp [State.newPage_vault hn]

theorem State.forkHere_vault {r : ForkReq} {s t : State} (h : s.forkHere r = some t) : t.vault = s.vault := by
  unfold State.forkHere at h
  split at h
  · cases h
  · dsimp only at h
    split at h
    · cases h
    · next v hv =>
      have hs := State.vault_foldl_option (fun _ => rfl) (fun w l x => State.forkLayer_vault) _ hv
      cases h
      simp [hs]

@[simp] theorem State.sendCopy_vault (n : NodeId) (purpose : Nat) (h : Handle) (l : Nat) (p : Page) (s : State) :
    (s.sendCopy n purpose h l p).vault = s.vault := by simp [State.sendCopy]

@[simp] theorem State.replicate_vault (q : Seq) (l : Nat) (p : Page) (s : State) :
    (s.replicate q l p).vault = s.vault := by simp [State.replicate]

@[simp] theorem emptyDup_vault (x : Cmd) (s : State) :
    (emptyDup x s).vault s = s.vault := by rfl

@[simp] theorem nsCreateRun_vault (c : Cmd) (s : State) :
    (nsCreateRun c s).vault s = s.vault := by simp [nsCreateRun]

@[simp] theorem nsModifyRun_vault (c : Cmd) (s : State) :
    (nsModifyRun c s).vault s = s.vault := by simp [nsModifyRun]

@[simp] theorem nsDeleteRun_vault (c : Cmd) (s : State) :
    (nsDeleteRun c s).vault s = s.vault := by simp [nsDeleteRun]

@[simp] theorem seqCreateRun_vault (c : Cmd) (s : State) :
    (seqCreateRun c s).vault s = s.vault := by unfold seqCreateRun; split <;> simp

@[simp] theorem afterMirror_vault (h : Handle) (x : Option (NodeId × Nat) × State) (s : State) : (afterMirror h x).vault s = x.2.vault := by
  unfold afterMirror
  split <;> rfl

end Sys2Proof.Machine
end

section
/-! SUPPORT. The vault under forks, appends, attends, batches, messages between nodes, gradients and slots. -/

namespace Sys2Proof.Machine
@[simp] theorem State.reclaim_vault (h : Handle) (s : State) :
    (s.reclaim h).vault = s.vault := by unfold State.reclaim; split <;> simp

@[simp] theorem seqDeleteRun_vault (c : Cmd) (s : State) : (seqDeleteRun c s).vault s = s.vault := by simp [seqDeleteRun]

@[simp] theorem seqTagRun_vault (c : Cmd) (s : State) :
    (seqTagRun c s).vault s = s.vault := by simp [seqTagRun]

@[simp] theorem seqDescribeRun_vault (c : Cmd) (s : State) :
    (seqDescribeRun c s).vault s = s.vault := by
  unfold seqDescribeRun
  dsimp only
  split <;> simp

@[simp] theorem pageListRun_vault (c : Cmd) (s : State) :
    (pageListRun c s).vault s = s.vault := by
  unfold pageListRun
  dsimp only
  split <;> simp

@[simp] theorem State.fetchCut_vault (q : Seq) (t : Nat) (need : List (Nat × Handle)) (s : State) :
    (s.fetchCut q t need).vault s = s.vault := by simp [State.fetchCut]

theorem State.truncHome_vault {h : Handle} {t : Nat} {s u : State} (hu : s.truncHome h t = some u) : u.vault = s.vault := by
  unfold State.truncHome at hu
  split at hu
  · cases hu
  · split at hu
    · cases hu
    · next hv =>
      cases hu
      simp [State.truncSeq_vault hv]

@[simp] theorem truncateRun_vault (c : Cmd) (s : State) : (truncateRun c s).vault s = s.vault := by
  unfold truncateRun
  dsimp only
  split
  · rfl
  · split
    · rfl
    · split
      · simp
      · split
        · rfl
        · next h => simp [State.truncHome_vault h]

@[simp] theorem State.sendTail_vault (n : NodeId) (q : Seq) (l : Nat) (s : State) :
    (s.sendTail n q l).vault = s.vault := by
  unfold State.sendTail
  dsimp only
  split <;> simp

@[simp] theorem State.sendRecords_vault (n : NodeId) (q : Seq) (s : State) :
    (s.sendRecords n q).vault = s.vault := by simp [State.sendRecords]

@[simp] theorem State.resyncMsgs_vault (n : NodeId) (purpose : Nat) (q : Seq) (s : State) : (s.resyncMsgs n purpose q).vault = s.vault := by
  unfold State.resyncMsgs
  dsimp only
  split
  · simp
  · refine (State.vault_foldl (fun t l => State.vault_foldl (fun u e => ?_) _ _) _ _).trans (by simp)
    split
    · split <;> simp
    · rfl

@[simp] theorem State.stepResent_vault (n : NodeId) (h : Handle) (s : State) :
    (s.stepResent n h).vault = s.vault := by rfl

@[simp] theorem State.resyncSeq_vault (n : NodeId) (purpose : Nat) (q : Seq) (s : State) :
    (s.resyncSeq n purpose q).vault = s.vault := by simp [State.resyncSeq]

@[simp] theorem State.raiseSeal_vault (h : Handle) (s : State) :
    (s.raiseSeal h).vault = s.vault := by rfl

@[simp] theorem State.sendForkCreate_vault (reqId : Word64) (r : ForkReq) (n : NodeId) (q : Seq) (s : State) :
    (s.sendForkCreate reqId r n q).2.vault = s.vault := by simp [State.sendForkCreate]

@[simp] theorem forkLocal_vault (c : Cmd) (r : ForkReq) (s : State) : (forkLocal c r s).vault s = s.vault := by
  unfold forkLocal
  split
  · rfl
  · split
    · rfl
    · next t h =>
      dsimp only
      split
      · simp [State.forkHere_vault h]
      · simp [State.forkHere_vault h]

@[simp] theorem forkReady_vault (c : Cmd) (r : ForkReq) (q : Seq) (s : State) :
    (forkReady c r q s).vault s = s.vault := by
  unfold forkReady
  (repeat' split) <;> simp

@[simp] theorem forkRun_vault (c : Cmd) (s : State) : (forkRun c s).vault s = s.vault := by
  unfold forkRun
  split
  · rfl
  · split
    · rfl
    · dsimp only
      split_ifs <;> simp

@[simp] theorem State.forkCommit_vault (i : Inflight) (r : ForkReq) (s : State) :
    (s.forkCommit i r).vault = s.vault := by
  unfold State.forkCommit
  dsimp only
  (repeat' split) <;> simp

theorem appendSix_vault {bulk : Bool} {c : Cmd} {s : State} {r : Res} (h : appendSix bulk c s = some r) : r.vault s = s.vault := by
  unfold appendSix at h
  dsimp only at h
  generalize (if bulk then 64 else 32) = base at h
  split at h
  · cases h
  · split at h
    · cases h
      rfl
    · split at h
      · split at h
        · cases h
          rfl
        · split at h
          · cases h
            rfl
          · split at h
            · cases h
              rfl
            · split at h <;> cases h <;> simp
      · split at h
        · cases h
          rfl
        · split at h
          · cases h
          · split at h <;> cases h <;> rfl

@[simp] theorem appendRun_vault (bulk : Bool) (c : Cmd) (s : State) :
    (appendRun bulk c s).vault s = s.vault := by
  unfold appendRun
  (repeat' split) <;> simp

@[simp] theorem State.updEngine_vault (n : Nat) (f : Engine → Engine) (s : State) :
    (s.updEngine n f).vault = s.vault := by rfl

@[simp] theorem State.startStep_vault (ptn : Nat) (x : Step) (s : State) :
    (s.startStep ptn x).vault = s.vault := by unfold State.startStep; split <;> simp

@[simp] theorem State.beginSeal_vault (e : Nat) (p : Page) (s : State) : (s.beginSeal e p).vault = s.vault := by
  unfold State.beginSeal
  split
  · rfl
  · dsimp only
    split
    · rfl
    · next h => simp [State.newPage_vault h]

@[simp] theorem State.dispatchSeals_vault (l : List Page) (s : State) : (State.dispatchSeals l s).vault = s.vault := by
  induction l generalizing s with
  | nil => rfl
  | cons p l ih =>
    unfold State.dispatchSeals
    split <;> simp [ih]

@[simp] theorem State.dispatchFrom_vault (l : List Inflight) (s : State) : (State.dispatchFrom l s).vault = s.vault := by
  induction l generalizing s with
  | nil => rfl
  | cons i l ih =>
    unfold State.dispatchFrom
    split <;> simp [ih]

@[simp] theorem State.dispatch_vault (s : State) :
    s.dispatch.vault = s.vault := by simp [State.dispatch]

theorem State.fetchNext_vault {h : Handle} {name : PageName} {tail : Bool} {tried : List NodeId} {s t : State}
    (ht : s.fetchNext h name tail tried = some t) : t.vault = s.vault := by
  unfold State.fetchNext at ht
  dsimp only at ht
  split at ht
  · cases ht
  · cases ht
    simp

@[simp] theorem State.retryCmd_vault (i : Inflight) (s : State) :
    (s.retryCmd i).vault = s.vault := by unfold State.retryCmd; split <;> simp

@[simp] theorem State.pageReady_vault (h : Handle) (s : State) : (s.pageReady h).vault = s.vault := by
  unfold State.pageReady
  refine (State.dispatch_vault _).trans ((State.vault_foldl (fun t i => ?_) _ _).trans rfl)
  dsimp only
  split
  · split <;> simp
  · rfl

@[simp] theorem State.endLost_vault (h : Handle) (n : Nat) (page : Option Handle) (bytes : List Byte) (l : List Inflight) (s : State) :
    (State.endLost h n page bytes l s).vault = s.vault := by
  induction l generalizing s with
  | nil => rfl
  | cons i l ih =>
    unfold State.endLost
    refine (ih _).trans ?_
    split <;> simp

@[simp] theorem State.loseLayer_vault (home : Bool) (h : Handle) (l first fin : Nat) (s : State) :
    (s.loseLayer home h l first fin).vault = s.vault := by
  unfold State.loseLayer
  split
  · rfl
  · next ht => simp [State.truncSeq_vault ht]

@[simp] theorem State.loseHome_vault (h : Handle) (l first : Nat) (page : Option Handle) (s : State) :
    (s.loseHome h l first page).vault = s.vault := by unfold State.loseHome; split <;> simp

@[simp] theorem State.losePage_vault (h : Handle) (off : Nat) (s : State) :
    (s.losePage h off).vault = s.vault := by simp [State.losePage]

@[simp] theorem State.readsWait_vault (h : Handle) (s : State) :
    (s.readsWait h).vault = s.vault := by rfl

@[simp] theorem State.relocate_vault (p : Page) (s : State) : (s.relocate p).vault = s.vault := by
  have hin (t : State) : (match t.chooseStack p.name.block p.name.layer (shardOf p.name.seq) p.frames with
      | some st => t.updPage p.handle (Page.moveTo (some ⟨st, none, 0⟩))
      | none => t).vault = t.vault := by split <;> simp
  unfold State.relocate
  dsimp only
  split
  · exact hin s
  · split
    · rfl
    · split
      · next h => simp [State.writePage_vault h]
      · exact (hin _).trans (by simp)

@[simp] theorem State.recovered_vault (h : Handle) (img : Option Image) (s : State) :
    (s.recovered h img).vault = s.vault := by unfold State.recovered; split <;> simp

@[simp] theorem State.noSource_vault (h : Handle) (s : State) : (s.noSource h).vault = s.vault := by
  unfold State.noSource
  split
  · split
    · rfl
    · split <;> simp
  · simp

@[simp] theorem State.nextSource_vault (h : Handle) (name : PageName) (tail : Bool) (tried : List NodeId) (s : State) :
    (s.nextSource h name tail tried).vault = s.vault := by
  unfold State.nextSource
  split
  · next ht => exact State.fetchNext_vault ht
  · simp

@[simp] theorem State.noteUe_vault (s : State) :
    s.noteUe.vault = s.vault := by rfl

@[simp] theorem State.writePage_getD_vault (p : Page) (s : State) : ((s.writePage p).getD s).vault = s.vault := by
  cases h : s.writePage p with
  | none => rfl
  | some t => exact State.writePage_vault h

@[simp] theorem State.uncorrectable_vault (h : Handle) (flashBad : Bool) (s : State) : (s.uncorrectable h flashBad).vault = s.vault := by
  unfold State.uncorrectable
  split
  · rfl
  · split
    · rfl
    · dsimp only
      split
      · split <;> simp
      · split <;> simp

@[simp] theorem State.fetchTokens_vault (seq : Handle) (idx : Nat) (tried : List NodeId) (s : State) :
    (s.fetchTokens seq idx tried).vault = s.vault := by
  unfold State.fetchTokens
  dsimp only
  (repeat' split) <;> simp

@[simp] theorem State.updIds_vault (seq : Handle) (f : List TokBlock → List TokBlock) (s : State) :
    (s.updIds seq f).vault = s.vault := by rfl

@[simp] theorem State.tokensUncorrectable_vault (seq : Handle) (idx : Nat) (s : State) :
    (s.tokensUncorrectable seq idx).vault = s.vault := by simp [State.tokensUncorrectable]

@[simp] theorem State.wantPage_vault (h : Handle) (name : PageName) (s : State) :
    (s.wantPage h name).vault = s.vault := by simp [State.wantPage]

@[simp] theorem State.lineRoom_vault (d : Die) (ptn n : Nat) (l : List Line) (s : State) : (State.lineRoom d ptn n l s).vault = s.vault := by
  induction l generalizing s with
  | nil => rfl
  | cons x l ih => simp [State.lineRoom, ih]

@[simp] theorem State.touchLine_vault (h : Handle) (s : State) :
    (s.touchLine h).vault = s.vault := by rfl

@[simp] theorem State.stage_vault (p : Page) (drafted : Bool) (s : State) :
    (s.stage p drafted).vault = s.vault := by simp [State.stage]

@[simp] theorem State.verify_vault (h : Handle) (s : State) :
    (s.verify h).vault = s.vault := by unfold State.verify; split <;> simp

@[simp] theorem State.readFlash_vault (h : Handle) (s : State) :
    (s.readFlash h).vault = s.vault := by
  unfold State.readFlash
  (repeat' split) <;> simp

@[simp] theorem State.noteSelected_vault (reqId : Word64) (l : List Handle) (s : State) :
    (s.noteSelected reqId l).vault = s.vault := by simp [State.noteSelected]

@[simp] theorem State.countReq_vault (n : NodeId) (s : State) :
    (s.countReq n).vault = s.vault := by rfl

@[simp] theorem State.countFailed_vault (n : NodeId) (s : State) :
    (s.countFailed n).vault = s.vault := by rfl

@[simp] theorem State.sendPartial_vault (i : Inflight) (r : AttendRun) (n : NodeId) (names : Handle → Handle) (pages : List Handle) (budget : Nat) (resent : Bool) (s : State) (further : optParam Bool false) :
    (s.sendPartial i r n names pages budget resent further).2.vault = s.vault := by simp [State.sendPartial]

@[simp] theorem State.askRemote_vault (i : Inflight) (r : AttendRun) (pages : List Handle) (total : Nat) (s : State) :
    (s.askRemote i r pages total).2.vault = s.vault := by simp [State.askRemote]

@[simp] theorem State.resend_vault (i : Inflight) (r : AttendRun) (x : Remote) (budget : Nat) (s : State) :
    (s.resend i r x budget).2.vault = s.vault := by simp [State.resend]

@[simp] theorem State.updStack_vault (n : Nat) (f : Stack → Stack) (s : State) :
    (s.updStack n f).vault = s.vault := by rfl

@[simp] theorem State.nbStart_vault (id stack : Nat) (residual : Bool) (pages : List Handle) (s : State) :
    (s.nbStart id stack residual pages).vault = s.vault := by
  unfold State.nbStart
  exact State.vault_foldl (fun t a => by split <;> simp) _ _

@[simp] theorem State.routeNear_vault (id : Nat) (layout : Layout) (residual : Bool) (mine all : List Handle) (s : State) :
    (s.routeNear id layout residual mine all).2.vault = s.vault := by simp [State.routeNear]

@[simp] theorem State.issueDrafts_vault (k : Nat) (s : State) : (State.issueDrafts k s).vault = s.vault := by
  induction k generalizing s with
  | zero => rfl
  | succ k ih =>
    unfold State.issueDrafts
    split
    · rfl
    · simp [ih]

@[simp] theorem State.draftHere_vault (l : List Handle) (s : State) :
    (s.draftHere l).vault = s.vault := by simp [State.draftHere]

@[simp] theorem State.draft_vault (q : Seq) (r : AttendReq) (ptn : Nat) (reqId : Word64) (s : State) :
    (s.draft q r ptn reqId).vault = s.vault := by simp [State.draft]

@[simp] theorem State.startRun_vault (i : Inflight) (q : Seq) (r : AttendRun) (batch : List Handle) (s : State) :
    (s.startRun i q r batch).vault = s.vault := by
  unfold State.startRun
  dsimp only
  split <;> simp

@[simp] theorem State.verifyTokens_vault (q : Seq) (g : LayerGroup) (vis : Nat) (v : Option PatVer) (s : State) :
    (s.verifyTokens q g vis v).vault = s.vault := by unfold State.verifyTokens; split <;> simp

@[simp] theorem State.admitRun_vault (c : Cmd) (q : Seq) (run : AttendRun) (batch : List Handle) (wrap : Wait → Wait) (s : State) :
    (s.admitRun c q run batch wrap).vault = s.vault := by
  unfold State.admitRun
  dsimp only
  split <;> simp

@[simp] theorem State.endAtOnce_vault (c : Cmd) (q : Seq) (r : AttendReq) (s : State) :
    (s.endAtOnce c q r).vault = s.vault := by simp [State.endAtOnce]

@[simp] theorem attendRun_vault (c : Cmd) (s : State) :
    (attendRun c s).vault s = s.vault := by
  unfold attendRun
  dsimp only
  (repeat' split) <;> simp

@[simp] theorem State.entryRun_vault (parent k : Nat) (e : Cmd) (batch : List Handle) (s : State) :
    (s.entryRun parent k e batch).vault = s.vault := by
  unfold State.entryRun
  dsimp only
  (repeat' split) <;> simp

@[simp] theorem State.entryStart_vault (parent k : Nat) (e : Cmd) (batch : List Handle) (s : State) :
    (s.entryStart parent k e batch).vault = s.vault := by unfold State.entryStart; split <;> simp

@[simp] theorem batchRun_vault (c : Cmd) (s : State) :
    (batchRun c s).vault s = s.vault := by simp [batchRun]

@[simp] theorem State.setRun_vault (id : Nat) (r : AttendRun) (s : State) :
    (s.setRun id r).vault = s.vault := by rfl

@[simp] theorem State.evictUsed_vault (id : Nat) (l : List Handle) (s : State) :
    (s.evictUsed id l).vault = s.vault := by rfl

@[simp] theorem State.finishRun_vault (i : Inflight) (r : AttendRun) (st : LoopSt) (s : State) :
    (s.finishRun i r st).vault = s.vault := by simp [State.finishRun]

@[simp] theorem State.askFurther_vault (i : Inflight) (r : AttendRun) (st : LoopSt) (l : List Remote) (s : State) :
    (s.askFurther i r st l).vault = s.vault := by simp [State.askFurther]

@[simp] theorem State.nbSettled_vault (id : Nat) (h : Handle) (sent : List Handle) (s : State) :
    (s.nbSettled id h sent).vault = s.vault := by
  unfold State.nbSettled
  (repeat' split) <;> simp

@[simp] theorem State.commitAttend_vault (i : Inflight) (r : AttendRun) (s : State) :
    (s.commitAttend i r).vault = s.vault := by
  unfold State.commitAttend
  dsimp only
  (repeat' split) <;> simp

@[simp] theorem State.remoteFailed_vault (i : Inflight) (r : AttendRun) (x : Remote) (s : State) :
    (s.remoteFailed i r x).vault = s.vault := by simp [State.remoteFailed]

@[simp] theorem State.attendFanout_vault (id : Nat) (reqSeq : Word32) (s : State) :
    (s.attendFanout id reqSeq).vault = s.vault := by
  unfold State.attendFanout
  (repeat' split) <;> simp

@[simp] theorem State.gotPartial_vault (src : NodeId) (reqId : Word64) (reqSeq : Word32) (status : Nat) (p : PartialSet) (lost : List LostRange)
    (s : State) : (s.gotPartial src reqId reqSeq status p lost).vault = s.vault := by
  unfold State.gotPartial
  split
  · rfl
  · dsimp only
    split
    · simp
    · split
      · simp
      · refine (State.dispatch_vault _).trans ((State.vault_foldl (fun t h => ?_) _ _).trans (by simp))
        split <;> simp

@[simp] theorem State.holderAnswer_vault (b : PartialReq) (pins : List (Page × Pinned)) (nb : List Handle) (s : State) :
    (s.holderAnswer b pins nb).2.vault = s.vault := by rfl

@[simp] theorem State.dropPart_vault (x : HeldPart) (s : State) :
    (s.dropPart x).vault = s.vault := by rfl

@[simp] theorem State.answerPart_vault (h : MsgHdr) (m : Msg) (s : State) :
    (s.answerPart h m).vault = s.vault := by simp [State.answerPart]

@[simp] theorem State.servePart_vault (x : HeldPart) (s : State) :
    (s.servePart x).vault = s.vault := by simp [State.servePart]

@[simp] theorem State.serveParts_vault (s : State) :
    s.serveParts.vault = s.vault := by simp [State.serveParts]

@[simp] theorem State.gotPartialReq_vault (h : MsgHdr) (b : PartialReq) (s : State) :
    (s.gotPartialReq h b).vault = s.vault := by
  unfold State.gotPartialReq
  dsimp only
  split <;> simp

@[simp] theorem State.partExpired_vault (id : Nat) (s : State) :
    (s.partExpired id).vault = s.vault := by unfold State.partExpired; split <;> simp

@[simp] theorem State.positionsLanded_vault (id : Nat) (s : State) :
    (s.positionsLanded id).vault = s.vault := by
  unfold State.positionsLanded
  (repeat' split) <;> simp

@[simp] theorem State.attendExpired_vault (id : Nat) (s : State) :
    (s.attendExpired id).vault = s.vault := by
  unfold State.attendExpired
  (repeat' split) <;> simp

@[simp] theorem State.copyLost_vault (n : NodeId) (c : CopySent) (s : State) :
    (s.copyLost n c).vault = s.vault := by
  unfold State.copyLost
  (repeat' split) <;> simp

@[simp] theorem State.stepMoved_vault (n : NodeId) (p : Peer) (s : State) (i : Inflight) :
    (s.stepMoved n p i).vault = s.vault := by
  unfold State.stepMoved
  (repeat' split) <;> simp

@[simp] theorem State.newIncarn_vault (n : NodeId) (incarn : Word32) (s : State) :
    (s.newIncarn n incarn).vault = s.vault := by simp [State.newIncarn]

@[simp] theorem State.screen_vault (h : MsgHdr) (s : State) (beat : optParam Bool false) :
    (s.screen h beat).2.vault = s.vault := by
  unfold State.screen
  dsimp only
  (repeat' split) <;> simp

@[simp] theorem State.gathered_vault (h : MsgHdr) (ordered : Bool) (s : State) :
    (s.gathered h ordered).vault = s.vault := by rfl

@[simp] theorem State.unordered_vault {act : State → State} (hact : ∀ t, (act t).vault = t.vault) (h : MsgHdr) (s : State) (beat : Bool) :
    (s.unordered h act beat).vault = s.vault := by
  unfold State.unordered
  dsimp only
  split
  · simp
  · split <;> simp [hact]

@[simp] theorem State.serve_vault {act : State → State} (hact : ∀ t, (act t).vault = t.vault) (h : MsgHdr) (s : State) :
    (s.serve h act).vault = s.vault := by
  unfold State.serve
  refine State.unordered_vault (fun t => ?_) _ _ _
  dsimp only
  split <;> simp [hact]

@[simp] theorem State.drainStream_vault {deliver : Instr → State → State} (hd : ∀ i t, (deliver i t).vault = t.vault) (n : NodeId) (k : Nat)
    (s : State) : (s.drainStream deliver n k).vault = s.vault := by
  induction k generalizing s with
  | zero => rfl
  | succ k ih =>
    unfold State.drainStream
    dsimp only
    split
    · rfl
    · simp [ih, hd]

@[simp] theorem State.orderedIn_vault {deliver : Instr → State → State} (hd : ∀ i t, (deliver i t).vault = t.vault) (i : Instr) (s : State) :
    (s.orderedIn deliver i).vault = s.vault := by
  unfold State.orderedIn
  dsimp only
  (repeat' split) <;> simp [hd]

@[simp] theorem State.stepsAcked_vault (n : NodeId) (upTo : Nat) (l : List Inflight) (s : State) :
    (State.stepsAcked n upTo l s).vault = s.vault := by
  induction l generalizing s with
  | nil => rfl
  | cons i l ih =>
    unfold State.stepsAcked
    split
    · split <;> simp [ih]
    · exact ih s

@[simp] theorem State.gotE2eAck_vault (n : NodeId) (upTo : Nat) (s : State) :
    (s.gotE2eAck n upTo).vault = s.vault := by simp [State.gotE2eAck]

@[simp] theorem State.sendE2eAck_vault (n : NodeId) (s : State) :
    (s.sendE2eAck n).vault = s.vault := by simp [State.sendE2eAck]

@[simp] theorem State.retransmitStream_vault (n : NodeId) (s : State) :
    (s.retransmitStream n).vault = s.vault := by simp [State.retransmitStream]

@[simp] theorem State.stepRecord_vault (h : MsgHdr) (seq : Handle) (op : Op) (payload : List Byte) (s : State) :
    (s.stepRecord h seq op payload).vault = s.vault := by simp [State.stepRecord]

@[simp] theorem State.ackMirror_vault (h : MsgHdr) (seq : Handle) (layer : Nat) (st : Status) (s : State) :
    (s.ackMirror h seq layer st).vault = s.vault := by simp [State.ackMirror]

@[simp] theorem State.mirrorLayer_vault (a : AppendReq) (x : Nat × List (List Word16)) (s : State) : (s.mirrorLayer a x).vault = s.vault := by
  unfold State.mirrorLayer
  split
  · rfl
  · dsimp only
    split
    · next h => simp [State.putRows_vault h]
    · simp

@[simp] theorem State.gotMirrorWrite_vault (h : MsgHdr) (a : AppendReq) (s : State) :
    (s.gotMirrorWrite h a).vault = s.vault := by
  unfold State.gotMirrorWrite
  (repeat' split) <;> simp

@[simp] theorem State.step'_vault {act : State → State} (hact : ∀ t, (act t).vault = t.vault) (h : MsgHdr) (seq : Handle) (s : State) :
    (s.step' h seq act).vault = s.vault := by
  simp [State.step', hact]

@[simp] theorem State.missPage_vault (q : Seq) (l block : Nat) (env : List (List (Word16 × Word16))) (s : State) :
    (s.missPage q l block env).vault = s.vault := by
  unfold State.missPage
  dsimp only
  split
  · simp
  · next h => simp [State.newPage_vault h]

@[simp] theorem State.takeSeq_vault (h : Handle) (s : State) : (s.takeSeq h).vault = s.vault := by
  unfold State.takeSeq
  split
  · rfl
  · dsimp only
    generalize hu : State.updSeq h _ (List.foldl _ _ _) = u
    have hs : u.vault = s.vault := by
      rw [← hu]
      refine (State.updSeq_vault _ _ _).trans ((State.vault_foldl (fun t e => ?_) _ _).trans (by simp))
      split
      · split
        · simp
        · split <;> simp
      · rfl
    split <;> simp [hs]

@[simp] theorem State.shardArrived_vault (shard : Nat) (s : State) : (s.shardArrived shard).vault = s.vault := by
  simp [State.shardArrived]

@[simp] theorem State.gotStepCreate_vault (h : MsgHdr) (r : SeqCreateReq) (s : State) : (s.gotStepCreate h r).vault = s.vault := by
  unfold State.gotStepCreate
  refine State.step'_vault (fun t => ?_) _ _ _
  dsimp only
  split <;> simp

@[simp] theorem State.gotStepDelete_vault (h : MsgHdr) (seq : Handle) (s : State) :
    (s.gotStepDelete h seq).vault = s.vault := by simp [State.gotStepDelete]

@[simp] theorem State.gotStepTruncate_vault (h : MsgHdr) (seq : Handle) (t : Nat) (s : State) : (s.gotStepTruncate h seq t).vault = s.vault := by
  unfold State.gotStepTruncate
  refine State.step'_vault (fun u => ?_) _ _ _
  split
  · rfl
  · dsimp only
    split
    · simp
    · next hu => simp [State.truncSeq_vault hu]

@[simp] theorem State.gotStepTag_vault (h : MsgHdr) (seq : Handle) (tag : Word32) (s : State) :
    (s.gotStepTag h seq tag).vault = s.vault := by simp [State.gotStepTag]

@[simp] theorem State.gotStepPersisted_vault (h : MsgHdr) (seq : Handle) (l p : Nat) (s : State) :
    (s.gotStepPersisted h seq l p).vault = s.vault := by simp [State.gotStepPersisted]

@[simp] theorem State.setEntry_vault (home : Bool) (seq : Handle) (l : Nat) (e : Entry) (s : State) :
    (s.setEntry home seq l e).vault = s.vault := by
  unfold State.setEntry
  dsimp only
  split <;> simp

@[simp] theorem State.gotStepSeal_vault (h : MsgHdr) (n : PageName) (list : Nat) (code : List Byte) (s : State) :
    (s.gotStepSeal h n list code).vault = s.vault := by
  unfold State.gotStepSeal
  refine State.step'_vault (fun t => ?_) _ _ _
  split
  · rfl
  · split
    · rfl
    · split
      · rfl
      · dsimp only
        split
        · simp
        · split
          · simp
          · next hn => simp [State.newPage_vault hn]

@[simp] theorem State.gotStepTail_vault (h : MsgHdr) (seq : Handle) (l : Nat) (img : Image) (recs : List AppendRec) (s : State) :
    (s.gotStepTail h seq l img recs).vault = s.vault := by
  unfold State.gotStepTail
  refine State.step'_vault (fun t => ?_) _ _ _
  split
  · rfl
  · split
    · rfl
    · next hn => simp [State.newPage_vault hn]

@[simp] theorem State.gotStepLoss_vault (h : MsgHdr) (seq : Handle) (l first fin : Nat) (s : State) :
    (s.gotStepLoss h seq l first fin).vault = s.vault := by simp [State.gotStepLoss]

@[simp] theorem State.forkHere_getD_vault (r : ForkReq) (s : State) : ((s.forkHere r).getD s).vault = s.vault := by
  cases h : s.forkHere r with
  | none => rfl
  | some t => exact State.forkHere_vault h

@[simp] theorem State.gotStepFork_vault (h : MsgHdr) (f : ForkReq) (s : State) : (s.gotStepFork h f).vault = s.vault := by
  unfold State.gotStepFork
  refine State.step'_vault (fun t => ?_) _ _ _
  dsimp only
  split
  · split <;> simp
  · simp

@[simp] theorem State.gotTransferDone_vault (h : MsgHdr) (shard : Nat) (s : State) :
    (s.gotTransferDone h shard).vault = s.vault := by simp [State.gotTransferDone]

@[simp] theorem State.endStale_vault (n : NodeId) (seq : Handle) (k : Nat) (l : List Inflight) (s : State) :
    (State.endStale n seq k l s).vault = s.vault := by
  induction l generalizing s with
  | nil => rfl
  | cons i l ih =>
    unfold State.endStale
    refine (ih _).trans ?_
    split <;> simp

@[simp] theorem State.gotMirrorAck_vault (src : NodeId) (seq : Handle) (l status mirrored : Nat) (s : State) :
    (s.gotMirrorAck src seq l status mirrored).vault = s.vault := by simp [State.gotMirrorAck]

@[simp] theorem State.storeCopy_vault (h : MsgHdr) (purpose : Nat) (seq : Handle) (l : Nat) (i : Image) (s : State) :
    (s.storeCopy h purpose seq l i).2.vault = s.vault := by
  unfold State.storeCopy
  dsimp only
  split
  · simp
  · next hn => simp [State.newPage_vault hn]

@[simp] theorem State.placed_vault (old new : Handle) (s : State) :
    (s.placed old new).vault = s.vault := by
  unfold State.placed
  dsimp only
  (repeat' split) <;> simp

@[simp] theorem State.placedOn_vault (x : Placed) (new : Handle) (s : State) :
    (s.placedOn x new).vault = s.vault := by
  unfold State.placedOn
  dsimp only
  split <;> simp

@[simp] theorem State.movedHere_vault (h : Handle) (s : State) : (s.movedHere h).vault = s.vault := by
  unfold State.movedHere
  split
  · split
    · rfl
    · split
      · split
        · next hn => simp [State.newPage_vault hn]
        · simp
      · simp
  · rfl

@[simp] theorem State.takeFetched_vault (f : Fetch) (i : Image) (s : State) : (s.takeFetched f i).vault = s.vault := by
  unfold State.takeFetched
  split <;> simp

@[simp] theorem State.setTokens_vault (seq : Handle) (idx : Nat) (ids : List Word32) (s : State) :
    (s.setTokens seq idx ids).vault = s.vault := by rfl

@[simp] theorem State.tokensReady_vault (seq : Handle) (idx : Nat) (s : State) : (s.tokensReady seq idx).vault = s.vault := by
  unfold State.tokensReady
  refine (State.vault_foldl (fun t i => ?_) _ _).trans ?_
  · split <;> simp
  · split <;> simp

@[simp] theorem State.gotPageCopy_vault (h : MsgHdr) (purpose : Nat) (seq : Handle) (l : Nat) (c : Copied) (s : State) :
    (s.gotPageCopy h purpose seq l c).vault = s.vault := by
  unfold State.gotPageCopy
  dsimp only
  (repeat' split) <;> simp

@[simp] theorem State.gotCopyAck_vault (src : NodeId) (reqSeq : Word32) (page : Handle) (status : Nat) (s : State) :
    (s.gotCopyAck src reqSeq page status).vault = s.vault := by
  unfold State.gotCopyAck
  dsimp only
  (repeat' split) <;> simp

@[simp] theorem State.gotRelease_vault (page : Handle) (count : Nat) (s : State) :
    (s.gotRelease page count).vault = s.vault := by
  unfold State.gotRelease
  (repeat' split) <;> simp

@[simp] theorem State.gotPageFetch_vault (h : MsgHdr) (page seq : Handle) (l block : Nat) (s : State) :
    (s.gotPageFetch h page seq l block).vault = s.vault := by
  unfold State.gotPageFetch
  (repeat' split) <;> simp

@[simp] theorem State.fetchFailed_vault (f : Fetch) (s : State) :
    (s.fetchFailed f).vault = s.vault := by simp [State.fetchFailed]

theorem State.makeChild_vault {src : NodeId} {reqId : Word64} {f : ForkReq} {groups : List LayerGroup} {tokens : List (List Word32)}
    {pages : List ForkPage} {cut : List (Nat × Copied)} {s t : State} (h : s.makeChild src reqId f groups tokens pages cut = some t) :
    t.vault = s.vault := by
  unfold State.makeChild at h
  refine (State.vault_foldl_option (fun _ => rfl) (fun u x v hv => ?_) _ h).trans (by simp)
  dsimp only at hv
  split at hv
  · next hs _ =>
    cases hs
    split at hv
    · next hn =>
      cases hv
      simp [State.newPage_vault hn]
    · cases hv
  · cases hv
    rfl

@[simp] theorem State.gotForkCreate_vault (h : MsgHdr) (f : ForkReq) (groups : List LayerGroup) (tokens : List (List Word32))
    (pages : List ForkPage) (cut : List (Nat × Copied)) (s : State) : (s.gotForkCreate h f groups tokens pages cut).vault = s.vault := by
  unfold State.gotForkCreate
  dsimp only
  split
  · simp
  · split
    · simp
    · split
      · simp
      · next ht =>
        split <;> simp [State.makeChild_vault ht]

@[simp] theorem State.gotForkAccept_vault (src : NodeId) (reqSeq : Word32) (status : Nat) (s : State) :
    (s.gotForkAccept src reqSeq status).vault = s.vault := by
  unfold State.gotForkAccept
  (repeat' split) <;> simp

@[simp] theorem State.forkTimedOut_vault (id : Nat) (s : State) :
    (s.forkTimedOut id).vault = s.vault := by
  unfold State.forkTimedOut
  (repeat' split) <;> simp

@[simp] theorem State.dropPending_vault (h : Handle) (s : State) :
    (s.dropPending h).vault = s.vault := by
  unfold State.dropPending
  (repeat' split) <;> simp

@[simp] theorem State.placementMove_vault (h : Handle) (target : NodeId) (s : State) :
    (s.placementMove h target).vault = s.vault := by
  unfold State.placementMove
  (repeat' split) <;> simp

theorem State.allocGrad_vault {ptn : Nat} {g : LayerGroup} {seq : Handle} {l block : Nat} {s t : State}
    (h : s.allocGrad ptn g seq l block = some t) : t.vault = s.vault := by
  unfold State.allocGrad at h
  split at h
  · cases h
    rfl
  · obtain ⟨u, hu, hm⟩ := Option.bind_eq_some_iff.mp h
    obtain ⟨n, _, rfl⟩ := Option.map_eq_some_iff.mp hm
    simp [State.quotaRoom_vault hu]

theorem State.allocGrads_vault {ptn : Nat} {g : LayerGroup} {seq : Handle} {k : Nat} {l : List Nat} {s t : State}
    (h : State.allocGrads ptn g seq k l s = some t) : t.vault = s.vault := by
  induction l generalizing s with
  | nil =>
    cases h
    rfl
  | cons b l ih =>
    unfold State.allocGrads at h
    split at h
    · next hu => exact (ih h).trans (State.allocGrad_vault hu)
    · cases h

@[simp] theorem State.addGrad_vault (seq : Handle) (l block plane t c : Nat) (w : Word32) (s : State) :
    (s.addGrad seq l block plane t c w).vault = s.vault := by rfl

@[simp] theorem State.addTerms_vault (seq : Handle) (l : Nat) (g : LayerGroup) (block h t : Nat) (x : GradTerms) (s : State) :
    (s.addTerms seq l g block h t x).vault = s.vault := by simp [State.addTerms]

@[simp] theorem State.gradHead_vault (draw : Nat) (seq : Handle) (l : Nat) (g : LayerGroup) (alpha : Word32) (adds : Handle → Bool) (r : GradRow)
    (row h : Nat) (cells : List (Pinned × Nat)) (s : State) : (s.gradHead draw seq l g alpha adds r row h cells).2.vault = s.vault := by
  unfold State.gradHead
  refine State.vault_foldl_snd (fun x y => ?_) _ _
  split
  · rfl
  · dsimp only
    split <;> simp

@[simp] theorem State.gradPass_vault (draw : Nat) (seq : Handle) (l : Nat) (g : LayerGroup) (alpha : Word32) (adds : Handle → Bool) (rows : List GradRow) (pins : List (Pinned × List (BitVec 256))) (s : State) :
    (s.gradPass draw seq l g alpha adds rows pins).2.vault = s.vault := by simp [State.gradPass]

@[simp] theorem State.askGrad_vault (reqId : Word64) (r : GradRun) (s : State) :
    (s.askGrad reqId r).2.vault = s.vault := by simp [State.askGrad]

theorem State.startGrad_vault {ptn : Nat} {reqId : Word64} {q : Seq} {r : GradRun} {s : State} {x : GradRun × State}
    (h : s.startGrad ptn reqId q r = some x) : x.2.vault = s.vault := by
  unfold State.startGrad at h
  dsimp only at h
  split at h
  · cases h
  · next u hu =>
    have hs : u.vault = s.vault := by
      split at hu
      · cases hu
        rfl
      · exact State.allocGrads_vault hu
    cases h
    simp [hs]

@[simp] theorem gradRun_vault (dup : Bool) (c : Cmd) (s : State) : (gradRun dup c s).vault s = s.vault := by
  unfold gradRun
  split
  · rfl
  · split
    · rfl
    · split
      · rfl
      · next b _ =>
        extract_lets ids r t q len u
        have ht : t.vault = s.vault := by simp [t]
        split
        · exact ht
        · split
          · exact ht
          · split
            · simp [u, ht]
            · split
              · rfl
              · next h => simp [State.startGrad_vault h, u, ht]

@[simp] theorem State.commitGrad_vault (i : Inflight) (r : GradRun) (s : State) :
    (s.commitGrad i r).vault = s.vault := by simp [State.commitGrad]

@[simp] theorem State.holderGrad_vault (h : MsgHdr) (b : GradReq) (ps : List Page) (s : State) : (s.holderGrad h b ps).vault = s.vault := by
  unfold State.holderGrad
  dsimp only
  split
  · simp
  · next ht => simp [State.allocGrads_vault ht]

@[simp] theorem State.serveGrad_vault (x : HeldGrad) (s : State) :
    (s.serveGrad x).vault = s.vault := by simp [State.serveGrad]

@[simp] theorem State.serveGrads_vault (s : State) :
    s.serveGrads.vault = s.vault := by simp [State.serveGrads]

@[simp] theorem State.gotGradReq_vault (h : MsgHdr) (b : GradReq) (s : State) :
    (s.gotGradReq h b).vault = s.vault := by simp [State.gotGradReq]

@[simp] theorem State.setGrad_vault (id : Nat) (r : GradRun) (s : State) :
    (s.setGrad id r).vault = s.vault := by rfl

@[simp] theorem State.gotGradReply_vault (src : NodeId) (reqSeq : Word32) (dq : List Word32) (s : State) :
    (s.gotGradReply src reqSeq dq).vault = s.vault := by unfold State.gotGradReply; split <;> simp

@[simp] theorem State.gradFailed_vault (i : Inflight) (r : GradRun) (x : GradRemote) (reason : Nat) (s : State) :
    (s.gradFailed i r x reason).vault = s.vault := by simp [State.gradFailed]

@[simp] theorem gradReadRun_vault (c : Cmd) (s : State) :
    (gradReadRun c s).vault s = s.vault := by rfl

@[simp] theorem gradClearRun_vault (c : Cmd) (s : State) :
    (gradClearRun c s).vault s = s.vault := by rfl

@[simp] theorem State.landedEvent_vault (id : Nat) (s : State) : (s.landedEvent id).vault = s.vault := by
  unfold State.landedEvent
  split
  · split
    · split
      · split
        · rfl
        · split
          · simp
          · next h => simp [State.startGrad_vault h]
      · rfl
    · simp
  · split <;> simp

@[simp] theorem State.waitExpired_vault (id : Nat) (s : State) :
    (s.waitExpired id).vault = s.vault := by
  unfold State.waitExpired
  (repeat' split) <;> simp

@[simp] theorem State.startGrads_vault (s : State) :
    s.startGrads.vault = s.vault := by
  unfold State.startGrads
  exact State.vault_foldl (fun t a => by split <;> simp) _ _

@[simp] theorem State.setPat_vault (p : PatSlot) (s : State) :
    (s.setPat p).vault = s.vault := by rfl

@[simp] theorem patInvalidateRun_vault (c : Cmd) (s : State) :
    (patInvalidateRun c s).vault s = s.vault := by rfl

@[simp] theorem patWriteRun_vault (c : Cmd) (s : State) : (patWriteRun c s).vault s = s.vault := by
  unfold patWriteRun
  dsimp only
  split
  · rfl
  · split
    · rfl
    · next h => simp [State.quotaRoom_vault h]

@[simp] theorem patValidateRun_vault (c : Cmd) (s : State) :
    (patValidateRun c s).vault s = s.vault := by
  unfold patValidateRun
  dsimp only
  (repeat' split) <;> simp

@[simp] theorem patUnloadRun_vault (c : Cmd) (s : State) :
    (patUnloadRun c s).vault s = s.vault := by rfl

@[simp] theorem patDescribeRun_vault (c : Cmd) (s : State) :
    (patDescribeRun c s).vault s = s.vault := by rfl

@[simp] theorem State.setProg_vault (p : ProgSlot) (s : State) :
    (s.setProg p).vault = s.vault := by rfl

@[simp] theorem progLoadRun_vault (c : Cmd) (s : State) :
    (progLoadRun c s).vault s = s.vault := by
  unfold progLoadRun
  dsimp only
  split <;> simp

@[simp] theorem progLoadDup_vault (c : Cmd) (s : State) :
    (progLoadDup c s).vault s = s.vault := by rfl

@[simp] theorem progUnloadRun_vault (c : Cmd) (s : State) :
    (progUnloadRun c s).vault s = s.vault := by simp [progUnloadRun]

@[simp] theorem progDescribeRun_vault (c : Cmd) (s : State) :
    (progDescribeRun c s).vault s = s.vault := by rfl

@[simp] theorem State.removeModel_vault (ns model : Nat) (s : State) :
    (s.removeModel ns model).vault = s.vault := by rfl

@[simp] theorem modelInstallRun_vault (c : Cmd) (s : State) :
    (modelInstallRun c s).vault s = s.vault := by
  unfold modelInstallRun
  dsimp only
  (repeat' split) <;> simp

@[simp] theorem modelInstallDup_vault (c : Cmd) (s : State) :
    (modelInstallDup c s).vault s = s.vault := by rfl

@[simp] theorem modelDescribeRun_vault (c : Cmd) (s : State) :
    (modelDescribeRun c s).vault s = s.vault := by unfold modelDescribeRun; split <;> simp

@[simp] theorem State.setRecall_vault (id : Nat) (r : RecallRun) (s : State) :
    (s.setRecall id r).vault = s.vault := by rfl

@[simp] theorem State.finishAttended_vault (i : Inflight) (r : RecallRun) (x : RecallAttend) (s : State) :
    (s.finishAttended i r x).vault = s.vault := by simp [State.finishAttended]

@[simp] theorem State.askHolder_vault (i : Inflight) (r : RecallRun) (x : RecallAttend) (pages : List (Handle × Handle)) (resent : Bool) (s : State) :
    (s.askHolder i r x pages resent).2.vault = s.vault := by
  unfold State.askHolder
  dsimp only
  (repeat' split) <;> simp

@[simp] theorem State.askMoved_vault (i : Inflight) (r : RecallRun) (x : RecallAttend) (c : Cand) (h : Handle) (code : List Byte) (s : State) :
    (s.askMoved i r x c h code).2.vault = s.vault := by unfold State.askMoved; split <;> simp

@[simp] theorem State.askHome_vault (i : Inflight) (r : RecallRun) (x : RecallAttend) (c : Cand) (s : State) :
    (s.askHome i r x c).2.vault = s.vault := by
  unfold State.askHome
  (repeat' split) <;> simp

@[simp] theorem State.takeAsk_vault (i : Inflight) (r : RecallRun) (x : RecallAttend) (y : RecallAsk) (s : State) :
    (s.takeAsk i r x y).2.vault = s.vault := by
  unfold State.takeAsk
  dsimp only
  split
  · split <;> simp
  · split
    · refine State.vault_foldl_snd (fun z p => ?_) _ _
      split <;> simp
    · split <;> simp
  · rfl

@[simp] theorem State.settleRecall_vault (id k : Nat) (s : State) : (s.settleRecall id k).vault = s.vault := by
  induction k generalizing s with
  | zero => rfl
  | succ k ih =>
    unfold State.settleRecall
    split
    · rfl
    · split
      · rfl
      · split
        · rfl
        · split
          · simp
          · simp [ih]

@[simp] theorem State.recallAttended_vault (id : Nat) (s : State) :
    (s.recallAttended id).vault = s.vault := by simp [State.recallAttended]

end Sys2Proof.Machine
end

section
/-! SUPPORT. The vault under recall, host ports, triggers, partitions, keys, handshakes, flash and stacks. -/

namespace Sys2Proof.Machine
@[simp] theorem State.settleRecalls_vault (s : State) :
    s.settleRecalls.vault = s.vault := by
  unfold State.settleRecalls
  exact State.vault_foldl (fun t a => by split <;> simp) _ _

@[simp] theorem State.recallPassed_vault (id : Nat) (s : State) :
    (s.recallPassed id).vault = s.vault := by
  unfold State.recallPassed
  (repeat' split) <;> simp

@[simp] theorem State.checkNext_vault (i : Inflight) (f : Filter) (k : Nat) (r : RecallRun) (s : State) :
    (State.checkNext i f k r s).2.vault = s.vault := by
  induction k generalizing r s with
  | zero => rfl
  | succ k ih =>
    unfold State.checkNext
    split
    · rfl
    · split
      · rfl
      · dsimp only
        split
        · simp [ih]
        · split
          · split <;> simp [ih]
          · simp [ih]

@[simp] theorem State.recallCheck_vault (id : Nat) (s : State) :
    (s.recallCheck id).vault = s.vault := by
  unfold State.recallCheck
  (repeat' split) <;> simp

@[simp] theorem State.checkAnswered_vault (i : Inflight) (r : RecallRun) (reqSeq : Word32) (answer : Nat) (s : State) :
    (s.checkAnswered i r reqSeq answer).vault = s.vault := by unfold State.checkAnswered; split <;> simp

@[simp] theorem State.recallMerge_vault (id : Nat) (s : State) :
    (s.recallMerge id).vault = s.vault := by unfold State.recallMerge; split <;> simp

@[simp] theorem State.gotScan_vault (i : Inflight) (r : RecallRun) (n : NodeId) (reqSeq : Word32) (answer : Option (Byte × List ListResult)) (s : State) :
    (s.gotScan i r n reqSeq answer).vault = s.vault := by simp [State.gotScan]

@[simp] theorem State.scanAnswer_vault (node : NodeId) (reqId : Word64) (reqSeq : Word32) (q : ScanReq) (ls : List ListResult) (skipped : Bool) (s : State) :
    (s.scanAnswer node reqId reqSeq q ls skipped).vault = s.vault := by
  unfold State.scanAnswer
  (repeat' split) <;> simp

@[simp] theorem State.listDone_vault (x : ScanQuery) (l : ListResult) (s : State) (skipped : optParam Bool false) :
    (s.listDone x l skipped).vault = s.vault := by
  unfold State.listDone
  dsimp only
  split <;> simp

@[simp] theorem State.startPass_vault (n : SegName) (s : State) :
    (s.startPass n).vault = s.vault := by unfold State.startPass; split <;> simp

@[simp] theorem State.joinList_vault (x : ScanQuery) (s : State) (list : Nat) :
    (s.joinList x list).vault = s.vault := by
  unfold State.joinList
  dsimp only
  split <;> simp

@[simp] theorem State.startScan_vault (x : ScanQuery) (s : State) :
    (s.startScan x).vault = s.vault := by simp [State.startScan]

@[simp] theorem State.gotScanReq_vault (h : MsgHdr) (q : ScanReq) (s : State) :
    (s.gotScanReq h q).vault = s.vault := by simp [State.gotScanReq]

@[simp] theorem State.freeReplaced_vault (n : SegName) (s : State) :
    (s.freeReplaced n).vault = s.vault := by unfold State.freeReplaced; split <;> simp

@[simp] theorem State.passDone_vault (n : SegName) (bad : List Nat) (s : State) :
    (s.passDone n bad).vault = s.vault := by
  unfold State.passDone
  (repeat' split) <;> simp

@[simp] theorem State.newChain_vault (n : SegName) (keep : List IdxBlock) (l : List IdxEntry) (s : State) :
    (s.newChain n keep l).vault = s.vault := by simp [State.newChain]

@[simp] theorem State.compact_vault (n : SegName) (s : State) :
    (s.compact n).vault = s.vault := by
  unfold State.compact
  dsimp only
  split <;> simp

@[simp] theorem State.rebuildIndex_vault (n : SegName) (s : State) :
    (s.rebuildIndex n).vault = s.vault := by unfold State.rebuildIndex; split <;> simp

@[simp] theorem recallRun_vault (second : Bool) (c : Cmd) (s : State) : (recallRun second c s).vault s = s.vault := by
  unfold recallRun
  extract_lets b id mine
  split
  · rfl
  · split
    · rfl
    · split
      · rfl
      · extract_lets q nodes send y r t
        have hy : y.2.vault = s.vault := by
          refine (State.vault_foldl_snd (fun z n => ?_) _ _).trans (by simp)
          simp only [send]
          split <;> simp
        have ht : t.vault = s.vault := by simp [t, hy]
        simp [ht]

@[simp] theorem State.recallDeadline_vault (id : Nat) (s : State) :
    (s.recallDeadline id).vault = s.vault := by
  unfold State.recallDeadline
  (repeat' split) <;> simp

@[simp] theorem State.recallAnswered_vault (i : Inflight) (r : RecallRun) (y : RecallAsk) (a : Nat × Option PartialSet) (s : State) :
    (s.recallAnswered i r y a).vault = s.vault := by simp [State.recallAnswered]

@[simp] theorem State.queryAnswered_vault (i : Inflight) (r : RecallRun) (reqSeq : Word32) (h : Handle) (code : List Byte) (s : State) :
    (s.queryAnswered i r reqSeq h code).vault = s.vault := by unfold State.queryAnswered; split <;> simp

@[simp] theorem State.anyPartial_vault (h : MsgHdr) (reqSeq : Word32) (status : Nat) (p : PartialSet) (lost : List LostRange) (s : State) :
    (s.anyPartial h reqSeq status p lost).vault = s.vault := by
  unfold State.anyPartial
  (repeat' split) <;> simp

@[simp] theorem State.scanCame_vault (h : MsgHdr) (reqSeq : Word32) (answer : Option (Byte × List ListResult)) (s : State) :
    (s.scanCame h reqSeq answer).vault = s.vault := by unfold State.scanCame; split <;> simp

@[simp] theorem State.checkCame_vault (h : MsgHdr) (reqSeq : Word32) (answer : Nat) (s : State) :
    (s.checkCame h reqSeq answer).vault = s.vault := by
  unfold State.checkCame
  dsimp only
  split <;> simp

@[simp] theorem State.checkLate_vault (id : Nat) (reqSeq : Word32) (s : State) :
    (s.checkLate id reqSeq).vault = s.vault := by unfold State.checkLate; split <;> simp

@[simp] theorem State.gotHandleQuery_vault (h : MsgHdr) (seq : Handle) (layer block : Nat) (s : State) :
    (s.gotHandleQuery h seq layer block).vault = s.vault := by simp [State.gotHandleQuery]

@[simp] theorem State.handleCame_vault (h : MsgHdr) (reqSeq : Word32) (page : Handle) (code : List Byte) (s : State) :
    (s.handleCame h reqSeq page code).vault = s.vault := by unfold State.handleCame; split <;> simp

@[simp] theorem State.leave_vault (code : Nat) (s : State) :
    (s.leave code).vault = s.vault := by simp [State.leave]

@[simp] theorem State.leaveCheck_vault (s : State) :
    s.leaveCheck.vault = s.vault := by unfold State.leaveCheck; split <;> simp

@[simp] theorem State.startSeal_vault (e : Nat) (n : PageName) (s : State) :
    (s.startSeal e n).vault = s.vault := by
  unfold State.startSeal
  (repeat' split) <;> simp

@[simp] theorem State.forksReady_vault (s : State) : s.forksReady.vault = s.vault := by
  refine State.vault_foldl (fun t i => ?_) _ _
  split
  · split
    · split <;> simp
    · rfl
  · rfl

@[simp] theorem State.indexSeal_vault (q : Seq) (h : Handle) (i : Image) (n : PageName) (ptn : Nat) (model : Option (Nat × Nat)) (s : State) :
    (s.indexSeal q h i n ptn model).vault = s.vault := by unfold State.indexSeal; split <;> simp

@[simp] theorem State.spread_vault (h : Handle) (refs : List (Seq × Nat × Nat)) (s : State) :
    (s.spread h refs).vault = s.vault := by unfold State.spread; split <;> simp

@[simp] theorem State.countStep_vault (ptn e k : Nat) (s : State) :
    (s.countStep ptn e k).vault = s.vault := by simp [State.countStep]

@[simp] theorem State.commitSeal_vault (p : Page) (e : Nat) (into : Handle) (s : State) :
    (s.commitSeal p e into).vault = s.vault := by
  unfold State.commitSeal
  dsimp only
  split <;> simp

@[simp] theorem State.setHeld_vault (l : List HeldStep) (s : State) :
    (s.setHeld l).vault = s.vault := by rfl

@[simp] theorem State.fencePtn_vault (ptn unit : Nat) (det : List Byte) (s : State) :
    (s.fencePtn ptn unit det).vault = s.vault := by unfold State.fencePtn; split <;> simp

@[simp] theorem State.endStep_vault (x : Step) (s : State) :
    (s.endStep x).vault = s.vault := by
  unfold State.endStep
  dsimp only
  (repeat' split) <;> simp

@[simp] theorem State.stepFaulted_vault (ptn : Nat) (x : Step) (repl unit : Nat) (det : List Byte) (s : State) :
    (s.stepFaulted ptn x repl unit det).vault = s.vault := by
  unfold State.stepFaulted
  dsimp only
  (repeat' split) <;> simp

@[simp] theorem State.replayOn_vault (e : Nat) (h : HeldStep) (s : State) :
    (s.replayOn e h).vault = s.vault := by
  unfold State.replayOn
  dsimp only
  (repeat' split) <;> simp

@[simp] theorem State.runHeld_vault (s : State) :
    s.runHeld.vault = s.vault := by
  unfold State.runHeld
  exact State.vault_foldl (fun t a => by dsimp only; (repeat' split) <;> simp) _ _

@[simp] theorem State.gateIdle_vault (s : State) :
    s.gateIdle.vault = s.vault := by rfl

@[simp] theorem State.schedule_vault (s : State) :
    s.schedule.vault = s.vault := by simp [State.schedule]

@[simp] theorem State.engineFault_vault (e cause : Nat) (s : State) :
    (s.engineFault e cause).vault = s.vault := by
  unfold State.engineFault
  dsimp only
  (repeat' split) <;> simp

@[simp] theorem State.spareReady_vault (e : Nat) (s : State) :
    (s.spareReady e).vault = s.vault := by
  unfold State.spareReady
  dsimp only
  (repeat' split) <;> simp

@[simp] theorem State.fenceWork_vault (ptn : Nat) (s : State) :
    (s.fenceWork ptn).vault = s.vault := by
  unfold State.fenceWork
  exact State.vault_foldl (fun t a => by dsimp only; (repeat' split) <;> simp) _ _

@[simp] theorem State.partitionFence_vault (ptn : Nat) (s : State) :
    (s.partitionFence ptn).vault = s.vault := by simp [State.partitionFence]

@[simp] theorem State.commitStep_vault (e : Nat) (s : State) :
    (s.commitStep e).vault = s.vault := by
  unfold State.commitStep
  (repeat' split) <;> simp

@[simp] theorem State.sealAgain_vault (e : Nat) (p : Page) (s : State) :
    (s.sealAgain e p).vault = s.vault := by simp [State.sealAgain]

@[simp] theorem State.sealRead_vault (n : PageName) (ok : Bool) (s : State) :
    (s.sealRead n ok).vault = s.vault := by
  unfold State.sealRead
  (repeat' split) <;> simp

@[simp] theorem State.fenceLift_vault (ptn : Nat) (ok : Bool) (s : State) : (s.fenceLift ptn ok).vault = s.vault := by
  unfold State.fenceLift
  extract_lets mine t
  have ht : t.vault = s.vault := State.vault_foldl (fun u x => by split <;> simp) _ _
  split <;> simp [ht]

@[simp] theorem State.coreFault_vault (core cause : Nat) (s : State) :
    (s.coreFault core cause).vault = s.vault := by simp [State.coreFault]

@[simp] theorem State.automataFault_vault (pa : Nat) (s : State) :
    (s.automataFault pa).vault = s.vault := by simp [State.automataFault]

@[simp] theorem State.fanoutLate_vault (id : Nat) (reqSeq : Word32) (s : State) :
    (s.fanoutLate id reqSeq).vault = s.vault := by
  unfold State.fanoutLate
  (repeat' split) <;> simp

@[simp] theorem State.declined_vault (h : MsgHdr) (reqSeq : Word32) (reason : Nat) (s : State) :
    (s.declined h reqSeq reason).vault = s.vault := by
  unfold State.declined
  (repeat' split) <;> simp

@[simp] theorem State.pageWritten_vault (h : Handle) (s : State) :
    (s.pageWritten h).vault = s.vault := by simp [State.pageWritten]

@[simp] theorem State.persistedWritten_vault (h : Handle) (s : State) : (s.persistedWritten h).vault = s.vault := by
  unfold State.persistedWritten
  split
  · rfl
  · split
    · rfl
    · split
      · simp
      · next hw => simp [State.writePage_vault hw]

@[simp] theorem State.addQueue_vault (q : Queue) (s : State) :
    (s.addQueue q).vault = s.vault := by rfl

@[simp] theorem State.issueKey_vault (ctx : Nat) (s : State) :
    (s.issueKey ctx).2.vault = s.vault := by rfl

@[simp] theorem ctxCreateRun_vault (c : Cmd) (s : State) : (ctxCreateRun c s).vault s = s.vault := by
  unfold ctxCreateRun
  extract_lets b n ptn wl
  split
  · split
    · rfl
    · next t ht =>
      have hk := State.issueKey_vault n t
      split
      next serial u hu =>
        rw [hu] at hk
        simp [show u.vault = t.vault from hk, State.quotaRoom_vault ht]
  · rfl

@[simp] theorem ctxCreateDup_vault (c : Cmd) (s : State) :
    (ctxCreateDup c s).vault s = s.vault := by
  unfold ctxCreateDup
  dsimp only
  split <;> simp

@[simp] theorem queueCreateRun_vault (c : Cmd) (s : State) :
    (queueCreateRun c s).vault s = s.vault := by simp [queueCreateRun]

@[simp] theorem queueCreateDup_vault (c : Cmd) (s : State) :
    (queueCreateDup c s).vault s = s.vault := by unfold queueCreateDup; split <;> simp

@[simp] theorem State.failFiring_vault (q : Queue) (l : List Chain) (s : State) : (State.failFiring q l s).vault = s.vault := by
  induction l generalizing s with
  | nil => rfl
  | cons c l ih => simp [State.failFiring, ih]

@[simp] theorem State.dropWaiting_vault (q : Queue) (l : List Reply) (s : State) : (State.dropWaiting q l s).vault = s.vault := by
  induction l generalizing s with
  | nil => rfl
  | cons r l ih => simp [State.dropWaiting, ih]

@[simp] theorem State.removeQueue_vault (q : Queue) (s : State) :
    (s.removeQueue q).vault = s.vault := by simp [State.removeQueue]

@[simp] theorem queueDestroyRun_vault (c : Cmd) (s : State) :
    (queueDestroyRun c s).vault s = s.vault := by unfold queueDestroyRun; split <;> simp

@[simp] theorem State.endRekeys_vault (n : Nat) (l : List Inflight) (s : State) : (State.endRekeys n l s).vault = s.vault := by
  induction l generalizing s with
  | nil => rfl
  | cons i l ih => simp [State.endRekeys, ih]

@[simp] theorem State.destroyCtx_vault (n : Nat) (s : State) :
    (s.destroyCtx n).vault = s.vault := by simp [State.destroyCtx]

@[simp] theorem rekeyRun_vault (c : Cmd) (s : State) :
    (rekeyRun c s).vault s = s.vault := by unfold rekeyRun; split <;> simp

@[simp] theorem State.windowOf_vault (c : Cmd) (st : Status) (s : State) :
    (s.windowOf c st).vault s = s.vault := by unfold State.windowOf; split <;> simp

@[simp] theorem State.revoked_vault (n : Nat) (s : State) :
    (s.revoked n).vault = s.vault := by unfold State.revoked; split <;> simp

@[simp] theorem trigPostRun_vault (c : Cmd) (s : State) :
    (trigPostRun c s).vault s = s.vault := by
  unfold trigPostRun
  dsimp only
  split <;> simp

@[simp] theorem trigCancelRun_vault (c : Cmd) (s : State) :
    (trigCancelRun c s).vault s = s.vault := by
  unfold trigCancelRun
  dsimp only
  (repeat' split) <;> simp

@[simp] theorem trigDescribeRun_vault (c : Cmd) (s : State) :
    (trigDescribeRun c s).vault s = s.vault := by unfold trigDescribeRun; split <;> simp

@[simp] theorem State.queueError_vault (qpn : Nat) (s : State) :
    (s.queueError qpn).vault = s.vault := by unfold State.queueError; split <;> simp

@[simp] theorem State.countFrame_vault (q : Queue) (s : State) :
    (s.countFrame q).vault = s.vault := by rfl

@[simp] theorem State.sendLength_vault (qpn len : Nat) (s : State) :
    (s.sendLength qpn len).vault = s.vault := by unfold State.sendLength; split <;> simp

@[simp] theorem State.sendUnbuffered_vault (qpn : Nat) (s : State) :
    (s.sendUnbuffered qpn).vault = s.vault := by unfold State.sendUnbuffered; split <;> simp

@[simp] theorem State.refuseWindow_vault (q : Queue) (s : State) :
    (s.refuseWindow q).vault = s.vault := by simp [State.refuseWindow]

@[simp] theorem State.noteHeads_vault (ctx off len : Nat) (w : Mem) (s : State) :
    (s.noteHeads ctx off len w).vault = s.vault := by simp [State.noteHeads]

@[simp] theorem State.rdmaWrite_vault (qpn : Nat) (a : RdmaAddr) (data : List Byte) (s : State) :
    (s.rdmaWrite qpn a data).vault = s.vault := by
  unfold State.rdmaWrite
  dsimp only
  (repeat' split) <;> simp

@[simp] theorem State.rdmaRead_vault (qpn : Nat) (a : RdmaAddr) (len : Nat) (s : State) :
    (s.rdmaRead qpn a len).vault = s.vault := by
  unfold State.rdmaRead
  dsimp only
  (repeat' split) <;> simp

@[simp] theorem State.atomic_vault (qpn : Nat) (a : RdmaAddr) (f : Nat → Nat) (s : State) :
    (s.atomic qpn a f).vault = s.vault := by
  unfold State.atomic
  dsimp only
  (repeat' split) <;> simp

@[simp] theorem State.writeImm_vault (qpn : Nat) (s : State) :
    (s.writeImm qpn).vault = s.vault := by unfold State.writeImm; split <;> simp

@[simp] theorem State.afterAck_vault (qpn : Nat) (p : Posted) (s : State) :
    (s.afterAck qpn p).vault = s.vault := by
  unfold State.afterAck
  dsimp only
  (repeat' split) <;> simp

@[simp] theorem State.acked_vault (qpn upTo delay : Nat) (s : State) :
    (s.acked qpn upTo delay).vault = s.vault := by unfold State.acked; split <;> simp

@[simp] theorem State.goBack_vault (qpn : Nat) (s : State) :
    (s.goBack qpn).vault = s.vault := by unfold State.goBack; split <;> simp

@[simp] theorem State.ackTimedOut_vault (qpn : Nat) (s : State) :
    (s.ackTimedOut qpn).vault = s.vault := by unfold State.ackTimedOut; split <;> simp

@[simp] theorem State.gotRnr_vault (qpn : Nat) (s : State) :
    (s.gotRnr qpn).vault = s.vault := by unfold State.gotRnr; split <;> simp

@[simp] theorem State.chainDone_vault (ptn num : Nat) (nak : Bool) (s : State) :
    (s.chainDone ptn num nak).vault = s.vault := by unfold State.chainDone; split <;> simp

@[simp] theorem State.gotCnp_vault (qpn : Nat) (s : State) :
    (s.gotCnp qpn).vault = s.vault := by unfold State.gotCnp; split <;> simp

@[simp] theorem State.gotCe_vault (qpn : Nat) (s : State) :
    (s.gotCe qpn).vault = s.vault := by unfold State.gotCe; split <;> simp

@[simp] theorem State.ccPeriod_vault (qpn : Nat) (s : State) :
    (s.ccPeriod qpn).vault = s.vault := by unfold State.ccPeriod; split <;> simp

@[simp] theorem State.idleReset_vault (qpn : Nat) (s : State) :
    (s.idleReset qpn).vault = s.vault := by unfold State.idleReset; split <;> simp

@[simp] theorem State.accrue_vault (n : Nat) (s : State) :
    (s.accrue n).vault = s.vault := by simp [State.accrue]

@[simp] theorem State.resetTokens_vault (n c : Nat) (s : State) :
    (s.resetTokens n c).vault = s.vault := by rfl

@[simp] theorem State.departFrame_vault (n : Nat) (s : State) :
    (s.departFrame n).vault = s.vault := by
  unfold State.departFrame
  dsimp only
  (repeat' split) <;> simp

@[simp] theorem State.hostGateNext_vault (n : Nat) (s : State) :
    (s.hostGateNext n).vault = s.vault := by simp [State.hostGateNext]

@[simp] theorem State.gotPfc_vault (n p quanta : Nat) (s : State) :
    (s.gotPfc n p quanta).vault = s.vault := by simp [State.gotPfc]

@[simp] theorem State.pfcOver_vault (n p : Nat) (s : State) :
    (s.pfcOver n p).vault = s.vault := by rfl

@[simp] theorem State.hostLink_vault (n : Nat) (up : Bool) (s : State) :
    (s.hostLink n up).vault = s.vault := by simp [State.hostLink]

@[simp] theorem State.refuseHeld_vault (i : Inflight) (st : Status) (hint : Option NodeId) (retry : Nat) (s : State) :
    (s.refuseHeld i st hint retry).vault = s.vault := by unfold State.refuseHeld; split <;> simp

@[simp] theorem State.gapFilled_vault (id : Nat) (s : State) :
    (s.gapFilled id).vault = s.vault := by
  unfold State.gapFilled
  (repeat' split) <;> simp

@[simp] theorem State.gapExpired_vault (id : Nat) (s : State) :
    (s.gapExpired id).vault = s.vault := by
  unfold State.gapExpired
  (repeat' split) <;> simp

@[simp] theorem State.journalFreed_vault (id : Nat) (s : State) :
    (s.journalFreed id).vault = s.vault := by
  unfold State.journalFreed
  (repeat' split) <;> simp

@[simp] theorem State.journalExpired_vault (id : Nat) (s : State) :
    (s.journalExpired id).vault = s.vault := by
  unfold State.journalExpired
  dsimp only
  (repeat' split) <;> simp

@[simp] theorem State.recordExpired_vault (ptn : Nat) (reqId : Word64) (s : State) :
    (s.recordExpired ptn reqId).vault = s.vault := by simp [State.recordExpired]

@[simp] theorem State.epochExpired_vault (id : Nat) (s : State) :
    (s.epochExpired id).vault = s.vault := by unfold State.epochExpired; split <;> simp

@[simp] theorem State.transferExpired_vault (id : Nat) (s : State) :
    (s.transferExpired id).vault = s.vault := by
  unfold State.transferExpired
  (repeat' split) <;> simp

@[simp] theorem State.securityChanged_vault (s : State) :
    s.securityChanged.vault = s.vault := by simp [State.securityChanged]

@[simp] theorem State.latchJtag_vault (s : State) :
    s.latchJtag.vault = s.vault := by simp [State.latchJtag]

@[simp] theorem ptnCreateRun_vault (c : Cmd) (s : State) :
    (ptnCreateRun c s).vault s = s.vault := by unfold ptnCreateRun; split <;> simp

@[simp] theorem ptnModifyRun_vault (c : Cmd) (s : State) :
    (ptnModifyRun c s).vault s = s.vault := by unfold ptnModifyRun; split <;> simp

@[simp] theorem State.cutWait_vault (i : Inflight) (s : State) :
    (s.cutWait i).vault = s.vault := by unfold State.cutWait; split <;> simp

@[simp] theorem State.cutWaits_vault (p : Inflight → Bool) (l : List Inflight) (s : State) : (State.cutWaits p l s).vault = s.vault := by
  induction l generalizing s with
  | nil => rfl
  | cons i l ih => simp [State.cutWaits, ih]

@[simp] theorem ptnResetRun_vault (c : Cmd) (s : State) :
    (ptnResetRun c s).vault s = s.vault := by simp [ptnResetRun]

@[simp] theorem State.unloadSlots_vault (n : Nat) (s : State) :
    (s.unloadSlots n).vault = s.vault := by simp [State.unloadSlots]

@[simp] theorem State.endResets_vault (n : Nat) (l : List Inflight) (s : State) : (State.endResets n l s).vault = s.vault := by
  induction l generalizing s with
  | nil => rfl
  | cons i l ih => simp [State.endResets, ih]

@[simp] theorem State.resetDone_vault (n : Nat) (s : State) :
    (s.resetDone n).vault = s.vault := by unfold State.resetDone; split <;> simp

@[simp] theorem ptnDestroyRun_vault (c : Cmd) (s : State) :
    (ptnDestroyRun c s).vault s = s.vault := by simp [ptnDestroyRun]

@[simp] theorem ptnDescribeRun_vault (c : Cmd) (s : State) :
    (ptnDescribeRun c s).vault s = s.vault := by
  unfold ptnDescribeRun
  dsimp only
  split <;> simp

@[simp] theorem setKey_vault (n slot : Nat) (k : Option KeySlot) (s : State) :
    (setKey n slot k s).vault = s.vault := by rfl

@[simp] theorem keyInstallRun_vault (c : Cmd) (s : State) :
    (keyInstallRun c s).vault s = s.vault := by
  unfold keyInstallRun
  dsimp only
  split <;> simp

@[simp] theorem keyRevokeRun_vault (c : Cmd) (s : State) :
    (keyRevokeRun c s).vault s = s.vault := by rfl

@[simp] theorem attestRun_vault (c : Cmd) (s : State) :
    (attestRun c s).vault s = s.vault := by simp [attestRun]

@[simp] theorem certReadRun_vault (c : Cmd) (s : State) :
    (certReadRun c s).vault s = s.vault := by simp [certReadRun]

@[simp] theorem State.screenHs_vault (h : MsgHdr) (s : State) :
    (s.screenHs h).2.vault = s.vault := by
  unfold State.screenHs
  dsimp only
  (repeat' split) <;> simp

@[simp] theorem State.sendHs_vault (n : NodeId) (m : Msg) (s : State) :
    (s.sendHs n m).vault = s.vault := by simp [State.sendHs]

@[simp] theorem State.hsFailed_vault (h : MsgHdr) (id : Word32) (reason : Nat) (s : State) :
    (s.hsFailed h id reason).vault = s.vault := by simp [State.hsFailed]

@[simp] theorem State.hsIncarn_vault (h : MsgHdr) (s : State) :
    (s.hsIncarn h).vault = s.vault := by simp [State.hsIncarn]

@[simp] theorem State.hsEpoch_vault (h : MsgHdr) (s : State) :
    (s.hsEpoch h).vault = s.vault := by simp [State.hsEpoch]

@[simp] theorem State.gotHello_vault (h : MsgHdr) (b : HsBody) (s : State) :
    (s.gotHello h b).vault = s.vault := by
  unfold State.gotHello
  dsimp only
  (repeat' split) <;> simp

@[simp] theorem State.keySet_vault (n : NodeId) (certs : List Byte) (s : State) :
    (s.keySet n certs).vault = s.vault := by rfl

@[simp] theorem State.gotReply_vault (h : MsgHdr) (b : HsBody) (s : State) :
    (s.gotReply h b).vault = s.vault := by
  unfold State.gotReply
  dsimp only
  (repeat' split) <;> simp

@[simp] theorem State.gotFinish_vault (h : MsgHdr) (b : HsBody) (s : State) :
    (s.gotFinish h b).vault = s.vault := by
  unfold State.gotFinish
  dsimp only
  (repeat' split) <;> simp

@[simp] theorem State.gotAbort_vault (h : MsgHdr) (id : Word32) (s : State) :
    (s.gotAbort h id).vault = s.vault := by simp [State.gotAbort]

@[simp] theorem State.hsRetry_vault (n : NodeId) (s : State) :
    (s.hsRetry n).vault = s.vault := by unfold State.hsRetry; split <;> simp

@[simp] theorem State.backoffOver_vault (n : NodeId) (s : State) :
    (s.backoffOver n).vault = s.vault := by simp [State.backoffOver]

@[simp] theorem State.holdOver_vault (n : NodeId) (s : State) :
    (s.holdOver n).vault = s.vault := by simp [State.holdOver]

@[simp] theorem State.rekeyDue_vault (n : NodeId) (s : State) :
    (s.rekeyDue n).vault = s.vault := by simp [State.rekeyDue]

@[simp] theorem State.oldKeyGone_vault (n : NodeId) (s : State) :
    (s.oldKeyGone n).vault = s.vault := by simp [State.oldKeyGone]

@[simp] theorem State.closeSession_vault (n : Nat) (s : State) :
    (s.closeSession n).vault = s.vault := by simp [State.closeSession]

@[simp] theorem State.connect_vault (s : State) :
    s.connect.vault = s.vault := by
  unfold State.connect
  (repeat' split) <;> simp

@[simp] theorem State.mgmtHello_vault (n : Nat) (b : HsBody) (s : State) :
    (s.mgmtHello n b).vault = s.vault := by unfold State.mgmtHello; split <;> simp

@[simp] theorem State.sessionRekey_vault (n : Nat) (s : State) :
    (s.sessionRekey n).vault = s.vault := by unfold State.sessionRekey; split <;> simp

@[simp] theorem State.linkRaise_vault (n bit' code sev : Nat) (det : List Byte) (s : State) :
    (s.linkRaise n bit' code sev det).vault = s.vault := by simp [State.linkRaise]

@[simp] theorem State.startTraining_vault (n : Nat) (s : State) :
    (s.startTraining n).vault = s.vault := by rfl

@[simp] theorem State.linkUp_vault (n : Nat) (t : TrainInfo) (spare : Bool) (s : State) :
    (s.linkUp n t spare).vault = s.vault := by simp [State.linkUp]

@[simp] theorem State.gotTrain_vault (n : Nat) (t : TrainInfo) (s : State) :
    (s.gotTrain n t).vault = s.vault := by simp [State.gotTrain]

@[simp] theorem State.spareTimeout_vault (n : Nat) (s : State) :
    (s.spareTimeout n).vault = s.vault := by unfold State.spareTimeout; split <;> simp

@[simp] theorem State.replayAll_vault (n : Nat) (s : State) :
    (s.replayAll n).vault = s.vault := by simp [State.replayAll]

@[simp] theorem State.sendNak_vault (n : Nat) (s : State) :
    (s.sendNak n).vault = s.vault := by simp [State.sendNak]

@[simp] theorem State.goodFrame_vault (n : Nat) (f : LinkFrame) (s : State) :
    (s.goodFrame n f).vault = s.vault := by simp [State.goodFrame]

@[simp] theorem State.gotFrame_vault (n : Nat) (f : LinkFrame) (s : State) :
    (s.gotFrame n f).vault = s.vault := by simp [State.gotFrame]

@[simp] theorem State.gotNak_vault (n ack : Nat) (s : State) :
    (s.gotNak n ack).vault = s.vault := by simp [State.gotNak]

@[simp] theorem State.idleAck_vault (n : Nat) (s : State) :
    (s.idleAck n).vault = s.vault := by simp [State.idleAck]

@[simp] theorem State.moveFrames_vault (n : Nat) (s : State) : (s.moveFrames n).vault = s.vault := by
  refine (State.vault_foldl (fun t k => by simp) _ _).trans ((State.vault_foldl (fun t f => ?_) _ _).trans rfl)
  dsimp only
  (repeat' split) <;> simp

@[simp] theorem State.linkDown_vault (n : Nat) (det : List Byte) (s : State) :
    (s.linkDown n det).vault = s.vault := by simp [State.linkDown]

@[simp] theorem State.rejudge_vault (n : Nat) (det : List Byte) (s : State) :
    (s.rejudge n det).vault = s.vault := by simp [State.rejudge]

@[simp] theorem State.moveLane_vault (n lane cause : Nat) (s : State) :
    (s.moveLane n lane cause).vault = s.vault := by simp [State.moveLane]

@[simp] theorem State.laneFault_vault (n : Nat) (rx : Bool) (lane cause : Nat) (s : State) :
    (s.laneFault n rx lane cause).vault = s.vault := by simp [State.laneFault]

@[simp] theorem State.gotMark_vault (n lane : Nat) (s : State) :
    (s.gotMark n lane).vault = s.vault := by simp [State.gotMark]

@[simp] theorem State.gotSpareReq_vault (n lane : Nat) (s : State) :
    (s.gotSpareReq n lane).vault = s.vault := by simp [State.gotSpareReq]

@[simp] theorem State.lanesReturn_vault (n : Nat) (s : State) :
    (s.lanesReturn n).vault = s.vault := by simp [State.lanesReturn]

@[simp] theorem State.bulkNext_vault (s : State) :
    s.bulkNext.vault = s.vault := by simp [State.bulkNext]

@[simp] theorem State.dropFrags_vault (p : Frag → Bool) (s : State) :
    (s.dropFrags p).vault = s.vault := by rfl

@[simp] theorem State.reassemblyOver_vault (n : NodeId) (seq : Word32) (s : State) :
    (s.reassemblyOver n seq).vault = s.vault := by rfl

@[simp] theorem State.segmentsOver_vault (n : NodeId) (first : Word32) (s : State) :
    (s.segmentsOver n first).vault = s.vault := by rfl

@[simp] theorem State.refingerprint_vault (s : State) :
    s.refingerprint.vault = s.vault := by simp [State.refingerprint]

@[simp] theorem State.sendHeartbeat_vault (n : NodeId) (watched : Bool) (s : State) :
    (s.sendHeartbeat n watched).vault = s.vault := by simp [State.sendHeartbeat]

@[simp] theorem State.tellLeavers_vault (s : State) :
    s.tellLeavers.vault = s.vault := by simp [State.tellLeavers]

@[simp] theorem State.fastHeartbeats_vault (s : State) :
    s.fastHeartbeats.vault = s.vault := by simp [State.fastHeartbeats]

@[simp] theorem State.slowHeartbeats_vault (s : State) :
    s.slowHeartbeats.vault = s.vault := by unfold State.slowHeartbeats; split <;> simp

@[simp] theorem State.gotHeartbeat_vault (h : MsgHdr) (b : Heartbeat) (s : State) :
    (s.gotHeartbeat h b).vault = s.vault := by simp [State.gotHeartbeat]

@[simp] theorem State.peerSuspect_vault (n : NodeId) (s : State) :
    (s.peerSuspect n).vault = s.vault := by simp [State.peerSuspect]

@[simp] theorem State.askExpulsion_vault (n : NodeId) (s : State) :
    (s.askExpulsion n).vault = s.vault := by simp [State.askExpulsion]

@[simp] theorem State.gotExpel_vault (h : MsgHdr) (target : NodeId) (kind reason : Nat) (token : Word32) (s : State) :
    (s.gotExpel h target kind reason token).vault = s.vault := by simp [State.gotExpel]

@[simp] theorem State.sendAbove_vault (n : NodeId) (q : Seq) (lengths : List Nat) (s : State) : (s.sendAbove n q lengths).vault = s.vault := by
  unfold State.sendAbove
  dsimp only
  split
  · rfl
  · refine (State.vault_foldl (fun t l => ?_) _ _).trans (by simp)
    refine (State.sendTail_vault _ _ _ _).trans (State.vault_foldl (fun u e => ?_) _ _)
    split
    · split <;> simp
    · rfl

@[simp] theorem State.sendLengths_vault (q : Seq) (s : State) :
    (s.sendLengths q).vault = s.vault := by
  unfold State.sendLengths
  dsimp only
  split <;> simp

@[simp] theorem State.settled_vault (h : Handle) (s : State) :
    (s.settled h).vault = s.vault := by unfold State.settled; split <;> simp

@[simp] theorem State.settleCheck_vault (h : Handle) (s : State) :
    (s.settleCheck h).vault = s.vault := by
  unfold State.settleCheck
  (repeat' split) <;> simp

@[simp] theorem State.gotLengths_vault (h : MsgHdr) (seq : Handle) (survived : Bool) (lengths : List Nat) (s : State) :
    (s.gotLengths h seq survived lengths).vault = s.vault := by
  refine State.step'_vault (fun t => ?_) _ _ _
  dsimp only
  split
  · split <;> simp
  · split
    · split
      · simp
      · split <;> simp
    · split <;> simp

@[simp] theorem State.settleAll_vault (s : State) :
    s.settleAll.vault = s.vault := by simp [State.settleAll]

end Sys2Proof.Machine
end

section
/-! SUPPORT. The vault under maps, resilience, power, media events and management. -/

namespace Sys2Proof.Machine
@[simp] theorem State.endWrites_vault (h : Handle) (s : State) :
    (s.endWrites h).vault = s.vault := by simp [State.endWrites]

@[simp] theorem State.truncLayer_getD_vault (home : Bool) (h : Handle) (l t : Nat) (s : State) :
    ((s.truncLayer home h l t).getD s).vault = s.vault := by
  cases hu : s.truncLayer home h l t with
  | none => rfl
  | some u => exact State.truncLayer_vault hu

@[simp] theorem State.cutToMirrored_vault (h : Handle) (s : State) : (s.cutToMirrored h).vault = s.vault := by
  unfold State.cutToMirrored
  split <;> simp

@[simp] theorem State.restoreReplicas_vault (old new : MapBody) (h : Handle) (s : State) : (s.restoreReplicas old new h).vault = s.vault := by
  unfold State.restoreReplicas
  split
  · rfl
  · split
    · rfl
    · refine State.vault_foldl (fun t gone => ?_) _ _
      split
      · rfl
      · split
        · rfl
        · refine (State.vault_foldl (fun u l => State.vault_foldl (fun v e => ?_) _ _) _ _).trans (by simp)
          split
          · split <;> simp
          · rfl

@[simp] theorem State.keepLeaving_vault (h : Handle) (s : State) :
    (s.keepLeaving h).vault = s.vault := by rfl

@[simp] theorem State.reassign_vault (old new : MapBody) (h : Handle) (s : State) : (s.reassign old new h).vault = s.vault := by
  unfold State.reassign
  extract_lets k before after live left t u v w
  have ht : t.vault = s.vault := by simp [t]
  have hu : u.vault = s.vault := by simp [u, ht]
  clear_value before after live left t u
  have hv : v.vault = s.vault := by
    simp only [v]
    split
    · split <;> simp [hu]
    · exact hu
  clear_value v
  have hw : w.vault = s.vault := by
    simp only [w]
    split
    · exact hv
    · split
      · simp [hv]
      · split
        · split <;> simp [hv]
        · exact hv
  clear_value w
  split <;> simp [hv, hw]

@[simp] theorem State.sendDones_vault (old new : MapBody) (s : State) :
    (s.sendDones old new).vault = s.vault := by simp [State.sendDones]

@[simp] theorem State.leaveKeep_vault (m : MapBody) (s : State) :
    (s.leaveKeep m).vault = s.vault := by simp [State.leaveKeep]

@[simp] theorem State.stepsFreed_vault (m : MapBody) (s : State) :
    (s.stepsFreed m).vault = s.vault := by
  unfold State.stepsFreed
  exact State.vault_foldl (fun t a => by split <;> simp) _ _

@[simp] theorem State.installMap_vault (m : MapBody) (s : State) :
    (s.installMap m).vault = s.vault := by
  unfold State.installMap
  dsimp only
  split <;> simp

@[simp] theorem State.dropLeaving_vault (s : State) :
    s.dropLeaving.vault = s.vault := by simp [State.dropLeaving]

@[simp] theorem State.drainOver_vault (s : State) :
    s.drainOver.vault = s.vault := by simp [State.drainOver]

@[simp] theorem State.gotMap_vault (m : MapBody) (s : State) :
    (s.gotMap m).vault = s.vault := by simp [State.gotMap]

@[simp] theorem State.gotMapFetch_vault (h : MsgHdr) (s : State) :
    (s.gotMapFetch h).vault = s.vault := by unfold State.gotMapFetch; split <;> simp

@[simp] theorem State.pushReply_vault (s t : State) : t.pushReply.vault s = t.vault := rfl

@[simp] theorem mapPushRun_vault (c : Cmd) (s : State) : (mapPushRun c s).vault s = s.vault := by
  unfold mapPushRun
  split
  · rfl
  · simp
  · split
    · simp
    · split
      · rfl
      · split <;> simp

@[simp] theorem mapDescribeRun_vault (c : Cmd) (s : State) :
    (mapDescribeRun c s).vault s = s.vault := by rfl

@[simp] theorem State.memRaise_vault (n bit' code sev : Nat) (det : List Byte) (s : State) :
    (s.memRaise n bit' code sev det).vault = s.vault := by simp [State.memRaise]

@[simp] theorem State.moveRoles_vault (n : Nat) (s : State) :
    (s.moveRoles n).vault = s.vault := by rfl

theorem State.movePage_vault {p : Page} {s t : State} (h : s.movePage p = some t) : t.vault = s.vault := by
  unfold State.movePage at h
  split at h
  · cases h
    rfl
  · split at h
    · cases h
    · obtain ⟨u, hu, rfl⟩ := Option.map_eq_some_iff.mp h
      split at hu
      · cases hu
        simp
      · simp [State.writePage_vault hu]

theorem State.moveAll_vault {l : List Page} {s t : State} (h : State.moveAll l s = some t) : t.vault = s.vault := by
  induction l generalizing s with
  | nil =>
    cases h
    rfl
  | cons p l ih =>
    unfold State.moveAll at h
    split at h
    · next hu => exact (ih h).trans (State.movePage_vault hu)
    · cases h

@[simp] theorem State.moveGrads_vault (n : Nat) (s : State) :
    (s.moveGrads n).vault = s.vault := by
  unfold State.moveGrads
  exact State.vault_foldl (fun t a => by dsimp only; (repeat' split) <;> simp) _ _

theorem State.moveOut_vault {n : Nat} {s t : State} (h : s.moveOut n = some t) : t.vault = s.vault := by
  obtain ⟨u, hu, rfl⟩ := Option.map_eq_some_iff.mp h
  simp [State.moveAll_vault hu]

@[simp] theorem State.nbEnd_vault (x : NbSeq) (good : Bool) (s : State) :
    (s.nbEnd x good).vault = s.vault := by simp [State.nbEnd]

@[simp] theorem State.abandonNb_vault (n : Nat) (f : NbSeq → Bool) (s : State) :
    (s.abandonNb n f).vault = s.vault := by simp [State.abandonNb]

@[simp] theorem State.readAgain_vault (h : Handle) (s : State) :
    (s.readAgain h).vault = s.vault := by simp [State.readAgain]

@[simp] theorem State.recallSeal_vault (p : Page) (s : State) :
    (s.recallSeal p).vault = s.vault := by simp [State.recallSeal]

@[simp] theorem State.losePlace_vault (p : Page) (s : State) :
    (s.losePlace p).vault = s.vault := by
  unfold State.losePlace
  dsimp only
  (repeat' split) <;> simp

@[simp] theorem State.dropStack_vault (n : Nat) (s : State) :
    (s.dropStack n).vault = s.vault := by simp [State.dropStack]

@[simp] theorem State.nextDrain_vault (s : State) :
    s.nextDrain.vault = s.vault := by
  unfold State.nextDrain
  (repeat' split) <;> simp

@[simp] theorem State.fenceStack_vault (n : Nat) (s : State) :
    (s.fenceStack n).vault = s.vault := by simp [State.fenceStack]

@[simp] theorem State.stackOn_vault (n : Nat) (s : State) :
    (s.stackOn n).vault = s.vault := by rfl

@[simp] theorem State.stackOff_vault (n : Nat) (s : State) :
    (s.stackOff n).vault = s.vault := by rfl

@[simp] theorem State.stackInit_vault (n : Nat) (ok : Bool) (s : State) :
    (s.stackInit n ok).vault = s.vault := by simp [State.stackInit]

@[simp] theorem State.startDrain_vault (n : Nat) (s : State) :
    (s.startDrain n).vault = s.vault := by unfold State.startDrain; split <;> simp

@[simp] theorem State.drainRefused_vault (n : Nat) (s : State) :
    (s.drainRefused n).vault = s.vault := by simp [State.drainRefused]

@[simp] theorem State.drainDone_vault (n : Nat) (s : State) : (s.drainDone n).vault = s.vault := by
  unfold State.drainDone
  split
  · rfl
  · split
    · rfl
    · next ht =>
      split <;> simp [State.moveOut_vault ht]

@[simp] theorem State.stackUe_vault (n row : Nat) (page : Handle) (s : State) :
    (s.stackUe n row page).vault = s.vault := by simp [State.stackUe]

@[simp] theorem State.ueFence_vault (n : Nat) (s : State) :
    (s.ueFence n).vault = s.vault := by simp [State.ueFence]

@[simp] theorem State.repairRow_vault (n row : Nat) (s : State) :
    (s.repairRow n row).vault = s.vault := by simp [State.repairRow]

@[simp] theorem State.settleRow_vault (n : Nat) (s : State) (d : RowDue) : (s.settleRow n d).vault = s.vault := by
  unfold State.settleRow
  extract_lets step x t
  have hx : x.1.vault = s.vault := by
    refine List.foldlRecOn (motive := fun y : State × RowDue => y.1.vault = s.vault) _ _ rfl fun y hy h _ => ?_
    simp only [step]
    split
    · exact hy
    · split
      · exact hy
      · split
        · next hm => exact (State.movePage_vault hm).trans hy
        · exact hy
  have ht : t.vault = s.vault := by simp [t, hx]
  split <;> simp [ht]

@[simp] theorem State.settleRows_vault (n : Nat) (s : State) :
    (s.settleRows n).vault = s.vault := by simp [State.settleRows]

@[simp] theorem State.spareRow_vault (n row : Nat) (s : State) :
    (s.spareRow n row).vault = s.vault := by simp [State.spareRow]

@[simp] theorem State.taint_vault (n pch row : Nat) (page : Handle) (s : State) :
    (s.taint n pch row page).vault = s.vault := by simp [State.taint]

@[simp] theorem State.rowError_vault (n row : Nat) (s : State) :
    (s.rowError n row).vault = s.vault := by simp [State.rowError]

@[simp] theorem State.scrubbed_vault (n : Nat) (o : ScrubOutcome) (s : State) :
    (s.scrubbed n o).vault = s.vault := by
  unfold State.scrubbed
  (repeat' split) <;> simp

@[simp] theorem State.scrub_vault (n : Nat) (o : ScrubOutcome) (s : State) :
    (s.scrub n o).vault = s.vault := by
  unfold State.scrub
  (repeat' split) <;> simp

@[simp] theorem State.stackTemp_vault (n : Nat) (t : ℤ) (s : State) :
    (s.stackTemp n t).vault = s.vault := by simp [State.stackTemp]

@[simp] theorem State.nbDone_vault (n : Nat) (h : Handle) (o : NbOutcome) (s : State) :
    (s.nbDone n h o).vault = s.vault := by
  unfold State.nbDone
  (repeat' split) <;> simp

@[simp] theorem State.nbSuspend_vault (n pch : Nat) (on : Bool) (s : State) :
    (s.nbSuspend n pch on).vault = s.vault := by rfl

@[simp] theorem State.openPromote_vault (h : Handle) (s : State) :
    (s.openPromote h).vault = s.vault := by
  unfold State.openPromote
  (repeat' split) <;> simp

@[simp] theorem State.openDemote_vault (h : Handle) (s : State) :
    (s.openDemote h).vault = s.vault := by unfold State.openDemote; split <;> simp

@[simp] theorem State.demoteWhile_vault (pct : Nat) (l : List Page) (coming : Nat) (s : State) :
    (State.demoteWhile pct l coming s).vault = s.vault := by
  induction l generalizing coming s with
  | nil => rfl
  | cons p l ih => simp [State.demoteWhile, ih]

@[simp] theorem State.demotion_vault (s : State) : s.demotion.vault = s.vault := by
  unfold State.demotion
  extract_lets now age old t u
  have ht : t.vault = s.vault := by simp [t]
  have hu : u.vault = s.vault := by simp [u, ht]
  refine (State.vault_foldl (fun v n => ?_) _ _).trans hu
  split
  · rfl
  · split
    · split
      · simp
      · split <;> simp
    · rfl

@[simp] theorem State.promotion_vault (h : Handle) (s : State) :
    (s.promotion h).vault = s.vault := by unfold State.promotion; split <;> simp

@[simp] theorem State.copyDone_vault (h : Handle) (ok : Bool) (s : State) : (s.copyDone h ok).vault = s.vault := by
  unfold State.copyDone
  split
  · rfl
  · dsimp only
    split
    · rfl
    · split
      · split
        · next hw => simp [State.writePage_vault hw]
        · split <;> simp
      · split
        · rfl
        · split
          · simp
          · split <;> simp
      · split <;> simp
      · split
        · simp
        · split <;> simp
      · rfl

@[simp] theorem State.flsRaise_vault (bit' code sev chan : Nat) (det : List Byte) (s : State) :
    (s.flsRaise bit' code sev chan det).vault = s.vault := by simp [State.flsRaise]

@[simp] theorem State.updHealth_vault (f : Health → Health) (s : State) :
    (s.updHealth f).vault = s.vault := by rfl

@[simp] theorem State.closeOpen_vault (d : DieId) (s : State) :
    (s.closeOpen d).vault = s.vault := by rfl

@[simp] theorem State.retireBlock_vault (d : DieId) (b : Nat) (s : State) :
    (s.retireBlock d b).vault = s.vault := by unfold State.retireBlock; split <;> simp

@[simp] theorem State.setCopying_vault (l : List (DieId × Nat × Nat)) (s : State) :
    (s.setCopying l).vault = s.vault := by rfl

@[simp] theorem State.pointBack_vault (t : FBlock) (f : Nat) (s : State) :
    (s.pointBack t f).vault = s.vault := by
  unfold State.pointBack
  dsimp only
  (repeat' split) <;> simp

@[simp] theorem State.failTarget_vault (t : FBlock) (s : State) :
    (s.failTarget t).vault = s.vault := by simp [State.failTarget]

@[simp] theorem State.reclaimBlock_vault (b : FBlock) (s : State) :
    (s.reclaimBlock b).vault = s.vault := by simp [State.reclaimBlock]

@[simp] theorem State.refresh_vault (d : DieId) (b : Nat) (s : State) :
    (s.refresh d b).vault = s.vault := by unfold State.refresh; split <;> simp

@[simp] theorem State.reclaimStart_vault (d : DieId) (s : State) :
    (s.reclaimStart d).vault = s.vault := by
  unfold State.reclaimStart
  dsimp only
  (repeat' split) <;> simp

theorem State.targetFor_vault {src : DieId × Nat} {b : FBlock} {s t : State} (h : s.targetFor src = some (b, t)) : t.vault = s.vault := by
  unfold State.targetFor at h
  dsimp only at h
  split at h
  · cases h
    rfl
  · split at h
    · cases h
    · split at h
      · cases h
      · obtain ⟨x, _, he⟩ := Option.map_eq_some_iff.mp h
        cases he
        simp

@[simp] theorem State.discardCopy_vault (t : FBlock) (frame : Nat) (s : State) :
    (s.discardCopy t frame).vault = s.vault := by rfl

@[simp] theorem State.reclaimCopied_vault (d : DieId) (frame : Nat) (ok : Bool) (s : State) : (s.reclaimCopied d frame ok).vault = s.vault := by
  unfold State.reclaimCopied
  split
  · rfl
  · split
    · rfl
    · extract_lets drop
      have hdrop (t : State) : (drop t).vault = t.vault := by simp [drop]
      split
      · simp
      · next t u hu =>
        have hs := State.targetFor_vault hu
        split
        · rfl
        · extract_lets v
          have hv : v.vault = s.vault := by simp [v, hs]
          split
          · split <;> simp [hv]
          · split
            · split <;> simp [hv, hdrop]
            · simp [hv, hdrop]

@[simp] theorem State.closeCheck_vault (d : DieId) (b : Nat) (ok : Bool) (s : State) :
    (s.closeCheck d b ok).vault = s.vault := by unfold State.closeCheck; split <;> simp

@[simp] theorem State.dropSource_vault (d : DieId) (b : Nat) (s : State) :
    (s.dropSource d b).vault = s.vault := by rfl

@[simp] theorem State.eraseBlock_vault (d : DieId) (b : Nat) (s : State) :
    (s.eraseBlock d b).vault = s.vault := by unfold State.eraseBlock; split <;> simp

@[simp] theorem State.placeFrame_getD_vault (k : FrameKind) (st : Stream) (source : Option (DieId × Nat)) (chan frame gen index : Nat) (s t : State)
    (h : t.vault = s.vault) : ((s.placeFrame k st source chan frame gen index).getD t).vault = s.vault := by
  cases hu : s.placeFrame k st source chan frame gen index with
  | none => exact h
  | some u => exact State.placeFrame_vault hu

@[simp] theorem State.programFailure_vault (d : DieId) (b : Nat) (s : State) : (s.programFailure d b).vault = s.vault := by
  unfold State.programFailure
  split
  · rfl
  · split
    · rfl
    · extract_lets chan t u last v w x
      have hv : v.vault = s.vault := by simp [v, u, t]
      have hw : w.vault = s.vault := by simp [w, hv]
      clear_value v w
      have hx : x.vault = s.vault := by
        simp only [x]
        split
        · split <;> simp [hw]
        · exact hw
      split
      · simp [hv]
      · split <;> simp [hx]

@[simp] theorem State.eraseFailure_vault (d : DieId) (b : Nat) (s : State) :
    (s.eraseFailure d b).vault = s.vault := by unfold State.eraseFailure; split <;> simp

@[simp] theorem State.wearMove_vault (d : DieId) (s : State) :
    (s.wearMove d).vault = s.vault := by
  unfold State.wearMove
  dsimp only
  (repeat' split) <;> simp

@[simp] theorem State.flashUe_vault (chan loc frame : Nat) (s : State) :
    (s.flashUe chan loc frame).vault = s.vault := by simp [State.flashUe]

@[simp] theorem State.flashCorrected_vault (chan : Nat) (retried : Bool) (s : State) :
    (s.flashCorrected chan retried).vault = s.vault := by simp [State.flashCorrected]

@[simp] theorem State.blockRead_vault (d : DieId) (b : Nat) (s : State) :
    (s.blockRead d b).vault = s.vault := by
  unfold State.blockRead
  dsimp only
  split <;> simp

@[simp] theorem State.noteRead_vault (p : Page) (s : State) :
    (s.noteRead p).vault = s.vault := by
  unfold State.noteRead
  exact State.vault_foldl (fun t a => by dsimp only; split <;> simp) _ _

@[simp] theorem State.readFailed_vault (p : Page) (s : State) :
    (s.readFailed p).vault = s.vault := by simp [State.readFailed]

@[simp] theorem State.groupsCome_vault (h : Handle) (s : State) :
    (s.groupsCome h).vault = s.vault := by rfl

@[simp] theorem State.pageLanded_vault (h : Handle) (s : State) :
    (s.pageLanded h).vault = s.vault := by simp [State.pageLanded]

@[simp] theorem State.refreshPage_vault (h : Handle) (s : State) :
    (s.refreshPage h).vault = s.vault := by unfold State.refreshPage; split <;> simp

@[simp] theorem State.flashReadDone_vault (h : Handle) (o : ReadOutcome) (s : State) :
    (s.flashReadDone h o).vault = s.vault := by
  unfold State.flashReadDone
  dsimp only
  (repeat' split) <;> simp

@[simp] theorem State.draftDone_vault (h : Handle) (s : State) :
    (s.draftDone h).vault = s.vault := by
  unfold State.draftDone
  dsimp only
  (repeat' split) <;> simp

@[simp] theorem State.lineExpiry_vault (h : Handle) (s : State) :
    (s.lineExpiry h).vault = s.vault := by simp [State.lineExpiry]

@[simp] theorem State.patrolRead_vault (d : DieId) (b frame : Nat) (o : ReadOutcome) (pct : Nat) (s : State) :
    (s.patrolRead d b frame o pct).vault = s.vault := by
  unfold State.patrolRead
  dsimp only
  (repeat' split) <;> simp

@[simp] theorem State.flashTemp_vault (chan : Nat) (temps : List ℤ) (s : State) :
    (s.flashTemp chan temps).vault = s.vault := by simp [State.flashTemp]

@[simp] theorem State.deltaFlush_vault (s : State) :
    s.deltaFlush.vault = s.vault := by simp [State.deltaFlush]

@[simp] theorem State.resumeStalled_vault (s : State) :
    s.resumeStalled.vault = s.vault := by simp [State.resumeStalled]

@[simp] theorem State.leafWritten_vault (leaf : Nat) (s : State) : (s.leafWritten leaf).vault = s.vault := by
  have hn := State.sysNext_vault .leaves s
  unfold State.leafWritten
  dsimp only
  split
  · split
    · next h =>
      rw [h] at hn
      simpa using hn
    · next h =>
      rw [h] at hn
      exact hn
  · rfl

@[simp] theorem State.dirCheckpoint_vault (s : State) :
    s.dirCheckpoint.vault = s.vault := by simp [State.dirCheckpoint]

@[simp] theorem State.flushConsumed_vault (s : State) :
    s.flushConsumed.vault = s.vault := by unfold State.flushConsumed; split <;> simp

@[simp] theorem State.chanOn_vault (n : Nat) (s : State) :
    (s.chanOn n).vault = s.vault := by unfold State.chanOn; split <;> simp

@[simp] theorem State.chanOff_vault (n : Nat) (s : State) :
    (s.chanOff n).vault = s.vault := by simp [State.chanOff]

@[simp] theorem State.loseChannel_vault (n : Nat) (s : State) :
    (s.loseChannel n).vault = s.vault := by simp [State.loseChannel]

@[simp] theorem State.chanTrained_vault (n dies : Nat) (bad : Option Nat) (s : State) :
    (s.chanTrained n dies bad).vault = s.vault := by simp [State.chanTrained]

@[simp] theorem State.chanRefused_vault (n : Nat) (s : State) :
    (s.chanRefused n).vault = s.vault := by simp [State.chanRefused]

@[simp] theorem State.chanDrain_vault (n : Nat) (s : State) :
    (s.chanDrain n).vault = s.vault := by unfold State.chanDrain; split <;> simp

theorem State.moveFrame_vault {d : DieId} {b frame : Nat} {s t : State} (h : s.moveFrame d b frame = some t) : t.vault = s.vault := by
  unfold State.moveFrame at h
  split at h
  · split at h
    · obtain ⟨u, hu, rfl⟩ := Option.map_eq_some_iff.mp h
      simp [State.placeFrame_vault hu]
    · cases h
      rfl
  · cases h
    rfl

theorem State.moveValid_vault {l : List (DieId × Nat × Nat)} {s t : State} (h : State.moveValid l s = some t) : t.vault = s.vault := by
  induction l generalizing s with
  | nil =>
    cases h
    rfl
  | cons x l ih =>
    unfold State.moveValid at h
    split at h
    · next hu => exact (ih h).trans (State.moveFrame_vault hu)
    · cases h

@[simp] theorem State.chanDrained_vault (n : Nat) (s : State) : (s.chanDrained n).vault = s.vault := by
  unfold State.chanDrained
  split
  · rfl
  · dsimp only
    split
    · rfl
    · next hm =>
      split <;> simp [State.moveValid_vault hm]

@[simp] theorem State.placeTails_vault (s : State) :
    s.placeTails.vault = s.vault := by
  unfold State.placeTails
  exact State.vault_foldl (fun t a => by split <;> simp) _ _

@[simp] theorem State.tierServes_vault (s : State) :
    s.tierServes.vault = s.vault := by
  unfold State.tierServes
  dsimp only
  split <;> simp

@[simp] theorem State.mapRebuilt_vault (s : State) :
    s.mapRebuilt.vault = s.vault := by simp [State.mapRebuilt]

@[simp] theorem State.leaveReadOnly_vault (s : State) :
    s.leaveReadOnly.vault = s.vault := by simp [State.leaveReadOnly]

@[simp] theorem State.pageReclaim_vault (h : Handle) (s : State) :
    (s.pageReclaim h).vault = s.vault := by simp [State.pageReclaim]

@[simp] theorem State.healthHour_vault (s : State) :
    s.healthHour.vault = s.vault := by simp [State.healthHour]

@[simp] theorem State.powRaise_vault (bit' code sev : Nat) (det : List Byte) (s : State) :
    (s.powRaise bit' code sev det).vault = s.vault := by simp [State.powRaise]

@[simp] theorem State.setPow_vault (f : Power → Power) (s : State) :
    (s.setPow f).vault = s.vault := by rfl

@[simp] theorem State.linkDark_vault (st : LinkState) (n : Nat) (s : State) :
    (s.linkDark st n).vault = s.vault := by simp [State.linkDark]

@[simp] theorem State.linkEnabled_vault (n : Nat) (s : State) :
    (s.linkEnabled n).vault = s.vault := by simp [State.linkEnabled]

@[simp] theorem State.linkDisabled_vault (n : Nat) (s : State) :
    (s.linkDisabled n).vault = s.vault := by simp [State.linkDisabled]

@[simp] theorem State.linkFenced_vault (n : Nat) (s : State) :
    (s.linkFenced n).vault = s.vault := by simp [State.linkFenced]

@[simp] theorem State.linkRestored_vault (n : Nat) (locked : Bool) (s : State) :
    (s.linkRestored n locked).vault = s.vault := by
  unfold State.linkRestored
  dsimp only
  (repeat' split) <;> simp

@[simp] theorem State.lightLinks_vault (s : State) :
    s.lightLinks.vault = s.vault := by simp [State.lightLinks]

@[simp] theorem State.darkenLinks_vault (s : State) :
    s.darkenLinks.vault = s.vault := by rfl

@[simp] theorem State.portEnabled_vault (n : Nat) (s : State) : (s.portEnabled n).vault = s.vault := by
  unfold State.portEnabled
  extract_lets t
  exact (State.vault_foldl (fun u c => by simp) _ _).trans rfl

@[simp] theorem State.portDisabled_vault (n : Nat) (s : State) :
    (s.portDisabled n).vault = s.vault := by simp [State.portDisabled]

@[simp] theorem State.hostGate_vault (n : Nat) (on : Bool) (s : State) :
    (s.hostGate n on).vault = s.vault := by rfl

@[simp] theorem State.fabricGate_vault (on : Bool) (s : State) :
    (s.fabricGate on).vault = s.vault := by simp [State.fabricGate]

@[simp] theorem State.mportSet_vault (on : Bool) (s : State) :
    (s.mportSet on).vault = s.vault := by simp [State.mportSet]

@[simp] theorem State.enterPark_vault (s : State) :
    s.enterPark.vault = s.vault := by rfl

@[simp] theorem State.wakeStacks_vault (s : State) :
    s.wakeStacks.vault = s.vault := by simp [State.wakeStacks]

@[simp] theorem State.leavePark_vault (s : State) :
    s.leavePark.vault = s.vault := by simp [State.leavePark]

@[simp] theorem State.parkDenied_vault (s : State) :
    s.parkDenied.vault = s.vault := by simp [State.parkDenied]

@[simp] theorem State.parkRequest_vault (s : State) :
    s.parkRequest.vault = s.vault := by simp [State.parkRequest]

@[simp] theorem State.parkEntry_vault (s : State) :
    s.parkEntry.vault = s.vault := by simp [State.parkEntry]

@[simp] theorem State.rideRequest_vault (coast : Bool) (s : State) :
    (s.rideRequest coast).vault = s.vault := by simp [State.rideRequest]

@[simp] theorem State.autoCoast_vault (e : Nat) (s : State) :
    (s.autoCoast e).vault = s.vault := by simp [State.autoCoast]

@[simp] theorem State.abandonWork_vault (s : State) :
    s.abandonWork.vault = s.vault := by rfl

@[simp] theorem State.startFreewheel_vault (c : FwCause) (s : State) :
    (s.startFreewheel c).vault = s.vault := by simp [State.startFreewheel]

@[simp] theorem State.warnAssert_vault (s : State) :
    s.warnAssert.vault = s.vault := by simp [State.warnAssert]

@[simp] theorem State.supplyFault_vault (rail : Nat) (s : State) :
    (s.supplyFault rail).vault = s.vault := by simp [State.supplyFault]

@[simp] theorem State.updDie'_vault (d : Die) (f : DieClk → DieClk) (s : State) :
    (s.updDie' d f).vault = s.vault := by rfl

@[simp] theorem State.droop_vault (d : Die) (s : State) :
    (s.droop d).vault = s.vault := by simp [State.droop]

@[simp] theorem State.droopRecover_vault (d : Die) (s : State) :
    (s.droopRecover d).vault = s.vault := by rfl

@[simp] theorem State.droopLong_vault (d : Die) (s : State) :
    (s.droopLong d).vault = s.vault := by simp [State.droopLong]

@[simp] theorem State.droopLongEnd_vault (d : Die) (s : State) :
    (s.droopLongEnd d).vault = s.vault := by rfl

@[simp] theorem State.pllLoss_vault (p : Pll) (s : State) : (s.pllLoss p).vault = s.vault := by
  unfold State.pllLoss
  split
  · rfl
  · extract_lets t u v
    have hu : u.vault = s.vault := by
      refine (State.vault_foldl (fun w n => ?_) _ _).trans rfl
      split
      · rfl
      · split <;> simp
    have hv : v.vault = s.vault := by
      simp only [v]
      split
      · split <;> simp [hu]
      · exact hu
    simp [hv]

@[simp] theorem State.pllRelock_vault (p : Pll) (s : State) :
    (s.pllRelock p).vault = s.vault := by
  unfold State.pllRelock
  (repeat' split) <;> simp

@[simp] theorem State.limiting_vault (t : Temps) (s : State) :
    (s.limiting t).vault = s.vault := by simp [State.limiting]

@[simp] theorem State.thermalCheck_vault (t : Temps) (s : State) :
    (s.thermalCheck t).vault = s.vault := by simp [State.thermalCheck]

@[simp] theorem State.orderlyReset_vault (s : State) :
    s.orderlyReset.vault = s.vault := by simp [State.orderlyReset]

@[simp] theorem State.fwRestart_vault (cause : Nat) (s : State) : (s.fwRestart cause).vault = s.vault := by
  unfold State.fwRestart
  split
  · rfl
  · extract_lets t u slow v
    have hv : v.vault = s.vault := by simp [v, u]
    have hp : v.pending = s.pending := congrArg Vault.pending hv
    have ha : v.boot.resA = s.boot.resA := congrArg Vault.resA hv
    have hb : v.boot.resB = s.boot.resB := congrArg Vault.resB hv
    simp [t, hp, ha, hb]

theorem State.drainRefusedBy_vault {r : Reg} {old new : Nat} {s t : State} (h : s.drainRefusedBy r old new = some t) : t.vault = s.vault := by
  unfold State.drainRefusedBy at h
  split at h
  · simp only [Option.ite_none_right_eq_some, Option.some.injEq] at h
    simp [← h.2]
  · simp only [Option.ite_none_right_eq_some, Option.some.injEq] at h
    simp [← h.2]
  · cases h

@[simp] theorem State.clearBits_vault (r : Reg) (v : Nat) (s : State) :
    (s.clearBits r v).2.vault = s.vault := by
  unfold State.clearBits
  dsimp only
  split <;> simp

@[simp] theorem State.putFlush_vault (committed : Bool) (s : State) :
    (s.putFlush committed).vault = s.vault := by simp [State.putFlush]

@[simp] theorem State.stopFlush_vault (s : State) :
    s.stopFlush.vault = s.vault := by simp [State.stopFlush]

@[simp] theorem State.rebuildTail_vault (j : List JEntry) (q : Seq) (l len : Nat) (e : Entry) (s : State) :
    (s.rebuildTail j q l len e).vault = s.vault := by rfl

@[simp] theorem State.restoreLayer_vault (j : List JEntry) (h : Handle) (len l : Nat) (s : State) :
    (s.restoreLayer j h len l).vault = s.vault := by
  unfold State.restoreLayer
  dsimp only
  split <;> simp

@[simp] theorem State.restoreSeq_vault (j : List JEntry) (q : Seq) (lens : List Nat) (s : State) :
    (s.restoreSeq j q lens).vault = s.vault := by simp [State.restoreSeq]

@[simp] theorem State.loadFlash_vault (s : State) :
    s.loadFlash.vault = s.vault := by unfold State.loadFlash; split <;> simp

@[simp] theorem State.restoreStore_vault (s : State) :
    s.restoreStore.vault = s.vault := by simp [State.restoreStore]

@[simp] theorem State.rekeyOnchip_vault (n : Nat) (s : State) :
    (s.rekeyOnchip n).vault = s.vault := by unfold State.rekeyOnchip; split <;> simp

@[simp] theorem State.setSelector_vault (k : Nat) (s : State) :
    (s.setSelector k).vault = s.vault := by unfold State.setSelector; split <;> simp

@[simp] theorem State.inService_vault (s : State) :
    s.inService.vault = s.vault := by simp [State.inService]

@[simp] theorem State.powerOn_vault (s : State) :
    s.powerOn.vault = s.vault := by simp [State.powerOn]

@[simp] theorem State.relight_vault (s : State) :
    s.relight.vault = s.vault := by simp [State.relight]

@[simp] theorem State.resumed_vault (s : State) :
    s.resumed.vault = s.vault := by simp [State.resumed]

@[simp] theorem State.reqAgain_vault (s : State) :
    s.reqAgain.vault = s.vault := by simp [State.reqAgain]

@[simp] theorem State.updSlot_vault (k : Nat) (f : FwSlot → FwSlot) (s : State) :
    (s.updSlot k f).vault = s.vault := by simp [State.updSlot]

@[simp] theorem State.setFw_vault (f : FwUpdate → FwUpdate) (s : State) :
    (s.setFw f).vault = s.vault := by rfl

@[simp] theorem fwStageRun_vault (c : Cmd) (s : State) :
    (fwStageRun c s).vault s = s.vault := by simp [fwStageRun]

@[simp] theorem fwCheckRun_vault (c : Cmd) (s : State) :
    (fwCheckRun c s).vault s = s.vault := by
  unfold fwCheckRun
  (repeat' split) <;> simp

@[simp] theorem fwActivateRun_vault (x : Cmd) (s : State) :
    (fwActivateRun x s).vault s = s.vault := by rfl

@[simp] theorem fwAbortRun_vault (x : Cmd) (s : State) :
    (fwAbortRun x s).vault s = s.vault := by simp [fwAbortRun]

@[simp] theorem fwDescribeRun_vault (x : Cmd) (s : State) :
    (fwDescribeRun x s).vault s = s.vault := by rfl

@[simp] theorem State.endActivate_vault (st : Status) (payload : List Byte) (s : State) :
    (s.endActivate st payload).vault = s.vault := by unfold State.endActivate; split <;> simp

@[simp] theorem State.coreGroup_vault (ok : Bool) (s : State) :
    (s.coreGroup ok).vault = s.vault := by simp [State.coreGroup]

@[simp] theorem nodeDescribeRun_vault (x : Cmd) (s : State) :
    (nodeDescribeRun x s).vault s = s.vault := by rfl

@[simp] theorem regReadRun_vault (c : Cmd) (s : State) :
    (regReadRun c s).vault s = s.vault := by rfl

@[simp] theorem telReadRun_vault (c : Cmd) (s : State) :
    (telReadRun c s).vault s = s.vault := by rfl

@[simp] theorem logReadRun_vault (c : Cmd) (s : State) :
    (logReadRun c s).vault s = s.vault := by simp [logReadRun]

@[simp] theorem State.logEnds_vault (expired : Bool) (id : Nat) (s : State) :
    (s.logEnds expired id).vault = s.vault := by
  unfold State.logEnds
  (repeat' split) <;> simp

@[simp] theorem State.setI3c_vault (f : I3c → I3c) (s : State) :
    (s.setI3c f).vault = s.vault := by simp [State.setI3c]

@[simp] theorem State.i3cSay_vault (l : List Byte) (s : State) :
    (s.i3cSay l).vault = s.vault := by simp [State.i3cSay]

@[simp] theorem State.slotWrite_vault (k off : Nat) (data : List Byte) (s : State) :
    (s.slotWrite k off data).vault = s.vault := by simp [State.slotWrite]

@[simp] theorem State.slotCheck_vault (k : Nat) (s : State) :
    (s.slotCheck k).vault = s.vault := by simp [State.slotCheck]

@[simp] theorem State.bootStatus_vault (s : State) :
    s.bootStatus.vault = s.vault := by simp [State.bootStatus]

@[simp] theorem deliver_vault (i : Instr) (s : State) :
    (deliver i s).vault = s.vault := by unfold deliver; split <;> simp

@[simp] theorem State.bufferHeld_vault (n p bytes : Nat) (s : State) :
    (s.bufferHeld n p bytes).vault = s.vault := by simp [State.bufferHeld]

@[simp] theorem State.passed_vault (s : State) (x : Passing) :
    (s.passed x).vault = s.vault := by unfold State.passed; split <;> simp

@[simp] theorem State.cycle_vault (s : State) :
    s.cycle.vault = s.vault := by simp [State.cycle]

@[simp] theorem State.tick_vault (s : State) :
    s.tick.vault = s.vault := by simp [State.tick]

end Sys2Proof.Machine
end

section
/-! SUPPORT. Steady states: what a command keeps of the queue and of the promises of the trust core; the identity index (R411). -/

namespace Sys2Proof.Machine

/-- What every command keeps: the queue, the invariant, and what is never taken back. -/
structure State.Steady (s t : State) : Prop where
  queue : t.pending = s.pending
  inv : s.Inv → t.Inv
  onward : s.Inv → s.Onward t

/-! ## Reservation records -/

/-- A record with a higher count, in the sector that does not hold the newest, becomes the newest. -/
theorem newerRes_superseded {a b : Option Reservation} {r n : Reservation} {onA : Bool} (h : newerRes a b = some (r, onA))
    (hn : n.count = r.count + 1) : newerRes (if onA then a else some n) (if onA then some n else b) = some (n, !onA) := by
  cases a with
  | none =>
    cases b with
    | none => cases h
    | some y =>
      cases h
      simp [newerRes, hn]
  | some x =>
    cases b with
    | none =>
      cases h
      simp [newerRes, hn]
    | some y =>
      unfold newerRes at h
      dsimp only at h
      split at h <;> cases h <;> simp [newerRes, hn]

/-- Losing the sector that does not hold the newest record loses nothing. -/
theorem newerRes_erased {a b : Option Reservation} {r : Reservation} {onA : Bool} (h : newerRes a b = some (r, onA)) :
    newerRes (if onA then a else none) (if onA then none else b) = some (r, onA) := by
  cases a with
  | none =>
    cases b with
    | none => cases h
    | some y =>
      cases h
      rfl
  | some x =>
    cases b with
    | none =>
      cases h
      rfl
    | some y =>
      unfold newerRes at h
      dsimp only at h
      split at h <;> cases h <;> rfl

theorem State.reserved_eq {s : State} {x : Reservation × Bool} (h : newerRes s.boot.resA s.boot.resB = some x) : s.reserved = x.1.next := by
  unfold State.reserved
  rw [h]

namespace State.Steady

variable {s t u : State}

/-! ## A preorder, and what leaves the vault alone -/

theorem refl (s : State) : s.Steady s where
  queue := rfl
  inv h := h
  onward _ := ⟨le_rfl, le_rfl, fun _ h => h⟩

theorem trans (h : s.Steady t) (g : t.Steady u) : s.Steady u where
  queue := g.queue.trans h.queue
  inv hs := g.inv (h.inv hs)
  onward hs := by
    obtain ⟨hr, hv, hn⟩ := h.onward hs
    obtain ⟨hr', hv', hn'⟩ := g.onward (h.inv hs)
    exact ⟨hr.trans hr', hv.trans hv', fun n e => hn' n (hn n e)⟩

theorem of_vault (h : t.vault = s.vault) : s.Steady t := by
  have hok : t.trust.idxOk = s.trust.idxOk := congrArg Vault.idxOk h
  have hnext : t.trust.idxNext = s.trust.idxNext := congrArg Vault.idxNext h
  have hlim : t.trust.idxLimit = s.trust.idxLimit := congrArg Vault.idxLimit h
  have hadv : t.trust.svnAdvances = s.trust.svnAdvances := congrArg Vault.svnAdvances h
  have hmin : t.trust.svnMin = s.trust.svnMin := congrArg Vault.svnMin h
  have hnode : t.trust.nodeId = s.trust.nodeId := congrArg Vault.nodeId h
  have hres : t.reserved = s.reserved := congrArg (fun v : Vault => match newerRes v.resA v.resB with | some (r, _) => r.next | none => 0) h
  refine ⟨congrArg Vault.pending h, fun hs => ?_, fun _ => ⟨hres.ge, by rw [hmin], fun n e => hnode.trans e⟩⟩
  simpa only [State.Inv, State.indexSafe, State.fusesSafe, hok, hnext, hlim, hadv, hres] using hs

theorem keep (h : s.Steady t) (hu : u.vault = t.vault) : s.Steady u := h.trans (of_vault hu)

theorem foldl {α : Type} {f : State → α → State} (hf : ∀ v a, State.Steady v (f v a)) (h : s.Steady t) (l : List α) : s.Steady (l.foldl f t) :=
  List.foldlRecOn (motive := s.Steady) _ _ h fun v hv a _ => hv.trans (hf v a)

theorem ite {c : Prop} [Decidable c] (h : s.Steady t) (g : s.Steady u) : s.Steady (if c then t else u) := by
  split <;> assumption

/-! ## The identity index (R411) -/

/-- A reservation that does not read back: the newest record is what it was, or the new one; no index leaves any more. -/
theorem reservationLost {r : Reservation} {onA : Bool} (k : Nat) (hok : s.trust.idxOk = true)
    (hr : newerRes s.boot.resA s.boot.resB = some (r, onA)) :
    s.Steady (s.reservationLost onA ⟨s.trust.idxLimit + 1024, r.count + 1⟩ k) := by
  refine ⟨by simp [State.reservationLost], fun hs => ⟨by simp [State.reservationLost, State.indexSafe],
    by simpa [State.reservationLost, State.fusesSafe] using hs.2⟩, fun hs => ⟨?_, by simp [State.reservationLost], by simp [State.reservationLost]⟩⟩
  have hlim : s.trust.idxLimit = s.reserved := (hs.1 hok).2
  have hres : s.reserved = r.next := State.reserved_eq hr
  generalize ht : s.reservationLost onA ⟨s.trust.idxLimit + 1024, r.count + 1⟩ k = t
  have hn : ∃ x, newerRes t.boot.resA t.boot.resB = some x ∧ s.reserved ≤ x.1.next := by
    rw [← ht]
    unfold State.reservationLost
    dsimp only
    rw [State.raise_boot]
    by_cases h0 : Config.sectorLeft k = 0
    · exact ⟨_, by rwa [if_pos h0], hres.le⟩
    · rw [if_neg h0]
      by_cases h1 : Config.sectorLeft k = 1
      · have hold := newerRes_erased hr
        simp only [if_pos h1]
        cases onA with
        | true => exact ⟨_, hold, hres.le⟩
        | false => exact ⟨_, hold, hres.le⟩
      · have hup := newerRes_superseded (n := ⟨s.trust.idxLimit + 1024, r.count + 1⟩) hr rfl
        simp only [if_neg h1]
        cases onA with
        | true => exact ⟨_, hup, by simp only; omega⟩
        | false => exact ⟨_, hup, by simp only; omega⟩
  obtain ⟨x, hx, hle⟩ := hn
  rwa [State.reserved_eq hx]

/-- Taking the next index, where it lies below the limit. -/
theorem indexUsed (hlt : s.Inv → s.trust.idxOk = true → s.trust.idxNext < s.trust.idxLimit) :
    s.Steady { s with trust := { s.trust with idxNext := s.trust.idxNext + 1 } } where
  queue := rfl
  inv hs := ⟨fun hok => ⟨hlt hs hok, (hs.1 hok).2⟩, hs.2⟩
  onward _ := ⟨le_rfl, le_rfl, fun _ h => h⟩

/-- A durable reservation of the next 1,024 indices. -/
theorem reservedMore {r : Reservation} {onA : Bool} (hok : s.trust.idxOk = true)
    (hr : newerRes s.boot.resA s.boot.resB = some (r, onA)) :
    s.Steady { s with
      boot := if onA then { s.boot with resB := some ⟨s.trust.idxLimit + 1024, r.count + 1⟩ }
        else { s.boot with resA := some ⟨s.trust.idxLimit + 1024, r.count + 1⟩ }
      trust := { s.trust with idxLimit := s.trust.idxLimit + 1024 } } := by
  generalize ht : ({ s with
      boot := if onA then { s.boot with resB := some ⟨s.trust.idxLimit + 1024, r.count + 1⟩ }
        else { s.boot with resA := some ⟨s.trust.idxLimit + 1024, r.count + 1⟩ }
      trust := { s.trust with idxLimit := s.trust.idxLimit + 1024 } } : State) = t
  have hup := newerRes_superseded (n := ⟨s.trust.idxLimit + 1024, r.count + 1⟩) hr rfl
  have hres : t.reserved = s.trust.idxLimit + 1024 := by
    rw [← ht]
    cases onA with
    | true => exact State.reserved_eq (x := (⟨s.trust.idxLimit + 1024, r.count + 1⟩, false)) (by exact hup)
    | false => exact State.reserved_eq (x := (⟨s.trust.idxLimit + 1024, r.count + 1⟩, true)) (by exact hup)
  subst ht
  refine ⟨rfl, fun hs => ⟨fun _ => ⟨?_, hres.symm⟩, hs.2⟩, fun hs => ⟨?_, le_rfl, fun _ h => h⟩⟩
  · exact (hs.1 hok).1.trans (Nat.le_add_right _ _)
  · have hlim := (hs.1 hok).2
    omega

theorem identitySign (s : State) : s.Steady s.identitySign.2 := by
  unfold State.identitySign
  split
  · exact refl s
  · next hg =>
    have hok : s.trust.idxOk = true := by simpa using (not_or.mp hg).2
    dsimp only
    split
    · next hne => exact indexUsed fun hs _ => lt_of_le_of_ne (hs.1 hok).1 hne
    · next heq =>
      split
      · exact refl s
      · next r onA hr =>
        split
        · exact (of_vault (s.drawn_vault)).trans (reservationLost (s := s.drawn) _ hok hr)
        · exact (reservedMore hok hr).trans (indexUsed (s := { s with boot := _, trust := _ }) fun hs _ => by
            simp only at heq ⊢
            omega)

end State.Steady
end Sys2Proof.Machine
end

section
/-! SUPPORT. Register writes, boots and resets are steady (14_partitions_and_trust.md R390, R411, R418; 16_power_clocks_reset.md). -/

namespace Sys2Proof.Machine
namespace State.Steady

variable {s t u : State}

/-- The first recording of a node ID (R390). -/
theorem nodeIdRecorded {n : Option NodeId} (h : s.trust.nodeId = none) : s.Steady { s with trust := { s.trust with nodeId := n } } where
  queue := rfl
  inv hs := hs
  onward _ := ⟨le_rfl, le_rfl, fun _ hm => nomatch h.symm.trans hm⟩

theorem nodeValidated (s : State) : s.Steady s.nodeValidated := by
  unfold State.nodeValidated
  dsimp only
  split
  · exact of_vault (by simp)
  · next h => exact (nodeIdRecorded (n := some (BitVec.ofNat 12 (s.rf .fabNode 0 12))) (by simpa using h)).keep (by simp)

/-- An advance of SEC_SVN_MIN, to a higher version (R418). -/
theorem svnCommitted {v : Word32} (hv : s.trust.svnMin.toNat < v.toNat) (ha : s.trust.svnAdvances < 64) :
    s.Steady { s with trust := { s.trust with svnMin := v, svnAdvances := s.trust.svnAdvances + 1 } } where
  queue := rfl
  inv hs := ⟨hs.1, ha⟩
  onward _ := ⟨le_rfl, hv.le, fun _ h => h⟩

/-- A reset of the trust core: identity signing waits for the next boot. -/
theorem trustCooled {conf : Bool} (h : u.vault = s.vault) (hq : t.pending = u.pending) (hb : t.boot = u.boot) (ht : t.trust = u.trust.cooled conf) :
    s.Steady t := by
  refine (of_vault h).trans ⟨hq, fun hu => ⟨fun hok => ?_, ?_⟩, fun _ => ⟨?_, ?_, fun n hn => ?_⟩⟩
  · rw [ht] at hok
    cases hok
  · unfold State.fusesSafe
    rw [ht]
    exact hu.2
  · unfold State.reserved
    rw [hb]
  · rw [ht]
    rfl
  · rw [ht]
    exact hn

theorem wipe (cold : Bool) (s : State) : s.Steady (s.wipe cold) := by
  unfold State.wipe
  extract_lets a b c p calm
  have ha : a.vault = s.vault := by simp [a]
  have hb : b.vault = s.vault := by simp [b, ha]
  have hc : c.vault = s.vault := by simp [c, hb]
  clear_value c
  exact trustCooled hc rfl rfl rfl

/-- The identity index at a boot is that of the newest record. -/
theorem loadIndex (s : State) : s.Steady s.loadIndex := by
  unfold State.loadIndex
  split
  · next r onA h => exact ⟨rfl, fun hs => ⟨fun _ => ⟨le_rfl, (State.reserved_eq (x := (r, onA)) h).symm⟩, hs.2⟩, fun _ => ⟨le_rfl, le_rfl, fun _ h => h⟩⟩
  · exact keep (t := { s with trust := { s.trust with idxOk := false, idxLost := true } })
      ⟨rfl, fun hs => ⟨nofun, hs.2⟩, fun _ => ⟨le_rfl, le_rfl, fun _ h => h⟩⟩ (by simp)

/-! ## Register writes -/

theorem effects (r : Reg) (old new : Nat) (s : State) : s.Steady (s.effects r old new) := by
  by_cases hr : r = .fabNode
  · subst hr
    exact ite (nodeValidated s) (refl s)
  · refine of_vault ?_
    unfold State.effects
    split <;> simp_all

theorem writeFields (path : Path) (r : Reg) (v : Nat) (s : State) : s.Steady (s.writeFields path r v).2 := by
  unfold State.writeFields
  split
  · exact refl s
  · exact refl s
  · exact of_vault (by simp)
  · next new _ =>
    dsimp only
    split
    · exact of_vault (by simp)
    · split
      · next w h => exact of_vault (State.drainRefusedBy_vault h)
      · exact (of_vault (by split <;> simp)).trans (effects _ _ _ _)

theorem writeOnly (r : Reg) (v : Nat) (locked : Bool) (s : State) : s.Steady (s.writeOnly r v locked).2 := by
  unfold State.writeOnly
  split
  · exact of_vault (by split <;> [skip; split <;> [skip; split]] <;> simp)
  · dsimp only
    split
    · next h =>
      obtain ⟨rfl, hv, ha⟩ := h
      exact (svnCommitted hv ha).keep (by simp)
    · exact of_vault (by simp)
  · exact of_vault (by split <;> simp)
  · exact of_vault (by split <;> simp)
  · exact refl s

theorem writeReg (path : Path) (o v : Nat) (s : State) (locked : Bool) : s.Steady (s.writeReg path o v locked).2 := by
  unfold State.writeReg
  split
  · exact refl s
  · next r _ =>
    split
    · exact refl s
    · have ha := writeFields path r v s
      have hb := ha.keep (State.clearBits_vault r v _)
      have hc := hb.trans (writeOnly r v locked _)
      dsimp only
      split
      · exact ha
      · split <;> exact hc

theorem regArrives (path : Path) (o v : Nat) (s : State) (locked : Bool) : s.Steady (s.regArrives path o v locked) :=
  ite (writeReg path o v s locked) (refl s)

theorem writeField (path : Path) (r : Reg) (lo w v : Nat) (s : State) (locked : Bool) : s.Steady (s.writeField path r lo w v locked) :=
  regArrives _ _ _ _ _

theorem plainWrite (path : Path) (o v : Nat) (s : State) : s.Steady (s.plainWrite path o v).2 := by
  unfold State.plainWrite
  split
  · exact (of_vault s.drawn_vault).trans (writeReg _ _ _ _ _)
  · exact writeReg _ _ _ _ _

theorem writePairs (path : Path) (l : List (Nat × Nat × Nat)) (a f : Nat) (s : State) : s.Steady (s.writePairs path l a f).2.2 := by
  induction l generalizing a f s with
  | nil => exact refl s
  | cons x l ih =>
    unfold State.writePairs
    dsimp only
    split <;> exact (plainWrite _ _ _ _).trans (ih _ _ _)

/-! ## Boots, resets, and the end of a freewheel -/

theorem startFirmware (phase : Phase) (s : State) : s.Steady (s.startFirmware phase) := by
  unfold State.startFirmware
  split
  · exact of_vault (by simp)
  · exact (of_vault (by simp)).trans (loadIndex _)

theorem applyEntries (l : List (Nat × Word32)) (s : State) : s.Steady (s.applyEntries l) := by
  induction l generalizing s with
  | nil => exact of_vault (by simp [State.applyEntries])
  | cons e l ih =>
    have hw := regArrives .image e.1 e.2.toNat s false
    exact ite (hw.keep (by simp)) (hw.trans (ih _))

theorem continueConfig (s : State) : s.Steady s.continueConfig := by
  unfold State.continueConfig
  split
  · exact ite (refl s) (applyEntries _ s)
  · exact refl s

theorem configure (s : State) : s.Steady s.configure := by
  unfold State.configure
  split
  · exact refl s
  · split
    · exact of_vault (by simp)
    · exact (of_vault (by simp)).trans (applyEntries _ _)

theorem start (s : State) : s.Steady s.start :=
  ((of_vault (by simp)).trans (startFirmware _ _)).trans (configure _)

theorem packageReset (cause : Nat) (s : State) : s.Steady (s.packageReset cause) := (wipe false s).keep (by simp [State.packageReset])

theorem resetLow (s : State) : s.Steady s.resetLow := ite (refl s) ((packageReset 1 s).keep (by simp))

theorem resetRise (hottest : Int) (s : State) : s.Steady (s.resetRise hottest) := by
  unfold State.resetRise
  split
  · exact refl s
  · split
    · exact of_vault (by simp)
    · exact (of_vault (by simp)).trans (start _)

theorem rootLoss (s : State) : s.Steady s.rootLoss := ite ((packageReset 3 s).trans (start _)) (refl s)

theorem trip (s : State) : s.Steady s.trip := ite (refl s) ((wipe false s).keep (by simp))

theorem railsFall (s : State) : s.Steady s.railsFall := ite (refl s) ((wipe true s).keep (by simp))

theorem tryResume (s : State) : s.Steady s.tryResume := by
  unfold State.tryResume
  split
  · exact ite ((packageReset 2 s).trans (start _)) (of_vault (by simp))
  · exact refl s

theorem flushComplete (s : State) : s.Steady s.flushComplete := by
  unfold State.flushComplete
  split
  · exact refl s
  · extract_lets a fl hl b u
    have hu : u.vault = s.vault := by
      simp only [u]
      split <;> simp [a, b]
    clear_value u
    split
    · exact (of_vault (by simp [hu])).trans ((packageReset 2 _).trans (start _))
    · exact (of_vault (by simp [hu])).trans (tryResume _)

theorem warnOver (s : State) : s.Steady s.warnOver := (of_vault (by simp)).trans (tryResume _)

theorem supplyBack (rail : Nat) (s : State) : s.Steady (s.supplyBack rail) := (of_vault (by simp)).trans (tryResume _)

theorem thermalOver (s : State) : s.Steady s.thermalOver := (of_vault (by simp)).trans (tryResume _)

theorem fwRestarted (s : State) : s.Steady s.fwRestarted :=
  ite (refl s) (ite ((startFirmware .service s).keep (by simp)) (startFirmware .service s))

theorem thermalRead (x : Temps) (s : State) : s.Steady (s.thermalRead x) := ite (refl s) (ite (trip s) (of_vault (by simp)))

theorem tierEnable (path : Path) (anchorOk : Bool) (s : State) : s.Steady (s.tierEnable path anchorOk) := by
  unfold State.tierEnable
  extract_lets u
  have hu : s.Steady u := ite (writeField _ _ _ _ _ _ _) (refl s)
  clear_value u
  exact ite hu (ite (hu.keep (by simp)) (hu.keep (by simp)))

theorem chanEnable (path : Path) (chan dies : Nat) (bad : Option Nat) (s : State) : s.Steady (s.chanEnable path chan dies bad) := by
  unfold State.chanEnable
  extract_lets u
  have hu : s.Steady u := ite (writeField _ _ _ _ _ _ _) (refl s)
  exact hu.keep (by simp)

/-! ## The attestation keys (R412) -/

theorem attKeyReady (s : State) : s.Steady s.attKeyReady := by
  unfold State.attKeyReady
  extract_lets first x u tr v
  have hx : s.Steady u := identitySign s
  have hv : v.vault = u.vault := by
    simp only [v]
    split
    · simp [tr]
    · split <;> simp [tr]
  refine ite (refl s) (ite (refl s) (ite hx (hx.keep ?_)))
  simp [hv]

end State.Steady
end Sys2Proof.Machine
end

section
/-! SUPPORT. The meanings of the opcodes, arrivals, and what waited are steady (10_ndox_protocol.md R262, R268, R274). -/

namespace Sys2Proof.Machine

/-- The state that a handler answers; a refusal leaves the state as it is. -/
def Res.after (s : State) : Res → State
  | .refuse _ _ _ => s
  | .done _ _ t | .wait _ _ t | .held t => t

theorem Res.vault_eq (r : Res) (s : State) : r.vault s = (r.after s).vault := by cases r <;> rfl

/-- The meanings of an opcode answer only steady states. -/
structure OpDef.Steady (d : OpDef) : Prop where
  six : ∀ c (s : State) r, d.six c s = some r → s.Steady (r.after s)
  run : ∀ c (s : State), s.Steady ((d.run c s).after s)
  dup : ∀ c (s : State), s.Steady ((d.dup c s).after s)

theorem OpDef.Steady.of_vault {d : OpDef} (hsix : ∀ c (s : State) r, d.six c s = some r → r.vault s = s.vault) (hrun : ∀ c s, (d.run c s).vault s = s.vault)
    (hdup : ∀ c s, (d.dup c s).vault s = s.vault) : d.Steady where
  six c s r h := State.Steady.of_vault ((r.vault_eq s).symm.trans (hsix c s r h))
  run c s := State.Steady.of_vault ((Res.vault_eq _ s).symm.trans (hrun c s))
  dup c s := State.Steady.of_vault ((Res.vault_eq _ s).symm.trans (hdup c s))

/-- REG_WRITE is the one command whose meaning can write the trust core's promises. -/
theorem regWriteDef_steady : regWriteDef.Steady where
  six _ _ _ h := nomatch h
  run _ _ := State.Steady.writePairs _ _ _ _ _
  dup _ s := State.Steady.refl s

theorem appendOf_steady (bulk : Bool) : (appendOf bulk).Steady :=
  .of_vault (fun _ _ _ h => appendSix_vault h) (fun c s => by simp [appendOf]) (fun c s => by simp [appendOf])

theorem opDef_steady (op : Op) : (opDef op).Steady := by
  cases op with
  | regWrite => exact regWriteDef_steady
  | append | appendBulk => exact appendOf_steady _
  | _ =>
    refine .of_vault (fun _ _ _ h => nomatch h) ?_ ?_ <;> intro c s <;> simp [opDef, mgmtDef,
      ctxCreateDef, ctxDestroyDef, queueCreateDef, queueDestroyDef, nsCreateDef, nsModifyDef, nsDeleteDef, seqCreateDef, seqDeleteDef,
      forkDef, truncateDef, seqTagDef, seqDescribeDef, pageListDef, attendDef, attendBatchDef, gradAttendDef, gradReadDef, gradClearDef,
      recallDef, patInvalidateDef, patWriteDef, patValidateDef, patUnloadDef, patDescribeDef, progLoadDef, progUnloadDef, progDescribeDef,
      modelInstallDef, modelDescribeDef, rekeyDef, windowDescribeDef, trigPostDef, trigCancelDef, trigDescribeDef, mapPushDef,
      mapDescribeDef, ptnCreateDef, ptnModifyDef, ptnResetDef, ptnDestroyDef, ptnDescribeDef, fwStageDef, fwCheckDef, fwActivateDef,
      fwAbortDef, fwDescribeDef, attestDef, certReadDef, keyInstallDef, keyRevokeDef, nodeDescribeDef, regReadDef, logReadDef, telReadDef,
      healthReadDef, stackStateDef]

namespace State.Steady

variable {s t u : State} {d : OpDef}

theorem settled {r : Res} (c : Cmd) (h : s.Steady (r.after s)) : s.Steady (s.settle c r) := h.keep ((State.settle_vault c r s).trans (r.vault_eq s))

theorem resettled {r : Res} (i : Inflight) (h : s.Steady (r.after s)) : s.Steady (s.resettle i r) :=
  h.keep ((State.resettle_vault i r s).trans (r.vault_eq s))

/-- What a record, or a command that runs, answers to a duplicate. -/
theorem sixRecorded (hd : d.Steady) {c : Cmd} {r : Res} (h : s.sixRecorded d c = some r) : s.Steady (r.after s) := by
  unfold State.sixRecorded at h
  split at h
  · cases h
  · split at h
    · split at h <;> cases h
      · exact hd.dup c s
      · exact refl s
    · split at h
      · cases h
        exact refl s
      · split at h
        · cases h
        · split at h <;> cases h <;> exact refl s

/-! ## A command from its arrival (R262, R268, R274) -/

theorem sixToNine (hd : d.Steady) (c : Cmd) (s : State) : s.Steady (s.sixToNine d c) := by
  unfold State.sixToNine
  split
  · next r h => exact settled c (sixRecorded hd h)
  · split
    · next r h => exact settled c (hd.six c s r h)
    · split
      · exact settled c (refl s)
      · split
        · exact settled c (refl s)
        · exact trans (of_vault (by split <;> simp)) (settled c (hd.run c _))

theorem fiveToNine (hd : d.Steady) (c : Cmd) (s : State) : s.Steady (s.fiveToNine d c) := by
  have h69 := sixToNine hd c s
  unfold State.fiveToNine
  dsimp only
  split
  · exact settled c (refl s)
  · exact of_vault (by simp)
  · split
    · exact h69
    · split
      · exact of_vault (by simp)
      · split
        · split
          · exact ite h69 (of_vault (by simp))
          · exact h69
        · exact h69

theorem takeIn (hd : d.Steady) (op : Op) (p : Packet) (s : State) : s.Steady (s.takeIn op d p) := by
  unfold State.takeIn
  dsimp only
  refine ite (of_vault (by simp)) (ite (of_vault (by simp)) (ite (of_vault (by simp)) ?_))
  split
  · exact of_vault (by split <;> simp)
  · exact ite (of_vault (by simp)) (fiveToNine hd _ s)

theorem arriveHost (hd : d.Steady) (op : Op) (p : Packet) (ctx num : Nat) (s : State) : s.Steady (s.arriveHost op d p ctx num) := by
  unfold State.arriveHost
  split
  · exact refl s
  · refine ite (refl s) (ite (of_vault (by simp)) (ite (trans (of_vault (by simp)) (takeIn hd op p _)) (of_vault (by simp))))

theorem arrive (hd : d.Steady) (op : Op) (p : Packet) (s : State) : s.Steady (s.arrive op d p) := by
  unfold State.arrive
  split
  · exact arriveHost hd op p _ _ s
  · split
    · exact refl s
    · exact ite (refl s) (ite (trans (of_vault (by simp)) (takeIn hd op p _)) (of_vault (by simp)))
  · split
    · exact refl s
    · exact refl s
    · exact of_vault (by simp)
    · exact ite (refl s) (ite (takeIn hd op p s) (of_vault (by simp)))
    · exact of_vault (by simp)

theorem arriveAll (hd : d.Steady) (op : Op) (p : Packet) (s : State) : s.Steady (s.arriveAll op d p) := (arrive hd op p s).keep (by simp [State.arriveAll])

/-! ## What waited goes on (R263, R272, R275, R280, R374) -/

theorem restart (i : Inflight) (s : State) : s.Steady (s.restart i) := by
  unfold State.restart
  split
  · exact of_vault (by simp)
  · exact trans (of_vault (by simp)) (fiveToNine (opDef_steady i.op) i.cmd _)

theorem releaseHeld (s : State) : s.Steady s.releaseHeld :=
  foldl (fun v i => by
    split
    · exact ite (refl v) (restart i v)
    · exact refl v) (refl s) _

theorem epochCame (id : Nat) (s : State) : s.Steady (s.epochCame id) := by
  unfold State.epochCame
  split
  · exact ite (restart _ s) (refl s)
  · exact refl s

theorem descriptorHere (h : Handle) (s : State) : s.Steady (s.descriptorHere h) :=
  foldl (fun v i => by
    refine ite ?_ (refl v)
    split
    · exact of_vault (by simp)
    · exact trans (of_vault (by simp)) (sixToNine (opDef_steady i.op) i.cmd _)) (of_vault (by simp)) _

theorem duplicateEnds (id : Nat) (s : State) : s.Steady (s.duplicateEnds id) := by
  unfold State.duplicateEnds
  split
  · exact refl s
  · next i _ =>
    split
    · dsimp only
      split
      · next r h =>
        refine resettled i ?_
        cases hr : s.sixRecorded (opDef i.op) i.cmd with
        | none => exact (opDef_steady i.op).six i.cmd s r (by simpa [hr] using h)
        | some x =>
          obtain rfl : x = r := by simpa [hr] using h
          exact sixRecorded (opDef_steady i.op) hr
      · exact of_vault (by simp)
    · exact refl s

theorem drainQueues (k : Nat) (s : State) : s.Steady (s.drainQueues k) := by
  induction k generalizing s with
  | zero => exact refl s
  | succ k ih =>
    unfold State.drainQueues
    split
    · exact refl s
    · split
      · exact refl s
      · exact (trans (of_vault (by simp)) (takeIn (opDef_steady _) _ _ _)).trans (ih _)

theorem drainSession (n k : Nat) (s : State) : s.Steady (s.drainSession n k) := by
  induction k generalizing s with
  | zero => exact refl s
  | succ k ih =>
    unfold State.drainSession
    split
    · exact refl s
    · split
      · exact refl s
      · exact ite ((trans (of_vault (by simp)) (takeIn (opDef_steady _) _ _ _)).trans (ih _)) (refl s)

theorem drainI3c (k : Nat) (s : State) : s.Steady (s.drainI3c k) := by
  induction k generalizing s with
  | zero => exact refl s
  | succ k ih =>
    unfold State.drainI3c
    split
    · exact refl s
    · exact ite (refl s) ((trans (of_vault (by simp)) (takeIn (opDef_steady _) _ _ _)).trans (ih _))

theorem resume (s : State) : s.Steady s.resume := by
  unfold State.resume
  extract_lets a b c
  have ha : s.Steady a := releaseHeld s
  have hb : s.Steady b := ha.trans (drainQueues _ a)
  have hc : s.Steady c := foldl (fun v (x : Session) => drainSession x.num _ v) hb _
  exact (hc.trans (drainI3c c.i3c.backlog.length c)).keep (by simp)

theorem resumed (h : s.Steady t) : s.Steady t.resume := h.trans (resume t)

theorem ringFreed (qpn consumed : Nat) (s : State) : s.Steady (s.ringFreed qpn consumed) := resumed (of_vault (by simp))

theorem recordsFreed (ptn : Nat) (s : State) : s.Steady (s.recordsFreed ptn) := ite (resume s) (refl s)

theorem ordered (i : Instr) (s : State) : s.Steady (s.ordered i) := resumed (of_vault (State.orderedIn_vault deliver_vault i s))

theorem sessionRecord (n : Nat) (tagOk : Bool) (op : Op) (p : Packet) (s : State) : s.Steady (s.sessionRecord n tagOk op p) := by
  unfold State.sessionRecord
  split
  · exact refl s
  · exact ite (of_vault (by simp)) (trans (of_vault (by simp)) (arriveAll (opDef_steady op) _ _ _))

theorem registerWrite (path : Path) (o v : Nat) (s : State) : s.Steady (s.registerWrite path o v) :=
  ite (resumed (plainWrite path o v s)) (refl s)

theorem opAfter (op : Op) (h : s.Steady t) : s.Steady (op.after t) := by
  unfold Op.after
  split <;> exact resumed (h.keep (by simp))

theorem command (op : Op) (p : Packet) (s : State) : s.Steady (op.after (s.arrive op (opDef op) p)) :=
  opAfter op (arrive (opDef_steady op) op p s)

/-! ## What passes on an empty queue -/

theorem tick (s : State) : s.Steady s.tick := of_vault (by simp)

end State.Steady

end Sys2Proof.Machine
end

section
/-! PROOFS. The queue and the promises of the trust core, under every command and every step (R390, R398, R411, R418). -/

namespace Sys2Proof.Machine
namespace State.Steady

variable {s t u : State} {d : OpDef}

theorem arriveOp (op : Op) (p : Packet) (s : State) : s.Steady (s.arriveAll op (opDef op) p) := arriveAll (opDef_steady op) op p s

theorem configured (h : s.Steady t) : s.Steady t.continueConfig := h.trans (continueConfig t)

/-- Each command answers a next state, and that state is steady. Only commands that go on with others, that write registers, that
boot, reset or resume the node, or that draw on the identity key may write the vault. -/
theorem exec (c : Instr) (s : State) : ∃ t, Machine.exec c s = .next t ∧ s.Steady t := by
  cases c with
  | ctxCreate | ctxDestroy | queueCreate | queueDestroy | nsCreate | nsModify | nsDelete | seqCreate | seqDelete | fork | truncate
  | seqTag | seqDescribe | append | appendBulk | pageList | gradRead | gradClear | recallAttend | patInvalidate | patWrite
  | patValidate | patUnload | patDescribe | progLoad | progUnload | progDescribe | modelInstall | modelDescribe | windowRekey
  | windowDescribe | trigPost | trigCancel | trigDescribe | mapDescribe | ptnCreate | ptnModify | ptnReset | ptnDestroy | ptnDescribe
  | fwStage | fwCheck | fwActivate | fwAbort | fwDescribe | attest | certRead | keyInstall | keyRevoke | nodeDescribe | regRead
  | regWrite | logRead | telRead | healthRead | stackState => exact ⟨_, rfl, resumed (arriveOp _ _ s)⟩
  | attend => exact ⟨_, exec_command .attend _ s, command _ _ s⟩
  | attendBatch => exact ⟨_, exec_command .attendBatch _ s, command _ _ s⟩
  | gradAttend => exact ⟨_, exec_command .gradAttend _ s, command _ _ s⟩
  | mapPush => exact ⟨_, exec_command .mapPush _ s, command _ _ s⟩
  | replyRingSpace => exact ⟨_, rfl, ringFreed _ _ s⟩
  | scoreboardEntriesFreed => exact ⟨_, rfl, resume s⟩
  | descriptorInstall => exact ⟨_, rfl, resumed (descriptorHere _ s)⟩
  | epochHoldRelease id => exact ⟨_, rfl, (epochCame id s).keep (by simp)⟩
  | duplicateHeldRelease id => exact ⟨_, rfl, (duplicateEnds id s).keep (by simp)⟩
  | recordSpaceFreed => exact ⟨_, rfl, recordsFreed _ s⟩
  | mapRebuildComplete => exact ⟨_, rfl, resumed (configured (of_vault (by simp)))⟩
  | mirrorWrite | mirrorStepCreate | mirrorStepDelete | mirrorStepFork | mirrorStepTruncate | mirrorStepTag | mirrorStepSealCommit
  | mirrorStepPersisted | mirrorStepTailImage | mirrorStepLayerLoss | mirrorStepRestoredLengths | mirrorStepTransferDone | pageCopy
  | pageRelease => exact ⟨_, rfl, ordered _ s⟩
  | mapBody => exact ⟨_, rfl, resumed (of_vault (State.unordered_vault (fun t => State.gotMap_vault _ t) _ _ _))⟩
  | sessionRecord => exact ⟨_, rfl, resumed (sessionRecord _ _ _ _ s)⟩
  | freewheelFlushComplete => exact ⟨_, rfl, flushComplete s⟩
  | pwrWarnDeassert => exact ⟨_, rfl, warnOver s⟩
  | resumeComplete => exact ⟨_, rfl, ite ((resumed (t := s.resumed) (of_vault (by simp))).keep (by simp)) (refl s)⟩
  | supplyReturn => exact ⟨_, rfl, supplyBack _ s⟩
  | thermalSensorRead => exact ⟨_, rfl, thermalRead _ s⟩
  | thermalResume => exact ⟨_, rfl, thermalOver s⟩
  | resetN => exact ⟨_, rfl, resetLow s⟩
  | pkgRst | fwRestart | shaperWrite | nodeValidSet | secSvnCommit => exact ⟨_, rfl, regArrives _ _ _ s _⟩
  | fwRestartComplete => exact ⟨_, rfl, resumed (fwRestarted s)⟩
  | rootPllLoss => exact ⟨_, rfl, rootLoss s⟩
  | attKeyReady => exact ⟨_, rfl, attKeyReady s⟩
  | parkRequest | stackEnable | stackDisable | stackFence | nbEnWrite | flashWriteEnable | channelFence | hostPortEnable | mportEnable
  | hostGateEnable | linkEnable | linkFence | linkRestore | fabricGateEnable | glbLockSet | telFreeze | telClear =>
    exact ⟨_, rfl, writeField _ _ _ _ _ s _⟩
  | coastRequest | rideRequest => exact ⟨_, rfl, resumed (writeField _ _ _ _ _ s _)⟩
  | flashTierEnable => exact ⟨_, rfl, resumed (configured (tierEnable _ _ s))⟩
  | channelEnable => exact ⟨_, rfl, configured (chanEnable _ _ _ _ s)⟩
  | registerWrite => exact ⟨_, rfl, registerWrite _ _ _ s⟩
  | i3cNdoxCommand => exact ⟨_, rfl, resumed (arriveOp _ _ s)⟩
  | railsDown => exact ⟨_, rfl, railsFall s⟩
  | resetNRelease => exact ⟨_, rfl, resetRise _ s⟩
  | pendingChildTimeout | windowRdmaWrite | fetchAndAdd | compareAndSwap | transportAck | coreGroupReady | ptnResetComplete | logReadWake
  | logReadWaitExpiry => exact ⟨_, rfl, resumed (of_vault (by simp))⟩
  | trainFrame | spareLockTimeout | hostLinkChange | stackInitDone => exact ⟨_, rfl, configured (of_vault (by simp))⟩
  | sealPriorityRaise =>
    refine ⟨_, rfl, of_vault ?_⟩
    split
    · split <;> simp
    · rfl
  | _ => ?_
  · -- RECALL, whose name is a keyword here, is the first command left.
    exact ⟨_, rfl, resumed (arriveOp .recall _ s)⟩
  all_goals exact ⟨_, rfl, of_vault (by simp)⟩

/-- The rest of the queue that a step leaves plays no part in the promises of the trust core. -/
theorem step (h : Machine.step s = .next t) (hs : s.Inv) : t.Inv ∧ s.Onward t := by
  unfold Machine.step at h
  split at h
  · cases h
    exact ⟨(tick s).inv hs, (tick s).onward hs⟩
  · next c rest _ =>
    obtain ⟨u, hu, hsu⟩ := exec c { s with pending := rest }
    cases hu.symm.trans h
    exact ⟨hsu.inv hs, hsu.onward hs⟩

end State.Steady

/-- Settles O6: a step is steady. -/
theorem noStepTakesTrustBack : Obligations.NoStepTakesTrustBack := by
  unfold Obligations.NoStepTakesTrustBack
  exact fun _ _ hs h => (State.Steady.step h hs).2

/-- Settles O4: a step is steady. -/
theorem everyStepKeepsIndexAndFuses : Obligations.EveryStepKeepsIndexAndFuses := by
  unfold Obligations.EveryStepKeepsIndexAndFuses
  exact fun _ _ hs h => (State.Steady.step h hs).1

/-- Settles O3: a command is steady. -/
theorem noCommandTouchesTheQueue : Obligations.NoCommandTouchesTheQueue := by
  unfold Obligations.NoCommandTouchesTheQueue
  intro c s
  obtain ⟨t, ht, hst⟩ := State.Steady.exec c s
  exact ⟨t, ht, hst.queue⟩

/-- Settles O5: no index may be used yet, and no advance has been made. -/
theorem resetMeetsIndexAndFuses : Obligations.ResetMeetsIndexAndFuses := by
  unfold Obligations.ResetMeetsIndexAndFuses
  exact ⟨nofun, Nat.zero_le _⟩

/-- Settles O1: the queue's front is taken from the queue. -/
theorem stepRunsTheFrontCommand : Obligations.StepRunsTheFrontCommand := by
  unfold Obligations.StepRunsTheFrontCommand
  exact fun _ _ _ => rfl

end Sys2Proof.Machine
end

section
/-! PROOFS. Messages that were seen before: what a repeated one still does, and what an ordered one owes (13_chainline_fabric.md R373 to R376, R382). -/

namespace Sys2Proof.Machine

/-! ## A repeated message that names a newer epoch -/

/-- A peer whose next unordered SEQ is 2^31 - 1, and whose SEQ 7 came at time 0. -/
def nearRekeyPeer : Peer := { Peer.fresh 1 with txUnord := 2 ^ 31 - 2, keyed := true, seen := [(7, 0)] }

/-- A node in service without a map, whose only peer is near the SEQ that draws a new key. -/
def nearRekeyNode : State :=
  { State.reset with
    pow := { Power.reset with phase := .service }
    trust := { Trust.reset with attReady := true, attLeft := 5 }
    fab := { State.reset.fab with peers := [nearRekeyPeer] } }

/-- SEQ 7 again, from the peer's incarnation, with an epoch that the node does not hold. -/
def replayedHdr : MsgHdr := ⟨0, 1, 1, 0, 0, 7, true⟩

theorem heard_replayedHdr : heard replayedHdr nearRekeyNode = none := by rfl

/-- The MAP_FETCH that the newer epoch draws takes SEQ 2^31 - 1, and a handshake begins: the attestation key signs once. -/
theorem attLeft_replayed : ((nearRekeyNode.serve replayedHdr fun s => s.gotHandleQuery replayedHdr 0 0 0).trust.attLeft) = 4 := by rfl

/-- Refutes O20: the epoch of a repeated message is newer than the map's, so the screen posts a MAP_FETCH; its SEQ is the one that
draws a new key, and the trust core's attestation key signs the HELLO. -/
theorem not_unfitMessagesStoreNothing : ¬ Obligations.UnfitMessagesStoreNothing := by
  unfold Obligations.UnfitMessagesStoreNothing
  intro h
  obtain ⟨_, _, _, _, htrust⟩ := h nearRekeyNode _ replayedHdr (.handleQuery replayedHdr 0 0 0) (.inl ⟨0, 0, 0, rfl⟩) heard_replayedHdr rfl
  have hleft := attLeft_replayed.symm.trans (congrArg Trust.attLeft htrust)
  exact absurd hleft (by decide)

/-! ## A message that was delivered before -/

/-- Each kind of ordered message takes the one path of R374. -/
theorem exec_of_orderedMsg {i : Instr} {x : MsgHdr × Msg} (hm : orderedMsg i = some x) (s : State) : exec i s = .next (s.ordered i) := by
  cases i with
  | mirrorWrite | mirrorStepCreate | mirrorStepDelete | mirrorStepFork | mirrorStepTruncate | mirrorStepTag | mirrorStepSealCommit
  | mirrorStepPersisted | mirrorStepTailImage | mirrorStepLayerLoss | mirrorStepRestoredLengths | mirrorStepTransferDone | pageCopy
  | pageRelease => rfl
  | _ => cases hm

/-- Settles O21: the SEQ is not ahead of the stream, and each kind of ordered message takes the one path of R374. -/
theorem deliveredSeqIsNotDeliveredAgain : Obligations.DeliveredSeqIsNotDeliveredAgain := by
  unfold Obligations.DeliveredSeqIsNotDeliveredAgain
  intro s u i h m hm hu hseq
  rw [exec_of_orderedMsg hm]
  unfold State.ordered State.orderedIn
  simp only [hm, hu]
  rw [if_neg (by simp), if_pos hseq]
  rfl

end Sys2Proof.Machine
end

section
/-! PROOFS. Register reads, and writes that are ignored (11_command_reference.md R330; 17_configuration_space.md R495, R503). -/

namespace Sys2Proof.Machine

/-! ## Reads -/

/-- A passed step 7 of REG_READ bounds the offset and the count (R330). -/
theorem regReadSeven_none {c : Cmd} {s : State} (h : regReadSeven c s = none) :
    field c.data 0 4 % 4 = 0 ∧ field c.data 0 4 < 2 ^ 24 ∧ 1 ≤ field c.data 4 2 ∧ field c.data 4 2 ≤ 256 := by
  unfold regReadSeven at h
  simp only [ite_eq_right_iff, reduceCtorEq, imp_false, not_or] at h
  omega

/-- An admitted REG_READ answers its words, all of them from the state at step 9. -/
theorem exec_regRead_of_admission {p : Packet} {s u : State} {c : Cmd} (h : admission .regRead p s = some (c, u)) :
    exec (.regRead p) s = .next (u.answered c ((List.range (field c.data 4 2)).flatMap fun i =>
      leBytes 4 (u.readOffset (field c.data 0 4 + 4 * i)).toNat)) :=
  congrArg Host.Outcome.next (State.answered_of_admission h rfl)

/-- A register that keeps no bits reads its RO bits. -/
theorem State.readOffset_ro {s : State} {r : Reg} (hat : Reg.at? r.offset = some r) (hr : r ≠ .secCtl) (hk : s.kept r = 0) :
    (s.readOffset r.offset).toNat = s.roBits r % 2 ^ 32 := by
  unfold State.readOffset State.readReg
  rw [hat]
  simp [hr, hk]

/-- Two words are the halves of their value. -/
theorem halves_of_lt {n : Nat} (h : n < 2 ^ 64) : bits n 0 32 % 2 ^ 32 + 2 ^ 32 * (bits n 32 32 % 2 ^ 32) = n := by
  unfold bits
  omega

theorem bits_mod_word (n lo : Nat) (h : lo + 32 ≤ 64) : bits n lo 32 = bits (n % 2 ^ 64) lo 32 := by
  unfold bits
  have h64 : (2 : Nat) ^ 64 = 2 ^ lo * 2 ^ (64 - lo) := by rw [← Nat.pow_add]; congr 1; omega
  rw [h64, Nat.mod_mul_right_div_self]
  exact (Nat.mod_mod_of_dvd _ (Nat.pow_dvd_pow 2 (by omega))).symm

/-- The two words of a pair whose registers keep no bits are those of one value. -/
theorem State.readOffset_pair {s : State} {lo hi : Reg} {n : Nat} (hlo : lo.inRange = true) (hhi : hi.inRange = true) (hl : lo ≠ .secCtl)
    (hh : hi ≠ .secCtl) (hrl : s.roBits lo = bits n 0 32) (hrh : s.roBits hi = bits n 32 32) (hkl : s.kept lo = 0) (hkh : s.kept hi = 0) :
    (s.readOffset lo.offset).toNat + 2 ^ 32 * (s.readOffset hi.offset).toNat = n % 2 ^ 64 := by
  rw [State.readOffset_ro (Reg.at?_offset (Reg.mem_all_of_inRange hlo)) hl hkl,
    State.readOffset_ro (Reg.at?_offset (Reg.mem_all_of_inRange hhi)) hh hkh, hrl, hrh, bits_mod_word n 0 (by decide),
    bits_mod_word n 32 (by decide)]
  exact halves_of_lt (Nat.mod_lt _ (by decide))

/-! ## Writes that are ignored -/

/-- A register write that reaches the node, and of which the node's state after it is known. -/
theorem exec_registerWrite_of_plainWrite {s t : State} {path : Path} {o : Nat} {v : Word32} (h : (s.plainWrite path o v.toNat).2 = t) :
    exec (.registerWrite path o v) s = .next (if s.takesWrites path = true then t.resume else s) := by
  show Host.Outcome.next (s.registerWrite path o v.toNat) = _
  simp only [State.registerWrite, State.takesWrites, h, Bool.or_eq_true, Bool.and_eq_true, beq_iff_eq]

theorem State.writeReg_at_none {o : Nat} (h : Reg.at? o = none) (path : Path) (v : Nat) (s : State) : s.writeReg path o v = (.ignored, s) := by
  unfold State.writeReg
  rw [h]

theorem State.plainWrite_at_none {o : Nat} (h : Reg.at? o = none) (path : Path) (v : Nat) (s : State) : s.plainWrite path o v = (.ignored, s) := by
  have hr : restores o v = false := by
    unfold restores
    rw [h]
  unfold State.plainWrite
  rw [hr, if_neg Bool.false_ne_true, State.writeReg_at_none h]

/-- A write that the rules of its register ignore ends as ignored, and leaves the state. -/
theorem State.writeReg_eq_of_ignored {s : State} {r : Reg} {v : Nat} {f : Fld} (hat : Reg.at? r.offset = some r) (hf : f ∈ r.fields)
    (hs : f.settable = true) (hj : s.judge r v = .ignored) (path : Path) : s.writeReg path r.offset v = (.ignored, s) := by
  unfold State.writeReg
  simp only [hat, Reg.readOnly_of_settable hf hs, State.writeFields_ignored path hj, Bool.false_eq_true, if_false, if_true]

/-- The registers of the GLB, ENG, TEL and LOG blocks have no RWL field and are not a link's. -/
theorem Reg.unlocked_of_block {r : Reg}
    (hr : r ∈ [Reg.glbId, .glbLock, .glbSts, .glbEvt, .glbEvtMask, .glbFpLo, .glbFpHi, .glbTsLo, .glbTsHi, .glbI3c, .engCtl, .engDraft 0,
      .engDraft 1, .engDraft 2, .engDraft 3, .engRecov, .engRsts, .telCtl, .logHeadLo, .logHeadHi, .logTailLo, .logTailHi, .logSts]) :
    r.inRange = true ∧ (∀ g ∈ r.fields, g.acc ≠ .rwl) ∧ ∀ n, r ≠ .fabLinkCtl n := by
  refine ⟨?_, ?_, ?_⟩
  · revert r
    decide
  · revert r
    decide
  · rintro n rfl
    simp at hr

/-! ## The obligations -/

/-- Settles O42: a read is made of one state's words, and an offset without a register reaches nothing. -/
theorem registerWordsReadAndPair : Obligations.RegisterWordsReadAndPair := by
  unfold Obligations.RegisterWordsReadAndPair
  refine ⟨fun p s u c h => ?_, fun s o h => ?_, fun s path o v h => ?_, fun s x hx hlo hhi => ?_⟩
  · obtain ⟨-, w, -, h7⟩ := op_seven_of_admission h
    obtain ⟨halign, hbound, hone, hmax⟩ := regReadSeven_none (s := w) h7
    exact ⟨halign, hbound, hone, hmax, exec_regRead_of_admission h⟩
  · unfold State.readOffset
    rw [h]
  · exact ⟨State.writeReg_at_none h path _ s, exec_registerWrite_of_plainWrite (congrArg Prod.snd (State.plainWrite_at_none h path _ s))⟩
  · simp only [List.mem_cons, List.not_mem_nil, or_false] at hx
    rcases hx with rfl | rfl | rfl | rfl
    · exact (State.readOffset_pair (lo := .glbFpLo) (hi := .glbFpHi) rfl rfl nofun nofun rfl rfl hlo hhi).trans (Nat.mod_eq_of_lt s.fingerprint.isLt)
    · exact (State.readOffset_pair (lo := .glbTsLo) (hi := .glbTsHi) rfl rfl nofun nofun rfl rfl hlo hhi).trans (Nat.mod_eq_of_lt s.pow.tsc.isLt)
    · exact State.readOffset_pair (lo := .logHeadLo) (hi := .logHeadHi) rfl rfl nofun nofun rfl rfl hlo hhi
    · exact State.readOffset_pair (lo := .logTailLo) (hi := .logTailHi) rfl rfl nofun nofun rfl rfl hlo hhi

/-- Settles O43: these registers have no RWL field, so the range is what the rules judge first. -/
theorem outOfRangeWritesAreIgnored : Obligations.OutOfRangeWritesAreIgnored := by
  unfold Obligations.OutOfRangeWritesAreIgnored
  intro s path r v f hr hf ha hne hout
  obtain ⟨hin, hrwl, hlink⟩ := Reg.unlocked_of_block hr
  have hat := Reg.at?_offset (Reg.mem_all_of_inRange hin)
  have hs : f.settable = true := by simpa [Fld.settable] using ha
  have hset : f ∈ setFields r (s.kept r) v.toNat := mem_setFields.mpr ⟨hf, hs, hne⟩
  have hj : s.judge r v.toNat = .ignored :=
    State.judge_ignored (List.ne_nil_of_mem hset) (fun _ g hg => hrwl g (mem_setFields.mp hg).1) (.inl ⟨f, hset, hout⟩)
  have hw := State.writeReg_eq_of_ignored hat hf hs hj path
  refine ⟨s, hw, rfl, exec_registerWrite_of_plainWrite ?_⟩
  rw [State.plainWrite_of_not_link hat hlink, hw]

end Sys2Proof.Machine
end

section
/-! PROOFS. The idle cycle, the state after reset, and I3C (16_power_clocks_reset.md R475, R483; 17_configuration_space.md R494, R497, R498, R500). -/

namespace Sys2Proof.Machine

/-! ## An idle cycle (log 42) -/

/-- What passes between two commands leaves alone: everything but telemetry, the log and its status, the outputs, the I3C interrupt, and
the status and XOFFs of the host ports. -/
structure State.Idle (s t : State) : Prop where
  pow : t.pow = s.pow
  boot : t.boot = s.boot
  trust : t.trust = s.trust
  store : t.store = s.store
  hbm : t.hbm = s.hbm
  flash : t.flash = s.flash
  staging : t.staging = s.staging
  ptns : t.ptns = s.ptns
  eng : t.eng = s.eng
  slots : t.slots = s.slots
  rcl : t.rcl = s.rcl
  cmds : t.cmds = s.cmds
  map : t.map = s.map
  fab : t.fab = s.fab
  ctxs : t.host.ctxs = s.host.ctxs
  queues : t.host.queues = s.host.queues
  chains : t.host.chains = s.host.chains
  sessions : t.host.sessions = s.host.sessions
  pending : t.pending = s.pending
  kept : ∀ r : Reg, (∀ n : Fin 4, r.offset ≠ (Reg.hptPortSts n).offset) → r.offset ≠ Reg.logSts.offset → t.kept r = s.kept r

namespace State.Idle

variable {s t u : State}

theorem refl (s : State) : s.Idle s := by constructor <;> intros <;> rfl

theorem count (h : s.Idle t) (g scope i n : Nat) : s.Idle (t.count g scope i n) := { h with }

theorem emit (h : s.Idle t) (o : Output) : s.Idle (t.emit o) := { h with }

theorem drawn (h : s.Idle t) : s.Idle t.drawn := { h with }

theorem updPort (h : s.Idle t) (n : Nat) (f : Port → Port) : s.Idle (t.updPort n f) := { h with }

theorem ite {c : Prop} [Decidable c] (h : s.Idle t) (g : s.Idle u) : s.Idle (if c then t else u) := by
  split <;> assumption

theorem countPtn (h : s.Idle t) (p g i n : Nat) : s.Idle (t.countPtn p g i n) := ite (h.count ..) h

/-- A record raises the port's own status. -/
theorem raise (h : s.Idle t) (n : Fin 4) (k : Nat) (c : Rec) : s.Idle (t.raise (.hptPortSts n) k c) where
  pow := by simp [h.pow]
  boot := by simp [h.boot]
  trust := by simp [h.trust]
  store := by simp [h.store]
  hbm := by simp [h.hbm]
  flash := by simp [h.flash]
  staging := by simp [h.staging]
  ptns := by simp [h.ptns]
  eng := by simp [h.eng]
  slots := by simp [h.slots]
  rcl := by simp [h.rcl]
  cmds := by simp [h.cmds]
  map := by simp [h.map]
  fab := by simp [h.fab]
  ctxs := by simp [h.ctxs]
  queues := by simp [h.queues]
  chains := by simp [h.chains]
  sessions := by simp [h.sessions]
  pending := by simp [h.pending]
  kept r hr hl := (State.kept_raise_other _ _ _ _ _ (hr n) hl).trans (h.kept r hr hl)

theorem passed (h : s.Idle t) (x : Passing) : s.Idle (t.passed x) := by
  cases x with
  | measured g i n => exact ite (h.count ..) h
  | shapeWait p n => exact h.countPtn ..
  | fecWord n => exact ite h ((h.count ..).raise n _ _)
  | frameDropped n => exact ite h ((h.count ..).raise n _ _)
  | held n p b => exact ite h (ite (ite ((h.updPort ..).emit _) h) (ite ((((h.updPort ..).emit _).count ..).raise n _ _) h))

theorem foldl_passed (h : s.Idle t) (l : List Passing) : s.Idle (l.foldl State.passed t) :=
  List.foldlRecOn (motive := s.Idle) _ _ h fun _ hu x _ => hu.passed x

/-- A cycle: the clock advances, then things pass. -/
theorem cycle (s : State) : State.Idle { s with pow := { s.pow with tsc := s.pow.tsc + 2 } } s.cycle :=
  foldl_passed (drawn (ite ((refl _).count ..) (refl _))) _

end State.Idle

theorem step_of_empty {s : State} (h : s.pending = []) : step s = .next s.tick := by
  unfold step
  rw [h]

/-- Settles O2: a cycle passes but where RESET_N holds the node or after a trip. -/
theorem idleStepPassesOneCycle : Obligations.IdleStepPassesOneCycle := by
  unfold Obligations.IdleStepPassesOneCycle
  refine ⟨fun s hq hh ht => ?_, fun s hq h => ?_⟩
  · have hs : step s = .next s.cycle := (step_of_empty hq).trans (congrArg _ (if_neg (not_or.mpr ⟨hh, ht⟩)))
    have h := State.Idle.cycle s
    exact ⟨_, hs, h.pow, h.boot, h.trust, h.store, h.hbm, h.flash, h.staging, h.ptns, h.eng, h.slots, h.rcl, h.cmds, h.map, h.fab, h.ctxs,
      h.queues, h.chains, h.sessions, h.pending.trans hq, h.kept⟩
  · exact (step_of_empty hq).trans (congrArg _ (if_pos h))

/-! ## After reset -/

theorem State.reset_engine {e : Nat} {x : Engine} (h : State.reset.eng.engines[e]? = some x) : x.inUse = true ↔ e < 64 := by
  replace h : (List.replicate 64 (⟨true, false, false, none, none⟩ : Engine) ++ List.replicate 4 ⟨false, false, true, none, none⟩)[e]? = some x := h
  rw [List.getElem?_append, List.length_replicate] at h
  split at h
  · next he =>
    obtain rfl := List.eq_of_mem_replicate (List.mem_of_getElem? h)
    simp [he]
  · next he =>
    obtain rfl := List.eq_of_mem_replicate (List.mem_of_getElem? h)
    simp [he]

/-- Settles O7: the fields of the reset state, of which engines are numbered and partitions absent. -/
theorem resetStateIsBlank : Obligations.ResetStateIsBlank := by
  unfold Obligations.ResetStateIsBlank
  refine ⟨fun r => rfl, rfl, rfl, rfl, rfl, rfl, rfl, fun n => ?_, rfl, rfl, rfl, rfl, fun e x h => State.reset_engine h, rfl, rfl⟩
  unfold State.ptn?
  cases hn : State.reset.ptns[n]? with
  | none => rfl
  | some x => rw [List.eq_of_mem_replicate (List.mem_of_getElem? hn)]; rfl

/-! ## I3C (R497, R498, R500) -/

section
variable {s : State}

theorem State.i3cSay_up (h : s.i3cUp = true) (l : List Byte) : s.i3cSay l = s.emit (.i3cResponse l) := if_pos h

theorem State.i3cSay_down (h : s.i3cUp = false) (l : List Byte) : s.i3cSay l = s := if_neg (by simp [h])

theorem State.setI3c_down (h : s.i3cUp = false) (f : I3c → I3c) : s.setI3c f = s := if_neg (by simp [h])

theorem State.setI3c_up (h : s.i3cUp = true) (f : I3c → I3c) : s.setI3c f = { s with i3c := f s.i3c } := if_pos h

theorem State.slotWrite_denied (k off : Nat) (data : List Byte) (h : s.pow.phase ≠ .romRecovery) :
    s.slotWrite k off data = s.i3cSay (statusBytes .denied) := if_pos h

theorem State.slotWrite_badParam (k : Nat) {off : Nat} {data : List Byte} (h : s.pow.phase = .romRecovery)
    (hb : data = [] ∨ 1024 < data.length ∨ 67108864 < off + data.length) : s.slotWrite k off data = s.i3cSay (statusBytes .badParam) :=
  (if_neg (not_not_intro h)).trans (if_pos hb)

/-- What a slot holds after a write: a write at offset 0 erases it first, and the vendor's image does not survive a write. -/
def FwSlot.written (off : Nat) (data : List Byte) (x : FwSlot) : FwSlot := FwSlot.put off data (if off = 0 then ⟨false, []⟩ else x)

theorem FwSlot.written_bytes (off : Nat) (data : List Byte) (x : FwSlot) :
    (x.written off data).bytes = Mem.writeList (if off = 0 ∨ x.factory = true then [] else x.bytes) off data := by
  unfold FwSlot.written FwSlot.put
  by_cases h : off = 0 <;> simp [h]

theorem State.slotWrite_stores (k : Nat) {off : Nat} {data : List Byte} (h : s.pow.phase = .romRecovery) (hd : data ≠ [])
    (hl : data.length ≤ 1024) (ho : off + data.length ≤ 67108864) :
    s.slotWrite k off data = (s.updSlot k (FwSlot.written off data)).i3cSay (statusBytes .ok) :=
  (if_neg (not_not_intro h)).trans (if_neg (not_or.mpr ⟨hd, by unfold slotSize; omega⟩))

theorem State.slot_updSlot_same (k : Fin 2) (f : FwSlot → FwSlot) (s : State) : (s.updSlot k f).slot k = f (s.slot k) := by
  fin_cases k <;> rfl

theorem State.slot_updSlot_other (k : Fin 2) (f : FwSlot → FwSlot) (s : State) : (s.updSlot k f).slot (1 - k.val) = s.slot (1 - k.val) := by
  fin_cases k <;> rfl

theorem State.updSlot_frame (k : Nat) (f : FwSlot → FwSlot) (s : State) :
    { s.updSlot k f with boot := { (s.updSlot k f).boot with slotA := s.boot.slotA, slotB := s.boot.slotB } } = s := by
  unfold State.updSlot
  split <;> rfl

end

/-- Settles O60: each message by whether the rails are up and by the phase. -/
theorem i3cTakesEffect : Obligations.I3cTakesEffect := by
  unfold Obligations.I3cTakesEffect
  refine ⟨fun s h => ⟨fun a => ?_, fun e => ?_, ?_, ?_, ?_, ?_, ?_⟩,
    fun s h => ⟨fun a => ?_, fun e => ?_, ?_, ?_, ?_, ?_, ?_,
      fun k => ⟨fun hp => ⟨fun off data => ?_, ?_⟩, fun off data hp hb => ?_, fun off data hp hd hl ho => ?_, fun hp => ?_⟩⟩,
    fun op p s u c h => ?_⟩
  · exact congrArg Host.Outcome.next (State.setI3c_down h _)
  · exact congrArg Host.Outcome.next ((congrArg (State.i3cSay [e]) (State.setI3c_down h _)).trans (State.i3cSay_down h _))
  · exact congrArg Host.Outcome.next (State.i3cSay_down h _)
  · exact congrArg Host.Outcome.next (State.i3cSay_down h _)
  · exact congrArg Host.Outcome.next (State.i3cSay_down h _)
  · exact congrArg Host.Outcome.next (State.i3cSay_down h _)
  · exact congrArg Host.Outcome.next (State.i3cSay_down h _)
  · exact congrArg Host.Outcome.next (State.setI3c_up h _)
  · exact congrArg Host.Outcome.next ((congrArg (State.i3cSay [e]) (State.setI3c_up h _)).trans (State.i3cSay_up (s := { s with i3c := { s.i3c with eid := e } }) h _))
  · exact congrArg Host.Outcome.next (State.i3cSay_up h _)
  · exact congrArg Host.Outcome.next (State.i3cSay_up h _)
  · exact congrArg Host.Outcome.next (State.i3cSay_up h _)
  · exact congrArg Host.Outcome.next (State.i3cSay_up h _)
  · exact congrArg Host.Outcome.next (State.i3cSay_up h _)
  · exact congrArg Host.Outcome.next ((State.slotWrite_denied _ _ _ hp).trans (State.i3cSay_up h _))
  · exact congrArg Host.Outcome.next ((if_pos hp).trans (State.i3cSay_up h _))
  · exact congrArg Host.Outcome.next ((State.slotWrite_badParam _ hp hb).trans (State.i3cSay_up h _))
  · have hup : (s.updSlot k (FwSlot.written off data)).i3cUp = true := by
      unfold State.i3cUp
      rwa [State.updSlot_pow]
    refine ⟨_, congrArg Host.Outcome.next ((State.slotWrite_stores _ hp hd hl ho).trans (State.i3cSay_up hup _)), ?_, ?_,
      State.slot_updSlot_other k _ s, State.updSlot_frame _ _ s⟩
    · rw [State.slot_updSlot_same]
      rfl
    · rw [State.slot_updSlot_same, FwSlot.written_bytes]
  · refine congrArg Host.Outcome.next ((if_neg (not_not_intro hp)).trans ((State.i3cSay_up h _).trans ?_))
    split <;> rfl
  · exact congrArg (Host.Outcome.next ∘ State.resume) (State.arriveAll_of_admission h)

end Sys2Proof.Machine
end

section
/-! PROOFS. Faults and fences of engines lift no fence (15_resilience.md R437 to R440). -/

namespace Sys2Proof.Machine

/-! ## What leaves the engines alone -/

@[simp] theorem State.eng_ite {c : Prop} [Decidable c] (s t : State) : (if c then s else t).eng = if c then s.eng else t.eng :=
  apply_ite _ _ _ _

@[simp] theorem State.eng_foldl {α : Type} {f : State → α → State} (hf : ∀ t a, (f t a).eng = t.eng) (l : List α) (s : State) :
    (l.foldl f s).eng = s.eng :=
  List.foldlRecOn (motive := fun t : State => t.eng = s.eng) _ _ rfl fun t ht a _ => (hf t a).trans ht

theorem State.eng_foldl_option {α : Type} {f : Option State → α → Option State} (hn : ∀ a, f none a = none)
    (hf : ∀ s a t, f (some s) a = some t → t.eng = s.eng) (l : List α) {s t : State} (h : l.foldl f (some s) = some t) :
    t.eng = s.eng := by
  induction l generalizing s with
  | nil =>
    cases h
    rfl
  | cons a l ih =>
    rw [List.foldl_cons] at h
    cases hu : f (some s) a with
    | none =>
      have hl : l.foldl f none = none := List.foldlRecOn (motive := (· = none)) l f rfl fun _ ht b _ => ht ▸ hn b
      rw [hu, hl] at h
      cases h
    | some u => exact (ih (hu ▸ h)).trans (hf s a u hu)

@[simp] theorem State.dropChain_eng (ptn num : Nat) (s : State) :
    (s.dropChain ptn num).eng = s.eng := by rfl

@[simp] theorem State.post_eng (qpn : Nat) (kind : PostKind) (n : Nat) (imm : Bool) (s : State) :
    (s.post qpn kind n imm).eng = s.eng := by unfold State.post; split <;> simp

@[simp] theorem State.postChain_eng (q : Queue) (c : Chain) (r : Reply) (s : State) :
    (s.postChain q c r).eng = s.eng := by
  unfold State.postChain
  exact State.eng_foldl (fun t a => by split <;> simp) _ _

@[simp] theorem State.putRecord_eng (qpn : Nat) (r : Reply) (s : State) :
    (s.putRecord qpn r).eng = s.eng := by
  unfold State.putRecord
  dsimp only
  (repeat' split) <;> simp

@[simp] theorem State.chainLost_eng (qpn port : Nat) (reqId : Word64) (s : State) :
    (s.chainLost qpn port reqId).eng = s.eng := by unfold State.chainLost; split <;> simp

@[simp] theorem State.replyQueue_eng (ctx num : Nat) (r : Reply) (s : State) :
    (s.replyQueue ctx num r).eng = s.eng := by unfold State.replyQueue; split <;> simp

@[simp] theorem State.sendReply_eng (src : Src) (r : Reply) (s : State) :
    (s.sendReply src r).eng = s.eng := by
  unfold State.sendReply
  (repeat' split) <;> simp

@[simp] theorem State.sealReply_eng (ctx kid : Nat) (r : Reply) (s : State) :
    (s.sealReply ctx kid r).2.eng = s.eng := by
  unfold State.sealReply
  (repeat' split) <;> simp

@[simp] theorem State.putCmdRec_eng (c : Cmd) (st : Status) (s : State) :
    (s.putCmdRec c st).eng = s.eng := by simp [State.putCmdRec]

@[simp] theorem State.tellDups_eng (c : Cmd) (st : Status) (payload : List Byte) (s : State) :
    (s.tellDups c st payload).eng = s.eng := by rfl

@[simp] theorem State.finish_eng (c : Cmd) (st : Status) (hint : Option NodeId) (retry : Nat) (payload : List Byte) (s : State) :
    (s.finish c st hint retry payload).eng = s.eng := by
  unfold State.finish
  dsimp only
  split <;> simp

@[simp] theorem State.unpin_eng (hs : List Handle) (s : State) :
    (s.unpin hs).eng = s.eng := by rfl

@[simp] theorem State.entryDone_eng (parent index : Nat) (st : Status) (payload : List Byte) (s : State) :
    (s.entryDone parent index st payload).eng = s.eng := by
  unfold State.entryDone
  dsimp only
  (repeat' split) <;> simp

@[simp] theorem State.complete_eng (i : Inflight) (st : Status) (hint : Option NodeId) (retry : Nat) (payload : List Byte) (s : State) :
    (s.complete i st hint retry payload).eng = s.eng := by unfold State.complete; split <;> simp

@[simp] theorem State.openNew_eng (d : FDie) (b : Nat) (st : Stream) (source : Option (DieId × Nat)) (s : State) :
    (s.openNew d b st source).eng = s.eng := by rfl

@[simp] theorem State.addDelta_eng (s : State) (r : DeltaRec) :
    (s.addDelta r).eng = s.eng := by rfl

@[simp] theorem State.delta_eng (l : List DeltaRec) (s : State) :
    (s.delta l).eng = s.eng := by simp [State.delta]

@[simp] theorem State.touchLeaf_eng (n : Nat) (s : State) :
    (s.touchLeaf n).eng = s.eng := by
  unfold State.touchLeaf
  dsimp only
  split <;> simp

@[simp] theorem State.invalidate_eng (o : MapEntry) (s : State) :
    (s.invalidate o).eng = s.eng := by rfl

@[simp] theorem State.setMap_eng (e : MapEntry) (s : State) :
    (s.setMap e).eng = s.eng := by unfold State.setMap; split <;> simp

@[simp] theorem State.program_eng (d : DieId) (b : Nat) (f : Frame) (s : State) :
    (s.program d b f).eng = s.eng := by rfl

@[simp] theorem State.programFrame_eng (k : FrameKind) (d : DieId) (b frame gen index : Nat) (s : State) :
    (s.programFrame k d b frame gen index).eng = s.eng := by unfold State.programFrame; split <;> simp

theorem State.placeFrame_eng {k : FrameKind} {st : Stream} {source : Option (DieId × Nat)} {chan frame gen index : Nat} {s t : State}
    (h : s.placeFrame k st source chan frame gen index = some t) : t.eng = s.eng := by
  unfold State.placeFrame at h
  split at h
  · cases h
  · split at h
    · cases h
      simp
    · split at h
      · cases h
      · split at h
        · cases h
        · cases h
          simp

theorem State.writePage_eng {p : Page} {s t : State} (h : s.writePage p = some t) : t.eng = s.eng := by
  unfold State.writePage at h
  split at h
  · cases h
  · dsimp only at h
    split at h
    · cases h
    · next u hu =>
      cases h
      simp [State.eng_foldl_option (fun _ => rfl) (fun s i t => State.placeFrame_eng) _ hu]

@[simp] theorem State.leaveHbm_eng (h : Handle) (s : State) :
    (s.leaveHbm h).eng = s.eng := by rfl

theorem State.demoteNow_eng {p : Page} {s t : State} (h : s.demoteNow p = some t) : t.eng = s.eng := by
  unfold State.demoteNow at h
  split at h
  · cases h
    simp
  · obtain ⟨u, hu, he⟩ := Option.map_eq_some_iff.mp h
    simp [← he, State.writePage_eng hu]

theorem State.makeRoom_eng {ptn need k : Nat} {l : List Page} {s t : State} (h : s.makeRoom ptn need k l = some t) : t.eng = s.eng := by
  induction k generalizing l s with
  | zero =>
    cases l with
    | nil =>
      simp only [State.makeRoom, Option.ite_none_right_eq_some, Option.some.injEq] at h
      rw [← h.2]
    | cons p l => simp [State.makeRoom] at h
  | succ k ih =>
    cases l with
    | nil =>
      simp only [State.makeRoom, Option.ite_none_right_eq_some, Option.some.injEq] at h
      rw [← h.2]
    | cons p l =>
      unfold State.makeRoom at h
      split at h
      · cases h
        rfl
      · split at h
        · next u hu => exact (ih h).trans (State.demoteNow_eng hu)
        · exact ih h

theorem State.quotaRoom_eng {ptn need : Nat} {s t : State} (h : s.quotaRoom ptn need = some t) : t.eng = s.eng := State.makeRoom_eng h

theorem State.newPage_eng {ptn frames : Nat} {name : PageName} {img : Image} {above : Bool} {k : Handle} {s t : State}
    (h : s.newPage ptn name img frames above = some (k, t)) : t.eng = s.eng := by
  unfold State.newPage at h
  split at h
  · cases h
  · next u hu =>
    have hs : u.eng = s.eng := by
      split at hu
      · cases hu
        rfl
      · exact State.quotaRoom_eng hu
    split at h
    · cases h
      simpa using hs
    · cases h

@[simp] theorem State.dropImage_eng (p : Page) (s : State) :
    (s.dropImage p).eng = s.eng := by unfold State.dropImage; split <;> simp

@[simp] theorem State.requeueSeal_eng (p : Page) (s : State) :
    (s.requeueSeal p).eng = s.eng := by simp [State.requeueSeal]

@[simp] theorem State.loadLeaves_eng (q : Seq) (s : State) :
    (s.loadLeaves q).eng = s.eng := by simp [State.loadLeaves]

@[simp] theorem State.install_eng (h : Handle) (s : State) :
    (s.install h).eng = s.eng := by unfold State.install; split <;> simp

@[simp] theorem State.leave_eng (code : Nat) (s : State) :
    (s.leave code).eng = s.eng := by simp [State.leave]

@[simp] theorem State.leaveCheck_eng (s : State) :
    s.leaveCheck.eng = s.eng := by unfold State.leaveCheck; split <;> simp

@[simp] theorem State.countStep_eng (ptn e k : Nat) (s : State) :
    (s.countStep ptn e k).eng = s.eng := by simp [State.countStep]

@[simp] theorem State.fencePtn_eng (ptn unit : Nat) (det : List Byte) (s : State) :
    (s.fencePtn ptn unit det).eng = s.eng := by unfold State.fencePtn; split <;> simp


/-! ## A fence is kept -/

/-- Every engine that is fenced in `s` is fenced in `t`. -/
def State.KeepsFences (s t : State) : Prop :=
  ∀ (k : Nat) (y : Engine), s.eng.engines[k]? = some y → y.fenced = true → ∃ z, t.eng.engines[k]? = some z ∧ z.fenced = true

namespace State.KeepsFences

variable {s t u : State}

theorem refl (s : State) : s.KeepsFences s := fun _ y hy hf => ⟨y, hy, hf⟩

theorem trans (h : s.KeepsFences t) (g : t.KeepsFences u) : s.KeepsFences u := fun k y hy hf => by
  obtain ⟨z, hz, hzf⟩ := h k y hy hf
  exact g k z hz hzf

theorem of_engines (h : t.eng.engines = s.eng.engines) : s.KeepsFences t := fun _ y hy hf => ⟨y, h ▸ hy, hf⟩

theorem of_eng (h : t.eng = s.eng) : s.KeepsFences t := of_engines (congrArg Engines.engines h)

theorem keep (h : s.KeepsFences t) (hu : u.eng = t.eng) : s.KeepsFences u := h.trans (of_eng hu)

theorem ite {c : Prop} [Decidable c] (h : s.KeepsFences t) (g : s.KeepsFences u) : s.KeepsFences (if c then t else u) := by
  split <;> assumption

theorem foldl {α : Type} {f : State → α → State} (hf : ∀ v a, State.KeepsFences v (f v a)) (l : List α) (s : State) :
    s.KeepsFences (l.foldl f s) :=
  List.foldlRecOn (motive := s.KeepsFences) _ _ (refl s) fun v hv a _ => hv.trans (hf v a)

/-- A change of an engine that lifts no fence. -/
theorem updEngine (n : Nat) {f : Engine → Engine} (hf : ∀ y, y.fenced = true → (f y).fenced = true) (s : State) :
    s.KeepsFences (s.updEngine n f) := fun k y hy hy' => by
  by_cases hk : k = n
  · exact ⟨f y, by subst hk; simp [State.updEngine, updAt, hy], hf y hy'⟩
  · exact ⟨y, by simpa [State.updEngine, updAt, List.getElem?_modify, Ne.symm hk] using hy, hy'⟩

theorem setHeld (l : List HeldStep) (s : State) : s.KeepsFences (s.setHeld l) := of_engines rfl

theorem stepped (n : Nat) (x : Option (Nat × Step)) (s : State) :
    s.KeepsFences (s.updEngine n fun e => { e with step := x, gated := false }) := updEngine n (by exact fun _ h => h) s

/-! ## Work that starts or is dispatched -/

theorem startStep (ptn : Nat) (x : Step) (s : State) : s.KeepsFences (s.startStep ptn x) := by
  unfold State.startStep
  split
  · exact refl s
  · exact stepped _ _ s

theorem beginSeal (e : Nat) (p : Page) (s : State) : s.KeepsFences (s.beginSeal e p) := by
  unfold State.beginSeal
  split
  · exact refl s
  · dsimp only
    split
    · exact refl s
    · next k t hn => exact (of_eng (by simp [State.newPage_eng hn])).trans (stepped _ _ _)

theorem dispatchSeals (l : List Page) (s : State) : s.KeepsFences (s.dispatchSeals l) := by
  induction l generalizing s with
  | nil => exact refl s
  | cons p l ih =>
    unfold State.dispatchSeals
    split
    · exact (ite (beginSeal _ p s) (refl s)).trans (ih _)
    · exact refl s

theorem dispatchFrom (l : List Inflight) (s : State) : s.KeepsFences (s.dispatchFrom l) := by
  induction l generalizing s with
  | nil => exact refl s
  | cons i l ih =>
    unfold State.dispatchFrom
    refine trans ?_ (ih _)
    split
    · exact ite (startStep _ _ s) (refl s)
    · exact refl s

theorem dispatch (s : State) : s.KeepsFences s.dispatch := (dispatchSeals _ s).trans (dispatchFrom _ _)

theorem startSeal (e : Nat) (n : PageName) (s : State) : s.KeepsFences (s.startSeal e n) := by
  unfold State.startSeal
  split
  · split
    · exact ite (beginSeal e _ s) (refl s)
    · exact refl s
  · exact refl s

theorem replayOn (e : Nat) (h : HeldStep) (s : State) : s.KeepsFences (s.replayOn e h) := by
  unfold State.replayOn
  extract_lets t
  refine trans (t := t) (of_eng (by simp [t])) ?_
  split
  · split
    · exact beginSeal e _ t
    · exact refl t
  · exact stepped _ _ t

theorem runHeld (s : State) : s.KeepsFences s.runHeld :=
  foldl (fun v h => by
    dsimp only
    refine ite ?_ (refl v)
    split
    · exact replayOn _ h v
    · exact refl v) _ s

/-- Only engines that are not fenced are gated. -/
theorem gateIdle (s : State) : s.KeepsFences s.gateIdle := fun k y hy hf =>
  ⟨y, by simp [State.gateIdle, hy, hf], hf⟩

theorem schedule (s : State) : s.KeepsFences s.schedule := by
  unfold State.schedule
  have h := (runHeld s).trans (dispatch _)
  exact ite (h.trans (gateIdle _)) h

/-! ## Faults and fences (R437 to R440) -/

theorem endStep (x : Step) (s : State) : s.KeepsFences (s.endStep x) := by
  unfold State.endStep
  extract_lets t
  refine trans (t := t) (setHeld _ s) (of_eng ?_)
  split
  · split <;> simp
  · split <;> simp
  · split <;> simp

theorem stepFaulted (ptn : Nat) (x : Step) (repl unit : Nat) (det : List Byte) (s : State) : s.KeepsFences (s.stepFaulted ptn x repl unit det) := by
  unfold State.stepFaulted
  extract_lets n t u
  refine ite (endStep x s) (trans (t := t) (setHeld _ s) (trans (t := u) (of_eng ?_) (ite (of_eng (by simp)) (refl u))))
  simp only [u]
  split
  · split <;> simp
  · rfl

theorem engineFault (e cause : Nat) (s : State) : s.KeepsFences (s.engineFault e cause) := by
  unfold State.engineFault
  split
  · exact refl s
  · next y _ =>
    extract_lets req ptn spare repl det a b c d f
    clear_value spare
    have ha : s.KeepsFences a :=
      trans (t := s.updEngine e fun y => { y with fenced := true, step := none, replacing := none }) (updEngine e (by exact fun _ _ => rfl) s)
        (of_eng (by simp [a]))
    have hb : s.KeepsFences b := ha.keep (by simp [b])
    have hc : s.KeepsFences c := by
      refine hb.trans ?_
      simp only [c]
      split
      · next k =>
        exact trans (t := b.updEngine k fun y => { y with inUse := true, gated := false, replacing := some e })
          (updEngine k (by exact fun _ h => h) b) (of_eng (by simp))
      · exact of_eng (by simp)
    have hd : s.KeepsFences d := hc.trans (setHeld _ c)
    have hf : s.KeepsFences f := by
      refine hd.trans ?_
      simp only [f]
      split
      · exact stepFaulted _ _ _ _ _ d
      · exact refl d
    have hspare : s.KeepsFences (s.updEngine e fun y => { y with fenced := true }) := updEngine e (by exact fun _ _ => rfl) s
    exact ite (refl s) (ite (hspare.keep (by simp)) ((hf.keep (State.leaveCheck_eng f)).trans (schedule _)))

theorem spareReady (e : Nat) (s : State) : s.KeepsFences (s.spareReady e) := by
  unfold State.spareReady
  split
  · exact refl s
  · extract_lets t mine
    have ht : s.KeepsFences t := updEngine e (by exact fun _ h => h) s
    refine ite (refl s) (ht.trans ?_)
    split
    · exact (replayOn e _ t).trans (schedule _)
    · exact schedule t

theorem fenceWork (ptn : Nat) (s : State) : s.KeepsFences (s.fenceWork ptn) :=
  foldl (fun v h => by
    refine ite (refl v) ?_
    dsimp only
    split
    · next k _ =>
      exact trans (t := v.updEngine k fun y => { y with replacing := none }) (updEngine k (by exact fun _ h => h) v) (replayOn k h _)
    · exact refl v) _ s

theorem fencePtn (ptn unit : Nat) (det : List Byte) (s : State) : s.KeepsFences (s.fencePtn ptn unit det) := of_eng (by simp)

theorem partitionFence (ptn : Nat) (s : State) : s.KeepsFences (s.partitionFence ptn) := (fencePtn ptn 0 [] s).trans (fenceWork ptn _)

theorem coreFault (core cause : Nat) (s : State) : s.KeepsFences (s.coreFault core cause) :=
  ite (refl s) (trans (t := { s with eng := { s.eng with coresFenced := s.eng.coresFenced ++ [core] } }) (of_engines rfl) (of_eng (by simp)))

theorem automataFault (pa : Nat) (s : State) : s.KeepsFences (s.automataFault pa) :=
  ite (refl s) (ite (of_engines rfl) (of_engines (by simp)))

end State.KeepsFences

/-- Settles O29: each of the eight commands keeps every fence. -/
theorem fencedEnginesStayFenced : Obligations.FencedEnginesStayFenced := by
  unfold Obligations.FencedEnginesStayFenced
  intro s t k y hy hf h
  have hkeep : s.KeepsFences t := by
    rcases h with ⟨e, c, h⟩ | ⟨e, h⟩ | ⟨e, h⟩ | ⟨e, n, h⟩ | ⟨n, h⟩ | ⟨n, d, h⟩ | ⟨c, n, h⟩ | ⟨n, h⟩
    · cases h
      exact .engineFault _ _ s
    · cases h
      exact .ite (.engineFault _ _ s) (.refl s)
    · cases h
      exact .spareReady _ s
    · cases h
      exact .startSeal _ _ s
    · cases h
      exact .partitionFence _ s
    · cases h
      exact .fencePtn _ _ _ s
    · cases h
      exact .coreFault _ _ s
    · cases h
      exact .automataFault _ s
  exact hkeep k y hy hf

end Sys2Proof.Machine
end

section
/-! PROOFS. Heartbeats, suspicion, health and expulsion (13_chainline_fabric.md R383 to R387; 15_resilience.md R445, R455, R457, R458). -/

namespace Sys2Proof.Machine

/-! ## Heartbeats (R383, R384, R386) -/

/-- A message that is heard is handled, a heartbeat also in a freewheel. -/
theorem State.unordered_of_heard_beat {h : MsgHdr} {s u : State} {beat : Bool} (hu : heard h s beat = some u) (act : State → State) :
    s.unordered h act beat = act u := by
  unfold heard at hu
  unfold State.unordered
  generalize (s.gathered h false).screen h beat = x at hu ⊢
  obtain ⟨ok, v⟩ := x
  cases ok with
  | false => cases hu
  | true =>
    simp only [Option.ite_none_left_eq_some, Option.some.injEq] at hu
    obtain ⟨hold, rfl⟩ := hu
    simp only [not_true_eq_false, if_false]
    exact if_neg hold

/-- The peer as a heartbeat renews it (R383, R384). -/
def State.renewedBy (u : State) (h : MsgHdr) (b : Heartbeat) : State :=
  u.updPeer h.src fun p => { p with
    hbRx := b.hbSeq.toNat, watched := b.watched, suspect := false, warned := b.warning, healths := u.keepHealth b.health p.healths }

section
variable {u : State} {h : MsgHdr} {b : Heartbeat}

theorem State.gotHeartbeat_otherMap (hm : h.epoch.toNat ≠ (u.renewedBy h b).epoch ∨ b.mapDigest ≠ (u.renewedBy h b).mapDigest) :
    u.gotHeartbeat h b = u.renewedBy h b := if_pos hm

variable (he : h.epoch.toNat = (u.renewedBy h b).epoch) (hd : b.mapDigest = (u.renewedBy h b).mapDigest)
include he hd

theorem State.not_otherMap : ¬ (h.epoch.toNat ≠ (u.renewedBy h b).epoch ∨ b.mapDigest ≠ (u.renewedBy h b).mapDigest) := by
  simp [he, hd]

theorem State.gotHeartbeat_agrees (hf : b.fingerprint = (u.renewedBy h b).fingerprint) :
    u.gotHeartbeat h b = (u.renewedBy h b).updPeer h.src fun p => { p with fpDiff := 0 } :=
  (if_neg (State.not_otherMap he hd)).trans (if_pos hf)

theorem State.gotHeartbeat_differs (hf : b.fingerprint ≠ (u.renewedBy h b).fingerprint) :
    let w := (u.renewedBy h b).updPeer h.src fun p => { p with fpDiff := p.fpDiff + 1 }
    u.gotHeartbeat h b = if (w.peer h.src).fpDiff = w.rf .fabHb 22 4 then
        w.raise .fabSts 1 ⟨5, 2, 0, 0xFF, 0, leBytes 2 h.src.toNat ++ leBytes 2 0 ++ leBytes 4 w.epoch ++ leBytes 4 0 ++ zeroBytes 4 ++
          leBytes 8 w.fingerprint.toNat ++ leBytes 8 b.fingerprint.toNat⟩ else w :=
  (if_neg (State.not_otherMap he hd)).trans (if_neg hf)

end

section
variable {s : State} (hb : s.beats = true)
include hb

theorem State.fastHeartbeats_beats : s.fastHeartbeats = s.watchSet.foldl (fun s n => s.sendHeartbeat n true) s.tellLeavers :=
  if_neg (not_not_intro hb)

theorem State.slowHeartbeats_beats {m : MapBody} (hm : s.map.map = some m) :
    s.slowHeartbeats =
      ((m.nodes.map (·.1)).filter fun n => n != s.self && !s.watchSet.contains n).foldl (fun s n => s.sendHeartbeat n false) s := by
  unfold State.slowHeartbeats
  rw [hm]
  exact if_neg (not_not_intro hb)

theorem State.peerSuspect_silent {n : NodeId} (hm : s.inMap n = true) (hn : n ≠ s.self) (hs : (s.peer n).suspect = false) :
    s.peerSuspect n = (s.updPeer n fun p => { p with suspect := true }).raise .fabSts 0
      ⟨5, 1, 1, 0xFF, 0, leBytes 2 n.toNat ++ leBytes 2 0 ++ leBytes 4 s.epoch ++ leBytes 4 (s.peer n).hbRx⟩ :=
  if_neg (by simp [hm, hn, hs, hb])

end

theorem State.peerSuspect_known {s : State} {n : NodeId} (hs : (s.peer n).suspect = true) : s.peerSuspect n = s :=
  if_pos (.inr (.inr (.inl hs)))

/-! ## Expulsion (R457, R458) -/

section
variable {s : State} {n : NodeId}

/-- A request for expulsion is due: the node listens, the peer is low or failing, and was not asked within 10 s. -/
theorem State.expulsion_due (hl : s.listens = true) (hn : n ≠ s.self) (hp : s.lowFor (s.peer n) = true ∨ s.failing (s.peer n) = true)
    (hearly : ∀ t, (s.peer n).expelAt = some t → t + 10 * secondNs ≤ s.pow.tsc.toNat) :
    ¬ (¬ (s.lowFor (s.peer n) = true ∨ s.failing (s.peer n) = true) ∨
      (match (s.peer n).expelAt with | some t => decide (s.pow.tsc.toNat < t + 10 * secondNs) | none => false) = true ∨
      n = s.self ∨ ¬ s.listens = true) := by
  have he : (match (s.peer n).expelAt with | some t => decide (s.pow.tsc.toNat < t + 10 * secondNs) | none => false) = false := by
    cases h : (s.peer n).expelAt with
    | none => rfl
    | some t => simpa using hearly t h
  simp [hl, hn, hp, he]

end

section
variable {u : State} {h : MsgHdr} {n : NodeId} {kind r : Nat} {k : Word32}

theorem State.gotExpel_token (hn : n = u.self) (hk : kind = 1) (ht : (u.peer h.src).tokenSeen < k.toNat) :
    let v := (u.updPeer h.src fun p => { p with tokenSeen := k.toNat }).raise .fabHealth 16
      ⟨5, 4, 2, 0xFF, 0, peerDetail h.src r u.epoch 0⟩
    u.gotExpel h n kind r k = if v.map.leaveRaised then v else v.leave 6 :=
  if_pos ⟨hn, hk, ht⟩

theorem State.gotExpel_keepsOut (hn : n = u.self) (hk : kind = 2) (hs : u.map.score < u.keepThr) (hr : u.map.role = 0) :
    u.gotExpel h n kind r k = ({ u with map := { u.map with role := 1, keepEpoch := BitVec.ofNat 32 u.epoch } } : State).raise .fabHealth 17
      ⟨5, 5, 1, 0xFF, 0, peerDetail h.src r u.epoch 0⟩ :=
  (if_neg (by simp [hk])).trans ((if_pos ⟨hn, hk⟩).trans (if_pos ⟨hs, hr⟩))

theorem State.gotExpel_recorded (hn : n = u.self) (hk : kind = 2) (hs : u.keepThr ≤ u.map.score ∨ u.map.role ≠ 0) :
    u.gotExpel h n kind r k = u.note ⟨5, 5, 0, 0xFF, 0, peerDetail h.src r u.epoch 0⟩ :=
  (if_neg (by simp [hk])).trans ((if_pos ⟨hn, hk⟩).trans (if_neg fun hc => hs.elim (fun h => absurd hc.1 (by omega)) fun h => h hc.2))

theorem State.gotExpel_discarded (hd : n ≠ u.self ∨ (kind = 1 ∧ k.toNat ≤ (u.peer h.src).tokenSeen)) :
    u.gotExpel h n kind r k = (u.note ⟨5, 6, 0, 0xFF, 0, peerDetail h.src r u.epoch 0⟩).count 6 nodeScope (fabTel h.link 14) := by
  have htoken : ¬ (n = u.self ∧ kind = 1 ∧ (u.peer h.src).tokenSeen < k.toNat) := fun ⟨hn, _, ht⟩ =>
    hd.elim (fun h => h hn) fun h => absurd ht (by omega)
  have hkeep : ¬ (n = u.self ∧ kind = 2) := fun ⟨hn, hk⟩ => hd.elim (fun h => h hn) fun h => absurd h.1 (by omega)
  exact (if_neg htoken).trans (if_neg hkeep)

end

/-- Settles O34: a heartbeat by whose map and fingerprint it carries, an EXPEL by whom it names and what the node's health is. -/
theorem healthTakesEffect : Obligations.HealthTakesEffect := by
  unfold Obligations.HealthTakesEffect
  refine ⟨fun s u h b hu => ⟨fun hm => ?_, fun he hd hf => ?_, fun he hd hf => ?_⟩, fun s hb => ?_, fun s m hb hm => ?_,
    fun s n hm hn hb => ⟨fun hs => ?_, fun hs => ?_⟩, fun s => ?_, fun s n hl hn hp hearly => ⟨fun ht => ?_, fun ht => ?_⟩,
    fun s u h n kind r a b k hu => ⟨fun hn hk ht => ?_, fun hn hk hs hr => ?_, fun hn hk hs => ?_, fun hd => ?_⟩⟩
  · exact congrArg Host.Outcome.next ((State.unordered_of_heard_beat hu _).trans (State.gotHeartbeat_otherMap hm))
  · exact congrArg Host.Outcome.next ((State.unordered_of_heard_beat hu _).trans (State.gotHeartbeat_agrees he hd hf))
  · exact congrArg Host.Outcome.next ((State.unordered_of_heard_beat hu _).trans (State.gotHeartbeat_differs he hd hf))
  · exact congrArg Host.Outcome.next (State.fastHeartbeats_beats hb)
  · exact congrArg Host.Outcome.next (State.slowHeartbeats_beats hb hm)
  · exact congrArg Host.Outcome.next (State.peerSuspect_silent hb hm hn hs)
  · exact congrArg Host.Outcome.next (State.peerSuspect_known hs)
  · rfl
  · exact congrArg Host.Outcome.next ((if_neg (State.expulsion_due hl hn hp hearly)).trans (if_neg (by simp [ht])))
  · exact congrArg Host.Outcome.next ((if_neg (State.expulsion_due hl hn hp hearly)).trans (if_pos (Nat.pos_of_ne_zero ht)))
  · exact congrArg Host.Outcome.next ((State.unordered_of_heard hu _).trans (State.gotExpel_token hn hk ht))
  · exact congrArg Host.Outcome.next ((State.unordered_of_heard hu _).trans (State.gotExpel_keepsOut hn hk hs hr))
  · exact congrArg Host.Outcome.next ((State.unordered_of_heard hu _).trans (State.gotExpel_recorded hn hk hs))
  · exact congrArg Host.Outcome.next ((State.unordered_of_heard hu _).trans (State.gotExpel_discarded hd))

end Sys2Proof.Machine
end

section
/-! PROOFS. The end of a resume that none awaits (16_power_clocks_reset.md R472). -/

namespace Sys2Proof.Machine

/-- A node in RIDE that REQ asks to coast, with its engines idle and not gated yet. -/
def coastingNode : State := State.reset.setRf .pwrCtl 0 2 1

/-- The end of a resume that none awaits leaves its engines as they are. -/
theorem exec_resumeComplete_coasting : exec .resumeComplete coastingNode = .next coastingNode := rfl

/-- What waited goes on ends in the schedule, which gates idle engines while the node coasts. -/
theorem gated_resume_coasting : (coastingNode.resume.eng.engines[0]?).map (·.gated) = some true := by rfl

/-- Refutes O58: RESUME_COMPLETE on a node that does not resume does nothing at all, where the statement lets what waited go on; on a
node that coasts, that would gate its idle engines. -/
theorem not_powerEventsTakeEffect : ¬ Obligations.PowerEventsTakeEffect := by
  unfold Obligations.PowerEventsTakeEffect
  intro h
  obtain ⟨-, -, -, -, -, -, -, -, hresume, -⟩ := h
  have hnext : (Host.Outcome.next coastingNode : Host.Outcome State Fault Refusal) = .next coastingNode.resume :=
    exec_resumeComplete_coasting.symm.trans ((hresume coastingNode).1 rfl)
  have heq : coastingNode = coastingNode.resume := Host.Outcome.next.inj hnext
  have hgated := gated_resume_coasting.symm.trans (congrArg (fun s : State => (s.eng.engines[0]?).map (·.gated)) heq.symm)
  exact absurd hgated (by decide)

end Sys2Proof.Machine
end

section
/-! PROOFS. Fabric links: training, frames in LSEQ order, replay, lanes, the bulk gate and reassembly (13_chainline_fabric.md R359 to R375). -/

namespace Sys2Proof.Machine

section
variable {s : State} {n : Nat}

/-! ## Training and the return of lanes (R359, R361, R372) -/

theorem State.gotTrain_elsewhere (t : TrainInfo) (h : (s.link n).state ≠ .training) : s.gotTrain n t = s := if_pos (.inl h)

theorem State.gotTrain_node {t : TrainInfo} (h : t.isSwitch = false) : s.gotTrain n t = s := if_pos (.inr (by simp [h]))

theorem State.spareTimeout_elsewhere (h : (s.link n).state ≠ .training) : s.spareTimeout n = s := by
  unfold State.spareTimeout
  split
  · next he _ => exact absurd he h
  · rfl

theorem State.spareTimeout_untrained (h : (s.link n).trained = none) : s.spareTimeout n = s := by
  unfold State.spareTimeout
  split
  · next he => exact nomatch h.symm.trans he
  · rfl

section
variable {t : TrainInfo} (h : (s.link n).state = .training)
include h

theorem State.gotTrain_switch (hw : t.isSwitch = true) :
    s.gotTrain n t = if t.lanesLocked = true ∧ t.spareLocked = true then s.linkUp n t true else s.updLink n fun l => { l with trained := some t } :=
  if_neg (by simp [h, hw])

theorem State.spareTimeout_trained (ht : (s.link n).trained = some t) :
    s.spareTimeout n = if t.lanesLocked = true then s.linkUp n t false else s := by
  unfold State.spareTimeout
  rw [h, ht]

end

theorem State.lanesReturn_down (h : (s.link n).state = .down) (ho : s.linkOn n = true) (hv : s.nodeValid = true) :
    s.lanesReturn n = s.startTraining n := if_pos ⟨h, ho, hv⟩

theorem State.lanesReturn_rests (h : (s.link n).state ≠ .down ∨ s.linkOn n = false ∨ s.nodeValid = false) : s.lanesReturn n = s := by
  refine if_neg ?_
  rintro ⟨hd, ho, hv⟩
  rcases h with h | h | h
  · exact h hd
  · exact nomatch h.symm.trans ho
  · exact nomatch h.symm.trans hv

/-! ## A link that is not live -/

section
variable (h : (s.link n).state.live = false)
include h

theorem State.not_live : ¬ (s.link n).state.live = true := by simp [h]

theorem State.gotFrame_dark (f : LinkFrame) : s.gotFrame n f = s := if_pos (State.not_live h)
theorem State.gotNak_dark (ack : Nat) : s.gotNak n ack = s := if_pos (State.not_live h)
theorem State.replayAll_dark : s.replayAll n = s := if_pos (.inl (State.not_live h))
theorem State.idleAck_dark : s.idleAck n = s := if_pos (.inl (State.not_live h))
theorem State.laneFault_dark (rx : Bool) (lane cause : Nat) : s.laneFault n rx lane cause = s := if_pos (.inl (State.not_live h))
theorem State.gotSpareReq_dark (lane : Nat) : s.gotSpareReq n lane = s := if_pos (.inl (State.not_live h))
theorem State.gotMark_dark (lane : Nat) : s.gotMark n lane = s := if_pos (State.not_live h)

end

/-! ## Frames on a live link (R362, R363, R365, R366, R375) -/

/-- A good frame acknowledges and gives credits. -/
def State.creditedBy (s : State) (n : Nat) (f : LinkFrame) : State :=
  s.updLink n fun l => { l with replay := keepAfter f.ack.toNat l.replay, credits := updAt f.creditVc (· + f.credits) l.credits }

/-- The data frame that is next in LSEQ order is taken. -/
def State.tookFrame (u : State) (n : Nat) (f : LinkFrame) : State :=
  (u.updLink n fun l =>
    { l with lseqRx := f.lseq.toNat, nakSent := false, ackOwed := true, owed := updAt f.vc (· + f.cost) l.owed }).count 6 nodeScope (fabTel n 7)

section
variable {f : LinkFrame} (h : (s.link n).state.live = true)
include h

theorem State.gotFrame_bad (hb : f.fecOk = false ∨ f.crc ≠ f.check) : s.gotFrame n f = s.sendNak n :=
  (if_neg (not_not_intro h)).trans (if_pos (hb.imp (by simp [·]) id))

variable (hf : f.fecOk = true) (hc : f.crc = f.check)
include hf hc

theorem State.gotFrame_good : s.gotFrame n f = s.goodFrame n f := (if_neg (not_not_intro h)).trans (if_neg (by simp [hf, hc]))

theorem State.gotFrame_idle (h1 : f.kind ≠ 1) (h2 : f.kind ≠ 2) : s.gotFrame n f = (s.creditedBy n f).pumpAll n := by
  rw [State.gotFrame_good h hf hc]
  exact congrArg (State.pumpAll n) (if_pos ⟨h1, h2⟩)

variable (hk : f.kind = 1 ∨ f.kind = 2)
include hk

/-- A data frame, by its distance from the last LSEQ taken. -/
theorem State.gotFrame_data {v : State}
    (hv : (if lseqDist ((s.creditedBy n f).link n).lseqRx f.lseq.toNat = 1 then
        if f.dst = (s.creditedBy n f).self then
          { (s.creditedBy n f).tookFrame n f with fab :=
            { ((s.creditedBy n f).tookFrame n f).fab with reassembly := Machine.gather f ((s.creditedBy n f).tookFrame n f).fab.reassembly } }
        else (s.creditedBy n f).tookFrame n f
      else if lseqDist ((s.creditedBy n f).link n).lseqRx f.lseq.toNat < 32768 ∧ lseqDist ((s.creditedBy n f).link n).lseqRx f.lseq.toNat ≠ 0 then
        (s.creditedBy n f).sendNak n
      else (s.creditedBy n f).updLink n fun l => { l with ackOwed := true }) = v) : s.gotFrame n f = v.pumpAll n := by
  subst hv
  rw [State.gotFrame_good h hf hc]
  exact congrArg (State.pumpAll n) (if_neg fun ⟨h1, h2⟩ => hk.elim h1 h2)

theorem State.gotFrame_ahead (h1 : 1 < lseqDist ((s.creditedBy n f).link n).lseqRx f.lseq.toNat)
    (hlt : lseqDist ((s.creditedBy n f).link n).lseqRx f.lseq.toNat < 32768) : s.gotFrame n f = ((s.creditedBy n f).sendNak n).pumpAll n :=
  State.gotFrame_data h hf hc hk ((if_neg h1.ne').trans (if_pos ⟨hlt, (Nat.zero_lt_one.trans h1).ne'⟩))

theorem State.gotFrame_behind (hd : lseqDist ((s.creditedBy n f).link n).lseqRx f.lseq.toNat = 0 ∨
      32768 ≤ lseqDist ((s.creditedBy n f).link n).lseqRx f.lseq.toNat) :
    s.gotFrame n f = ((s.creditedBy n f).updLink n fun l => { l with ackOwed := true }).pumpAll n :=
  State.gotFrame_data h hf hc hk ((if_neg (by omega)).trans (if_neg (by omega)))

end

/-! ## NAKs, timeouts and acknowledgements (R366, R367, R371) -/

section
variable (h : (s.link n).state.live = true)
include h

theorem State.gotNak_live (ack : Nat) :
    s.gotNak n ack = ((s.updLink n fun l => { l with replay := keepAfter ((ack + 65535) % 65536) l.replay }).replayAll n).pumpAll n :=
  if_neg (not_not_intro h)

theorem State.replayAll_live (hr : (s.link n).replay ≠ []) :
    let again := fun (u : State) (x : Nat × LinkFrame) =>
      let f := (u.link n).stamp x.2
      (u.updLink n fun l => { l.paid with replay := updWhere (fun y => y.1 == x.1) (fun y => (y.1, f)) l.replay }).emit (.linkFrame n f)
    s.replayAll n = (((s.link n).replay.foldl again s).count 6 nodeScope (fabTel n 8)).raise (.fabLinkSts n) 4 (Rec.event 0xFF n) :=
  if_neg (by simp [h, hr])

theorem State.idleAck_owed (ho : (s.link n).ackOwed = true ∨ (s.link n).owed.any (· != 0) = true) :
    s.idleAck n = (s.updLink n fun l => l.paid).emit (.linkIdle n (s.link n).lseqRx (s.link n).creditField.1 (s.link n).creditField.2) :=
  if_neg (not_or.mpr ⟨not_not_intro h, not_not_intro ho⟩)

theorem State.laneFault_tx {lane : Nat} (cause : Nat) (hl : (s.link n).tx.lost.contains lane = false) :
    s.laneFault n false lane cause = (s.note ⟨4, 1, 1, 0xFF, n, linkDetail lane 1 cause (s.link n).plane⟩).moveLane n lane cause :=
  (if_neg (not_or.mpr ⟨not_not_intro h, by simp only [Bool.false_eq_true, if_false, hl, not_false_eq_true]⟩)).trans (if_pos Bool.false_ne_true)

theorem State.gotSpareReq_live {lane : Nat} (hl : (s.link n).tx.lost.contains lane = false) : s.gotSpareReq n lane = s.moveLane n lane 0 :=
  if_neg (not_or.mpr ⟨not_not_intro h, by simp only [hl, Bool.false_eq_true, not_false_eq_true]⟩)

/-- A fault of a receive lane asks for the spare; where the lane does not move to it, the lane is lost. -/
theorem State.laneFault_rx {lane : Nat} (cause : Nat) (hl : (s.link n).rx.lost.contains lane = false) :
    let det := linkDetail lane 0 cause (s.link n).plane
    let u := (s.note ⟨4, 1, 1, 0xFF, n, det⟩).emit (.spareReq n lane)
    let after := (s.link n).rx.lose s.autoSpare lane
    s.laneFault n true lane cause = if after.spareFor = some lane then u else (u.updLink n fun l => { l with rx := after }).rejudge n det := by
  have hspare : ∀ c, (s.note c).autoSpare = s.autoSpare := fun c => by
    unfold State.autoSpare State.note
    rw [State.rf_logRec _ _ _ _ _ _ _ (by decide)]
  have hemit : ∀ (t : State) o, (t.emit o).autoSpare = t.autoSpare := fun _ _ => rfl
  unfold State.laneFault
  rw [if_neg (not_or.mpr ⟨not_not_intro h, by simp only [if_true, hl, Bool.false_eq_true, not_false_eq_true]⟩)]
  simp only [not_true_eq_false, if_false, if_true, hemit, hspare]

/-- A lane's marker settles the receiver's lanes; then the link is judged anew and asks for what it lacks. -/
theorem State.gotMark_live {u : State} (lane : Nat)
    (hu : (if (s.link n).rx.lost.contains lane then s
      else if (s.link n).rx.spareFor = some lane then s.updLink n fun l => { l with rx := { l.rx with spareFor := none } }
      else if (s.link n).rx.spareLocked ∧ (s.link n).rx.spareFor.isNone ∧ s.autoSpare then
        s.updLink n fun l => { l with rx := { l.rx with spareFor := some lane } }
      else s) = u) : s.gotMark n lane = (u.rejudge n (linkDetail lane 0 0 (s.link n).plane)).sendNak n := by
  subst hu
  exact if_neg (not_not_intro h)

theorem State.gotMark_lost {lane : Nat} (hl : (s.link n).rx.lost.contains lane = true) :
    s.gotMark n lane = (s.rejudge n (linkDetail lane 0 0 (s.link n).plane)).sendNak n :=
  State.gotMark_live h lane (if_pos hl)

variable {lane : Nat} (hl : (s.link n).rx.lost.contains lane = false)
include hl

theorem State.gotMark_back (hs : (s.link n).rx.spareFor = some lane) :
    s.gotMark n lane = ((s.updLink n fun l => { l with rx := { l.rx with spareFor := none } }).rejudge n
      (linkDetail lane 0 0 (s.link n).plane)).sendNak n :=
  State.gotMark_live h lane ((if_neg (by rw [hl]; exact Bool.false_ne_true)).trans (if_pos hs))

theorem State.gotMark_moves (hs : (s.link n).rx.spareFor = none) (hk : (s.link n).rx.spareLocked = true) (ha : s.autoSpare = true) :
    s.gotMark n lane = ((s.updLink n fun l => { l with rx := { l.rx with spareFor := some lane } }).rejudge n
      (linkDetail lane 0 0 (s.link n).plane)).sendNak n := by
  refine State.gotMark_live h lane ((if_neg (by rw [hl]; exact Bool.false_ne_true)).trans ?_)
  rw [hs]
  exact (if_neg nofun).trans (if_pos ⟨hk, rfl, ha⟩)

theorem State.gotMark_stays (hs : (s.link n).rx.spareFor ≠ some lane)
    (hn : (s.link n).rx.spareFor ≠ none ∨ (s.link n).rx.spareLocked = false ∨ s.autoSpare = false) :
    s.gotMark n lane = (s.rejudge n (linkDetail lane 0 0 (s.link n).plane)).sendNak n := by
  refine State.gotMark_live h lane ((if_neg (by rw [hl]; exact Bool.false_ne_true)).trans ((if_neg hs).trans (if_neg ?_)))
  rintro ⟨hk, hi, ha⟩
  rcases hn with hn | hn | hn
  · exact hn (Option.isNone_iff_eq_none.mp hi)
  · exact Bool.false_ne_true (hn.symm.trans hk)
  · exact Bool.false_ne_true (hn.symm.trans ha)

end

theorem State.replayAll_empty (h : (s.link n).replay = []) : s.replayAll n = s := if_pos (.inr h)

theorem State.idleAck_clear (ha : (s.link n).ackOwed = false) (ho : (s.link n).owed.any (· != 0) = false) : s.idleAck n = s :=
  if_pos (.inr (by simp only [ha, ho, Bool.false_eq_true, or_self, not_false_eq_true]))

theorem State.laneFault_lost {rx : Bool} {lane : Nat} (cause : Nat)
    (h : (if rx then (s.link n).rx else (s.link n).tx).lost.contains lane = true) : s.laneFault n rx lane cause = s := if_pos (.inr h)

theorem State.gotSpareReq_lost {lane : Nat} (h : (s.link n).tx.lost.contains lane = true) : s.gotSpareReq n lane = s := if_pos (.inr h)

/-! ## The bulk gate and incomplete messages (R375) -/

theorem State.bulkNext_still (h : s.fab.gateRunning = false) : s.bulkNext = s := if_pos (by simp [h])

theorem State.bulkNext_running (h : s.fab.gateRunning = true) :
    let t : State := { s with fab := { s.fab with gateEntry := (s.fab.gateEntry + 1) % s.gateEnt, gateAt := s.pow.tsc.toNat } }
    s.bulkNext = t.liveLinks.foldl (fun u k => u.pumpAll k) t :=
  if_neg (not_not_intro h)

theorem State.mem_dropFrags {p : Frag → Bool} {x : Frag} : x ∈ (s.dropFrags p).fab.reassembly ↔ x ∈ s.fab.reassembly ∧ ¬ p x = true := by
  simp [State.dropFrags]

end

/-- Settles O56: each event by the state of its link and of the lane or frame it speaks of. -/
theorem linksTakeEffect : Obligations.LinksTakeEffect := by
  unfold Obligations.LinksTakeEffect
  refine ⟨fun s n t => ⟨fun h => ⟨?_, ?_⟩, fun h => ⟨fun hw => ?_, fun hw hl hs => ?_, fun hw hl => ?_, fun ht hl => ?_, fun ht hl => ?_, fun ht => ?_⟩⟩,
    fun s n h => ⟨fun f => ?_, fun ack => ?_, ?_, ?_, fun d k c => ?_, fun k => ?_, fun k => ?_⟩,
    fun s n f h => ⟨fun hb => ?_, fun hf hc h1 h2 => ?_, fun hf hc hk => ⟨fun hd hs => ?_, fun hd hs => ?_, fun hd hlt => ?_, fun hd => ?_⟩⟩,
    fun s n h => ⟨fun ack => ?_, fun hr => ?_, fun hr => ?_, fun ho => ?_, fun ha ho => ?_, fun k c hl => ⟨?_, ?_⟩, fun k c hl => ⟨?_, ?_⟩,
      fun k c hl => ?_, fun k c hl => ⟨fun ha => ?_, fun ha => ?_⟩, fun k => ⟨fun hl => ?_, fun hl hs => ?_, fun hl hs hk ha => ?_, fun hl hs hn => ?_⟩⟩,
    fun s n => ⟨fun h ho hv => ?_, fun h => ?_⟩, fun s h => ?_, fun s h => ?_, fun s n q => ⟨⟨_, rfl, rfl, fun x => ?_⟩, ⟨_, rfl, rfl, fun x => ?_⟩⟩⟩
  · exact congrArg (fun t : State => Host.Outcome.next t.continueConfig) (State.gotTrain_elsewhere t h)
  · exact congrArg (fun t : State => Host.Outcome.next t.continueConfig) (State.spareTimeout_elsewhere h)
  · exact congrArg (fun t : State => Host.Outcome.next t.continueConfig) (State.gotTrain_node hw)
  · exact congrArg (fun t : State => Host.Outcome.next t.continueConfig) ((State.gotTrain_switch h hw).trans (if_pos ⟨hl, hs⟩))
  · exact congrArg (fun t : State => Host.Outcome.next t.continueConfig) ((State.gotTrain_switch h hw).trans
      (if_neg fun hc => hl.elim (fun e => Bool.false_ne_true (e.symm.trans hc.1)) fun e => Bool.false_ne_true (e.symm.trans hc.2)))
  · exact congrArg (fun t : State => Host.Outcome.next t.continueConfig) ((State.spareTimeout_trained h ht).trans (if_pos hl))
  · exact congrArg (fun t : State => Host.Outcome.next t.continueConfig) ((State.spareTimeout_trained h ht).trans (if_neg (by simp [hl])))
  · exact congrArg (fun t : State => Host.Outcome.next t.continueConfig) (State.spareTimeout_untrained ht)
  · exact congrArg Host.Outcome.next (State.gotFrame_dark h f)
  · exact congrArg Host.Outcome.next (State.gotNak_dark h _)
  · exact congrArg Host.Outcome.next (State.replayAll_dark h)
  · exact congrArg Host.Outcome.next (State.idleAck_dark h)
  · exact congrArg Host.Outcome.next (State.laneFault_dark h _ _ _)
  · exact congrArg Host.Outcome.next (State.gotSpareReq_dark h _)
  · exact congrArg Host.Outcome.next (State.gotMark_dark h _)
  · exact congrArg Host.Outcome.next (State.gotFrame_bad h hb)
  · exact congrArg Host.Outcome.next (State.gotFrame_idle h hf hc h1 h2)
  · exact congrArg Host.Outcome.next (State.gotFrame_data h hf hc hk ((if_pos hd).trans (if_pos hs)))
  · exact congrArg Host.Outcome.next (State.gotFrame_data h hf hc hk ((if_pos hd).trans (if_neg hs)))
  · exact congrArg Host.Outcome.next (State.gotFrame_ahead h hf hc hk hd hlt)
  · exact congrArg Host.Outcome.next (State.gotFrame_behind h hf hc hk hd)
  · exact congrArg Host.Outcome.next (State.gotNak_live h _)
  · exact congrArg Host.Outcome.next (State.replayAll_empty hr)
  · exact congrArg Host.Outcome.next (State.replayAll_live h hr)
  · exact congrArg Host.Outcome.next (State.idleAck_owed h ho)
  · exact congrArg Host.Outcome.next (State.idleAck_clear ha ho)
  · exact congrArg Host.Outcome.next (State.laneFault_lost c hl)
  · exact congrArg Host.Outcome.next (State.gotSpareReq_lost hl)
  · exact congrArg Host.Outcome.next (State.laneFault_tx h c hl)
  · exact congrArg Host.Outcome.next (State.gotSpareReq_live h hl)
  · exact congrArg Host.Outcome.next (State.laneFault_lost c hl)
  · exact congrArg Host.Outcome.next ((State.laneFault_rx h c hl).trans (if_pos ha))
  · exact congrArg Host.Outcome.next ((State.laneFault_rx h c hl).trans (if_neg ha))
  · exact congrArg Host.Outcome.next (State.gotMark_lost h hl)
  · exact congrArg Host.Outcome.next (State.gotMark_back h hl hs)
  · exact congrArg Host.Outcome.next (State.gotMark_moves h hl hs hk ha)
  · exact congrArg Host.Outcome.next (State.gotMark_stays h hl hs hn)
  · exact congrArg Host.Outcome.next (State.lanesReturn_down h ho hv)
  · exact congrArg Host.Outcome.next (State.lanesReturn_rests h)
  · exact congrArg Host.Outcome.next (State.bulkNext_still h)
  · exact congrArg Host.Outcome.next (State.bulkNext_running h)
  · exact State.mem_dropFrags.trans (by simp)
  · exact State.mem_dropFrags.trans (by simp)

end Sys2Proof.Machine
end
